-- ==== Sys2Proof/Word.lean ====
section
/-! DEFINITION. The words the manual treats as bits. -/

namespace Sys2Proof

/-- One byte of a memory, a record or a message (R3). -/
abbrev Byte := BitVec 8

/-- A 32-bit slot, limb word or register field (R10, R50). -/
abbrev Word := BitVec 32

/-- A 64-bit scalar register or status register (R45, R50). -/
abbrev DWord := BitVec 64

/-- A byte string: the payload of a message, an image, a digest. -/
abbrev Bytes := List Byte

end Sys2Proof
end

