-- ==== Sys2Proof/Machine/Bits.lean ====
section
/-! DEFINITION. Bit fields, little-endian byte strings (R3) and CRC-32C (R18). -/

namespace Sys2Proof.Machine

/-- Bits [hi:lo] of a number, as a number (R3). -/
def bits (w hi lo : Nat) : Nat := (w >>> lo) % 2 ^ (hi + 1 - lo)

/-- Bit i of a number (R3). -/
def bit (w i : Nat) : Bool := bits w i i == 1

/-- The number a Boolean flag adds at bit position i. -/
def flag (b : Bool) (i : Nat) : Nat := if b then 2 ^ i else 0

/-- The value of a little-endian byte string: the byte at the lowest offset holds bits [7:0] (R3). -/
def leNat : Bytes → Nat
  | [] => 0
  | b :: bs => b.toNat + 256 * leNat bs

/-- The n-byte little-endian string of a value (R3). -/
def leBytes : Nat → Nat → Bytes
  | 0, _ => []
  | n + 1, v => BitVec.ofNat 8 v :: leBytes n (v / 256)

/-- The n-byte big-endian string of a value. -/
def beBytes (n v : Nat) : Bytes := (leBytes n v).reverse

/-- The value of a big-endian byte string. -/
def beNat (bs : Bytes) : Nat := leNat bs.reverse

/-- n zero bytes. -/
def zeros (n : Nat) : Bytes := List.replicate n 0

/-- The bytes at offsets off to off + n - 1; bytes past the end of the string read as zero. -/
def slice (bs : Bytes) (off n : Nat) : Bytes :=
  let t := (bs.drop off).take n
  t ++ zeros (n - t.length)

/-- The n-byte little-endian field at offset off of a record (R3). -/
def field (bs : Bytes) (off n : Nat) : Nat := leNat (slice bs off n)

/-- True when the bytes at offsets off to off + n - 1 are all zero (a reserved field). -/
def allZero (bs : Bytes) (off n : Nat) : Bool := (slice bs off n).all (· == 0)

/-- A signed value taken from the low n bits of a number in two's complement. -/
def signed (n w : Nat) : Int :=
  let m := w % 2 ^ n
  if m < 2 ^ (n - 1) then (m : Int) else (m : Int) - (2 ^ n : Nat)

/-- The low n bits of an integer in two's complement. -/
def unsignedOf (n : Nat) (z : Int) : Nat := (z % ((2 ^ n : Nat) : Int)).toNat

/-- One bit step of the reflected CRC-32C register (R18: polynomial 0x1EDC_6F41, reflected 0x82F6_3B78). -/
def crcBit (c : Nat) : Nat := if c % 2 == 1 then (c >>> 1) ^^^ 0x82F63B78 else c >>> 1

/-- n bit steps of the CRC register. -/
def crcBits : Nat → Nat → Nat
  | 0, c => c
  | n + 1, c => crcBits n (crcBit c)

/-- CRC-32C over a byte string: initial value and final exclusive-OR 0xFFFF_FFFF (R18). -/
def crc32c (bs : Bytes) : Nat :=
  (bs.foldl (fun c b => crcBits 8 (c ^^^ b.toNat)) 0xFFFFFFFF) ^^^ 0xFFFFFFFF

/-- A record with the bytes from offset off replaced by the bytes given. -/
def patch (bs : Bytes) (off : Nat) (v : Bytes) : Bytes :=
  slice bs 0 off ++ v ++ bs.drop (off + v.length)

/-- Ceiling of a / b. -/
def ceilDiv (a b : Nat) : Nat := (a + b - 1) / b

/-- The value of a saturating counter of n bits after one more event (R67, R181, R254). -/
def satInc (n v : Nat) : Nat := min (v + 1) (2 ^ n - 1)

/-- The largest k' from k on, below k + 2^i, with 2^k' at most n, found bit by bit. -/
def log2From (n : Nat) : Nat → Nat → Nat
  | 0, k => k
  | i + 1, k => log2From n i (if 2 ^ (k + 2 ^ i) ≤ n then k + 2 ^ i else k)

/-- floor(log2 n) for n below 2^(2^22), with log2 of 0 taken as 0. -/
def log2f (n : Nat) : Nat := log2From n 22 0

/-- True when n is a power of two. -/
def isPow2 (n : Nat) : Bool := n != 0 && 2 ^ Nat.log2 n == n

/-- b-bit reversal of x, the brv of R12. -/
def brv : Nat → Nat → Nat
  | 0, _ => 0
  | b + 1, x => (x % 2) * 2 ^ b + brv b (x / 2)

/-- The numbers lo, lo + 1, …, lo + n - 1. -/
def rangeFrom (lo n : Nat) : List Nat := (List.range n).map (lo + ·)

/-- Association-list lookup. -/
def assoc {α β : Type} [DecidableEq α] (k : α) : List (α × β) → Option β
  | [] => none
  | (a, b) :: t => if a = k then some b else assoc k t

/-- Association-list update: the value of an existing key is replaced in place, a new key goes to the end. -/
def assocSet {α β : Type} [DecidableEq α] (k : α) (v : β) : List (α × β) → List (α × β)
  | [] => [(k, v)]
  | (a, b) :: t => if a = k then (k, v) :: t else (a, b) :: assocSet k v t

/-- Association-list removal. -/
def assocDel {α β : Type} [DecidableEq α] (k : α) (l : List (α × β)) : List (α × β) :=
  l.filter (fun p => decide (p.1 ≠ k))

/-- Insertion of a number into a strictly rising list, keeping it so. -/
def insertNat (n : Nat) : List Nat → List Nat
  | [] => [n]
  | a :: t => if n < a then n :: a :: t else if n = a then a :: t else a :: insertNat n t

/-- Removal of a number from a list. -/
def removeNat (n : Nat) (l : List Nat) : List Nat := l.filter (· != n)

/-- Element i of a list, with a default. -/
def nth {α : Type} (l : List α) (i : Nat) (d : α) : α := l.getD i d

/-- Map over a list with the position of each element, counted from k. -/
def mapIdxFrom {α β : Type} (f : Nat → α → β) : Nat → List α → List β
  | _, [] => []
  | k, a :: t => f k a :: mapIdxFrom f (k + 1) t

/-- A list with element i changed by f. -/
def modNth {α : Type} (f : α → α) : Nat → List α → List α
  | _, [] => []
  | 0, a :: t => f a :: t
  | i + 1, a :: t => a :: modNth f i t

end Sys2Proof.Machine
end

