-- ==== Sys2Proof/Syntax.lean ====
section
/-! DEFINITION. The commands of opcode_table.json, one constructor of Instr for each of the 256 rows, with their operands. -/

namespace Sys2Proof

/-- A dispatch, named by its queue and sequence number (R289). -/
structure DRef where
  queue : Nat
  seq : Nat
  deriving DecidableEq, Repr

/-- A handle reference of an instruction word (R217): a literal table index, a scalar register, or null. -/
inductive HRef where
  | lit (index : Nat)
  | reg (s : Nat)
  | null
  deriving DecidableEq, Repr

/-- A 64-bit operand: a scalar register, or the immediate the instruction carries (R223). -/
inductive SVal where
  | reg (s : Nat)
  | imm (v : DWord)
  deriving DecidableEq, Repr

/-- The Galois element of auto, ks.ip and ks.fin: an immediate or a scalar register (R219). -/
inductive GSrc where
  | imm (g : Nat)
  | reg (s : Nat)
  deriving DecidableEq, Repr

/-- ETYPE of R217. -/
inductive EType where
  | mod32 | fp32 | bf16 | int8
  deriving DecidableEq, Repr

/-- Format V of R218; `ml` is the loop register added to MOD, `ob3` the OB3 offset of a long form. -/
structure VForm where
  ety : EType
  vd : Nat
  va : Nat
  vb : Nat
  vc : Nat
  tileA : Bool
  scalB : Bool
  colStep : Bool
  mod : Nat
  ml : Option Nat
  cnt : Nat
  subop : Nat
  ob3 : Nat
  deriving DecidableEq, Repr

/-- cvt.mm of format C (R220); k and g are the counts themselves. -/
structure MmForm where
  rdr : HRef
  ta : Nat
  tb : Nat
  acc : Bool
  clr : Bool
  mod : Nat
  k : Nat
  g : Nat
  xoff : Nat
  woff : Nat
  narrow : Bool
  deriving DecidableEq, Repr

/-- The side of a stream that is not the memory side (R221): a register group or a second handle. -/
inductive SOther where
  | vr (first : Nat)
  | rn (h : HRef)
  deriving DecidableEq, Repr

/-- Format S of R221 for the four streams. -/
structure SForm where
  rm : HRef
  other : SOther
  conv : Bool
  count : Nat
  window : Nat
  tcore : Nat
  tmod : Nat
  xmod : Bool
  mod : Nat
  deriving DecidableEq, Repr

/-- win.open of R221 and R230. -/
structure WForm where
  rm : HRef
  window : Nat
  scoreLo : Nat
  scoreHi : Nat
  smod : Nat
  xmod : Bool
  markEn : Bool
  arriveMark : Nat
  deriving DecidableEq, Repr

/-- Format A of R222; cnt is the element count itself. -/
structure AForm where
  rm : HRef
  vs : Nat
  vf : Nat
  fetch : Bool
  w64 : Bool
  mod : Nat
  cnt : Nat
  vc : Nat
  deriving DecidableEq, Repr

/-- The conditions of br (R225, R235). -/
inductive Cond where
  | always | eq | ne | ltu | geu | lts | ges
  deriving DecidableEq, Repr

/-- mark.wait in its short form (threshold in a scalar, no limit) and long form (R244). -/
inductive WaitForm where
  | short (sa : Nat)
  | long (t timeout : Nat)
  deriving DecidableEq, Repr

/-- What a multiplier saw of one product (R72): the prime of the modulus entry and the two operands, and the product, the
factor m of REDC and the result as they stood in the multiplier; `clear` marks a significand product of Clear mode. -/
structure Product where
  clear : Bool
  q : Nat
  a : Nat
  b : Nat
  prod : Nat
  m : Nat
  res : Nat
  deriving DecidableEq, Repr

/-- An error met while a unit moves or a block is scrubbed (R410), or a product that a converting stream's multiplier formed
(R57, R72). -/
inductive MemErr where
  | none | sramCe | sramUe | hbmCe | hbmUe
  | product (p : Product)
  deriving DecidableEq, Repr

/-- What an instruction in flight met on a core of its placement: a product a multiplier formed there (R72), an
uncorrectable error of a register read (R73, R410), a parity error of the Expander state (R109), or a corrected error of a
register or of Expander state (R410). `k` is the ordinal of the limb, register or tile of the destination concerned. -/
inductive Upset where
  | product (core k : Nat) (p : Product)
  | registerUe (core k : Nat)
  | expander (core k : Nat)
  | corrected (core : Nat)
  deriving DecidableEq, Repr

/-- The kind of an access that is translated (R345, R350). -/
inductive Access where
  | read | write | atomic
  deriving DecidableEq, Repr

/-- A unit with a translation cache: a core, or a die's walk cache (R346). -/
inductive XUnit where
  | core (n : Nat)
  | die (n : Nat)
  deriving DecidableEq, Repr

/-- A credit manager: a core's or a die's (R177). -/
inductive Mgr where
  | core (n : Nat)
  | die (n : Nat)
  deriving DecidableEq, Repr

/-- The sender of a remote write: core and, on another module, the module (R178). -/
structure Sender where
  module : Option Nat
  core : Nat
  ctx : Nat
  epoch : Nat
  deriving DecidableEq, Repr

/-- The status of a CR_GRANT (R178). -/
inductive GrantStatus where
  | granted | wait | noWindow
  deriving DecidableEq, Repr

/-- The reason of a CR_CANCEL (R178). -/
inductive CancelReason where
  | epoch | timeout | closed | link | fence
  deriving DecidableEq, Repr

/-- The end of a grant at which a CR_CANCEL arrives: the stream of the sender, or the manager, told by the sender named
(R178, R180). -/
inductive GrantEnd where
  | stream (d : DRef) (slot : Nat)
  | manager (m : Mgr) (from_ : Sender)
  deriving DecidableEq, Repr

/-- A mailbox request as it lies in a request slot (R323): header fields and payload bytes. The OPCODE is the
row's own; `wellFormed` tells that MAGIC and the reserved bytes are right. -/
structure MbReq where
  wellFormed : Bool
  flags : Nat
  seq : Nat
  ctx : Nat
  txn : Nat
  payload : Bytes
  deriving DecidableEq, Repr

/-- A host window access: a read of n bytes or a write (R316). -/
inductive HwAccess where
  | read (n : Nat)
  | write (data : Bytes)
  deriving DecidableEq, Repr

/-- A temperature sensor (R404). -/
inductive Sensor where
  | die (n : Nat)
  | field (n : Nat)
  | hbm (n : Nat)
  deriving DecidableEq, Repr

/-- A start-up DMA transfer (R356): the requester, the die and the engine that serve it (R353), its device physical range,
whether it writes, and whether it met an uncorrectable error. -/
structure StartDma where
  requester : Nat
  die : Nat
  engine : Nat
  addr : Nat
  len : Nat
  write : Bool
  ue : Bool
  deriving DecidableEq, Repr

/-- How a start-up step ended: in order, after start-up DMA transfers that end in a record (R356) or not, or a unit that
fails it (R401), or image classes that fail in their active bank or in both banks (R367, R368). -/
inductive StepResult where
  | ok
  | dma (ts : List StartDma)
  | unitFails (kind unit : Nat)
  | images (activeBad bothBad : List Nat)
  deriving DecidableEq, Repr

/-- A register that REGISTER_WRITE names (R4): one of the register aperture by its offset (R319), CRM_STATS of a manager (R181),
PORT_STATUS of a Baton port (R254), the stale register (R303), or HAMMER_STATUS (R387). -/
inductive RegPlace where
  | aperture (off : Nat)
  | manager (m : Mgr)
  | port (p : Nat)
  | stale
  | hammer
  deriving DecidableEq, Repr

/-- The events that wake the module from REST (R402). -/
inductive Wake where
  | doorbell | mailbox | hostWindow | peer | powerTarget
  deriving DecidableEq, Repr

/-- What the SPDM attestation of a port found (R259, R261). -/
structure AttestResult where
  ok : Bool
  anchor : Bytes
  summary : Bytes
  deriving DecidableEq, Repr

/-- The carrier of an SPDM message: ATTEST_GET on a mailbox, or a Baton port (R374, R375). -/
inductive SpdmVia where
  | mailbox (m : Nat)
  | port (p : Nat)
  deriving DecidableEq, Repr

/-- A target of a debug read or write (R390). -/
inductive DbgTarget where
  | hbm (pa : Nat)
  | coreStore (core off : Nat)
  | scalar (core s : Nat)
  | vector (core v word : Nat)
  | loop (core l : Nat)
  | arith (core : Nat)
  | infield (die off : Nat)
  | opBuf (core buf off : Nat)
  | rspRam (off : Nat)
  | keyRam (off : Nat)
  | hammerWord (w : Nat)
  | udsFuses
  deriving DecidableEq, Repr

/-- What a debug halt or resume names (R390). -/
inductive DbgUnit where
  | core (n : Nat)
  | marshal (n : Nat)
  deriving DecidableEq, Repr

/-- The private-key operations of the Hammer (R388). -/
inductive PrivOp where
  | ecdsaSign | ecdh | publicKey
  deriving DecidableEq, Repr

/-- What a memory patrol reads (R414): a block of HBM, a Core Store, an Infield Store or an operand buffer. -/
inductive ScrubTarget where
  | hbm (block : Nat)
  | coreStore (core block : Nat)
  | infield (die block : Nat)
  | opBuf (core buf block : Nat)
  deriving DecidableEq, Repr

/-- A collective at this module, named by context and COLL_ID (R271). -/
structure CRef where
  ctx : Nat
  id : Nat
  deriving DecidableEq, Repr

/-- A collective message as it arrives from a tree neighbour on behalf of a context there (R266, R284). -/
structure CMsg where
  fromMod : Nat
  fromCtx : Nat
  coll : CRef
  round : Nat
  attempt : Nat
  deriving DecidableEq, Repr

/-- What a Pacer sample reads (R406): watts, degrees C, percent, errors, and the input power. -/
structure PaceSample where
  powerW : Nat
  tj : Nat
  util : Nat
  ce : Nat
  inputW : Nat
  deriving DecidableEq, Repr

/-- The commands. -/
inductive Instr where
  /-- NTT_F (R79, R80, R219). -/
  | nttF (d : DRef) (rd ra rb : HRef) (i0 nl : Nat)
  /-- NTT_I (R79, R80, R219). -/
  | nttI (d : DRef) (rd ra rb : HRef) (i0 nl : Nat)
  /-- AUTO (R93, R219). -/
  | auto (d : DRef) (rd ra : HRef) (i0 nl : Nat) (ev : Bool) (g : GSrc)
  /-- CVT_UP (R84, R219). -/
  | cvtUp (d : DRef) (rd ra : HRef) (i0 ns t0 nt : Nat)
  /-- CVT_DOWN (R84, R219). -/
  | cvtDown (d : DRef) (rd ra : HRef) (i0 ns t0 nt : Nat)
  /-- CVT_RESCALE (R84, R431). -/
  | cvtRescale (d : DRef) (rd ra : HRef)
  /-- CVT_MM (R83, R220). -/
  | cvtMm (d : DRef) (f : MmForm)
  /-- CVT_DRAIN (R88, R220). -/
  | cvtDrain (d : DRef) (rdr : HRef) (ta : Nat) (narrow : Bool)
  /-- KS_PREP (R98). -/
  | ksPrep (d : DRef) (rd ra : HRef) (j : Nat)
  /-- KS_IP (R100). -/
  | ksIp (d : DRef) (rd ra rb rc : HRef) (g : GSrc)
  /-- KS_FIN (R101). -/
  | ksFin (d : DRef) (rd ra rb : HRef) (g : GSrc) (rescale : Bool)
  /-- V_ADD (R58, R218). -/
  | vAdd (d : DRef) (f : VForm)
  /-- V_SUB (R58, R218). -/
  | vSub (d : DRef) (f : VForm)
  /-- V_MUL (R58, R218). -/
  | vMul (d : DRef) (f : VForm)
  /-- V_MAC (R58, R218). -/
  | vMac (d : DRef) (f : VForm)
  /-- V_RED (R90). -/
  | vRed (d : DRef) (f : VForm)
  /-- V_CVT_BF (R218). -/
  | vCvtBf (d : DRef) (f : VForm)
  /-- V_CVT_F (R218). -/
  | vCvtF (d : DRef) (f : VForm)
  /-- V_ADD_M_OBJECT (R226). -/
  | vAddObj (d : DRef) (rd ra rb : HRef)
  /-- V_SUB_M_OBJECT (R226). -/
  | vSubObj (d : DRef) (rd ra rb : HRef)
  /-- V_MUL_M_OBJECT (R226). -/
  | vMulObj (d : DRef) (rd ra rb : HRef)
  /-- XPOSE (R164). -/
  | xpose (d : DRef) (rd ra : HRef) (perm : List Nat)
  /-- S_LD (R192, R221). -/
  | sLd (d : DRef) (f : SForm)
  /-- S_ST (R192, R221). -/
  | sSt (d : DRef) (f : SForm)
  /-- S_PUT (R192, R221). -/
  | sPut (d : DRef) (f : SForm)
  /-- S_GET (R192, R221). -/
  | sGet (d : DRef) (f : SForm)
  /-- WIN_OPEN (R230). -/
  | winOpen (d : DRef) (f : WForm)
  /-- WIN_CLOSE (R230). -/
  | winClose (d : DRef) (rm : HRef) (window : Nat)
  /-- AT_ADD_M (R188, R222). -/
  | atAddM (d : DRef) (f : AForm)
  /-- AT_ADD_I (R188, R222). -/
  | atAddI (d : DRef) (f : AForm)
  /-- AT_ADD_F (R188, R222). -/
  | atAddF (d : DRef) (f : AForm)
  /-- AT_CAS (R188, R222). -/
  | atCas (d : DRef) (f : AForm)
  /-- SC_LI (R229); `long` is the two-word form. -/
  | scLi (d : DRef) (sd : Nat) (v : DWord) (long : Bool)
  /-- SC_ADD (R229). -/
  | scAdd (d : DRef) (sd sa : Nat) (b : SVal)
  /-- SC_SUB (R229). -/
  | scSub (d : DRef) (sd sa : Nat) (b : SVal)
  /-- SC_MUL (R229). -/
  | scMul (d : DRef) (sd sa : Nat) (b : SVal)
  /-- SC_AND (R229). -/
  | scAnd (d : DRef) (sd sa : Nat) (b : SVal)
  /-- SC_OR (R229). -/
  | scOr (d : DRef) (sd sa : Nat) (b : SVal)
  /-- SC_XOR (R229). -/
  | scXor (d : DRef) (sd sa : Nat) (b : SVal)
  /-- SC_SHL (R229). -/
  | scShl (d : DRef) (sd sa : Nat) (b : SVal)
  /-- SC_SHR (R229). -/
  | scShr (d : DRef) (sd sa : Nat) (b : SVal)
  /-- SC_LD (R229, R224); `sa` is added when SUBOP bit 0 is set. -/
  | scLd (d : DRef) (sd : Nat) (h : HRef) (imm : Nat) (sa : Option Nat)
  /-- SC_ST (R229, R224). -/
  | scSt (d : DRef) (sd : Nat) (h : HRef) (imm : Nat) (sa : Option Nat)
  /-- SC_HDR (R229). -/
  | scHdr (d : DRef) (sd : Nat) (h : HRef) (sub : Nat)
  /-- SC_ARG (R229). -/
  | scArg (d : DRef) (sd n : Nat)
  /-- SC_CTR (R229). -/
  | scCtr (d : DRef) (sd sub : Nat)
  /-- SC_STAT (R229); `clr` is IMM32 [4:0] when IMM is set. -/
  | scStat (d : DRef) (sd : Nat) (clr : Option Nat)
  /-- SC_LRD (R224). -/
  | scLrd (d : DRef) (sd ln : Nat)
  /-- SC_LWR (R224, R237). -/
  | scLwr (d : DRef) (ln sa : Nat)
  /-- HDR_W (R228). -/
  | hdrW (d : DRef) (rd ra : HRef) (budgetS levelS : Nat)
  /-- BR (R235). -/
  | br (d : DRef) (c : Cond) (sa : Nat) (b : SVal) (off : Int)
  /-- LAP (R236). -/
  | lap (d : DRef) (ln : Nat) (count : SVal) (off : Int)
  /-- LAP_ITERATION_END (R236). -/
  | lapIterationEnd (d : DRef)
  /-- CALL (R239). -/
  | call (d : DRef) (off : Int)
  /-- RET (R239). -/
  | ret (d : DRef)
  /-- RING (R69). -/
  | ring (d : DRef) (gate : Bool)
  /-- RING_CONFIG_EFFECT (R70). -/
  | ringConfigEffect (d : DRef)
  /-- MARK_SIG (R243). -/
  | markSig (d : DRef) (mark : Nat) (amount : SVal)
  /-- MARK_WAIT (R244). -/
  | markWait (d : DRef) (sd mark : Nat) (f : WaitForm)
  /-- HANDOFF_OUT (R143). -/
  | handoffOut (d : DRef) (src : HRef) (slot notify answer : Nat)
  /-- HANDOFF_IN (R145). -/
  | handoffIn (d : DRef) (dst : HRef) (slot : Nat) (timeout : SVal)
  /-- HANDOFF_TIMEOUT (R146). -/
  | handoffTimeout (d : DRef)
  /-- STAGE_BEGIN (R199). -/
  | stageBegin (d : DRef)
  /-- STAGE_END (R199). -/
  | stageEnd (d : DRef)
  /-- STAGE_END_RETIRE (R199, R305); the shape of a re-division it carries out, if one is due. -/
  | stageEndRetire (d : DRef)
  /-- REL (R230). -/
  | rel (d : DRef) (vfirst vcount tmask : Nat)
  /-- VLT_MODRAISE (R125). -/
  | vltModraise (d : DRef)
  /-- VLT_CTS (R125). -/
  | vltCts (d : DRef)
  /-- VLT_EVALMOD (R125). -/
  | vltEvalmod (d : DRef)
  /-- VLT_STC (R125). -/
  | vltStc (d : DRef)
  /-- VLT_BOOT (R125). -/
  | vltBoot (d : DRef)
  /-- VLT_EXTRACT (R132). -/
  | vltExtract (d : DRef)
  /-- VLT_PBS (R135). -/
  | vltPbs (d : DRef)
  /-- VLT_REPACK (R137). -/
  | vltRepack (d : DRef)
  /-- VLT_BOOT_EXACT (R138). -/
  | vltBootExact (d : DRef)
  /-- INSTRUCTION_RETIRE (R77, R73): the n-th instruction in flight of the dispatch, with an error it met, if it met one. -/
  | instructionRetire (d : DRef) (n : Nat) (met : Option Upset)
  /-- STREAM_UNIT_COMMIT (R197): the next unit of a slot, with the error that its read or its conversion met. -/
  | streamUnitCommit (d : DRef) (slot : Nat) (err : MemErr)
  /-- PAGE_WALK (R345). -/
  | pageWalk (u : XUnit) (ctx va : Nat) (acc : Access)
  /-- STREAM_CREDIT_RETRY (R202). -/
  | streamCreditRetry (d : DRef) (slot : Nat)
  /-- STREAM_EMPTY_RESUME (R202). -/
  | streamEmptyResume (d : DRef) (slot : Nat)
  /-- CR_REQ (R178). -/
  | crReq (mgr : Mgr) (from_ : Sender) (window want : Nat)
  /-- CR_GRANT (R178): the answer for the stream in a slot of a dispatch, under the epoch it bears. -/
  | crGrant (d : DRef) (slot epoch grant first count : Nat) (st : GrantStatus)
  /-- PUT (R178, R179): a block for a grant of a manager, from its sender. -/
  | put (mgr : Mgr) (from_ : Sender) (grant block : Nat) (payload : Bytes) (marked : Bool)
  /-- CR_RETURN (R178): for the stream in a slot of a dispatch, under the epoch it bears. -/
  | crReturn (d : DRef) (slot epoch grant count : Nat)
  /-- CR_CANCEL arriving at one end of a grant (R178, R180). -/
  | crCancel (e : GrantEnd) (grant : Nat) (reason : CancelReason)
  /-- CREDIT_TIMEOUT (R180). -/
  | creditTimeout (mgr : Mgr) (grant : Nat)
  /-- QUEUE_DOORBELL (R286, R321). -/
  | queueDoorbell (q v : Nat)
  /-- DISPATCH_RECORD_READ (R288). -/
  | dispatchRecordRead (q : Nat)
  /-- DISPATCH_PLACE (R292): the Relays the Starter places the dispatch on. -/
  | dispatchPlace (d : DRef) (relays : List Nat)
  /-- DISTANCE_YIELD_EXPIRY (R291): the waiting MIDDLE dispatch and the Relays it takes. -/
  | distanceYieldExpiry (d : DRef) (relays : List Nat)
  /-- DISPATCH_RESUME (R295). -/
  | dispatchResume (d : DRef)
  /-- MIGRATION (R304). -/
  | migration (d : DRef) (relays : List Nat)
  /-- PLACE_WINDOW_EXPIRY (R306): a measurement window of a die ends. -/
  | placeWindowExpiry (die : Nat)
  /-- DISPATCH_COMMIT (R307). -/
  | dispatchCommit (d : DRef)
  /-- MARK_SIGNAL_ARRIVAL (R245): the n-th signal in flight reaches its Mark. -/
  | markSignalArrival (n : Nat)
  /-- MARK_WAIT_TIMEOUT (R244). -/
  | markWaitTimeout (d : DRef)
  /-- HOST_MARK_SIG (R322): the 16 bytes written. -/
  | hostMarkSig (data : Bytes)
  /-- PEER_MARK_SIGNAL (R268). -/
  | peerMarkSignal (port fromCtx mark amount tag : Nat)
  /-- PEER_MARK_ACK (R268). -/
  | peerMarkAck (port tag : Nat) (denied : Bool)
  /-- CTX_CREATE (R34, R326). -/
  | ctxCreate (m : Nat) (r : MbReq)
  /-- CTX_DESTROY (R329). -/
  | ctxDestroy (m : Nat) (r : MbReq)
  /-- CTX_INFO (R331). -/
  | ctxInfo (m : Nat) (r : MbReq)
  /-- KEYSET_LOAD (R328). -/
  | keysetLoad (m : Nat) (r : MbReq)
  /-- KEYSET_UNLOAD (R110). -/
  | keysetUnload (m : Nat) (r : MbReq)
  /-- KEY_PIN (R112). -/
  | keyPin (m : Nat) (r : MbReq)
  /-- KEY_COPY_COMPLETE (R113). -/
  | keyCopyComplete (die ctx keyset kind galois : Nat)
  /-- RES_WINDOW_EXPIRY (R111). -/
  | resWindowExpiry (die : Nat)
  /-- PROG_LOAD (R215). -/
  | progLoad (m : Nat) (r : MbReq)
  /-- PROG_UNLOAD (R326). -/
  | progUnload (m : Nat) (r : MbReq)
  /-- DESC_SET (R150). -/
  | descSet (m : Nat) (r : MbReq)
  /-- DESC_FREE (R150). -/
  | descFree (m : Nat) (r : MbReq)
  /-- QUEUE_CREATE (R338). -/
  | queueCreate (m : Nat) (r : MbReq)
  /-- QUEUE_DESTROY (R330). -/
  | queueDestroy (m : Nat) (r : MbReq)
  /-- SPAD_RELEASE (R174). -/
  | spadRelease (m : Nat) (r : MbReq)
  /-- HWIN_SET (R316). -/
  | hwinSet (m : Nat) (r : MbReq)
  /-- MARK_READ (R242). -/
  | markRead (m : Nat) (r : MbReq)
  /-- MARK_SET (R242). -/
  | markSet (m : Nat) (r : MbReq)
  /-- MARK_SIGNAL (R268). -/
  | markSignal (m : Nat) (r : MbReq)
  /-- COLL_CREATE (R272). -/
  | collCreate (m : Nat) (r : MbReq)
  /-- COLL_DESTROY (R330). -/
  | collDestroy (m : Nat) (r : MbReq)
  /-- COLL_STATUS (R279). -/
  | collStatus (m : Nat) (r : MbReq)
  /-- CFG_BEGIN (R334). -/
  | cfgBegin (m : Nat) (r : MbReq)
  /-- CFG_SET (R334). -/
  | cfgSet (m : Nat) (r : MbReq)
  /-- CFG_COMMIT (R335). -/
  | cfgCommit (m : Nat) (r : MbReq)
  /-- CFG_ROLLBACK (R337). -/
  | cfgRollback (m : Nat) (r : MbReq)
  /-- CFG_GET (R336). -/
  | cfgGet (m : Nat) (r : MbReq)
  /-- CFG_TXN_EXPIRY (R337). -/
  | cfgTxnExpiry (txn : Nat)
  /-- SETTING_TAKE_EFFECT (R336). -/
  | settingTakeEffect (id target : Nat)
  /-- RESULT_GET (R339). -/
  | resultGet (m : Nat) (r : MbReq)
  /-- RESULT_RELEASE (R339). -/
  | resultRelease (m : Nat) (r : MbReq)
  /-- ABORT (R340). -/
  | abort (m : Nat) (r : MbReq)
  /-- ATTEST_GET (R374). -/
  | attestGet (m : Nat) (r : MbReq)
  /-- SYSTEM_JOIN (R259). -/
  | systemJoin (m : Nat) (r : MbReq)
  /-- SYSTEM_LEAVE (R264). -/
  | systemLeave (m : Nat) (r : MbReq)
  /-- LEAVE_DRAIN_EXPIRY (R264). -/
  | leaveDrainExpiry
  /-- EVENT_RING (R325). -/
  | eventRing (m : Nat) (r : MbReq)
  /-- FW_STAGE (R369). -/
  | fwStage (m : Nat) (r : MbReq)
  /-- FW_ACTIVATE (R369). -/
  | fwActivate (m : Nat) (r : MbReq)
  /-- FW_LIVE_SWAP (R369). -/
  | fwLiveSwap (cls : Nat)
  /-- REGISTER_WRITE (R4, R319). -/
  | registerWrite (p : RegPlace) (size value : Nat)
  /-- HOST_WINDOW_ACCESS (R316). -/
  | hostWindowAccess (w off : Nat) (a : HwAccess)
  /-- HOST_WINDOW_CAS (R316). -/
  | hostWindowCas (w off size expect new : Nat)
  /-- COMPANION_SNOOP_INVALIDATE (R314): the line and its new contents. -/
  | companionSnoopInvalidate (line : Nat) (data : Bytes)
  /-- WELONE_LINK_DOWN (R318). -/
  | weloneLinkDown
  /-- WELONE_LINK_RETRAIN (R311): whether all 32 lanes train. -/
  | weloneLinkRetrain (ok : Bool)
  /-- PORT_TRAINING_ATTEMPT (R253). -/
  | portTrainingAttempt (p : Nat)
  /-- PORT_TRAINING_COMPLETE (R261): whether all 16 lanes train. -/
  | portTrainingComplete (p : Nat) (ok : Bool)
  /-- IDENT (R260): the 96-byte message. -/
  | ident (p : Nat) (msg : Bytes)
  /-- IDENT_TIMEOUT (R261). -/
  | identTimeout (p : Nat)
  /-- PORT_ATTEST_COMPLETE (R261). -/
  | portAttestComplete (p : Nat) (r : AttestResult)
  /-- ATTEST_TIMEOUT (R261). -/
  | attestTimeout (p : Nat)
  /-- FLIT_CRC_ERROR (R256, R311): of a Baton port, or of the Welone Link. -/
  | flitCrcError (p : Option Nat)
  /-- LANE_LOSS_OF_LOCK (R258). -/
  | laneLossOfLock (p : Nat)
  /-- LINK_DEAD_TIMER (R258). -/
  | linkDeadTimer (p : Nat)
  /-- IDLE_FLIT_SEND (R258). -/
  | idleFlitSend (p : Nat)
  /-- GCM_TAG_FAILURE (R257). -/
  | gcmTagFailure (p : Nat)
  /-- LEAVE (R264). -/
  | leave (p : Nat)
  /-- COLL_SETUP (R273, R282): the neighbour's record hash, its PARENT and CHILDREN, and every module below it. -/
  | collSetup (c : CMsg) (hash : Bytes) (parent children below : Nat)
  /-- COLL_CHUNK (R275): the chunk's index, its element words and whether its source is marked. -/
  | collChunk (c : CMsg) (index : Nat) (words : List Nat) (marked : Bool)
  /-- COLL_COMMIT (R274). -/
  | collCommit (c : CMsg)
  /-- COLL_DEPART (R283): the modules named. -/
  | collDepart (c : CMsg) (mask : Nat)
  /-- COLL_ORPHAN (R282). -/
  | collOrphan (c : CMsg)
  /-- COLL_ABANDON (R283). -/
  | collAbandon (c : CMsg)
  /-- COLL_RESTART (R283): the new member set. -/
  | collRestart (c : CMsg) (members : Nat)
  /-- COLL_CHUNK_CREDIT (R274): chunk buffers lent. -/
  | collChunkCredit (c : CMsg) (n : Nat)
  /-- COLL_CHUNK_ACK (R274): the member that acknowledges. -/
  | collChunkAck (c : CMsg) (member : Nat)
  /-- REFORM_TIMEOUT (R283). -/
  | reformTimeout (c : CRef)
  /-- MARSHAL_FAULT_SERVICE (R349). -/
  | marshalFaultService (ctx va : Nat)
  /-- PAGE_FILL_COMPLETE (R349); the blocks of the page that met an uncorrectable error in the copy (R354). -/
  | pageFillComplete (ctx va : Nat) (ue : List Nat)
  /-- PAGE_REWALK (R349). -/
  | pageRewalk (ctx va : Nat)
  /-- FAULT_WAIT_EXPIRY (R349). -/
  | faultWaitExpiry (ctx va : Nat)
  /-- DMA_TRANSFER_COMPLETE (R353). -/
  | dmaTransferComplete (die engine : Nat)
  /-- VAON_RISE (R398). -/
  | vaonRise
  /-- EN_RISE (R421). -/
  | enRise
  /-- EN_FALL (R421). -/
  | enFall
  /-- STARTUP_STEP_COMPLETE (R400). -/
  | startupStepComplete (r : StepResult)
  /-- INPUT_TRIP (R395): the input in mV. -/
  | inputTrip (mv : Int)
  /-- VAON_LOSS (R395). -/
  | vaonLoss
  /-- THERMAL_TRIP (R404). -/
  | thermalTrip (sensor : Sensor) (temp : Nat)
  /-- REFCLK_LOSS (R396). -/
  | refclkLoss
  /-- THERMAL_EMERGENCY_ENTRY (R405). -/
  | thermalEmergencyEntry (sensor : Sensor) (temp : Nat)
  /-- THERMAL_EMERGENCY_EXIT (R405). -/
  | thermalEmergencyExit
  /-- PACER_SAMPLE (R406). -/
  | pacerSample (f : Nat) (x : PaceSample)
  /-- CLOCK_STEP_CHANGE (R397). -/
  | clockStepChange (f : Nat)
  /-- FIELD_IDLE_SLEEP (R406). -/
  | fieldIdleSleep (f : Nat)
  /-- FIELD_IDLE_OFF (R406). -/
  | fieldIdleOff (f : Nat)
  /-- FIELD_WAKE_COMPLETE (R403). -/
  | fieldWakeComplete (f : Nat)
  /-- REST_ENTRY (R402). -/
  | restEntry
  /-- WAKE_EVENT (R402). -/
  | wakeEvent (w : Wake)
  /-- DBG_STATUS (R390). -/
  | dbgStatus
  /-- DBG_CHALLENGE (R363). -/
  | dbgChallenge
  /-- DBG_RESPONSE (R391). -/
  | dbgResponse (t : Bytes)
  /-- DBG_READ (R390). -/
  | dbgRead (t : DbgTarget)
  /-- DBG_WRITE (R390). -/
  | dbgWrite (t : DbgTarget) (v : Nat)
  /-- DBG_HALT (R390). -/
  | dbgHalt (u : DbgUnit)
  /-- DBG_RESUME (R390). -/
  | dbgResume (u : DbgUnit)
  /-- DBG_LC_TOKEN (R362). -/
  | dbgLcToken (t : Bytes)
  /-- DBG_DEBUG_CLOSE (R362). -/
  | dbgDebugClose
  /-- GET_VERSION (R374). -/
  | getVersion (v : SpdmVia)
  /-- GET_CAPABILITIES (R374). -/
  | getCapabilities (v : SpdmVia)
  /-- NEGOTIATE_ALGORITHMS (R374): whether the request offers the module's algorithms. -/
  | negotiateAlgorithms (v : SpdmVia) (offersOurs : Bool)
  /-- GET_DIGESTS (R373). -/
  | getDigests (v : SpdmVia)
  /-- GET_CERTIFICATE (R373). -/
  | getCertificate (v : SpdmVia) (slot off len : Nat)
  /-- CHALLENGE (R374). -/
  | challenge (v : SpdmVia) (slot : Nat) (nonce : Bytes)
  /-- GET_MEASUREMENTS (R376). -/
  | getMeasurements (v : SpdmVia) (index : Nat) (signed : Bool) (nonce : Bytes)
  /-- KEY_EXCHANGE (R375). -/
  | keyExchange (v : SpdmVia) (share : Bytes)
  /-- FINISH (R374): whether the requester's verification data is right. -/
  | finish (v : SpdmVia) (sess : Nat) (mac : Bytes)
  /-- HEARTBEAT (R374). -/
  | heartbeat (v : SpdmVia) (sess : Nat)
  /-- KEY_UPDATE (R374). -/
  | keyUpdate (v : SpdmVia) (sess : Nat)
  /-- END_SESSION (R374). -/
  | endSession (v : SpdmVia) (sess : Nat)
  /-- CHUNK_SEND (R374). -/
  | chunkSend (v : SpdmVia) (last : Bool) (data : Bytes)
  /-- CHUNK_GET (R374). -/
  | chunkGet (v : SpdmVia) (n : Nat)
  /-- RESPOND_IF_READY (R374). -/
  | respondIfReady (v : SpdmVia)
  /-- SPDM_SESSION_IDLE_TIMEOUT (R374). -/
  | spdmSessionIdleTimeout (sess : Nat)
  /-- KEM_MIX (R377). -/
  | kemMix (v : SpdmVia) (sess : Nat) (ct : Bytes)
  /-- NONCE_GET (R378). -/
  | nonceGet (v : SpdmVia) (sess : Nat)
  /-- LC_TOKEN (R362). -/
  | lcToken (v : SpdmVia) (sess : Nat) (t : Bytes)
  /-- DEBUG_CLOSE (R362). -/
  | debugClose (v : SpdmVia) (sess : Nat)
  /-- WEIGHTS_KEY (R378). -/
  | weightsKey (v : SpdmVia) (sess keyNo : Nat) (key : Bytes)
  /-- WEIGHTS_UNWRAP (R380). -/
  | weightsUnwrap (v : SpdmVia) (sess keyNo blobId srcVa dstVa records : Nat)
  /-- DRBG_RESEED (R383). -/
  | drbgReseed
  /-- ENTROPY_HEALTH_FAIL (R383). -/
  | entropyHealthFail
  /-- ENTROPY_RESEED_TIMEOUT (R383). -/
  | entropyReseedTimeout
  /-- HAMMER_MAC (R386): a write to HAMMER_CMD. -/
  | hammerMac (cmd : DWord)
  /-- HSLOT_WRITE (R384). -/
  | hslotWrite (n : Nat) (v : Word)
  /-- HSLOT_RELEASE (R385). -/
  | hslotRelease (n : Nat)
  /-- KEY_LOAD (R385): slot and the secret's words. -/
  | keyLoad (n : Nat) (words : List (BitVec 256))
  /-- HAMMER_PRIVATE_KEY_OP (R387): whether the two computations agree. -/
  | hammerPrivateKeyOp (op : PrivOp) (agree : Bool)
  /-- IDCODE (R392). -/
  | idcode
  /-- BYPASS (R392). -/
  | bypass
  /-- SAMPLE_PRELOAD (R392). -/
  | samplePreload (pins : Nat)
  /-- EXTEST (R392). -/
  | extest (pins : Nat)
  /-- SMB_MODULE_PWR (R423). -/
  | smbModulePwr
  /-- SMB_FENCE_STATUS (R423). -/
  | smbFenceStatus
  /-- SMB_FIELD_PWR (R423). -/
  | smbFieldPwr (f : Nat)
  /-- SMB_SERIAL (R423). -/
  | smbSerial
  /-- SMB_IDCODE (R423). -/
  | smbIdcode
  /-- SMB_LC_STATE (R423). -/
  | smbLcState
  /-- SMB_WRITE (R423): a write, or a read of an unknown code. -/
  | smbWrite (code : Nat)
  /-- FABRIC_RETRY (R410): the n-th CRC failure of one transfer at a Relay. -/
  | fabricRetry (relay n : Nat)
  /-- CONTROL_UE (R410). -/
  | controlUe (core : Nat)
  /-- CONTEXT_UE (R410). -/
  | contextUe (ctx : Nat)
  /-- FIELD_PLL_LOSS (R410). -/
  | fieldPllLoss (f : Nat)
  /-- MODULE_FAULT (R43): the unit that failed, as UNIT_KIND and UNIT of R411. -/
  | moduleFault (kind unit : Nat)
  /-- FIELD_RECOVERY (R417). -/
  | fieldRecovery (f : Nat)
  /-- SELF_TEST_COMPLETE (R417). -/
  | selfTestComplete (f : Nat) (pass : Bool)
  /-- PATROL_SCRUB (R414). -/
  | patrolScrub (t : ScrubTarget) (err : MemErr)
  /-- STATUS_MIRROR_REWRITE (R412). -/
  | statusMirrorRewrite
  /-- ADMISSION_MESSAGE (R259): whether the peer admits. -/
  | admissionMessage (p : Nat) (admits : Bool)
  /-- HBM_DOUBLED_REFRESH (R405). -/
  | hbmDoubledRefresh (stack temp : Nat)
  /-- SEALED_FRAME_ZEROED (R381). -/
  | sealedFrameZeroed (ctx : Nat)
  /-- RELAY_CONTROL_UE (R415). -/
  | relayControlUe (relay : Nat)
  /-- REST_ENTRY_COMPLETE (R402). -/
  | restEntryComplete
  /-- REST_WAKE_COMPLETE (R402). -/
  | restWakeComplete
  /-- FIELD_ENTRY_COMPLETE (R403). -/
  | fieldEntryComplete (f : Nat)
  /-- HEARTBEAT_PERIOD_EXPIRY (R374). -/
  | heartbeatPeriodExpiry (sess : Nat)
  deriving DecidableEq, Repr

end Sys2Proof
end

