-- ==== Sys2Proof/Decode.lean ====
section
/-! DEFINITION. The decoder of AVIS instruction words (R217 to R225), and the command that a word of the table spells:
no row of opcode_table.json has bits, so no word spells one. -/

namespace Sys2Proof

open Machine

/-- The command that a word spells by the table's bits. The table gives no row any bits. -/
def decodeTableWord (nbits w : Nat) : Option Instr :=
  match nbits, w with
  | _, _ => none

/-- A handle reference field (R217). -/
def decHRef (f : Nat) : Option HRef :=
  let ref := bits f 19 0
  match bits f 21 20 with
  | 0 => if ref == 0 then none else some (.lit ref)
  | 1 => if bits f 19 5 == 0 then some (.reg (bits f 4 0)) else none
  | 2 => if ref == 0 then some .null else none
  | _ => none

/-- ETYPE (R217). -/
def decEType (e : Nat) : EType :=
  match e with
  | 0 => .mod32
  | 1 => .fp32
  | 2 => .bf16
  | _ => .int8

/-- The second operand of a format K instruction: SB, or IMM32 sign-extended to 64 bits (R223). -/
def decB (w : Nat) : SVal :=
  if bit w 38 then .imm (BitVec.ofInt 64 (signed 32 (bits w 31 0))) else .reg (bits w 43 39)

/-- Format V (R218). -/
def decV (w w1 : Nat) : Option VForm :=
  let cs := bit w 27
  let bs := bit w 28
  let long := cs && bs
  if bits w 2 0 != 0 || bit w 56 != long then none
  else if long && !(bits w1 63 16 == 0 && bits w1 15 0 % 64 == 0) then none
  else some { ety := decEType (bits w 55 54), vd := bits w 53 48, va := if bit w 29 then bits w 43 42 else bits w 47 42,
              vb := if bs then bits w 40 36 else bits w 41 36, vc := bits w 35 30, tileA := bit w 29, scalB := bs,
              colStep := cs, mod := bits w 26 21, ml := if bit w 20 then some (bits w 19 18) else none,
              cnt := bits w 17 6 + 1, subop := bits w 5 3, ob3 := if long then bits w1 15 0 else 0 }

/-- The Galois field of PARAM (R219). -/
def decG (p : Nat) : Option GSrc :=
  if bit p 0 then none
  else if bit p 1 then (if bits p 19 7 == 0 then some (.reg (bits p 6 2)) else none) else some (.imm (bits p 19 2))

/-- The handle references and fields of format M (R219). -/
structure MFields where
  rd : HRef
  ra : HRef
  opx : Nat
  rbBits : Nat
  rcBits : Nat
  param : Nat

/-- Format M (R219). -/
def decM (w w1 : Nat) : Option MFields := do
  let rd ← decHRef (bits w 53 32)
  let ra ← decHRef (bits w 31 10)
  if bit w 56 && bits w 55 54 == 0 then some ⟨rd, ra, bits w 9 0, bits w1 63 42, bits w1 41 20, bits w1 19 0⟩ else none

/-- The null handle reference as its field value. -/
def nullRef : Nat := 2 * 2 ^ 20

/-- A handle field shown as "—" in R219 is zero or null. -/
def noRef (f : Nat) : Bool := f == 0 || f == nullRef

/-- Format S of the four streams (R221). Fields a form does not use are not looked at; MOD is zero without CONV. -/
def decS (put : Bool) (w w1 : Nat) : Option SForm := do
  let rm ← decHRef (bits w 53 32)
  let other ← if bit w 25 then some (SOther.vr (bits w 31 26)) else (decHRef (bits w1 63 42)).map SOther.rn
  if bit w 56 && bits w 55 54 == 0 && bits w1 2 0 == 0 && (bit w 24 || bits w1 8 3 == 0) then
    some { rm := rm, other := other, conv := bit w 24, count := bits w 23 0,
           window := bits w1 41 30, tcore := if put then bits w1 29 23 else 0,
           tmod := if put then bits w1 22 17 else 0, xmod := put && bit w1 9, mod := bits w1 8 3 }
  else none

/-- win.open (R221). -/
def decW (w w1 : Nat) : Option WForm := do
  let rm ← decHRef (bits w 53 32)
  if bit w 56 && bits w 55 54 == 0 && bits w 16 0 == 0 && bits w1 8 0 == 0 then
    some { rm := rm, window := bits w1 41 30, scoreLo := bits w1 29 23, scoreHi := bits w1 22 16, smod := bits w1 15 10,
           xmod := bit w1 9, markEn := bit w 17, arriveMark := bits w 31 18 }
  else none

/-- Format A (R222); the ETYPE is checked by the caller. -/
def decA (cas : Bool) (w w1 : Nat) : Option AForm := do
  let rm ← decHRef (bits w 53 32)
  if bit w 56 == cas && (!cas || bits w1 57 0 == 0) then
    some { rm := rm, vs := bits w 31 26, vf := bits w 25 20, fetch := bit w 19, w64 := bit w 18, mod := bits w 17 12,
           cnt := bits w 11 0 + 1, vc := if cas then bits w1 63 58 else 0 }
  else none

/-- The 64-bit operand of br and lap: the scalar, or word 1 when IMM is set, which makes the form long (R225). -/
def decLongB (w w1 : Nat) (s : Nat) : Option SVal :=
  if bit w 38 then (if bit w 56 then some (.imm (BitVec.ofNat 64 w1)) else none)
  else if bit w 56 then none else some (.reg s)

/-- The branch condition of a SUBOP (R225). -/
def decCond (n : Nat) : Option Cond :=
  match n with
  | 0 => some .always
  | 1 => some .eq
  | 2 => some .ne
  | 3 => some .ltu
  | 4 => some .geu
  | 5 => some .lts
  | 6 => some .ges
  | _ => none

/-- The M-format instructions (R219). -/
def decodeM (d : DRef) (op w w1 : Nat) : Option Instr := do
  let m ← decM w w1
  let x := m.rcBits
  match op with
  | 0x01 | 0x02 =>
    if m.opx == 0 && m.param == 0 && bits x 8 0 == 0 then
      (decHRef m.rbBits).map (fun rb => (if op == 1 then Instr.nttF else Instr.nttI) d m.rd m.ra rb (bits x 21 16) (bits x 15 9)) else none
  | 0x03 =>
    if m.opx == 0 && noRef m.rbBits && bits x 7 0 == 0 then
      (decG m.param).map (Instr.auto d m.rd m.ra (bits x 21 16) (bits x 15 9) (bit x 8)) else none
  | 0x08 | 0x09 =>
    if m.opx == 0 && noRef m.rbBits && bits x 2 0 == 0 && bits m.param 12 0 == 0 then
      some ((if op == 8 then Instr.cvtUp else Instr.cvtDown) d m.rd m.ra (bits x 21 16) (bits x 15 9) (bits x 8 3)
        (bits m.param 19 13)) else none
  | 0x0A => if m.opx == 0 && noRef m.rbBits && noRef m.rcBits && m.param == 0 then some (.cvtRescale d m.rd m.ra) else none
  | 0x10 =>
    if noRef m.rbBits && noRef m.rcBits && m.param == 0 && bits m.opx 9 2 == 0 then some (.ksPrep d m.rd m.ra (bits m.opx 1 0))
    else none
  | 0x11 =>
    if m.opx == 0 then do
      let rb ← decHRef m.rbBits
      let rc ← decHRef m.rcBits
      (decG m.param).map (Instr.ksIp d m.rd m.ra rb rc) else none
  | 0x12 =>
    if noRef m.rcBits && bits m.opx 9 1 == 0 then do
      let rb ← decHRef m.rbBits
      (decG m.param).map (fun g => Instr.ksFin d m.rd m.ra rb g (bit m.opx 0))
    else none
  | 0x20 => if m.opx == 0 && noRef m.rcBits && m.param == 0 then (decHRef m.rbBits).map (Instr.vAddObj d m.rd m.ra) else none
  | 0x21 => if m.opx == 0 && noRef m.rcBits && m.param == 0 then (decHRef m.rbBits).map (Instr.vSubObj d m.rd m.ra) else none
  | 0x22 => if m.opx == 0 && noRef m.rcBits && m.param == 0 then (decHRef m.rbBits).map (Instr.vMulObj d m.rd m.ra) else none
  | 0x28 =>
    if m.opx == 0 && noRef m.rbBits && noRef m.rcBits && bits m.param 19 15 == 0 then
      some (.xpose d m.rd m.ra ((List.range 5).map (fun i => bits m.param (3 * i + 2) (3 * i)))) else none
  | 0x49 =>
    if noRef m.rbBits && noRef m.rcBits && m.param == 0 then some (.hdrW d m.rd m.ra (bits m.opx 9 5) (bits m.opx 4 0)) else none
  | _ => none

/-- The vector register forms (R218, R225). -/
def decodeV (d : DRef) (op w w1 : Nat) : Option Instr := do
  let f ← decV w w1
  let subOk := if f.ety == .fp32 && f.tileA then f.subop ≤ 1 else f.subop == 0
  match op with
  | 0x18 => if subOk then some (.vAdd d f) else none
  | 0x19 => if subOk then some (.vSub d f) else none
  | 0x1A => if subOk then some (.vMul d f) else none
  | 0x1B => if subOk && f.ety != .int8 then some (.vMac d f) else none
  | 0x1C => if !bit w 56 && f.subop ≤ 2 && (f.ety != .mod32 || f.subop == 0) && f.vd < 32 then some (.vRed d f) else none
  | 0x1D =>
    if bit w 56 || f.ety != .fp32 then none
    else if f.subop == 0 then some (.vCvtBf d f) else if f.subop == 1 then some (.vCvtF d f) else none
  | _ => none

/-- The scalar arithmetic of opcode 0x41 by SUBOP (R225). -/
def decodeArith (d : DRef) (w : Nat) : Option Instr :=
  let sd := bits w 53 49
  let sa := bits w 48 44
  match bits w 37 32 with
  | 0 => some (.scAdd d sd sa (decB w))
  | 1 => some (.scSub d sd sa (decB w))
  | 2 => some (.scMul d sd sa (decB w))
  | 3 => some (.scAnd d sd sa (decB w))
  | 4 => some (.scOr d sd sa (decB w))
  | 5 => some (.scXor d sd sa (decB w))
  | 6 => some (.scShl d sd sa (decB w))
  | 7 => some (.scShr d sd sa (decB w))
  | _ => none

/-- The scalar, control, synchronisation, hand-off and stage instructions (R223 to R225). -/
def decodeK (d : DRef) (op w w1 : Nat) : Option Instr :=
  let sd := bits w 53 49
  let sa := bits w 48 44
  let sub := bits w 37 32
  let imm := bits w 31 0
  let long := bit w 56
  let ref := decHRef (bits w1 63 42)
  let refOk := long && bits w1 41 0 == 0
  match op with
  | 0x40 =>
    if sub != 0 then none else some (.scLi d sd (if long then BitVec.ofNat 64 w1 else BitVec.ofInt 64 (signed 32 imm)) long)
  | 0x41 => if long then none else decodeArith d w
  | 0x42 | 0x43 =>
    if refOk && sub ≤ 1 then
      ref.map (fun h => (if op == 0x42 then Instr.scLd else Instr.scSt) d sd h imm (if sub == 1 then some sa else none))
    else none
  | 0x44 => if refOk && sub ≤ 8 then ref.map (fun h => Instr.scHdr d sd h sub) else none
  | 0x45 => if !long && sub == 0 && imm ≤ 3 then some (.scArg d sd imm) else none
  | 0x46 => if !long && sub ≤ 5 then some (.scCtr d sd sub) else none
  | 0x47 => if long || sub != 0 then none else some (.scStat d sd (if bit w 38 then some (bits imm 4 0) else none))
  | 0x48 =>
    if !long && !bit w 38 && bits imm 31 2 == 0 then
      (if sub == 0 then some (.scLrd d sd imm) else if sub == 1 then some (.scLwr d imm sa) else none) else none
  | 0x50 => do
    let c ← decCond sub
    let b ← decLongB w w1 (bits w 43 39)
    some (.br d c sa b (signed 32 imm))
  | 0x51 => if sub != 0 then none else (decLongB w w1 sa).map (fun b => Instr.lap d (bits w 50 49) b (signed 32 imm))
  | 0x52 =>
    if long then none
    else if sub == 0 then some (.call d (signed 32 imm))
    else if sub != 1 then none
    else match imm with
      | 0x01 => some (.vltModraise d)
      | 0x02 => some (.vltCts d)
      | 0x03 => some (.vltEvalmod d)
      | 0x04 => some (.vltStc d)
      | 0x05 => some (.vltBoot d)
      | 0x10 => some (.vltExtract d)
      | 0x11 => some (.vltPbs d)
      | 0x12 => some (.vltRepack d)
      | 0x13 => some (.vltBootExact d)
      | _ => none
  | 0x53 => if long || sub != 0 then none else some (.ret d)
  | 0x54 => if !long && sub ≤ 1 then some (.ring d (sub == 1)) else none
  | 0x58 =>
    if bit w 38 || sub != 0 || bits imm 31 14 != 0 then none
    else some (.markSig d imm (if long then .imm (BitVec.ofNat 64 (bits w1 31 0)) else .reg sa))
  | 0x59 =>
    if sub != 0 || bits imm 31 14 != 0 then none
    else some (.markWait d sd imm (if long then .long (bits w1 31 0) (bits w1 63 32) else .short sa))
  | 0x5C =>
    if long && sub == 0 && bits w1 5 0 == 0 then
      ref.map (fun h => Instr.handoffOut d h (bits w1 41 34) (bits w1 33 20) (bits w1 19 6)) else none
  | 0x5D =>
    if long && bits w1 33 0 == 0 && sub ≤ 1 then
      ref.map (fun h => Instr.handoffIn d h (bits w1 41 34)
        (if sub == 1 then .reg sa else .imm (BitVec.ofNat 64 imm))) else none
  | 0x60 => if long || sub != 0 then none else some (.stageBegin d)
  | 0x61 => if long || sub != 0 then none else some (.stageEnd d)
  | 0x62 =>
    if long || bits w 36 0 != 0 || bits w 47 41 > 64 || bits w 53 48 + bits w 47 41 > 64 then none
    else some (.rel d (bits w 53 48) (bits w 47 41) (bits w 40 37))
  | _ => none

/-- The instruction an instruction word and the word after it hold, and the number of words it takes (R217 to R225).
None for every combination of OPCODE, ETYPE and SUBOP that R225 does not list. -/
def decodeAvis (d : DRef) (w w1 : Nat) : Option (Instr × Nat) :=
  let op := bits w 63 57
  let ety := bits w 55 54
  let n := if bit w 56 then 2 else 1
  let i : Option Instr :=
    if 0x18 ≤ op && op ≤ 0x1D then decodeV d op w w1
    else if op == 0x0B then do
      let rdr ← decHRef (bits w 53 32)
      if bit w 56 && bits w1 30 0 == 0 && ety == (if bit w 26 then 2 else 0) then
        some (.cvtMm d { rdr := rdr, ta := bits w 31 30, tb := bits w 29 28, acc := bit w 27, clr := bit w 26,
                         mod := bits w 25 20, k := bits w 19 8 + 1, g := bits w 7 0 + 1, xoff := bits w1 63 48,
                         woff := bits w1 47 32, narrow := bit w1 31 }) else none
    else if 0x38 ≤ op && op ≤ 0x3B then do
      let f ← decA (op == 0x3B) w w1
      match op with
      | 0x38 => if ety == 0 && !f.w64 then some (.atAddM d f) else none
      | 0x39 => if ety == 3 then some (.atAddI d f) else none
      | 0x3A => if ety == 1 && !f.w64 then some (.atAddF d f) else none
      | _ => if ety == 3 then some (.atCas d f) else none
    else if ety != 0 then none
    else if op == 0x0C then do
      let rdr ← decHRef (bits w 53 32)
      if bit w 56 || bits w 29 27 != 0 || bits w 25 0 != 0 then none
      else some (.cvtDrain d rdr (bits w 31 30) (bit w 26))
    else if op ≤ 0x12 || (0x20 ≤ op && op ≤ 0x28) || op == 0x49 then decodeM d op w w1
    else if op == 0x30 then (decS false w w1).map (Instr.sLd d)
    else if op == 0x31 then (decS false w w1).map (Instr.sSt d)
    else if op == 0x32 then (decS true w w1).map (Instr.sPut d)
    else if op == 0x33 then (decS false w w1).map (Instr.sGet d)
    else if op == 0x34 then (decW w w1).map (Instr.winOpen d)
    else if op == 0x35 then do
      let rm ← decHRef (bits w 53 32)
      if bit w 56 && bits w 31 0 == 0 && bits w1 63 42 == 0 && bits w1 29 0 == 0 then some (.winClose d rm (bits w1 41 30)) else none
    else decodeK d op w w1
  i.map (fun x => (x, n))

end Sys2Proof
end

