-- ==== Sys2Proof/Machine/Keccak.lean ====
section
/-! DEFINITION. SHAKE128 (FIPS 202), by which the Expander regenerates the a halves of keys (R107).
The function itself is defined by FIPS 202, not by a rule of the manual (PRESUMED, log entry 8). -/

namespace Sys2Proof.Machine

/-- The round constants of Keccak-f[1600]. -/
def keccakRC : List Nat :=
  [0x0000000000000001, 0x0000000000008082, 0x800000000000808a, 0x8000000080008000] ++
  [0x000000000000808b, 0x0000000080000001, 0x8000000080008081, 0x8000000000008009] ++
  [0x000000000000008a, 0x0000000000000088, 0x0000000080008009, 0x000000008000000a] ++
  [0x000000008000808b, 0x800000000000008b, 0x8000000000008089, 0x8000000000008003] ++
  [0x8000000000008002, 0x8000000000000080, 0x000000000000800a, 0x800000008000000a] ++
  [0x8000000080008081, 0x8000000000008080, 0x0000000080000001, 0x8000000080008008]

/-- Rotation amounts of the 25 lanes, lane x + 5y at position x + 5y. -/
def keccakRot : List Nat := [0, 1, 62, 28, 27, 36, 44, 6, 55, 20, 3, 10, 43, 25, 39, 41, 45, 15, 21, 8, 18, 2, 61, 56, 14]

/-- For each lane after the permutation step, the lane it comes from. -/
def keccakSrc : List Nat := [0, 6, 12, 18, 24, 3, 9, 10, 16, 22, 1, 7, 13, 19, 20, 4, 5, 11, 17, 23, 2, 8, 14, 15, 21]

/-- Rotation of a 64-bit lane to the left. -/
def rotl64 (x n : Nat) : Nat := ((x <<< n) % 2 ^ 64) ||| (x >>> (64 - n))

/-- One round of Keccak-f[1600] on 25 lanes. -/
def keccakRound (rc : Nat) (a : List Nat) : List Nat :=
  let l := fun i => a.getD i 0
  let c := (List.range 5).map (fun x => l x ^^^ l (x + 5) ^^^ l (x + 10) ^^^ l (x + 15) ^^^ l (x + 20))
  let d := (List.range 5).map (fun x => c.getD ((x + 4) % 5) 0 ^^^ rotl64 (c.getD ((x + 1) % 5) 0) 1)
  let t := mapIdxFrom (fun i v => v ^^^ d.getD (i % 5) 0) 0 a
  let b := keccakSrc.map (fun s => rotl64 (t.getD s 0) (keccakRot.getD s 0))
  let m := fun i => b.getD i 0
  let e := (List.range 25).map (fun i =>
    m i ^^^ ((2 ^ 64 - 1 - m (5 * (i / 5) + (i + 1) % 5)) &&& m (5 * (i / 5) + (i + 2) % 5)))
  modNth (· ^^^ rc) 0 e

/-- Keccak-f[1600]. -/
def keccakF (a : List Nat) : List Nat := keccakRC.foldl (fun s rc => keccakRound rc s) a

/-- The 168 bytes that one permutation of SHAKE128 outputs. -/
def shakeOut (a : List Nat) : Bytes := (a.take 21).flatMap (leBytes 8)

/-- Absorption of one 168-byte block. -/
def shakeAbsorb (a : List Nat) (blk : Bytes) : List Nat :=
  mapIdxFrom (fun i v => v ^^^ (if i < 21 then leNat (slice blk (8 * i) 8) else 0)) 0 a

/-- The state of SHAKE128 after it absorbed a message shorter than one block (R107 absorbs 38 bytes). -/
def shakeInit (m : Bytes) : List Nat :=
  keccakF (shakeAbsorb (List.replicate 25 0) (m ++ [0x1F] ++ zeros (166 - m.length) ++ [0x80]))

end Sys2Proof.Machine
end

