-- ==== Sys2Proof/Machine/Modular.lean ====
section
/-! DEFINITION. Modular arithmetic, transforms, automorphisms, basis conversion and the Expander
(R8, R12, R56 to R62, R79, R84, R91, R92, R107). -/

namespace Sys2Proof.Machine

/-- b^e mod m by repeated squaring; the first argument bounds the bits of e that are used. -/
def powModAux : Nat → Nat → Nat → Nat → Nat → Nat
  | 0, _, _, _, acc => acc
  | f + 1, b, e, m, acc => powModAux f (b * b % m) (e / 2) m (if e % 2 = 1 then acc * b % m else acc)

/-- b^e mod m. -/
def powMod (b e m : Nat) : Nat := powModAux (Nat.log2 e + 1) (b % m) e m (1 % m)

/-- Extended Euclid: (old r, r, old s, s) with fuel. -/
def egcd : Nat → Int → Int → Int → Int → Int × Int
  | 0, r, _, s, _ => (r, s)
  | f + 1, r, r', s, s' => if r' = 0 then (r, s) else egcd f r' (r - r / r' * r') s' (s - r / r' * s')

/-- The inverse of a modulo m, 0 when there is none. -/
def invMod (a m : Nat) : Nat :=
  let (g, s) := egcd (2 * Nat.log2 (m + 1) + 4) (a % m) m 1 0
  if g = 1 then (s % (m : Int)).toNat else 0

/-- -q^-1 mod 2^32 (R68). -/
def qNegInv (q : Nat) : Nat := (2 ^ 32 - invMod q (2 ^ 32)) % 2 ^ 32

/-- 2^64 mod q (R68). -/
def r2Of (q : Nat) : Nat := 2 ^ 64 % q

/-- REDC of R56, for any integer T at or above 0. -/
def redc (q t : Nat) : Nat :=
  let m := (t % 2 ^ 32) * qNegInv q % 2 ^ 32
  (t + m * q) / 2 ^ 32

/-- One conditional subtraction (R58). -/
def condSub (x m : Nat) : Nat := if x ≥ m then x - m else x

/-- mont_mul of R58, an exact integer. -/
def montMul (q a b : Nat) : Nat := redc q (condSub a q * condSub b q)

/-- add of R58: the low 32 bits of the exact result. -/
def addM (q a b : Nat) : Nat := condSub (a + b) (2 * q) % 2 ^ 32

/-- sub of R58: the low 32 bits of the exact result, in two's complement when it is negative. -/
def subM (q a b : Nat) : Nat :=
  let z : Int := (a : Int) + 2 * q - b
  unsignedOf 32 (if z ≥ 2 * q then z - 2 * q else z)

/-- mul of R58. -/
def mulM (q a b : Nat) : Nat := montMul q a b % 2 ^ 32

/-- mac of R58. -/
def macM (q a b c : Nat) : Nat := condSub (montMul q a b + c) (2 * q) % 2 ^ 32

/-- A modular-mode load of one memory word (R57). -/
def loadM (q u : Nat) : Nat := redc q (u * r2Of q) % 2 ^ 32

/-- A modular-mode store of one register word: canonical in [0, q) (R57). -/
def storeM (q w : Nat) : Nat := let t := redc q w; if t = q then 0 else t

/-- A scalar operand as a lazy Montgomery value (R59). -/
def scalarM (q s : Nat) : Nat := montMul q (s % q) (r2Of q % q)

/-- A read of a modular tile cell: the canonical residue of T * 2^-32 (R62). -/
def cellRead (q t : Nat) : Nat := t % q * invMod (2 ^ 32) q % q

/-- True when g has multiplicative order exactly 2N modulo q; 2N is a power of two (R8). -/
def orderIs2N (q logN g : Nat) : Bool :=
  powMod g (2 ^ (logN + 1)) q == 1 % q && powMod g (2 ^ logN) q != 1 % q

/-- The least g from a start value upwards that passes a test, within fuel. -/
def leastFrom (p : Nat → Bool) : Nat → Nat → Nat
  | 0, g => g
  | f + 1, g => if p g then g else leastFrom p f (g + 1)

/-- The root psi of R8: the smallest g in [2, q) of order exactly 2N. -/
def psiOf (q logN : Nat) : Nat := leastFrom (orderIs2N q logN) q 2

/-- The transform index k that storage position p holds in evaluation form (R12). -/
def evalIndex (logN p : Nat) : Nat := 2 ^ (logN - 8) * brv 8 (p % 256) + brv (logN - 8) (p / 256)

/-- The storage position that holds transform index k (R12). -/
def evalPos (logN k : Nat) : Nat :=
  256 * brv (logN - 8) (k % 2 ^ (logN - 8)) + brv 8 (k / 2 ^ (logN - 8))

/-- Sum over the positions of a list: the sum of f j (a_j), from position j. -/
def sumIdx (f : Nat → Nat → Nat) : Nat → List Nat → Nat
  | _, [] => 0
  | j, a :: t => f j a + sumIdx f (j + 1) t

/-- The forward transform of a limb in coefficient order, in the storage order of R12 (R8, R79). -/
def nttFwd (q logN : Nat) (a : List Nat) : List Nat :=
  let psi := psiOf q logN
  (List.range (2 ^ logN)).map (fun p =>
    let w := powMod psi (2 * evalIndex logN p + 1) q
    sumIdx (fun j x => x % q * powMod w j q) 0 a % q)

/-- The inverse transform, with the factor N^-1 (R8, R79). -/
def nttInv (q logN : Nat) (a : List Nat) : List Nat :=
  let psi := invMod (psiOf q logN) q
  let ninv := invMod (2 ^ logN) q
  (List.range (2 ^ logN)).map (fun j =>
    sumIdx (fun p x => x % q * powMod psi ((2 * evalIndex logN p + 1) * j) q) 0 a % q * ninv % q)

/-- -a mod q as R91 writes it. -/
def negMod (q a : Nat) : Nat := if a % q = 0 then 0 else q - a % q

/-- The automorphism X -> X^g of a limb in coefficient form (R91). Destination t receives the coefficient j
with j g = t or t + N modulo 2N. -/
def autoCoeff (q logN g : Nat) (a : List Nat) : List Nat :=
  let n := 2 ^ logN
  let gi := invMod g (2 * n)
  (List.range n).map (fun t =>
    let j := t * gi % (2 * n)
    if j < n then nth a j 0 % q else negMod q (nth a (j - n) 0))

/-- The automorphism X -> X^g of a limb in evaluation form (R92). -/
def autoEval (q logN g : Nat) (a : List Nat) : List Nat :=
  let n := 2 ^ logN
  (List.range n).map (fun p =>
    let k' := (((2 * evalIndex logN p + 1) * g) % (2 * n) - 1) / 2
    nth a (evalPos logN k') 0 % q)

/-- The automorphism in the form given: true is evaluation form (R93). -/
def autoLimb (ev : Bool) (q logN g : Nat) (a : List Nat) : List Nat :=
  if ev then autoEval q logN g a else autoCoeff q logN g a

/-- The product of a list of primes. -/
def prodOf (qs : List Nat) : Nat := qs.foldl (· * ·) 1

/-- conv_p of R84 at one position: sources paired with their primes. -/
def convAt (srcs : List (Nat × Nat)) (p : Nat) : Nat :=
  let qq := prodOf (srcs.map (·.1))
  (srcs.map (fun (q, x) =>
    let h := qq / q
    (x % q) * invMod (h % q) q % q * (h % p))).foldl (· + ·) 0 % p

/-- The words of a list of limbs at one position. -/
def column (limbs : List (List Nat)) (p : Nat) : List Nat := limbs.map (fun l => nth l p 0)

/-- Fast basis conversion of limbs over primes qs to one target prime (cvt.up of R84). -/
def convLimb (n : Nat) (qs : List Nat) (limbs : List (List Nat)) (p : Nat) : List Nat :=
  (List.range n).map (fun i => convAt (qs.zip (column limbs i)) p)

/-- (a - b) mod q of canonical or uncanonical words. -/
def subMod (q a b : Nat) : Nat := (a % q + q - b % q) % q

/-- cvt.down of R84 on one Q-limb: [(x_i - conv(x_P)) P^-1]. -/
def downLimb (n q : Nat) (x : List Nat) (ps : List Nat) (pl : List (List Nat)) : List Nat :=
  let pinv := invMod (prodOf ps % q) q
  (List.range n).map (fun i => subMod q (nth x i 0) (convAt (ps.zip (column pl i)) q) * pinv % q)

/-- The value of a residue taken centred in (-q/2, q/2] (R84). -/
def centred (q x : Nat) : Int := let y := x % q; if 2 * y > q then (y : Int) - q else y

/-- r of R84 for CKKS (t = 0) or BGV with plaintext modulus t. -/
def rescaleR (t q x : Nat) : Int :=
  if t = 0 then centred q x else (t : Int) * centred q (x % q * invMod (t % q) q % q)

/-- cvt.rescale of R84 in coefficient form on one remaining limb: xs is the limb, xl the dropped limb. -/
def rescaleLimb (t qi ql : Nat) (xs xl : List Nat) : List Nat :=
  let inv := invMod (ql % qi) qi
  (xs.zip xl).map (fun (x, l) =>
    ((((x : Int) - rescaleR t ql l) % (qi : Int)).toNat * inv) % qi)

/-- cvt.rescale of one remaining limb in either form: in evaluation form the words are those of a rescale in
coefficient form followed by ntt.f (R431). -/
def rescaleLimbForm (ev : Bool) (logN t qi ql : Nat) (xs xl : List Nat) : List Nat :=
  if ev then nttFwd qi logN (rescaleLimb t qi ql (nttInv qi logN xs) (nttInv ql logN xl))
  else rescaleLimb t qi ql xs xl

/-- Rejection sampling of R107: words accepted below q from a squeezed byte string. -/
def expandTake (q b : Nat) : List Nat → List Nat
  | [] => []
  | u :: us => let v := u % 2 ^ b; if v < q then v :: expandTake q b us else expandTake q b us

/-- The 42 candidates of one permutation (R108). -/
def shakeWords (st : List Nat) : List Nat :=
  (st.take 21).flatMap (fun l => [l % 2 ^ 32, l / 2 ^ 32])

/-- Squeezing until n words are accepted, within fuel permutations (log entry 10). -/
def expandLoop (q b : Nat) : Nat → List Nat → Nat → List Nat
  | 0, _, _ => []
  | f + 1, st, n =>
    let w := expandTake q b (shakeWords st)
    if w.length ≥ n then w.take n else w ++ expandLoop q b f (keccakF st) (n - w.length)

/-- The first n accepted values below q of the Expander for a 38-byte string (R107). -/
def expand (msg : Bytes) (q n : Nat) : List Nat :=
  expandLoop q (Nat.log2 q + 1) (64 * n + 64) (shakeInit msg) n

/-- SEED, k, i, LOG_N, KEY_KIND as the 38 bytes of R107. -/
def expandMsg (seed : Bytes) (k i logN kind : Nat) : Bytes :=
  slice seed 0 32 ++ leBytes 2 k ++ leBytes 2 i ++ leBytes 1 logN ++ leBytes 1 kind

/-- Pointwise product-sum of two limb lists modulo q: the sum over k of x_k y_k. -/
def dotLimbs (n q : Nat) (xs ys : List (List Nat)) : List Nat :=
  (List.range n).map (fun i => ((column xs i).zip (column ys i)).foldl (fun s (a, b) => s + a % q * (b % q)) 0 % q)

/-- Pointwise combination of two limbs. -/
def zipMod (f : Nat → Nat → Nat) (xs ys : List Nat) : List Nat := (xs.zip ys).map (fun (a, b) => f a b)

/-- (a + b) mod q. -/
def addMod (q a b : Nat) : Nat := (a + b) % q

/-- (a * b) mod q. -/
def mulMod (q a b : Nat) : Nat := (a % q) * (b % q) % q

/-- Deterministic primality by trial division within fuel (R31). -/
def primeAux : Nat → Nat → Nat → Bool
  | 0, _, _ => true
  | f + 1, d, n => if d * d > n then true else if n % d = 0 then false else primeAux f (d + 1) n

/-- Primality of a 32-bit value (R31: the test is deterministic for all 32-bit values). -/
def isPrime (n : Nat) : Bool := n ≥ 2 && primeAux 65536 2 n

/-- ⌊x · a / b⌉ mod a with halves rounded up: the modulus switch of R132 and R135. -/
def switchMod (a b x : Nat) : Nat := (2 * x * a + b) / (2 * b) % a

end Sys2Proof.Machine
end

