-- ==== Sys2Proof/Config.lean ====
section
/-! DEFINITION. What one module fixes, and the values the manual leaves open. Every constant here has no body, so no
proof can see its value. -/

namespace Sys2Proof.Config

/-- A fresh 64-bit free value; the argument is State.freeCtr (log entry 1). -/
opaque freeWord : Nat → DWord
/-- A fresh byte string of a length; the first argument is State.freeCtr (log entry 1). -/
opaque freeBytes : Nat → Nat → Bytes
/-- The skew of a level's split counter against the module's, by level code and unit; its value modulo 3 is used (R46). -/
opaque skew : Nat → Nat → Nat
/-- The unique device secret of this module (R361). -/
opaque uds : Bytes
/-- The 16-byte serial number of this module (R260, R423). -/
opaque serial : Bytes
/-- The DeviceID public key derived from the UDS, MR0 and LC_STATE (R372). -/
opaque devicePub : Bytes → Bytes → Nat → Bytes
/-- The DeviceID certificate installed before shipment (R373, R427). -/
opaque deviceCert : Bytes
/-- The first 17,408 bytes of the factory image of a class (R364, R427). -/
opaque factoryHead : Nat → Bytes
/-- The body of the factory image of a class (R364, R427). -/
opaque factoryBody : Nat → Bytes
/-- The 48-byte measurement of the boot ROM (R370). -/
opaque romDigest : Bytes
/-- The key hash that ROM holds for an image KEY_SET (R366). -/
opaque imageKeyHash : Nat → Bytes
/-- The hash of lifecycle token key pair i (R366). -/
opaque tokenKeyHash : Nat → Bytes

/-- The start windows that the RSP grants (R356): base, bytes, permission (1 read, 2 write, 3 both), requester; the model takes
at most 16. -/
opaque startWindows : List (Nat × Nat × Nat × Nat)
/-- The reserved map that step 8 of a start-up lays out in HBM: base and bytes of each range (R400). -/
opaque reservedMap : List (Nat × Nat)

/-- The RSP's regions of HBM, which debug does not reach (R390): base and bytes of each range. -/
opaque rspRegions : List (Nat × Nat)

/-- RSASSA-PSS verification (R365, R366): RSA_N and RSA_E, message, signature. -/
opaque rsaPss : Bytes → Bytes → Bytes → Bool
/-- SLH-DSA-SHA2-192s verification (R365, R366): public key, message, signature. -/
opaque slhDsa : Bytes → Bytes → Bytes → Bool
/-- The Alias certificate that the DeviceID key issues for a firmware summary and MIN_SVN (R373): UDS, MR0, LC_STATE,
summary, MIN_SVN. -/
opaque aliasCert : Bytes → Bytes → Nat → Bytes → Nat → Bytes
/-- The certificates of the Trothen root and device CA in slot 0 (R373). -/
opaque caChain : Bytes
/-- The verification data of FINISH for a session secret (R374). -/
opaque finishMac : Bytes → Bytes
/-- The shared secret that the Alias decapsulation key gives for an ML-KEM ciphertext, none where decapsulation fails
(R372, R377): UDS, summary, ciphertext. -/
opaque kemDecaps : Bytes → Bytes → Bytes → Option Bytes
/-- The session secret after KEM_MIX (R377): old secret, shared secret. -/
opaque kemSecret : Bytes → Bytes → Bytes
/-- The session secret after KEY_UPDATE (R374). -/
opaque keyUpdate : Bytes → Bytes
/-- AES-256-GCM decryption (R380): key, IV, AAD, ciphertext, tag; none where the tag fails. -/
opaque gcmOpen : Bytes → Bytes → Bytes → Bytes → Bytes → Option Bytes

/-- Words of limb `limb` of component `comp` of output `out` of a Vault routine on a parameter-set record, as a function of
the input bytes (R125 to R138); the module writes them reduced to canonical words. -/
opaque vaultWords : Nat → Bytes → Bytes → Nat → Nat → Nat → List Nat
/-- Words of component `comp` (0 the a half, 1 the b half) of the accumulator after one CMux step of blind rotation (R135): the
record, the rows of the RGSW ciphertext, the LWE coefficient modulo 2N_br, the accumulator before. -/
opaque cmuxWords : Bytes → List (List Nat × List Nat) → Nat → List Nat × List Nat → Nat → List Nat
/-- Noise figure n_vault of a routine for a record and slot count, in 1/16 bit (R128, R137, R138). -/
opaque vaultNoise : Nat → Bytes → Nat → Nat
/-- SCALE_LOG2 figure of a routine for a record and slot count (R137, R326); that of VLT_REPACK is its output's. -/
opaque vaultScale : Nat → Bytes → Nat → Nat
/-- Vault key list of a routine for a record and slot count: KEY_KIND and GALOIS of each key (R127, R331). -/
opaque vaultKeys : Nat → Bytes → Nat → List (Nat × Nat)
/-- Module ticks an inserted VLT_BOOT takes for a record and slot count (R121, R289). -/
opaque vaultTicks : Bytes → Nat → Nat
/-- Words of limb `limb` of component `comp` of a BFV scale-invariant product, from the operand bodies (R226). -/
opaque bfvWords : Bytes → Nat → Bytes → Bytes → Nat → Nat → List Nat
/-- The translator's count in ck of each stage, in the order of the stage.begin instructions, by the program's measurement, the PSH
of its parameter set and the translator's measurement, for a shape (the cores in service on each Relay); none where the table has
no such shape or a count is not finite, as for a routine that has none (R247, R297). -/
opaque stageCk : Bytes → Bytes → Bytes → List Nat → Option (List Nat)
/-- Keys that a program's ks.ip instructions read, by the same translation key: index of the ks.ip, key set, kind and Galois
element (R247, R298). -/
opaque stageKeys : Bytes → Bytes → Bytes → List (Nat × Nat × Nat × Nat)
/-- The die on which the translator places a key switch of a placement on both dies (R102): program measurement, PSH, translator
measurement, index of the ks.ip; its value modulo 2 is used. -/
opaque ipDie : Bytes → Bytes → Bytes → Nat → Nat
/-- Bytes that the translation of a key takes in the translation cache (R249). -/
opaque translationSize : Bytes → Nat
/-- CLASS of the error record of a start fault, by the UNIT_KIND of the failing unit: R401 states none. -/
opaque startFaultClass : Nat → Nat
/-- ACTION of the error record of a start fault, by the UNIT_KIND of the failing unit: R401 states none. -/
opaque startFaultAction : Nat → Nat
/-- How many of the oldest messages in the retransmit buffer of a port have been acknowledged when the next is sent (R256, R269),
by the number of the free value. -/
opaque acked : Nat → Nat
/-- A choice the manual leaves to the moment of an abort: whether word n of a cut-off destination is new (R308). -/
opaque tornPick : Nat → Nat → Bool
/-- How far an instruction in flight has come when a stop reaches its engine (R96), by the number of the free value and the
place of the instruction in flight. -/
opaque stopPick : Nat → Nat → Nat
/-- Where the save frames of a die begin in device physical memory (R293): the save region lies outside every device virtual
address space, and the manual gives no address. -/
opaque frameBase : Nat → Nat
/-- Words of the a-half limb that the Expander has delivered when a stop reaches ks.ip (R109), by the number of the free
value. -/
opaque expWords : Nat → Nat

end Sys2Proof.Config
end

