-- ==== Sys2Proof/Machine/State.lean ====
section
/-! DEFINITION. The state of one AZ-960 module as plain data, the reasons a step can stop, and the state after reset. -/

namespace Sys2Proof.Machine

/-- Why the model stops with a fault. -/
inductive Fault where
  /-- The input voltage lies beyond the absolute maximum ratings, where no rule of the manual holds (R424).
  Raised by INPUT_TRIP. Safe: the model stops where the manual gives no behaviour. -/
  | ratingsExceeded
  deriving DecidableEq, Repr

/-- Why a step has no meaning. -/
inductive Refusal where
  /-- The command has no meaning in the model yet. Raised by the arms of exec that say so. Safe. -/
  | notModelled (mnemonic : String)
  deriving DecidableEq, Repr

/-- The fault codes of R5. -/
inductive FaultCode where
  | keyMismatch | noiseExhausted | levelUnderflow | descInvalid | descAlias | pageNotPresent | accessDenied
  | residueCheck | eccUncorrectable | linkLost | handoffTimeout | handoffTag | creditViolation | aborted
  | admissionDenied | txnConflict | paramRefused | handleStale
  deriving DecidableEq, Repr

/-- The status bytes of R6. -/
inductive Status where
  | ok | notReady | released | busy | denied
  deriving DecidableEq, Repr

/-- A sparse byte memory: address and byte, addresses strictly rising, no byte 0 listed. An unlisted byte reads 0. -/
abbrev Mem := List Host.Cell

/-- A line of a memory-side cache (R184 to R186), a device line or a companion line (R314). `line` is the device
physical address divided by 64. -/
structure CacheLine where
  line : Nat
  keep : Bool
  dirty : Bool
  data : Bytes
  deriving DecidableEq, Repr

/-- A scratchpad: contents, the 1 KiB blocks whose written bit is set (R173), the blocks marked poisoned (R74). -/
structure Scratch where
  data : Mem
  written : List Nat
  marked : List Nat
  deriving DecidableEq, Repr

/-- One mapped segment (R172): unit, context, the dispatch whose SCRATCH segment it is, logical and physical
number, and whether it is HELD. -/
structure SegMap where
  unit : Nat
  ctx : Nat
  owner : Option DRef
  logical : Nat
  phys : Nat
  held : Bool
  deriving DecidableEq, Repr

/-- A cached translation (R346): the unit that holds it, context, page base and size, physical page, permissions,
and the table lines it was derived from. -/
structure Xlate where
  unit : XUnit
  ctx : Nat
  va : Nat
  size : Nat
  pa : Nat
  rd : Bool
  wr : Bool
  lines : List Nat
  deriving DecidableEq, Repr

/-- The memories and the maps over them. Core n's Core Store starts at n * 2^21 of `cs`, its operand buffer b at
(4 n + b) * 2^16 of `ob`, die d's Infield Store at d * 2^28 of `inf`. -/
structure MemState where
  hbm : Mem
  hbmMarked : List Nat
  cache : List CacheLine
  comp : Mem
  cs : Scratch
  ob : Scratch
  inf : Scratch
  csMap : List SegMap
  ifMap : List SegMap
  xlate : List Xlate
  reserved : List (Nat × Nat)
  deriving DecidableEq, Repr

/-- The mode that last wrote a tile (R83, R88): moduli are indices into the active ring configuration. -/
inductive TileMode where
  | none
  | matrix (i : Nat)
  | element (i : Nat)
  | basis (t0 : Nat)
  | clear
  deriving DecidableEq, Repr

/-- An accumulator tile: 512 cells of 72 bits, column-major (cell j in row j mod 32 and column j / 32, R87), the
product count of each cell (R61), and the mode that last wrote it. An empty list reads as zeros. -/
structure Tile where
  cells : List (BitVec 72)
  counts : List Nat
  mode : TileMode
  deriving DecidableEq, Repr

/-- The registers of one Stride core (R50): sparse, an unlisted register holds zeros. The flag lists name the
registers whose flag is set (R53, R74). `ck3` is the ck counter in thirds of a ck. -/
structure CoreRegs where
  v : List (Nat × List Word)
  s : List (Nat × DWord)
  l : List (Nat × Word)
  a : List (Nat × Tile)
  useV : List Nat
  useA : List Nat
  poisV : List Nat
  poisA : List Nat
  poisS : List Nat
  status : Word
  gate : Bool
  ck3 : Nat
  lastCtx : Option Nat
  deriving DecidableEq, Repr

/-- A Mark (R242). -/
structure Mark where
  alloc : Bool
  sat : Bool
  hostSig : Bool
  peerSig : Bool
  owner : Nat
  value : Nat
  deriving DecidableEq, Repr

/-- Who sends a Mark signal over the Mark network (R245). Host and peer signals reach their Mark at once. -/
inductive SigAgent where
  | program (d : DRef) (epoch : Nat)
  | starter
  deriving DecidableEq, Repr

/-- A Mark signal on its way (R243, R245): module Mark number, amount, signalling context, agent. -/
structure MarkSig where
  mark : Nat
  amount : Nat
  ctx : Nat
  agent : SigAgent
  deriving DecidableEq, Repr

/-- A descriptor table entry (R149, R152). -/
structure DescEntry where
  valid : Bool
  gen : Nat
  raw : Bytes
  deriving DecidableEq, Repr

/-- A loaded key object (R328, R348): kind, Galois element, device virtual address, header, body length, and the
physical 64 KiB frames recorded at load, in address order. -/
structure KeyObj where
  kind : Nat
  galois : Nat
  va : Nat
  header : Bytes
  bodyLen : Nat
  frames : List Nat
  deriving DecidableEq, Repr

/-- A loaded key set (R328). -/
structure KeySet where
  id : Nat
  keys : List KeyObj
  meas : Bytes
  deriving DecidableEq, Repr

/-- A footprint segment of a program (R213). `core` tells a Core Store segment from an Infield one. -/
structure FootSeg where
  seg : Nat
  core : Bool
  held : Bool
  deriving DecidableEq, Repr

/-- A key named by key set, kind and Galois element (R213). -/
structure KeyName where
  keyset : Nat
  kind : Nat
  galois : Nat
  deriving DecidableEq, Repr

/-- A loaded program (R212 to R216): instruction words, entry index, literal handles bound to generations,
footprint, key pins, AUTO_VAULT flag, measurement, translator measurement. -/
structure Program where
  num : Nat
  code : List DWord
  entry : Nat
  binds : List (Nat × Nat)
  foot : List FootSeg
  pins : List KeyName
  autoVault : Bool
  meas : Bytes
  translator : Bytes
  deriving DecidableEq, Repr

/-- One entry of the load log (R376). -/
structure LoadEntry where
  kind : Nat
  program : Nat
  keyset : Nat
  meas : Bytes
  translator : Bytes
  ticks : Nat
  deriving DecidableEq, Repr

/-- A context (R331): the context-table entry and what belongs to the context. Unlisted descriptor entries are
FREE with generation 1 (R149). `oldMarks` holds the Marks that leave the range (R429), `vaultScratch` the bodies of the
refreshed copies that AUTO_VAULT wrote last into the context's Vault scratch area (R121). -/
structure Ctx where
  num : Nat
  secClass : Nat
  tenant : Nat
  param : Bytes
  psh : Bytes
  ptRoot : Nat
  descEntries : Nat
  descs : List (Nat × DescEntry)
  quotaQueues : Nat
  quotaPrograms : Nat
  quotaKeyMib : Nat
  heldLost : Bool
  heldLostCount : Nat
  measCount : Nat
  measChain : Bytes
  log : List LoadEntry
  keysets : List KeySet
  programs : List Program
  handoffSeq : Nat
  weightsKeys : List (Nat × Bytes)
  weightsUsed : Bool
  frozen : List (Nat × Bytes)
  sealed : List Nat
  oldMarks : List Nat
  vaultScratch : List Bytes
  deriving DecidableEq, Repr

/-- A piece of physical memory: space tag (0 device physical, 1 Core Store, 2 operand buffer, 3 Infield Store), address
in the space, length, the cache hint of a device access, and the device virtual address that was translated to it. -/
structure Span where
  sp : Nat
  addr : Nat
  len : Nat
  hint : Nat
  va : Option Nat
  deriving DecidableEq, Repr

/-- What an instruction reads and writes (R77): vector registers, tiles, scalars, byte ranges, the loop registers it reads, and
the resident key copy that it reads, by its number (R113). -/
structure Use where
  rv : List Nat
  wv : List Nat
  rt : List Nat
  wt : List Nat
  rs : List Nat
  ws : List Nat
  rd : List Span
  wr : List Span
  rl : List Nat
  copy : Option Nat
  deriving DecidableEq, Repr

/-- Where the other side of a stream lies: a register group or what a descriptor names. -/
inductive Place where
  | regs (first : Nat)
  | desc (raw : Bytes)
  deriving DecidableEq, Repr

/-- The kinds of stream (R207). -/
inductive StreamKind where
  | ld | st | put | get
  deriving DecidableEq, Repr

/-- The states of a stream (R202). -/
inductive StreamState where
  | running | haltPage | haltCredit | haltEmpty | stopped
  deriving DecidableEq, Repr

/-- One unit of a stream (R196): its first element and how many it moves. -/
structure SUnit where
  first : Nat
  count : Nat
  deriving DecidableEq, Repr

/-- A stream slot (R192, R207). `mem` is the memory side's descriptor and `other` the other side; `primes` gives the
prime of each run of `limbWords` words for a converting stream; `nextReq` is the dispatch ck (in thirds) before which no
CR_REQ is sent (R202); `reqOpen` tells that a CR_REQ has no answer yet; `port` is the Baton port that carries the open
request or grant (R267); the grant fields are those of the open grant, whose blocks `gFirst` to `gFirst + gCount - 1` carry
the units from `gBase`. -/
structure Stream where
  slot : Nat
  kind : StreamKind
  state : StreamState
  instr : Nat
  mem : Bytes
  other : Place
  conv : Bool
  primes : List Nat
  limbWords : Nat
  count : Nat
  units : List SUnit
  done : Nat
  faultVa : Nat
  epoch : Nat
  tmod : Option Nat
  tcore : Nat
  window : Nat
  grant : Nat
  gFirst : Nat
  gCount : Nat
  gSent : Nat
  gRet : Nat
  gBase : Nat
  reqOpen : Bool
  port : Option Nat
  noWindow : Bool
  nextReq : Nat
  use : Use
  deriving DecidableEq, Repr

/-- What a destination held before an instruction wrote it: where it lies, its bytes, and the blocks of it that were marked,
as space and block. -/
structure Was where
  at_ : List Span
  data : Bytes
  marks : List (Nat × Nat)
  deriving DecidableEq, Repr

/-- An instruction in flight (R77): its index, its engine (0 NTT, 1 automorphism unit, 2 converter array, 3 vector engine,
4 Transposer, 5 the path of atomics, 6 a Vault call, 7 a stream that waits for a slot, 8 the answer copy of handoff.in by the
stream units), what it reads and writes, what its destinations without a header and the headers of its destinations held,
whether a destination is also a source (R227), the bytes of a limb of its destination, how many stop points it has (R96:
limbs, tile groups, k-steps or staged tiles; 0 where it completes once started) and the one it started from, the registers it
wrote as they were, the descriptors of its object destinations in the order of `heads`, and the Vault calls and ticks counted
for it (R121). -/
structure InFlight where
  instr : Nat
  engine : Nat
  use : Use
  body : List Was
  heads : List Was
  inPlace : Bool
  limb : Nat
  points : Nat
  start : Nat
  before : CoreRegs
  objs : List Bytes
  calls : Nat
  ticks : Nat
  deriving DecidableEq, Repr

/-- An instruction that a stop has left to be issued again (R96, R208): its index and engine, the point it has reached (none
where it had not started and was withdrawn), the words of the a-half limb already delivered (R109), and the page that it
waits for once it is issued again. -/
structure Redo where
  instr : Nat
  engine : Nat
  point : Option Nat
  words : Nat
  page : Option Nat
  deriving DecidableEq, Repr

/-- An object destination that an instruction has begun and not finished (R169, R308): the instruction, the destination's
descriptor, and the header that the result would carry. -/
structure Begun where
  instr : Nat
  raw : Bytes
  hdr : Bytes
  deriving DecidableEq, Repr

/-- What a stop saves of the lead core: the registers of the register save record (R55), and the operand buffers OB1 to OB3,
offsets from the first (R295). -/
structure Frame where
  regs : CoreRegs
  ob : Scratch
  deriving DecidableEq, Repr

/-- An active lap (R236, R237). -/
structure LapState where
  ln : Nat
  count : Nat
  start : Nat
  target : Nat
  pendingVal : Option Nat
  depth : Nat
  deriving DecidableEq, Repr

/-- What a dispatch waits for (R244, R145). `start` is the tick at which the wait began, `left` the timeout that
remains from it, none for no limit. -/
inductive WaitState where
  | mark (sd mark threshold start : Nat) (left : Option Nat)
  | handoff (slot : Nat) (dst : Bytes) (start timeout : Nat)
  | answer (slot : Nat)
  | page (instr page : Nat)
  deriving DecidableEq, Repr

/-- A request that a dispatch's handoff.out placed in a slot (R142, R143): its SEQ and TAG, the key set and scheme of the
request, and the module Mark and value that end the wait. -/
structure HandSlot where
  slot : Nat
  seq : Nat
  tag : Nat
  keyset : Nat
  scheme : Nat
  mark : Nat
  value : Nat
  deriving DecidableEq, Repr

/-- The stage state of a dispatch (R206). -/
inductive StageState where
  | between | inStage | ending
  deriving DecidableEq, Repr

/-- The life of a dispatch. -/
inductive Phase where
  | waiting | running | saved | ended
  deriving DecidableEq, Repr

/-- The classes (R291). -/
inductive Class3 where
  | sprint | middle | distance
  deriving DecidableEq, Repr

/-- The outcome that won the commit point (R307), before the Starter has written it: COMPLETED 1 or ABORTED 2, the
FAULT, CAUSE and FAULT_INSTR of R289. -/
structure Fate where
  outcome : Nat
  fault : Nat
  cause : Nat
  instr : Nat
  deriving DecidableEq, Repr

/-- A dispatch (R286 to R309). `fin` tells that ret has ended the program; `redo` lists in program order what a stop left to be
issued again; `begun` lists the object destinations begun and not finished by what is not in flight; `frames` lists the save
frames held, as core and number on its die (R293); `kept` holds the descriptors that an instruction halted on a page resolved at
issue, by handle (R151). `stageAt` and `stageCk3` tell the stage that runs, by the index of its stage.begin, and the thirds of a
ck at its begin; `doneCk` and `runCk` hold the table's and the run counts of the stages that ended in the current measurement
window, and `slow` since when the measured rate has been low (R306). -/
structure Dispatch where
  id : DRef
  ctx : Nat
  prog : Program
  cls : Class3
  record : Bytes
  cfg : List (Nat × Int)
  markBase : Nat
  markCount : Nat
  tDoorbell : Nat
  tStart : Option Nat
  waitSince : Nat
  relays : List Nat
  cores : List Nat
  epoch : Nat
  phase : Phase
  pc : Nat
  calls : List Nat
  laps : List LapState
  wait : Option WaitState
  stage : StageState
  stageNum : Nat
  stageAt : Nat
  stageCk3 : Nat
  doneCk : Nat
  runCk : Nat
  slow : Option Nat
  streams : List Stream
  inflight : List InFlight
  ringPend : Option Bool
  redo : List Redo
  begun : List Begun
  frame : Option Frame
  frames : List (Nat × Nat)
  kept : List (Nat × Bytes)
  firstPoison : Option (FaultCode × Nat)
  slots : List HandSlot
  stale : Nat
  torn : Nat
  migrations : Nat
  preempts : Nat
  vaultCalls : Nat
  vaultTicks : Nat
  bound : Nat
  void : Bool
  ck3 : Nat
  lastMove : Nat
  redivide : Bool
  abortLate : Bool
  fin : Bool
  fate : Option Fate
  deriving DecidableEq, Repr

/-- A result-store entry (R338, R339). -/
inductive Result where
  | pending
  | written (rec : Bytes)
  | released
  deriving DecidableEq, Repr

/-- A queue (R286, R338). `consumed` counts records read since creation; `bells` holds the tick at which each
sequence number was doorbelled; `alive` is false once it is destroyed. -/
structure Queue where
  num : Nat
  ctx : Nat
  cls : Class3
  ringVa : Nat
  k : Nat
  prod : Nat
  consumed : Nat
  bells : List (Nat × Nat)
  results : List (Nat × Result)
  alive : Bool
  deriving DecidableEq, Repr

/-- A block state of a receive window (R177); `used` is a FULL block that has been consumed and becomes EMPTY once every lower
block of its grant has been. -/
inductive BlockState where
  | empty | full | used
  deriving DecidableEq, Repr

/-- A receive window (R230): its context and dispatch, base (logical offset) and swizzle mode, blocks with their state, the
accepted senders, the arrival Mark (module Mark number). -/
structure Window where
  num : Nat
  ctx : Nat
  owner : DRef
  base : Nat
  swz : Nat
  blocks : List BlockState
  scoreLo : Nat
  scoreHi : Nat
  smod : Option Nat
  mark : Option Nat
  epoch : Nat
  deriving DecidableEq, Repr

/-- An open grant at its manager (R178, R267): number, window, sender, first block, count, which blocks have been
put, how many are returned, tick of the last PUT or CR_RETURN, the port that carries it. -/
structure Grant where
  num : Nat
  window : Nat
  sender : Sender
  first : Nat
  count : Nat
  puts : List Nat
  returned : Nat
  lastTick : Nat
  port : Option Nat
  deriving DecidableEq, Repr

/-- A credit manager (R177, R181). -/
structure Manager where
  windows : List Window
  grants : List Grant
  nextGrant : Nat
  cancelCount : Nat
  staleCount : Nat
  deriving DecidableEq, Repr

/-- The life of a resident key copy (R111, R113): it waits for room, is being made, serves ks.ip, or is evicted and keeps its
space until the last ks.ip that reads it ends. -/
inductive CopyStage where
  | waiting | copying | ready | evicted
  deriving DecidableEq, Repr

/-- A resident key copy (R110, R112): its bytes, how far it is, pin by KEY_PIN, dispatches that pin it, order of admission, and
what it holds: the key header and the whole body, with a mark of poison. -/
structure KeyCopy where
  die : Nat
  ctx : Nat
  key : KeyName
  bytes : Nat
  stage : CopyStage
  pinned : Bool
  users : List DRef
  order : Nat
  data : Bytes
  marked : Bool
  deriving DecidableEq, Repr

/-- A reuse score (R111): reads in the last complete window and in the current one. -/
structure KeyScore where
  die : Nat
  ctx : Nat
  key : KeyName
  last : Nat
  cur : Nat
  deriving DecidableEq, Repr

/-- What the Starter measures on a die: the ticks at which its current windows of RES_WINDOW and PLACE_WINDOW began, the bytes
that key streams read from HBM in the latter, and how many a tick in the last complete one (R111, R306). -/
structure Meter where
  resSince : Nat
  placeSince : Nat
  keyCur : Nat
  keyRate : Nat
  deriving DecidableEq, Repr

/-- A page that requesters wait for (R349): context and page address; whether the entry walked was FILL; whether the
Marshal has started to act; where the entry lies and what it held; whether a WAITING record was posted, the tick of the
first record and the wait in force then (R351); the tick of the last walk; and the first requester, its unit, dispatch and
access. -/
structure PageWait where
  ctx : Nat
  page : Nat
  fill : Bool
  started : Bool
  entryPa : Nat
  entry : Nat
  posted : Bool
  since : Nat
  limit : Nat
  lastWalk : Nat
  req : Nat
  unit : Nat
  who : DRef
  acc : Access
  va : Nat
  deriving DecidableEq, Repr

/-- A host window (R316). -/
structure HWin where
  ctx : Nat
  va : Nat
  size : Nat
  rd : Bool
  wr : Bool
  deriving DecidableEq, Repr

/-- A refusal status register (R320): HOST_SIG_STATUS and HWIN_STATUS_w. -/
structure RefStatus where
  lastFault : Nat
  refused : Nat
  deriving DecidableEq, Repr

/-- A response (R323). -/
structure MbRsp where
  opcode : Nat
  status : Status
  fault : Option FaultCode
  seq : Nat
  detail : Nat
  ticks : Nat
  payload : Bytes
  deriving DecidableEq, Repr

/-- What a mailbox command in progress waits for. -/
inductive MbWait where
  | leave
  | ack (tag : Nat)
  | abort (d : DRef)
  | spdm (ctx : Option Nat) (msg : Bytes)
  | fwSwap (cls : Nat)
  | keyCopy
  deriving DecidableEq, Repr

/-- A mailbox (R319, R320, R323): slots, flags, and the command in progress with its opcode, SEQ and interrupt
flag. -/
structure Mailbox where
  req : Bytes
  rsp : Option MbRsp
  busy : Bool
  done : Bool
  overrun : Bool
  wait : Option MbWait
  opcode : Nat
  seq : Nat
  irq : Bool
  deriving DecidableEq, Repr

/-- A configuration transaction (R334): number, tick and order of its CFG_BEGIN, staged entries. -/
structure Txn where
  num : Nat
  tick : Nat
  order : Nat
  staged : List ((Nat × Nat) × Int)
  deriving DecidableEq, Repr

/-- Settings (R333 to R337): values in force that differ from the default, decided values not yet in effect, open
transactions, the last change order of each setting, counters. -/
structure CfgState where
  values : List ((Nat × Nat) × Int)
  decided : List ((Nat × Nat) × Int)
  txns : List Txn
  changes : List ((Nat × Nat) × Nat)
  lastTxn : Nat
  order : Nat
  deriving DecidableEq, Repr

/-- The event ring and its buffers (R325, R318, R356). -/
structure EventState where
  base : Nat
  log2 : Nat
  on : Bool
  prod : Nat
  cons : Nat
  lost : Nat
  seq : Nat
  held : List Bytes
  heldIrq : List Nat
  boot : List Bytes
  mirrorSeq : Nat
  mirrorTick : Nat
  deriving DecidableEq, Repr

/-- The states of a Baton port (R253). -/
inductive PortSt where
  | disabled | down | training | ident | attest | admitting | active | refused | leaving
  deriving DecidableEq, Repr

/-- A Baton port (R254, R258, R260): its state, what the peer's IDENT and attestation said, whether each end has said that it
admits the other, the counts and cause of PORT_STATUS, the tick of the last change of state, the die tick of the last good
message, and the failures of the flit being retried. -/
structure Port where
  st : PortSt
  peer : Nat
  peerSerial : Bytes
  peerKey : Bytes
  peerJoined : Bool
  peerSystem : Nat
  attested : Option AttestResult
  peerAdmits : Bool
  told : Bool
  retry : Nat
  downs : Nat
  cause : Nat
  since : Nat
  lastGood : Nat
  flitFails : Nat
  deriving DecidableEq, Repr

/-- A peer Mark signal that waits for its acknowledgement (R268). -/
structure PeerSig where
  tag : Nat
  port : Nat
  mailbox : Nat
  deriving DecidableEq, Repr

/-- System membership (R259). -/
structure SystemState where
  joined : Bool
  systemId : Nat
  modNum : Nat
  anchor : Bytes
  digests : List Bytes
  leaving : Option Nat
  peerSigs : List PeerSig
  nextTag : Nat
  deriving DecidableEq, Repr

/-- The states of a collective (R279). -/
inductive CollSt where
  | setup | idle | running | reforming | orphaned | failed
  deriving DecidableEq, Repr

/-- A chunk that a collective unit holds (R274, R278): the neighbour it came from, its index, its words on the wire, and
whether it travels marked. -/
structure Chunk where
  from_ : Nat
  index : Nat
  words : List Nat
  marked : Bool
  deriving DecidableEq, Repr

/-- A collective at this member (R271, R279): record, state, rounds committed, current member set, the neighbours that have
answered the set-up with the modules below each (R273, R282), and of the current attempt the chunks held, those done here,
those sent to each child, the buffers each neighbour lends, the members that acknowledged (R274), and whether a marked chunk
was written; `lent` tells that the member is armed for the attempt and has lent its own buffers, `since` is the tick at which the
wait of R283 began. -/
structure Coll where
  ref : CRef
  record : Bytes
  st : CollSt
  fault : Option FaultCode
  attempt : Nat
  round : Nat
  members : Nat
  answered : List (Nat × Nat)
  chunks : List Chunk
  doneChunks : List Nat
  sentDown : List (Nat × Nat)
  credits : List (Nat × Nat)
  acks : List Nat
  poisoned : Bool
  lent : Bool
  since : Nat
  deriving DecidableEq, Repr

/-- Module power states (R398, R400 to R402). -/
inductive ModState where
  | off
  | standby
  | starting (step : Nat)
  | restEntry
  | rest
  | restWake
  | up
  | startFault
  | bootRecovery
  deriving DecidableEq, Repr

/-- Field power states (R403). -/
inductive FieldSt where
  | off | sleep | warm | run
  deriving DecidableEq, Repr

/-- Phases of a Field (R355). -/
inductive FieldPhase where
  | service | recovery | test
  deriving DecidableEq, Repr

/-- A Field (R399, R403, R417). -/
structure FieldState where
  st : FieldSt
  entering : Option FieldSt
  waking : Bool
  step : Nat
  toStep : Option Nat
  powerW : Nat
  tj : Nat
  util : Nat
  ce : Nat
  ceSince : Nat
  idleSince : Nat
  sampledAt : Nat
  phase : FieldPhase
  recoveries : Nat
  failedTest : Bool
  deriving DecidableEq, Repr

/-- A fence on a unit (R415): hard or soft, and whether it acts at the unit's boundary yet (R44). -/
structure Fence where
  unit : Nat
  hard : Bool
  acts : Bool
  deriving DecidableEq, Repr

/-- Corrected events of one class on one unit that one record will tell (R410). -/
structure CeMerge where
  cls : Nat
  action : Nat
  kind : Nat
  unit : Nat
  addr : Nat
  since : Nat
  count : Nat
  deriving DecidableEq, Repr

/-- Fences and the events they count (R413, R415): residue events by core and tick, SRAM_UE events by core, block and
tick, and the CE count of each die (R410). -/
structure FenceState where
  cores : List Fence
  relays : List Fence
  fields : List Fence
  recoveries : Nat
  residues : List (Nat × Nat)
  sramUe : List (Nat × Nat × Nat)
  dieCe : List Nat
  merges : List CeMerge
  moduleFault : Bool
  deriving DecidableEq, Repr

/-- Power, clocks, pins and sensors (R394 to R408, R420, R421). `standbyTick` is the tick of the last return to STANDBY, none
before the first; `enTick` and `enLowTick` are the ticks of the last edges of EN; `smbSeen` is MODULE_PWR as the management
bus last read it; `noAdmit` is NO_ADMIT_TICKS, none before the status mirror was first written (R412). -/
structure Power where
  ticks : Nat
  st : ModState
  startFault : Bool
  emerg : Bool
  coolSince : Option Nat
  tripCause : Nat
  inputMv : Nat
  inputW : Nat
  dieT : List Nat
  hbmT : List Nat
  doubled : List Bool
  en : Bool
  enTick : Nat
  enLowTick : Nat
  standbyTick : Option Nat
  thermTripN : Bool
  smbSeen : Nat
  refOk : Bool
  wakeHeld : Bool
  quietSince : Nat
  noAdmit : Option Nat
  deriving DecidableEq, Repr

/-- The fuses (R360, R361). A pair is (first blown, second blown); `udsOk` tells that the check bits of the UDS match. -/
structure Fuses where
  prov : Bool × Bool
  sec : Bool × Bool
  ret : Bool × Bool
  uds : Bytes
  udsOk : Bool
  udsLock : Bool
  debugDisable : Bool
  ownerDebug : Bytes
  minSvn : Nat
  imgRevoke : Nat
  tokenRevoke : Nat
  deriving DecidableEq, Repr

/-- A firmware image bank (R364, R365): the 17,408 bytes before the body and the body. -/
structure Bank where
  head : Bytes
  body : Bytes
  deriving DecidableEq, Repr

/-- The banks of one image class: A and B, which is active, and whether B or A was staged. -/
structure ImageClass where
  bankA : Option Bank
  bankB : Option Bank
  activeB : Bool
  deriving DecidableEq, Repr

/-- The steps of an SPDM connection or session (R374, R377). -/
inductive SpdmStep where
  | start | version | caps | algs | session | finished | mixed
  deriving DecidableEq, Repr

/-- An SPDM session (R374, R375). -/
structure Session where
  num : Nat
  via : SpdmVia
  ctx : Option Nat
  step : SpdmStep
  lastTick : Nat
  lastBeat : Nat
  key : Bytes
  requester : Bool
  deriving DecidableEq, Repr

/-- SPDM responses as the responder answers them; their byte form is the standard's. -/
inductive SpdmRsp where
  | version | capabilities | algorithms
  | digests (d : Bytes)
  | certificate (part : Bytes) (rest : Nat)
  | challengeAuth (sig : Bytes)
  | measurements (blocks : List (Nat × Nat × Bytes)) (opaqueData sig : Bytes)
  | measCount (n : Nat) (opaqueData sig : Bytes)
  | keyExchangeRsp (sess : Nat) (share opaqueData sig : Bytes)
  | finishRsp | heartbeatAck | keyUpdateAck | endSessionAck
  | chunkSendAck
  | chunkRsp (part : Bytes) (last : Bool)
  | ready (r : Bytes)
  | vendor (code status : Nat) (data : Bytes)
  | error (code : Nat)
  deriving DecidableEq, Repr

/-- The connection step of a carrier (R374) and its chunk buffer. -/
structure SpdmConn where
  via : SpdmVia
  step : SpdmStep
  chunk : Bytes
  deferred : Option SpdmRsp
  deriving DecidableEq, Repr

/-- The RSP (R359 to R383). `mr` lists MR0 to MR31; `bootStep` is the last completed step of R367; `windows` holds the start
windows as base, bytes, permission and requester; `restartDue` tells that the module restarts once the answer is written. -/
structure Rsp where
  fuses : Fuses
  fuseState : DWord
  serial : Bytes
  mr : List Bytes
  bootStep : Nat
  debugAuth : Bool
  debugSeen : Bool
  devCert : Option Bytes
  aliasCert : Option Bytes
  keysPresent : Bool
  images : List ImageClass
  nonces : List (Bytes × Nat)
  sessions : List Session
  conns : List SpdmConn
  nextSession : Nat
  drbgReqs : Nat
  drbgTick : Nat
  drbgOk : Bool
  drbgFailTick : Nat
  tagPools : List Nat
  windows : List (Nat × Nat × Nat × Nat)
  halted : List DbgUnit
  tap : Nat
  tapPins : Nat
  rspRam : Mem
  zeroing : List (Nat × List Nat)
  restartDue : Bool
  deriving DecidableEq, Repr

/-- The Hammer (R384 to R387): slot entries, words and accumulator; unlisted entries and words are zero. -/
structure Hammer where
  slots : List (Nat × Word)
  words : List (Nat × BitVec 256)
  acc : BitVec 576
  faultCount : Nat
  privLock : Bool
  cfgErr : Bool
  cmdErr : Bool
  cmds : Nat
  deriving DecidableEq, Repr

/-- What a DMA engine carries out over more than one command: the fill of a page (R349) or a residency copy (R111). -/
inductive DmaJob where
  | fill (ctx page : Nat)
  | keyCopy (ctx : Nat) (key : KeyName)
  deriving DecidableEq, Repr

/-- A transfer of a die's DMA engines (R353): the engine that serves it, or none while it waits for one. -/
structure DmaBusy where
  die : Nat
  engine : Option Nat
  job : DmaJob
  deriving DecidableEq, Repr

/-- Messages the module has sent. -/
inductive Msg where
  | interrupt (vector : Nat)
  | hostRead (data : Bytes)
  | casOld (v : Nat)
  | crReq (module : Option Nat) (mgr : Mgr) (s : Sender) (window want : Nat)
  | crGrant (s : Sender) (mgr : Mgr) (window grant first count : Nat) (st : GrantStatus)
  | put (module : Option Nat) (mgr : Mgr) (s : Sender) (grant block : Nat) (data : Bytes) (marked : Bool)
  | crReturn (s : Sender) (mgr : Mgr) (grant count : Nat)
  | crCancel (s : Sender) (mgr : Mgr) (grant : Nat) (reason : CancelReason)
  | senderCancel (module : Option Nat) (mgr : Mgr) (s : Sender) (grant : Nat) (reason : CancelReason)
  | ident (port : Nat) (msg : Bytes)
  | admission (port : Nat) (admits : Bool)
  | idle (port : Nat)
  | flitAgain (port : Option Nat)
  | leave (port : Nat)
  | peerMark (port mark amount ctx tag : Nat)
  | peerAck (port tag : Nat) (denied : Bool)
  | collSetup (dest : Nat) (c : CRef) (hash : Bytes) (parent children below : Nat)
  | collChunk (dest : Nat) (c : CRef) (round attempt index : Nat) (words : List Nat) (marked : Bool)
  | collCommit (dest : Nat) (c : CRef) (round attempt : Nat)
  | collDepart (dest : Nat) (c : CRef) (round attempt mask : Nat)
  | collOrphan (dest : Nat) (c : CRef) (round attempt : Nat)
  | collAbandon (dest : Nat) (c : CRef) (round attempt : Nat)
  | collRestart (dest : Nat) (c : CRef) (round attempt members : Nat)
  | collCredit (dest : Nat) (c : CRef) (round attempt n : Nat)
  | collAck (dest : Nat) (c : CRef) (round attempt member : Nat)
  | spdmRsp (v : SpdmVia) (r : SpdmRsp)
  | spdmHeartbeat (sess : Nat)
  | debug (status : Status) (fault : Option FaultCode) (data : Bytes)
  | tdo (v : Nat)
  | smb (data : Bytes)
  | smbNack
  | guarded (port : Nat) (key : Bytes) (m : Msg)
  deriving DecidableEq, Repr

/-- One module. `trans` lists the translation keys in the translation cache, the latest loaded first (R249). `freeCtr`
numbers the free values drawn so far (the model's own field). `relayBusy` holds the last tick at which each Relay was taken
(R306). `net` holds the credit messages between units of the module that
have not arrived, the oldest first (R42, R178); `atLink` holds what the Welone Link and the ports hold until
READY, in the order received (R402); `retx` is the retransmit buffer of the collective units: the messages sent on each
port that are not known to be acknowledged (R256, R269). `linkRetry` counts the failures of the Welone flit being retried,
`linkTick` is the tick at which the link went down or last failed to train (R311). -/
structure State where
  pending : List Instr
  freeCtr : Nat
  pwr : Power
  fields : List FieldState
  fence : FenceState
  mem : MemState
  cores : List (Nat × CoreRegs)
  marks : List (Nat × Mark)
  markNet : List MarkSig
  ctxs : List Ctx
  queues : List Queue
  disps : List Dispatch
  epochNow : Nat
  staleDiscards : Nat
  mgrs : List (Mgr × Manager)
  net : List Msg
  retx : List (Nat × Msg)
  atLink : List Instr
  keyCopies : List KeyCopy
  keyScores : List KeyScore
  meters : List Meter
  relayBusy : List Nat
  pageWaits : List PageWait
  dma : List DmaBusy
  mbs : List (Nat × Mailbox)
  hwins : List (Nat × HWin)
  hwinStatus : List (Nat × RefStatus)
  hostSig : RefStatus
  linkUp : Bool
  linkRetry : Nat
  linkTick : Nat
  cfg : CfgState
  ev : EventState
  ports : List Port
  sys : SystemState
  colls : List Coll
  trans : List Bytes
  rsp : Rsp
  ham : Hammer
  sent : List Msg
  deriving DecidableEq, Repr

/-- A Field after its start-up default: F-OFF, every sensor value 0 (R399). -/
def FieldState.reset : FieldState :=
  { st := .off, entering := none, waking := false, step := 0, toStep := none, powerW := 0, tj := 0, util := 0, ce := 0,
    ceSince := 0, idleSince := 0, sampledAt := 0, phase := .service, recoveries := 0, failedTest := false }

/-- A Baton port at reset: DOWN, counts and cause 0 (R254). -/
def Port.reset : Port :=
  { st := .down, peer := 0, peerSerial := [], peerKey := [], peerJoined := false, peerSystem := 0, attested := none,
    peerAdmits := false, told := false, retry := 0, downs := 0, cause := 0, since := 0, lastGood := 0, flitFails := 0 }

/-- The memories with nothing listed, nothing written, nothing mapped and nothing cached. -/
def MemState.reset : MemState :=
  { hbm := [], hbmMarked := [], cache := [], comp := [], cs := ⟨[], [], []⟩, ob := ⟨[], [], []⟩, inf := ⟨[], [], []⟩,
    csMap := [], ifMap := [], xlate := [], reserved := [] }

/-- Power and pins at reset (R399): the always-on domain has just risen (R398), EN is low (R420). -/
def Power.reset : Power :=
  { ticks := 0, st := .standby, startFault := false, emerg := false, coolSince := none, tripCause := 0, inputMv := 0,
    inputW := 0, dieT := [0, 0], hbmT := List.replicate 12 0,
    doubled := List.replicate 12 false, en := false, enTick := 0, enLowTick := 0, standbyTick := none, thermTripN := true,
    smbSeen := 2 ^ 60, refOk := true, wakeHeld := false, quietSince := 0, noAdmit := none }

/-- The RSP at reset: a module as shipped, PROVISIONED, with its DeviceID certificate and its A banks (R427), every
measurement register 0 (R370), and no boot step done. -/
def Rsp.reset : Rsp :=
  { fuses := { prov := (true, true), sec := (false, false), ret := (false, false), uds := Config.uds, udsOk := true, udsLock := true,
               debugDisable := false, ownerDebug := [], minSvn := 0, imgRevoke := 0, tokenRevoke := 0 },
    fuseState := 0x45, serial := Config.serial, mr := List.replicate 32 (List.replicate 48 0), bootStep := 0,
    debugAuth := false, debugSeen := false, devCert := some Config.deviceCert, aliasCert := none, keysPresent := false,
    images := (List.range 5).map (fun i =>
      { bankA := some ⟨Config.factoryHead i, Config.factoryBody i⟩, bankB := none, activeB := false }),
    nonces := [], sessions := [], conns := [], nextSession := 1, drbgReqs := 0, drbgTick := 0, drbgOk := true,
    drbgFailTick := 0, tagPools := [], windows := [], halted := [], tap := 0, tapPins := 0, rspRam := [], zeroing := [],
    restartDue := false }

/-- The machine right after reset: STANDBY at the moment its always-on domain starts (R398, R399), with every register
at the value its rule gives, or at the value its log entry names. -/
def State.reset : State :=
  { pending := [], freeCtr := 0, pwr := Power.reset, fields := List.replicate 8 FieldState.reset,
    fence := { cores := [], relays := [], fields := [], recoveries := 0, residues := [], sramUe := [], dieCe := [0, 0],
               merges := [], moduleFault := false },
    mem := MemState.reset, cores := [], marks := [], markNet := [], ctxs := [], queues := [], disps := [],
    epochNow := 0, staleDiscards := 0, mgrs := [], net := [], retx := [], atLink := [], keyCopies := [], keyScores := [], meters := List.replicate 2 ⟨0, 0, 0, 0⟩,
    relayBusy := List.replicate 32 0, pageWaits := [], dma := [],
    mbs := [], hwins := [], hwinStatus := [], hostSig := ⟨0, 0⟩, linkUp := false, linkRetry := 0, linkTick := 0,
    cfg := { values := [], decided := [], txns := [], changes := [], lastTxn := 0, order := 0 },
    ev := { base := 0, log2 := 0, on := false, prod := 0, cons := 0, lost := 0, seq := 0, held := [], heldIrq := [], boot := [],
            mirrorSeq := 0, mirrorTick := 0 },
    ports := List.replicate 16 Port.reset,
    sys := { joined := false, systemId := 0, modNum := 0, anchor := [], digests := [], leaving := none, peerSigs := [], nextTag := 0 },
    colls := [], trans := [], rsp := Rsp.reset,
    ham := { slots := [], words := [], acc := 0, faultCount := 0, privLock := false, cfgErr := false, cmdErr := false,
             cmds := 0 },
    sent := [] }

end Sys2Proof.Machine
end

