-- ==== Sys2Proof/Machine/Params.lean ====
section
/-! DEFINITION. Fields of the parameter-set record (R28), the object header (R16) and the tensor descriptor (R152). -/

namespace Sys2Proof.Machine

/-- PARAM_ID of a record. -/
def pId (p : Bytes) : Nat := field p 0 4
/-- TEMPLATE. -/
def pTemplate (p : Bytes) : Nat := field p 4 1
/-- SCHEME: 0 CKKS, 1 BFV, 2 BGV, 3 gate. -/
def pScheme (p : Bytes) : Nat := field p 5 1
/-- LOG_N. -/
def pLogN (p : Bytes) : Nat := field p 6 1
/-- Q_LIMBS, the L of the manual. -/
def pL (p : Bytes) : Nat := field p 7 1
/-- P_LIMBS, the K of the manual. -/
def pK (p : Bytes) : Nat := field p 8 1
/-- DNUM. -/
def pDnum (p : Bytes) : Nat := field p 9 1
/-- SEC_LEVEL. -/
def pSec (p : Bytes) : Nat := field p 10 1
/-- PLAIN_T. -/
def pT (p : Bytes) : Nat := field p 12 4
/-- BR_LOG_N; 0 without a gate section. -/
def pBrLogN (p : Bytes) : Nat := field p 16 1
/-- BR_DG. -/
def pBrDg (p : Bytes) : Nat := field p 17 1
/-- LWE_N. -/
def pLweN (p : Bytes) : Nat := field p 18 2
/-- BR_Q. -/
def pBrQ (p : Bytes) : Nat := field p 20 4
/-- LWE_Q. -/
def pLweQ (p : Bytes) : Nat := field p 24 4
/-- Entry i of PRIMES. -/
def pPrime (p : Bytes) (i : Nat) : Nat := field p (32 + 4 * i) 4
/-- True for a gate-only record (R32). -/
def gateOnly (p : Bytes) : Bool := pScheme p == 3
/-- True when the record has a gate section. -/
def hasGate (p : Bytes) : Bool := pBrLogN p != 0

/-- A ring configuration (R68): log2 N and the primes; the other fields of an entry follow from its prime. -/
structure RingCfg where
  logN : Nat
  qs : List Nat
  deriving DecidableEq, Repr

/-- The main (false) or gate (true) configuration of a record (R68). -/
def ringOf (p : Bytes) (gate : Bool) : RingCfg :=
  if gate then ⟨pBrLogN p, [pBrQ p, pLweQ p]⟩
  else ⟨pLogN p, (List.range (pL p + pK p)).map (pPrime p)⟩

/-- PSI_M of entry i of a ring configuration (R68): the root of R8 as a Montgomery value in [0, q); 0 for q_LWE, entry 1 of the
gate configuration. -/
def psiM (r : RingCfg) (gate : Bool) (i : Nat) : Nat :=
  let q := nth r.qs i 1
  if gate && i == 1 then 0 else psiOf q r.logN * 2 ^ 32 % q

/-- Entry i of a ring configuration as it lies in the core: Q, QNEG_INV, R2 and PSI_M (R68). -/
def ringEntry (r : RingCfg) (gate : Bool) (i : Nat) : Bytes :=
  let q := nth r.qs i 1
  leBytes 4 q ++ leBytes 4 (qNegInv q) ++ leBytes 4 (r2Of q) ++ leBytes 4 (psiM r gate i)

/-- A ring configuration as the Starter builds it: LOG_N, COUNT, reserved bytes, and 16 bytes an entry (R68). -/
def ringBytes (r : RingCfg) (gate : Bool) : Bytes :=
  leBytes 1 r.logN ++ leBytes 1 r.qs.length ++ zeros 14 ++ ((List.range r.qs.length).map (ringEntry r gate)).flatten

/-- Limb index of limb slot s of a body at a level (R23, R192). -/
def limbIndex (p : Bytes) (level s : Nat) : Nat := if s < level then s else pL p + (s - level)

/-- The kinds of object of R16. -/
def kindRlwe : Nat := 1
/-- An RNS plaintext. -/
def kindPlain : Nat := 2
/-- An LWE batch. -/
def kindLwe : Nat := 3

/-- An object header by its fields (R16). `flags` holds POISONED 1, TORN 2, BUDGET_SPENT 4 (R17). -/
structure Hdr where
  kind : Nat
  scheme : Nat
  logN : Nat
  paramId : Nat
  keyset : Nat
  ctx : Nat
  epoch : Nat
  comps : Nat
  level : Nat
  pPresent : Nat
  repr : Nat
  flags : Nat
  budget : Nat
  scale : Nat
  slots : Nat
  plainT : Nat
  factor : Nat
  lweN : Nat
  lweCount : Nat
  psh : Bytes
  deriving DecidableEq, Repr

/-- The header that 128 bytes hold (R16). -/
def hdrOf (b : Bytes) : Hdr :=
  { kind := field b 5 1, scheme := field b 6 1, logN := field b 7 1, paramId := field b 8 4, keyset := field b 12 4,
    ctx := field b 16 4, epoch := field b 20 4, comps := field b 24 1, level := field b 25 1,
    pPresent := field b 26 1, repr := field b 27 1, flags := field b 28 2, budget := field b 30 2,
    scale := field b 32 4, slots := field b 36 4, plainT := field b 40 4, factor := field b 44 4,
    lweN := field b 48 2, lweCount := field b 52 4, psh := slice b 64 16 }

/-- A record of 124 bytes with its CRC-32C after it (R18). -/
def withCrc (b : Bytes) : Bytes := let r := slice b 0 124; r ++ leBytes 4 (crc32c r)

/-- The 128 bytes of a header, HDR_CRC computed (R16, R18). -/
def hdrBytes (h : Hdr) : Bytes :=
  withCrc (leBytes 4 0x0960A2C7 ++ leBytes 1 1 ++ leBytes 1 h.kind ++ leBytes 1 h.scheme ++ leBytes 1 h.logN
    ++ leBytes 4 h.paramId ++ leBytes 4 h.keyset ++ leBytes 4 h.ctx ++ leBytes 4 h.epoch ++ leBytes 1 h.comps
    ++ leBytes 1 h.level ++ leBytes 1 h.pPresent ++ leBytes 1 h.repr ++ leBytes 2 h.flags ++ leBytes 2 h.budget
    ++ leBytes 4 h.scale ++ leBytes 4 h.slots ++ leBytes 4 h.plainT ++ leBytes 4 h.factor ++ leBytes 2 h.lweN
    ++ zeros 2 ++ leBytes 4 h.lweCount ++ zeros 8 ++ slice h.psh 0 16)

/-- POISONED of FLAGS. -/
def Hdr.poisoned (h : Hdr) : Bool := bit h.flags 0
/-- TORN of FLAGS. -/
def Hdr.torn (h : Hdr) : Bool := bit h.flags 1
/-- BUDGET_SPENT of FLAGS. -/
def Hdr.spent (h : Hdr) : Bool := bit h.flags 2

/-- FLAGS of R17 from its three bits. -/
def hdrFlags (poisoned torn spent : Bool) : Nat := flag poisoned 0 + flag torn 1 + flag spent 2

/-- True when an object of a kind may have this number of components (R16). -/
def compsOk (kind comps : Nat) : Bool :=
  if kind == kindRlwe then comps == 2 || comps == 3 else if kind == kindPlain then comps == 1 else comps == 0

/-- The header checks of R20 but the last: what a header read under a record must be. -/
def hdrValid (p psh b : Bytes) : Bool :=
  let h := hdrOf b
  let main := h.kind == kindRlwe || h.kind == kindPlain
  field b 0 4 == 0x0960A2C7 && field b 4 1 == 1 && field b 124 4 == crc32c (slice b 0 124)
  && (main || h.kind == kindLwe) && h.scheme ≤ 3 && h.repr ≤ 1
  && allZero b 50 2 && allZero b 56 8 && allZero b 80 44 && h.flags < 8 && h.ctx < 2 ^ 20
  && !h.torn
  && h.paramId == pId p && h.psh == psh && h.logN == (if main then pLogN p else pBrLogN p)
  && (if main then 1 ≤ h.level && h.level ≤ pL p else h.level == 1) && h.pPresent ≤ 1 && compsOk h.kind h.comps
  && (if main then h.scheme == pScheme p && h.plainT == pT p && h.lweN == 0 && h.lweCount == 0
      else h.scheme == 3 && hasGate p)
  && (if h.scheme == 2 then 1 ≤ h.factor && h.factor < pT p else h.factor == 0)
  && (if h.kind == kindPlain then h.comps == 1 && h.keyset == 0 && h.budget == 0xFFFF else true)
  && (if h.kind == kindLwe then h.comps == 0 && h.pPresent == 0 && h.repr == 0 && h.lweN == pLweN p
        && 1 ≤ h.lweCount && h.lweCount ≤ 65536 else true)

/-- Limbs of one component of an object (R23). -/
def hdrLimbs (p : Bytes) (h : Hdr) : Nat := h.level + pK p * h.pPresent

/-- Bytes of an object's body: R23, or R25 for an LWE batch. -/
def bodyLen (p : Bytes) (h : Hdr) : Nat :=
  if h.kind == kindLwe then h.lweCount * h.lweN * 4 + ceilDiv (4 * h.lweCount) 1024 * 1024
  else h.comps * hdrLimbs p h * 2 ^ h.logN * 4

/-- BASE of a descriptor (R152). -/
def dBase (d : Bytes) : Nat := field d 0 8
/-- SPACE. -/
def dSpace (d : Bytes) : Nat := field d 8 1
/-- ELEM_TYPE. -/
def dElem (d : Bytes) : Nat := field d 9 1
/-- Element size E. -/
def dE (d : Bytes) : Nat := if dElem d ≤ 1 then 4 else if dElem d == 2 then 2 else 1
/-- RANK. -/
def dRank (d : Bytes) : Nat := field d 10 1
/-- SWIZZLE. -/
def dSwz (d : Bytes) : Nat := field d 11 1
/-- WRITE. -/
def dWrite (d : Bytes) : Bool := bit (field d 12 2) 0
/-- OBJECT. -/
def dObj (d : Bytes) : Bool := bit (field d 12 2) 1
/-- HINT. -/
def dHint (d : Bytes) : Nat := bits (field d 12 2) 3 2
/-- SIZE of dimension i. -/
def dSize (d : Bytes) (i : Nat) : Nat := bits (field d (16 + 8 * i) 8) 23 0
/-- STRIDE of dimension i, in elements. -/
def dStride (d : Bytes) (i : Nat) : Int := signed 40 (bits (field d (16 + 8 * i) 8) 63 24)
/-- Header address of HDR_LINK. -/
def dHdrAddr (d : Bytes) : Nat := bits (field d 56 8) 47 0
/-- Header space of HDR_LINK. -/
def dHdrSpace (d : Bytes) : Nat := bits (field d 56 8) 55 48

/-- Number of elements of a descriptor (R155). -/
def dCount (d : Bytes) : Nat := ((List.range (dRank d)).map (dSize d)).foldl (· * ·) 1

/-- The element offset Σ i_d · STRIDE_d of element number j (R155). -/
def dOffAux (d : Bytes) : Nat → Nat → Nat → Int
  | 0, _, _ => 0
  | n + 1, i, j => (j % dSize d i : Nat) * dStride d i + dOffAux d n (i + 1) (j / dSize d i)

/-- The logical address BASE + E · Σ i_d · STRIDE_d of element j (R155). -/
def dAddr (d : Bytes) (j : Nat) : Nat := ((dBase d : Int) + dE d * dOffAux d (dRank d) 0 j).toNat

/-- Lowest and highest element offset of a descriptor's extent (R157). -/
def dReach (d : Bytes) : Int × Int :=
  (List.range (dRank d)).foldl (fun (r : Int × Int) i =>
    let k := dStride d i * ((dSize d i : Int) - 1)
    (r.1 + min 0 k, r.2 + max 0 k)) (0, 0)

/-- The first byte of the extent and the byte after it (R157). -/
def dExtent (d : Bytes) : Int × Int :=
  if dObj d then (dBase d, (dBase d : Int) + 1024 * dSize d 0)
  else
    let r := dReach d
    ((dBase d : Int) + dE d * r.1, (dBase d : Int) + dE d * r.2 + dE d)

/-- The elements of a descriptor lie one after another in element order. -/
def dDense (d : Bytes) : Bool :=
  (List.range (dRank d)).all (fun i => dStride d i == ((((List.range i).map (dSize d)).foldl (· * ·) 1 : Nat) : Int))

/-- The extents of two descriptors lie in the same space of the same memory and overlap (R157, R166). -/
def extentsMeet (a b : Bytes) : Bool :=
  dSpace a == dSpace b && (dExtent a).1 < (dExtent b).2 && (dExtent b).1 < (dExtent a).2

/-- π names a permutation of the dimensions 0 to rank - 1 (R164, R225). -/
def permOk (rank : Nat) (perm : List Nat) : Bool := (List.range rank).all (fun i => (perm.take rank).contains i)

/-- Insertion of a dimension into a list sorted by absolute stride. -/
def insDim (x : Nat × Nat) : List (Nat × Nat) → List (Nat × Nat)
  | [] => [x]
  | y :: t => if x.1 < y.1 then x :: y :: t else y :: insDim x t

/-- The procedure well_nested of R159. -/
def wellNested (d : Bytes) : Bool :=
  let dims := ((List.range (dRank d)).filter (fun i => dSize d i > 1)).map
    (fun i => ((dStride d i).natAbs, dSize d i))
  let r := (dims.foldl (fun l x => insDim x l) []).foldl (fun (acc : Bool × Nat) x =>
    if x.1 ≤ acc.2 then (false, acc.2) else (acc.1, acc.2 + x.1 * (x.2 - 1))) (true, 0)
  r.1

/-- The size of a space that BASE may address: R154, check 5 of R157. -/
def spaceLimit (sp : Nat) : Nat :=
  if sp == 0 then 2 ^ 48 else if sp == 1 then 2 ^ 21 else if sp == 2 || sp == 3 then 2 ^ 28 else 0

/-- The checks of R157 in their order; none when the descriptor passes. -/
def descCheck (d : Bytes) : Option FaultCode :=
  let rank := dRank d
  let used := List.range rank
  if !(allZero d 14 2 && bits (field d 12 2) 15 4 == 0 && bits (dBase d) 63 48 == 0 && dSwz d ≤ 4
      && dHint d ≤ 2 && dSpace d ≤ 4 && dElem d ≤ 3 && 1 ≤ rank && rank ≤ 5
      && bits (field d 56 8) 63 56 == 0 && (dObj d || field d 56 8 == 0)) then some .descInvalid
  else if !(used.all (fun i => dSize d i ≥ 1)
      && ((List.range 5).filter (fun i => rank ≤ i)).all (fun i => field d (16 + 8 * i) 8 == 0)) then some .descInvalid
  else if !(dBase d % dE d == 0 && (dSwz d == 0 || dSpace d == 1)) then some .descInvalid
  else if dObj d && !(rank == 1 && dElem d == 0 && dSpace d ≤ 3 && dStride d 0 == 256 && dBase d % 1024 == 0
      && dHdrAddr d % 128 == 0 && dHdrSpace d ≤ 3) then some .descInvalid
  else
    let (lo, hi) := dExtent d
    let inSpace :=
      if dSpace d == 4 then
        let b := bits (dBase d) 17 16
        1 ≤ b && b ≤ 3 && dBase d < 2 ^ 18 && (b * 65536 : Nat) ≤ lo && hi ≤ ((b + 1) * 65536 : Nat)
      else 0 ≤ lo && hi ≤ (spaceLimit (dSpace d) : Nat)
    if !(inSpace && (!dObj d || dHdrAddr d + 128 ≤ spaceLimit (dHdrSpace d))) then some .descInvalid
    else if dWrite d && used.any (fun i => dSize d i > 1 && dStride d i == 0) then some .descAlias
    else if dWrite d && !dObj d && !wellNested d then some .descAlias
    else none

/-- The value s(r) of a swizzle mode for block r (R161). -/
def swz (mode r : Nat) : Nat :=
  match mode with
  | 1 => bits r 4 0
  | 2 => bits r 9 5
  | 3 => (bits r 4 0) ^^^ (bits r 9 5)
  | 4 => bits r 7 3
  | _ => 0

/-- The swizzled Core Store address of a logical address (R161). -/
def swzAddr (mode a : Nat) : Nat :=
  let r := a / 1024
  r * 1024 + ((bits a 9 5) ^^^ swz mode r) * 32 + a % 32

end Sys2Proof.Machine
end

