-- ==== Sys2Proof/Machine/Accept.lean ====
section
/-! DEFINITION. Acceptance of a parameter-set record: templates (R30), hardware limits (R7, R31, R32), security bounds
(R33). -/

namespace Sys2Proof.Machine

/-- log2 q in 1/65536, rounded up (R33), for q that is no power of two. -/
def logUp (q : Nat) : Nat := log2f (q ^ 65536) + 1

/-- The table of R33: the largest log2 of the total modulus for a degree 2^n and SEC_LEVEL; 0 where it has no entry. -/
def secBound (n sec : Nat) : Nat :=
  let row : List Nat := match n with
    | 10 => [27, 19, 14]
    | 11 => [54, 37, 29]
    | 12 => [109, 75, 58]
    | 13 => [218, 152, 118]
    | 14 => [438, 305, 237]
    | 15 => [881, 611, 476]
    | 16 => [1761, 1220, 952]
    | 17 => [3522, 2440, 1904]
    | _ => []
  nth row sec 0

/-- The security bound of R33 on a list of primes. -/
def boundMet (qs : List Nat) (n sec : Nat) : Bool := (qs.map logUp).sum ≤ secBound n sec * 65536

/-- R7 for one prime, with the modulus of its congruence; 1 for none. -/
def primeOk (q m : Nat) : Bool := 2 ^ 23 < q && q < 2 ^ 31 && q % m == 1 % m && isPrime q

/-- A gate section (R28, R31, R32, R33), with the limits of its gate template where they apply (R30). -/
def gateOk (p : Bytes) (limits : Bool) : Bool :=
  let n := pLweN p
  (pBrLogN p == 10 || pBrLogN p == 11) && 2 ≤ pBrDg p && pBrDg p ≤ 4 && (n == 1024 || n == 2048)
  && primeOk (pBrQ p) (2 ^ (pBrLogN p + 1)) && primeOk (pLweQ p) 1
  && (!limits || pBrLogN p == 11 || n == 1024)
  && boundMet [pBrQ p] (pBrLogN p) (pSec p) && boundMet [pLweQ p] (Nat.log2 n) (pSec p)

/-- A main-ring template of R30. -/
structure Template where
  schemes : List Nat
  logN : Nat
  lLo : Nat
  lHi : Nat
  k : Nat
  dT : Nat
  secs : List Nat
  gate : Bool
  deriving DecidableEq, Repr

/-- The main-ring templates of R30 by code. -/
def templateOf (code : Nat) : Option Template :=
  match code with
  | 1 => some ⟨[0, 1, 2], 14, 1, 12, 3, 4, [0], true⟩
  | 2 => some ⟨[0], 16, 1, 48, 12, 4, [0], true⟩
  | 3 => some ⟨[0], 16, 30, 44, 11, 4, [0], true⟩
  | 4 => some ⟨[0], 17, 30, 52, 12, 5, [0, 1], true⟩
  | 5 => some ⟨[1, 2], 15, 1, 24, 8, 3, [0], false⟩
  | _ => none

/-- The limits of a main-ring template on a record (R30). -/
def templateMet (p : Bytes) (t : Template) : Bool :=
  t.schemes.contains (pScheme p) && pLogN p == t.logN && t.lLo ≤ pL p && pL p ≤ t.lHi && pK p == t.k
  && pDnum p == min t.dT (pL p) && t.secs.contains (pSec p) && (t.gate || !hasGate p)

/-- The digits of hybrid key switching: runs of ⌈L / DNUM⌉ Q-limbs from index 0 (R31). -/
def digitRuns (p : Bytes) : List (List Nat) :=
  let a := ceilDiv (pL p) (pDnum p)
  (List.range (pDnum p)).map (fun i => (rangeFrom (a * i) (min (a * (i + 1)) (pL p) - a * i)).map (pPrime p))

/-- A main-ring record meets the hardware limits (R31) and the security bounds (R33) and its template's (R30). -/
def mainOk (p : Bytes) : Bool :=
  let n := pL p + pK p
  let qs := (List.range n).map (pPrime p)
  12 ≤ pLogN p && pLogN p ≤ 17 && 1 ≤ pL p && 1 ≤ pK p && n ≤ 64
  && qs.all (fun q => primeOk q (2 ^ (pLogN p + 1))) && qs.Nodup && allZero p (32 + 4 * n) (4 * (64 - n))
  && 1 ≤ pDnum p && pDnum p ≤ min 16 (pL p) && ceilDiv (pL p) (pDnum p) ≤ pK p
  && (digitRuns p).all (fun d => prodOf d ≤ prodOf ((rangeFrom (pL p) (pK p)).map (pPrime p)))
  && (if pScheme p == 0 then pT p == 0 else 2 ≤ pT p && pT p < 2 ^ 31 && qs.all (fun q => Nat.gcd (pT p) q == 1))
  && (if hasGate p then gateOk p (pTemplate p != 0xFF) else allZero p 16 12)
  && boundMet qs (pLogN p) (pSec p)
  && (pTemplate p == 0xFF || match templateOf (pTemplate p) with
    | some t => templateMet p t
    | none => false)

/-- A gate-only record (R30, R32, R33). -/
def gateOnlyOk (p : Bytes) : Bool :=
  allZero p 6 4 && pT p == 0 && allZero p 32 256 && gateOk p true && pBrQ p != pLweQ p && pSec p == 0
  && ((pTemplate p == 0x10 && pBrLogN p == 10) || (pTemplate p == 0x11 && pBrLogN p == 11))

/-- The module accepts a parameter-set record (R28 to R34). -/
def paramOk (p : Bytes) : Bool :=
  pId p != 0 && pSec p ≤ 2 && field p 11 1 == 0 && allZero p 28 4 && allZero p 288 32
  && (if pScheme p == 3 then gateOnlyOk p else pScheme p < 3 && mainOk p)

end Sys2Proof.Machine
end

