-- ==== Sys2Proof/Machine/Float.lean ====
section
/-! DEFINITION. Clear-mode arithmetic: FP32, BF16 and INT8 (R63, R64, R66). -/

namespace Sys2Proof.Machine

/-- The conditions an operation records, as bits [3:0] of ARITH_STATUS (R67). -/
def flFlushed : Nat := 1
/-- INVALID of R67. -/
def flInvalid : Nat := 2
/-- OVERFLOW of R67. -/
def flOverflow : Nat := 4
/-- INT_SAT of R67. -/
def flIntSat : Nat := 8

/-- A floating-point value: not a number, an infinity, or sign and magnitude m times 2^e. -/
inductive FVal where
  | nan
  | inf (neg : Bool)
  | fin (neg : Bool) (m : Nat) (e : Int)
  deriving DecidableEq, Repr

/-- Fraction bits of a format: 23 for FP32, 7 for BF16 (R63). -/
def fbF32 : Nat := 23
/-- Fraction bits of BF16 (R63). -/
def fbBF : Nat := 7

/-- The value of a bit pattern with fb fraction bits; a subnormal input is read as zero of its sign and
recorded (R64). -/
def fDecode (fb w : Nat) : FVal × Nat :=
  let neg := bit w (fb + 8)
  let ex := bits w (fb + 7) fb
  let fr := w % 2 ^ fb
  if ex = 255 then ((if fr = 0 then .inf neg else .nan), 0)
  else if ex = 0 then (.fin neg 0 0, if fr = 0 then 0 else flFlushed)
  else (.fin neg (2 ^ fb + fr) ((ex : Int) - 127 - fb), 0)

/-- The quiet NaN of R64. -/
def fNaN (fb : Nat) : Nat := 255 * 2 ^ fb + 2 ^ (fb - 1)

/-- Sign bit in place. -/
def fSign (fb : Nat) (neg : Bool) : Nat := flag neg (fb + 8)

/-- Rounding of an exact value to nearest, ties to even; overflow gives an infinity, a result whose rounded
magnitude is below the least normal number gives zero of the same sign (R64; log entry 9). -/
def fRound (fb : Nat) (neg : Bool) (m : Nat) (e : Int) : Nat × Nat :=
  if m = 0 then (fSign fb neg, 0)
  else
    let len := Nat.log2 m + 1
    let (q, e1) :=
      if len ≤ fb + 1 then (m <<< (fb + 1 - len), e - ((fb + 1 - len : Nat) : Int))
      else
        let sh := len - (fb + 1)
        let q0 := m >>> sh
        let r := m % 2 ^ sh
        let h := 2 ^ (sh - 1)
        (if r > h ∨ (r = h ∧ q0 % 2 = 1) then q0 + 1 else q0, e + (sh : Int))
    let (q, e1) := if q = 2 ^ (fb + 1) then (2 ^ fb, e1 + 1) else (q, e1)
    let ex := e1 + (fb : Int)
    if ex > 127 then (fSign fb neg + 255 * 2 ^ fb, flOverflow)
    else if ex < -126 then (fSign fb neg, flFlushed)
    else (fSign fb neg + (ex + 127).toNat * 2 ^ fb + (q - 2 ^ fb), 0)

/-- Encoding of a value in a format. -/
def fEncode (fb : Nat) : FVal → Nat × Nat
  | .nan => (fNaN fb, 0)
  | .inf neg => (fSign fb neg + 255 * 2 ^ fb, 0)
  | .fin neg m e => fRound fb neg m e

/-- Exact sum of two finite values as sign, magnitude and exponent; an exact zero sum is +0 unless both
operands are -0 (round to nearest, IEEE 754). -/
def fAddFin (n1 : Bool) (m1 : Nat) (e1 : Int) (n2 : Bool) (m2 : Nat) (e2 : Int) : FVal :=
  let e := min e1 e2
  let a : Int := (m1 * 2 ^ (e1 - e).toNat : Nat)
  let b : Int := (m2 * 2 ^ (e2 - e).toNat : Nat)
  let z := (if n1 then -a else a) + (if n2 then -b else b)
  if z = 0 then .fin (n1 && n2) 0 0 else .fin (decide (z < 0)) z.natAbs e

/-- Sum of two values; the flag tells an infinity minus an infinity. -/
def fAddV : FVal → FVal → FVal × Nat
  | .nan, _ => (.nan, 0)
  | _, .nan => (.nan, 0)
  | .inf a, .inf b => if a = b then (.inf a, 0) else (.nan, flInvalid)
  | .inf a, _ => (.inf a, 0)
  | _, .inf b => (.inf b, 0)
  | .fin n1 m1 e1, .fin n2 m2 e2 => (fAddFin n1 m1 e1 n2 m2 e2, 0)

/-- Product of two values; the flag tells zero times infinity. -/
def fMulV : FVal → FVal → FVal × Nat
  | .nan, _ => (.nan, 0)
  | _, .nan => (.nan, 0)
  | .inf a, .inf b => (.inf (a != b), 0)
  | .inf a, .fin b m _ => if m = 0 then (.nan, flInvalid) else (.inf (a != b), 0)
  | .fin a m _, .inf b => if m = 0 then (.nan, flInvalid) else (.inf (a != b), 0)
  | .fin a m1 e1, .fin b m2 e2 => (.fin (a != b) (m1 * m2) (e1 + e2), 0)

/-- Negation of a value. -/
def fNegV : FVal → FVal
  | .nan => .nan
  | .inf a => .inf (!a)
  | .fin a m e => .fin (!a) m e

/-- A two-operand operation on bit patterns of one format: result and recorded conditions (R64, R67). -/
def fOp2 (fb : Nat) (f : FVal → FVal → FVal × Nat) (a b : Nat) : Nat × Nat :=
  let (x, f1) := fDecode fb a
  let (y, f2) := fDecode fb b
  let (z, f3) := f x y
  let (w, f4) := fEncode fb z
  (w, f1 ||| f2 ||| f3 ||| f4)

/-- Addition (R64). -/
def fAdd (fb a b : Nat) : Nat × Nat := fOp2 fb fAddV a b
/-- Subtraction (R64). -/
def fSub (fb a b : Nat) : Nat × Nat := fOp2 fb (fun x y => fAddV x (fNegV y)) a b
/-- Multiplication (R64). -/
def fMul (fb a b : Nat) : Nat × Nat := fOp2 fb fMulV a b

/-- The exact product of two values plus a third; a NaN from inputs none of which is NaN is recorded (R67). -/
def fMacV (x y z : FVal) : FVal × Nat :=
  match z with
  | .nan => (.nan, 0)
  | _ =>
    let p := fMulV x y
    let r := fAddV p.1 z
    (r.1, p.2 ||| r.2)

/-- Multiply-add with one rounding (R218). -/
def fMac (fb a b c : Nat) : Nat × Nat :=
  let (x, f1) := fDecode fb a
  let (y, f2) := fDecode fb b
  let (z, f3) := fDecode fb c
  let (r, f4) := fMacV x y z
  let (w, f5) := fEncode fb r
  (w, f1 ||| f2 ||| f3 ||| f4 ||| f5)

/-- Narrowing FP32 to BF16 (R64). -/
def f32ToBF (a : Nat) : Nat × Nat :=
  let (x, f1) := fDecode fbF32 a
  let (w, f2) := fEncode fbBF x
  (w, f1 ||| f2)

/-- Widening BF16 to FP32; the result of a subnormal input is zero of its sign (R64). -/
def bfToF32 (a : Nat) : Nat × Nat :=
  let (x, f1) := fDecode fbBF a
  let (w, f2) := fEncode fbF32 x
  (w, f1 ||| f2)

/-- Order key of a finite value or infinity for MAX and MIN: +0 ranks above -0 (R90). -/
def fLess : FVal → FVal → Bool
  | .fin a m1 e1, .fin b m2 e2 =>
    let e := min e1 e2
    let x : Int := (m1 * 2 ^ (e1 - e).toNat : Nat)
    let y : Int := (m2 * 2 ^ (e2 - e).toNat : Nat)
    let x := if a then -x else x
    let y := if b then -y else y
    if x = y then a && !b && decide (m1 = 0) else decide (x < y)
  | .inf a, .inf b => a && !b
  | .inf a, _ => a
  | _, .inf b => !b
  | _, _ => false

/-- MAX or MIN of two values; any NaN gives NaN (R90). -/
def fMaxV (mx : Bool) : FVal → FVal → FVal × Nat
  | .nan, _ => (.nan, 0)
  | _, .nan => (.nan, 0)
  | x, y => ((if fLess x y = mx then y else x), 0)

/-- Saturation of an INT8 result to [-128, 127], recorded in INT_SAT (R66). -/
def satI8 (z : Int) : Nat × Nat :=
  if z > 127 then (127, flIntSat) else if z < -128 then (128, flIntSat) else (unsignedOf 8 z, 0)

end Sys2Proof.Machine
end

