-- ==== Sys2Proof/Machine/Memory.lean ====
section
/-! DEFINITION. The memories: sparse byte memories in canonical form, scratchpads with written bits (R173), HBM behind
the memory-side caches (R182 to R187) and companion memory (R313, R314). -/

namespace Sys2Proof.Machine

/-- The canonical form of a byte memory: addresses strictly rising and no byte 0 listed. -/
def memOk (m : Mem) : Bool :=
  m.all (fun c => c.2 != 0) && (m.zip m.tail).all (fun p => p.1.1 < p.2.1)

/-- The byte at an address; an unlisted address reads 0. -/
def memGet (m : Mem) (a : Nat) : Byte :=
  match m with
  | [] => 0
  | (k, b) :: t => if k = a then b else memGet t a

/-- The cells of a byte string laid out from an address, without its zero bytes. -/
def cellsOf : Nat → Bytes → Mem
  | _, [] => []
  | a, b :: t => if b = 0 then cellsOf (a + 1) t else (a, b) :: cellsOf (a + 1) t

/-- The memory with the bytes from address a replaced by a byte string. -/
def memPut (m : Mem) (a : Nat) (bs : Bytes) : Mem :=
  m.filter (fun c => c.1 < a) ++ cellsOf a bs ++ m.filter (fun c => a + bs.length ≤ c.1)

/-- Reads n bytes from address a, given the cells at a and above. -/
def memTake : Mem → Nat → Nat → Bytes
  | _, _, 0 => []
  | [], _, n + 1 => List.replicate (n + 1) 0
  | (k, b) :: t, a, n + 1 => if k = a then b :: memTake t (a + 1) n else 0 :: memTake ((k, b) :: t) (a + 1) n

/-- The n bytes from address a. -/
def memRead (m : Mem) (a n : Nat) : Bytes := memTake (m.filter (fun c => a ≤ c.1)) a n

/-- The numbers of the 1 KiB blocks that the bytes a to a + n - 1 touch. -/
def blocksOf (a n : Nat) : List Nat := if n = 0 then [] else rangeFrom (a / 1024) ((a + n - 1) / 1024 - a / 1024 + 1)

/-- True when the bytes a to a + n - 1 hold block b whole. -/
def coversBlock (a n b : Nat) : Bool := a ≤ 1024 * b && 1024 * (b + 1) ≤ a + n

/-- The poison marks after a write (R74, R75): a poisoned write marks every block it touches; a clean write clears the
mark of each block it covers whole. -/
def markBlocks (marked : List Nat) (a n : Nat) (poisoned : Bool) : List Nat :=
  (blocksOf a n).foldl (fun l b =>
    if poisoned then insertNat b l else if coversBlock a n b then removeNat b l else l) marked

/-- True when one of the bytes a to a + n - 1 lies in a marked block (R74). -/
def anyMarked (marked : List Nat) (a n : Nat) : Bool := (blocksOf a n).any (marked.contains ·)

/-- Sets the written bit of one block, writing zeros to a block that was not written (R173). -/
def scratchTouch (sc : Scratch) (b : Nat) : Scratch :=
  if sc.written.contains b then sc
  else { sc with data := memPut sc.data (1024 * b) (zeros 1024), written := insertNat b sc.written,
                 marked := removeNat b sc.marked }

/-- A write to a scratchpad (R173, R74). -/
def scratchWrite (sc : Scratch) (a : Nat) (bs : Bytes) (poisoned : Bool) : Scratch :=
  let sc := (blocksOf a bs.length).foldl scratchTouch sc
  { sc with data := memPut sc.data a bs, marked := markBlocks sc.marked a bs.length poisoned }

/-- A read of a scratchpad: a block whose written bit is clear reads zeros (R173). -/
def scratchRead (sc : Scratch) (a n : Nat) : Bytes :=
  mapIdxFrom (fun i b => if sc.written.contains (i / 1024) then b else 0) a (memRead sc.data a n)

/-- True when a read of a scratchpad meets a marked block that is written (R74). -/
def scratchMarked (sc : Scratch) (a n : Nat) : Bool :=
  (blocksOf a n).any (fun b => sc.written.contains b && sc.marked.contains b)

/-- Clears the written bits of blocks first to first + n - 1 (R173). -/
def scratchClear (sc : Scratch) (first n : Nat) : Scratch :=
  { sc with written := sc.written.filter (fun b => !(first ≤ b && b < first + n)) }

/-- The end of HBM in the device physical address space (R182). -/
def hbmEnd : Nat := 0x3000000000
/-- The start of the companion window (R313). -/
def compBase : Nat := 0x800000000000
/-- The end of the companion window (R313). -/
def compEnd : Nat := 0xC00000000000

/-- True for device physical addresses a to a + n - 1 wholly in HBM. -/
def inHbm (a n : Nat) : Bool := a + n ≤ hbmEnd
/-- True for device physical addresses a to a + n - 1 wholly in the companion window. -/
def inComp (a n : Nat) : Bool := compBase ≤ a && a + n ≤ compEnd

/-- The cache hints of R184 by their code; 3 is NORMAL, for accesses that no descriptor names. -/
def hintStream : Nat := 0
/-- KEEP. -/
def hintKeep : Nat := 1
/-- LAST. -/
def hintLast : Nat := 2
/-- NORMAL. -/
def hintNormal : Nat := 3

/-- The stack and set a line is held in: a device line in its stack, set line mod 4,096; the set function and the place
of companion lines are the model's (DESIGN CHOICE, log entry 11). -/
def cacheSet (line : Nat) : Nat :=
  if line * 64 < hbmEnd then (line / 2 ^ 28) * 4096 + line % 4096
  else ((line / 4096) % 12) * 4096 + line % 4096

/-- True for a companion line. -/
def isCompLine (line : Nat) : Bool := compBase ≤ line * 64

/-- The 64 bytes that HBM or companion memory holds for a line, whatever the cache holds. -/
def backRead (m : MemState) (line : Nat) : Bytes :=
  if isCompLine line then memRead m.comp (line * 64 - compBase) 64 else memRead m.hbm (line * 64) 64

/-- Removes every translation derived from a line (R346). -/
def dropXlate (m : MemState) (line : Nat) : MemState :=
  { m with xlate := m.xlate.filter (fun x => !x.lines.contains line) }

/-- Removes a line from the cache, writing a dirty one back first where `wb` is set (R185, R186). -/
def cacheDrop (m : MemState) (line : Nat) (wb : Bool) : MemState :=
  match m.cache.find? (·.line == line) with
  | none => m
  | some c =>
    let m := dropXlate m line
    let m := { m with cache := m.cache.filter (·.line != line) }
    if c.dirty && wb then { m with hbm := memPut m.hbm (line * 64) c.data } else m

/-- The last (least recently used) element of a list that passes a test; the cache list is kept most recent first. -/
def lruOf (l : List CacheLine) (p : CacheLine → Bool) : Option CacheLine := l.reverse.find? p

/-- Lowers the least recently used KEEP line of a line's set to normal where the set holds as many as it may (R186). -/
def lowerKeep (m : MemState) (keepMax line : Nat) : MemState :=
  let keeps := m.cache.filter (fun x => cacheSet x.line == cacheSet line && x.keep)
  if keeps.length < keepMax then m
  else match lruOf keeps (fun _ => true) with
    | some v => { m with cache := m.cache.map (fun x => if x.line == v.line then { x with keep := false } else x) }
    | none => m

/-- Makes room for a line and puts it in the cache as the most recent one (R186): where it would pass KEEP_WAYS_MAX, a KEEP line
is lowered first. -/
def cacheAlloc (m : MemState) (compWays keepMax : Nat) (c : CacheLine) : MemState :=
  if isCompLine c.line && compWays == 0 then m else
  let m := if c.keep then lowerKeep m keepMax c.line else m
  let set := m.cache.filter (fun x => cacheSet x.line == cacheSet c.line)
  let comps := (set.filter (fun x => isCompLine x.line)).length
  let victim :=
    if set.length < 16 then none
    else if isCompLine c.line then
      if comps ≥ compWays then lruOf set (fun x => isCompLine x.line)
      else lruOf set (fun x => !isCompLine x.line && !x.keep)
    else match lruOf set (fun x => !x.keep) with
      | some v => some v
      | none => lruOf set (fun _ => true)
  let m := match victim with
    | some v => cacheDrop m v.line true
    | none => m
  { m with cache := c :: m.cache }

/-- Raises a cached line to KEEP where asked, lowering the oldest KEEP line of a full set first, and makes it the most
recent (R184, R186). -/
def cacheTouch (m : MemState) (keepMax : Nat) (c : CacheLine) (raise : Bool) : MemState :=
  let m := if raise && !c.keep then lowerKeep m keepMax c.line else m
  { m with cache := { c with keep := c.keep || raise } :: m.cache.filter (·.line != c.line) }

/-- Cache limits in force: COMP_WAYS and KEEP_WAYS_MAX of each die (R191). -/
structure Ways where
  comp : List Nat
  keep : List Nat
  deriving DecidableEq, Repr

/-- The die whose caches hold a line (R182, R191). -/
def lineDie (line : Nat) : Nat := cacheSet line / 4096 / 6

/-- COMP_WAYS where a line is held. -/
def Ways.compAt (w : Ways) (line : Nat) : Nat := nth w.comp (lineDie line) 0

/-- KEEP_WAYS_MAX where a line is held. -/
def Ways.keepAt (w : Ways) (line : Nat) : Nat := nth w.keep (lineDie line) 0

/-- A read of one whole line through the cache (R184, R185). -/
def lineRead (m : MemState) (w : Ways) (hint line : Nat) : Bytes × MemState :=
  let hint := if isCompLine line then hintNormal else hint
  match m.cache.find? (·.line == line) with
  | some c =>
    if hint == hintLast then (c.data, cacheDrop m line false)
    else (c.data, cacheTouch m (w.keepAt line) c (hint == hintKeep))
  | none =>
    let d := backRead m line
    if hint == hintKeep || hint == hintNormal then (d, cacheAlloc m (w.compAt line) (w.keepAt line) ⟨line, hint == hintKeep, false, d⟩)
    else (d, m)

/-- A write of part of one line through the cache (R184); a companion line is written through (R314). -/
def lineWrite (m : MemState) (w : Ways) (hint line off : Nat) (bs : Bytes) : MemState :=
  let m := dropXlate m line
  if isCompLine line then
    { m with comp := memPut m.comp (line * 64 + off - compBase) bs
             cache := m.cache.map (fun c => if c.line == line then { c with data := patch c.data off bs } else c) }
  else
  match m.cache.find? (·.line == line) with
  | some c =>
    let m := cacheTouch m (w.keepAt line) { c with data := patch c.data off bs, dirty := true } (hint == hintKeep)
    if hint == hintLast then cacheDrop m line true else m
  | none =>
    if hint == hintKeep || hint == hintNormal then
      cacheAlloc m (w.compAt line) (w.keepAt line) ⟨line, hint == hintKeep, true, patch (backRead m line) off bs⟩
    else { m with hbm := memPut m.hbm (line * 64 + off) bs }

/-- The pieces (line, offset, length) of the device physical bytes a to a + n - 1. The first argument bounds the
number of pieces. -/
def linePieces : Nat → Nat → Nat → List (Nat × Nat × Nat)
  | 0, _, _ => []
  | f + 1, a, n =>
    if n = 0 then []
    else
      let k := min n (64 - a % 64)
      (a / 64, a % 64, k) :: linePieces f (a + k) (n - k)

/-- A read of device physical bytes through the caches. -/
def devRead (m : MemState) (w : Ways) (hint a n : Nat) : Bytes × MemState :=
  (linePieces (n / 64 + 2) a n).foldl (fun (acc : Bytes × MemState) p =>
    let (d, m) := lineRead acc.2 w hint p.1
    (acc.1 ++ slice d p.2.1 p.2.2, m)) ([], m)

/-- A write of device physical bytes through the caches, with the poison marks of HBM blocks (R74). Companion memory
keeps no marks. -/
def devWrite (m : MemState) (w : Ways) (hint a : Nat) (bs : Bytes) (poisoned : Bool) : MemState :=
  let r := (linePieces (bs.length / 64 + 2) a bs.length).foldl (fun (acc : MemState × Bytes) p =>
    (lineWrite acc.1 w hint p.1 p.2.1 (acc.2.take p.2.2), acc.2.drop p.2.2)) (m, bs)
  if inHbm a bs.length then { r.1 with hbmMarked := markBlocks r.1.hbmMarked a bs.length poisoned } else r.1

/-- What a read of device physical bytes would return now, leaving the caches as they are. -/
def devPeek (m : MemState) (a n : Nat) : Bytes :=
  (linePieces (n / 64 + 2) a n).foldl (fun (acc : Bytes) p =>
    let d := match m.cache.find? (·.line == p.1) with
      | some c => c.data
      | none => backRead m p.1
    acc ++ slice d p.2.1 p.2.2) []

/-- Writes back every dirty line and empties the caches (R187). -/
def cacheFlush (m : MemState) : MemState :=
  m.cache.foldl (fun m c => cacheDrop m c.line true) m

/-- Reads a span: bytes, whether a marked block was met, and the memory after the caches saw the read. -/
def spanRead (m : MemState) (w : Ways) (x : Span) : Bytes × Bool × MemState :=
  if x.sp == 0 then
    let (d, m') := devRead m w x.hint x.addr x.len
    (d, inHbm x.addr x.len && anyMarked m.hbmMarked x.addr x.len, m')
  else
    let sc := if x.sp == 1 then m.cs else if x.sp == 2 then m.ob else m.inf
    (scratchRead sc x.addr x.len, scratchMarked sc x.addr x.len, m)

/-- Writes a span. -/
def spanWrite (m : MemState) (w : Ways) (x : Span) (bs : Bytes) (poisoned : Bool) : MemState :=
  if x.sp == 0 then devWrite m w x.hint x.addr bs poisoned
  else if x.sp == 1 then { m with cs := scratchWrite m.cs x.addr bs poisoned }
  else if x.sp == 2 then { m with ob := scratchWrite m.ob x.addr bs poisoned }
  else { m with inf := scratchWrite m.inf x.addr bs poisoned }

/-- The bytes of a span as they stand, without an access. -/
def spanPeek (m : MemState) (x : Span) : Bytes :=
  if x.sp == 0 then devPeek m x.addr x.len
  else scratchRead (if x.sp == 1 then m.cs else if x.sp == 2 then m.ob else m.inf) x.addr x.len

/-- Reads a list of spans as one byte string. -/
def spansRead (m : MemState) (w : Ways) (xs : List Span) : Bytes × Bool × MemState :=
  xs.foldl (fun acc x =>
    let (d, p, m) := spanRead acc.2.2 w x
    (acc.1 ++ d, acc.2.1 || p, m)) ([], false, m)

/-- The bytes of a list of spans as they stand. -/
def spansPeek (m : MemState) (xs : List Span) : Bytes := (xs.map (spanPeek m)).flatten

/-- Bytes of block b of a space that a list of spans covers. -/
def spanCover (xs : List Span) (sp b : Nat) : Nat :=
  xs.foldl (fun n x =>
    if x.sp == sp then n + (min (x.addr + x.len) (1024 * (b + 1)) - max x.addr (1024 * b)) else n) 0

/-- Clears the marks of blocks that clean data has covered whole (R75). -/
def spansUnmark (m : MemState) (xs : List Span) : MemState :=
  let keep := fun sp (l : List Nat) => l.filter (fun b => spanCover xs sp b < 1024)
  { m with hbmMarked := keep 0 m.hbmMarked, cs := { m.cs with marked := keep 1 m.cs.marked },
           ob := { m.ob with marked := keep 2 m.ob.marked }, inf := { m.inf with marked := keep 3 m.inf.marked } }

/-- Writes a byte string over a list of spans. -/
def spansWrite (m : MemState) (w : Ways) (xs : List Span) (bs : Bytes) (poisoned : Bool) : MemState :=
  let m := (xs.foldl (fun (acc : MemState × Bytes) x =>
    (spanWrite acc.1 w x (acc.2.take x.len) poisoned, acc.2.drop x.len)) (m, bs)).1
  if poisoned then m else spansUnmark m xs

/-- The total length of a list of spans. -/
def spansLen (xs : List Span) : Nat := xs.foldl (fun n x => n + x.len) 0

/-- True when two lists of spans touch a common byte. -/
def spansMeet (xs ys : List Span) : Bool :=
  xs.any (fun x => ys.any (fun y =>
    x.sp == y.sp && x.addr < y.addr + y.len && y.addr < x.addr + x.len))

/-- The part of a list of spans from byte offset off, n bytes long. -/
def spansSlice : List Span → Nat → Nat → List Span
  | [], _, _ => []
  | x :: t, off, n =>
    if n = 0 then []
    else if off ≥ x.len then spansSlice t (off - x.len) n
    else
      let k := min n (x.len - off)
      { x with addr := x.addr + off, len := k } :: spansSlice t 0 (n - k)

/-- True when a block of a list of spans is marked (R74). -/
def spansMarked (m : MemState) (xs : List Span) : Bool :=
  xs.any (fun x =>
    if x.sp == 0 then inHbm x.addr x.len && anyMarked m.hbmMarked x.addr x.len
    else scratchMarked (if x.sp == 1 then m.cs else if x.sp == 2 then m.ob else m.inf) x.addr x.len)

/-- Every memory of a state in canonical form. -/
def MemState.ok (m : MemState) : Bool :=
  memOk m.hbm && memOk m.comp && memOk m.cs.data && memOk m.ob.data && memOk m.inf.data

end Sys2Proof.Machine
end

