-- ==== Sys2Proof/Machine/Settings.lean ====
section
/-! DEFINITION. The settings: identifiers (R333), ranges and defaults (R124, R140, R191, R246, R249, R285, R310, R351,
R408, R418), and the values in force. -/

namespace Sys2Proof.Machine

/-- The scope of a setting (R333). -/
inductive SScope where
  | context | die | module
  deriving DecidableEq, Repr

/-- One setting: identifier, scope, smallest and largest value, default. -/
structure SRow where
  id : Nat
  scope : SScope
  lo : Int
  hi : Int
  dflt : Int
  deriving DecidableEq, Repr

/-- NONE of BIND_m (R333). -/
def bindNone : Nat := 0xFFFFFFFF

/-- The settings but BIND_m. Values are in the setting's own unit; BUDGET_FLOOR and MSG_LOG2 in 1/16 bit. -/
def settingRows : List SRow := [
  ⟨0x0100, .context, 0, 2, 0⟩,
  ⟨0x0101, .context, 0, 0xFFFE, 0⟩,
  ⟨0x0102, .context, -1024, 1024, 0⟩,
  ⟨0x0103, .context, 0, 2 ^ 48 - 1, 0⟩,
  ⟨0x0104, .context, 0, 256, 0⟩,
  ⟨0x0105, .context, 12, 30, 20⟩,
  ⟨0x0106, .context, 0, 16383, 0⟩,
  ⟨0x0107, .context, 0, 16384, 0⟩] ++ [
  ⟨0x0200, .die, 0, 192, 128⟩,
  ⟨0x0201, .die, 0, 256, 64⟩,
  ⟨0x0202, .die, 1, 15, 12⟩,
  ⟨0x0203, .die, 0, 8, 4⟩,
  ⟨0x0204, .die, 0, 128, 32⟩,
  ⟨0x0205, .die, 0, 4096, 1600⟩] ++ [
  ⟨0x0300, .module, 1250, 1250000, 12500⟩,
  ⟨0x0301, .module, 1, 255, 3⟩,
  ⟨0x0302, .module, 0, 32, 16⟩,
  ⟨0x0303, .module, 1250, 12500000, 125000⟩,
  ⟨0x0304, .module, 64, 4096, 512⟩,
  ⟨0x0305, .module, 0, 0xFFFF, 0xFFFF⟩,
  ⟨0x0306, .module, 5, 250, 25⟩,
  ⟨0x0307, .module, 12500, 12500000, 1250000⟩,
  ⟨0x0308, .module, 0, 12500000, 125000⟩,
  ⟨0x0309, .module, 13, 125000, 125⟩,
  ⟨0x030A, .module, 0, 0xFF, 0⟩,
  ⟨0x030B, .module, 0, 8, 2⟩] ++ [
  ⟨0x030C, .module, 0, 32, 8⟩,
  ⟨0x030D, .module, 64, 8192, 1024⟩,
  ⟨0x030E, .module, 125, 12500000, 12500⟩,
  ⟨0x030F, .module, 1250, 1250000, 12500⟩,
  ⟨0x0310, .module, 10, 100, 60⟩,
  ⟨0x0311, .module, 12500, 125000000, 125000⟩,
  ⟨0x0312, .module, 0, 125000000, 1250000⟩,
  ⟨0x0313, .module, 0, 1, 0⟩,
  ⟨0x0314, .module, 600, 1650, 1650⟩,
  ⟨0x0315, .module, 70, 100, 95⟩,
  ⟨0x0316, .module, 90, 110, 105⟩,
  ⟨0x0317, .module, 13, 12500, 125⟩] ++ [
  ⟨0x0318, .module, 12500, 12500000, 1250000⟩,
  ⟨0x0319, .module, 1, 65535, 64⟩,
  ⟨0x031A, .module, 125, 125000000, 12500⟩,
  ⟨0x031B, .module, 125, 125000000, 1250000⟩,
  ⟨0x031C, .module, 0, 50, 10⟩,
  ⟨0x031D, .module, 1, 255, 4⟩,
  ⟨0x031E, .module, 1, 65535, 4096⟩]

/-- The row of an identifier; BIND_m lies at 0x0140 + m and takes a context number or NONE (R285, R333). -/
def settingRow (id : Nat) : Option SRow :=
  if 0x0140 ≤ id && id < 0x0180 then some ⟨id, .context, 0, bindNone, bindNone⟩
  else settingRows.find? (·.id == id)

/-- True when a value lies in the range of its setting. -/
def settingOk (id : Nat) (v : Int) : Bool :=
  match settingRow id with
  | none => false
  | some r => r.lo ≤ v && v ≤ r.hi && (!(0x0140 ≤ id && id < 0x0180) || v < 1048576 || v == bindNone)

/-- The context of a number, live or being destroyed. -/
def State.ctx? (s : State) (n : Nat) : Option Ctx := s.ctxs.find? (·.num == n)

/-- The default of a setting for a target; BUDGET_FLOOR depends on the scheme of the context (R124). -/
def settingDefault (s : State) (id target : Nat) : Int :=
  if id == 0x0101 then
    match s.ctx? target with
    | some c => if pScheme c.param == 0 then 160 else if pScheme c.param == 3 then 0 else 16
    | none => 160
  else match settingRow id with
    | some r => r.dflt
    | none => 0

/-- The value in force of a setting for a target: a context number, a die number, or 0 (R334). -/
def State.setting (s : State) (id target : Nat) : Int :=
  (assoc (id, target) s.cfg.values).getD (settingDefault s id target)

/-- A setting in force as a number. -/
def State.settingN (s : State) (id target : Nat) : Nat := (s.setting id target).toNat

/-- The value a setting will have once decided changes have taken effect (R336). -/
def State.settingNext (s : State) (id target : Nat) : Int :=
  (assoc (id, target) s.cfg.decided).getD (s.setting id target)

/-- Cache limits in force: COMP_WAYS and KEEP_WAYS_MAX of each die (R191). -/
def State.ways (s : State) : Ways :=
  ⟨[s.settingN 0x0203 0, s.settingN 0x0203 1], [s.settingN 0x0202 0, s.settingN 0x0202 1]⟩

/-- The context settings a dispatch keeps from its admission to its commit (R336). -/
def contextSettingIds : List Nat :=
  [0x0100, 0x0101, 0x0102, 0x0103, 0x0104, 0x0105, 0x0106, 0x0107] ++ rangeFrom 0x0140 64

end Sys2Proof.Machine
end

