-- ==== Sys2Proof/Machine/Ops.lean ====
section
/-! DEFINITION. Operations every family shares: units and time, look-up and update of contexts, dispatches, queues and
cores, events and records (R325, R350, R411), Marks (R242), faults of a dispatch (R73, R203, R307). -/

namespace Sys2Proof.Machine

/-- The outcome of a command. -/
abbrev Out := Host.Outcome State Fault Refusal

/-- The code of a fault (R5). -/
def FaultCode.code : FaultCode → Nat
  | .keyMismatch => 0x01
  | .noiseExhausted => 0x02
  | .levelUnderflow => 0x03
  | .descInvalid => 0x04
  | .descAlias => 0x05
  | .pageNotPresent => 0x06
  | .accessDenied => 0x07
  | .residueCheck => 0x08
  | .eccUncorrectable => 0x09
  | .linkLost => 0x0A
  | .handoffTimeout => 0x0B
  | .handoffTag => 0x0C
  | .creditViolation => 0x0D
  | .aborted => 0x0E
  | .admissionDenied => 0x0F
  | .txnConflict => 0x10
  | .paramRefused => 0x11
  | .handleStale => 0x12

/-- The value of a status (R6). -/
def Status.code : Status → Nat
  | .ok => 0
  | .notReady => 1
  | .released => 2
  | .busy => 3
  | .denied => 4

/-- The Relay of a core (R37). -/
def relayOf (core : Nat) : Nat := core / 4
/-- The Field of a core. -/
def fieldOf (core : Nat) : Nat := core / 16
/-- The die of a core. -/
def dieOf (core : Nat) : Nat := core / 64
/-- The die of a Relay. -/
def dieOfRelay (r : Nat) : Nat := r / 16
/-- The Field of a Relay. -/
def fieldOfRelay (r : Nat) : Nat := r / 4

/-- TICKS of the module split counter (R45). -/
def State.now (s : State) : Nat := s.pwr.ticks

/-- A split counter's TICKS as a unit of a level reads it: the module's own (level 5), another unit's at most 2 ticks behind
it (R46). -/
def State.unitTicks (s : State) (level unit : Nat) : Nat :=
  if level == 5 then s.now else s.now - min s.now (Config.skew level unit % 3)

/-- The 64-bit split counter of a level (R45). -/
def State.splitCounter (s : State) (level unit : Nat) : Nat := level * 2 ^ 56 + s.unitTicks level unit % 2 ^ 56

/-- A timeout of T ticks begun at a tick is due (R47). -/
def due (now start t : Nat) : Bool := now ≥ start + t + 1

/-- Draws a fresh free value number. -/
def State.draw (s : State) : Nat × State := (s.freeCtr, { s with freeCtr := s.freeCtr + 1 })

/-- A message leaves the module. -/
def State.emit (s : State) (m : Msg) : State := { s with sent := m :: s.sent }

/-- A dispatch by queue and sequence number. -/
def State.disp? (s : State) (d : DRef) : Option Dispatch := s.disps.find? (·.id == d)

/-- Replaces a dispatch in place. -/
def State.setDisp (s : State) (d : Dispatch) : State :=
  { s with disps := s.disps.map (fun x => if x.id == d.id then d else x) }

/-- Replaces a context in place. -/
def State.setCtx (s : State) (c : Ctx) : State :=
  { s with ctxs := s.ctxs.map (fun x => if x.num == c.num then c else x) }

/-- A queue by number that exists. -/
def State.queue? (s : State) (q : Nat) : Option Queue := s.queues.find? (fun x => x.num == q && x.alive)

/-- Replaces a queue in place. -/
def State.setQueue (s : State) (q : Queue) : State :=
  { s with queues := s.queues.map (fun x => if x.num == q.num then q else x) }

/-- A core whose registers hold zeros and whose flags are clear. -/
def CoreRegs.zero : CoreRegs :=
  { v := [], s := [], l := [], a := [], useV := [], useA := [], poisV := [], poisA := [], poisS := [], status := 0,
    gate := false, ck3 := 0, lastCtx := none }

/-- The registers of a core. -/
def State.core (s : State) (n : Nat) : CoreRegs := (assoc n s.cores).getD CoreRegs.zero

/-- Replaces the registers of a core. -/
def State.setCore (s : State) (n : Nat) (c : CoreRegs) : State := { s with cores := assocSet n c s.cores }

/-- The lead core of a placement: the core of lowest number (R233); 0 without a placement. -/
def Dispatch.lead (d : Dispatch) : Nat := d.cores.foldl min (d.cores.headD 0)

/-- A setting as a dispatch holds it from its admission (R336). -/
def Dispatch.set (d : Dispatch) (id : Nat) : Int := (assoc id d.cfg).getD 0

/-- The manager of a scratchpad, empty until something uses it. -/
def State.mgr (s : State) (m : Mgr) : Manager :=
  (assoc m s.mgrs).getD ⟨[], [], 1, 0, 0⟩

/-- Replaces a credit manager. -/
def State.setMgr (s : State) (m : Mgr) (x : Manager) : State := { s with mgrs := assocSet m x s.mgrs }

/-- Replaces a Field's record. -/
def State.modField (s : State) (f : Nat) (g : FieldState → FieldState) : State :=
  { s with fields := modNth g f s.fields }

/-- The record of a Field. -/
def State.field (s : State) (f : Nat) : FieldState := nth s.fields f FieldState.reset

/-- True when a Field runs and enters no other state (R403). -/
def State.fieldRuns (s : State) (f : Nat) : Bool := (s.field f).st == .run && (s.field f).entering.isNone

/-- A core is fenced, itself or with its Relay or Field (R413). -/
def State.coreFenced (s : State) (n : Nat) : Bool :=
  s.fence.cores.any (·.unit == n) || s.fence.relays.any (·.unit == relayOf n)
  || s.fence.fields.any (·.unit == fieldOf n)

/-- A fence of a core, its Relay or its Field acts at the boundary (R44, R415). -/
def State.coreGone (s : State) (n : Nat) : Bool :=
  s.fence.cores.any (fun f => f.unit == n && f.acts) || s.fence.relays.any (fun f => f.unit == relayOf n && f.acts)
  || s.fence.fields.any (fun f => f.unit == fieldOf n && f.acts)

/-- The cores of a Relay that are in service. -/
def State.relayCores (s : State) (r : Nat) : List Nat := (rangeFrom (4 * r) 4).filter (fun c => !s.coreFenced c)

/-- True when the module is in READY or RUN (R398). -/
def State.isUp (s : State) : Bool := s.pwr.st == .up

/-- True when the module is in REST, READY or RUN, on the way into REST or out of it (R398, R402). -/
def State.serves (s : State) : Bool :=
  match s.pwr.st with
  | .up => true
  | .rest => true
  | .restEntry => true
  | .restWake => true
  | _ => false

/-- True while RUN holds: a dispatch is placed or a Field is in F-RUN (R398). -/
def State.isRun (s : State) : Bool :=
  s.isUp && (s.disps.any (fun d => d.phase == .running) || s.fields.any (fun f => f.st == .run))

/-- A wake event of R402: from REST the module wakes; one that arrives during the entry lets the entry complete first. -/
def wakeRest (s : State) : State :=
  match s.pwr.st with
  | .rest => { s with pwr := { s.pwr with st := .restWake } }
  | .restEntry => { s with pwr := { s.pwr with wakeHeld := true } }
  | _ => s

/-- A host window access or a peer message that arrives in REST wakes the module, is held at its link, and is served in READY
(R402). -/
def State.holdAtLink (s : State) (i : Instr) : State :=
  if s.serves && !s.isUp then { wakeRest s with atLink := s.atLink ++ [i] } else s

/-- A doorbell waits behind a host window write that is held at the link (R317). -/
def bellWaits (s : State) : Bool :=
  s.atLink.any (fun i => match i with
    | .hostWindowAccess _ _ (.write _) => true
    | .hostWindowCas .. => true
    | _ => false)

/-- Work is admitted: READY or RUN, without the module fault state (R43, R409). -/
def State.admits (s : State) : Bool := s.isUp && !s.fence.moduleFault

/-- Writes to device physical memory on behalf of the module, NORMAL hint. -/
def State.devWr (s : State) (a : Nat) (bs : Bytes) : State :=
  { s with mem := devWrite s.mem s.ways hintNormal a bs false }

/-- Sends an interrupt message, or holds it until the link trains again (R318). -/
def State.interrupt (s : State) (v : Nat) : State :=
  if s.linkUp then s.emit (.interrupt v) else { s with ev := { s.ev with heldIrq := s.ev.heldIrq ++ [v] } }

/-- Puts a 64-byte entry into the event ring, or drops it when the ring is full (R325). -/
def State.ringPut (s : State) (e : Bytes) : State :=
  let used := (s.ev.prod + 2 ^ 32 - s.ev.cons) % 2 ^ 32
  if used ≥ 2 ^ s.ev.log2 then { s with ev := { s.ev with lost := satInc 32 s.ev.lost } }
  else
    let s := s.devWr (compBase + s.ev.base + (s.ev.prod % 2 ^ s.ev.log2) * 64) e
    let s := { s with ev := { s.ev with prod := (s.ev.prod + 1) % 2 ^ 32 } }
    if used == 0 then s.interrupt 64 else s

/-- Posts an event of a source (R325): into the boot fault buffer before EVENT_RING was set (R356, R411), into the
internal buffer while the link is down (R318), into the ring otherwise. -/
def State.post (s : State) (source : Nat) (record : Bytes) : State :=
  let s := { s with ev := { s.ev with seq := s.ev.seq + 1 } }
  let e := leBytes 1 source ++ zeros 7 ++ leBytes 8 s.ev.seq ++ slice record 0 48
  if !s.ev.on then
    if s.ev.boot.length < 64 then { s with ev := { s.ev with boot := s.ev.boot ++ [e] } }
    else { s with ev := { s.ev with lost := satInc 32 s.ev.lost } }
  else if !s.linkUp then
    if s.ev.held.length < 256 then { s with ev := { s.ev with held := s.ev.held ++ [e] } }
    else { s with ev := { s.ev with lost := satInc 32 s.ev.lost } }
  else s.ringPut e

/-- The numbers of an access in a fault record (R350). -/
def accCode : Access → Nat
  | .read => 1
  | .write => 2
  | .atomic => 3

/-- Phase of the module for a fault record (R350, R355). -/
def State.phaseCode (s : State) (f : Option Nat) : Nat :=
  if !s.isUp then 1 else
  match f with
  | none => 0
  | some f => match (s.field f).phase with
    | .service => 0
    | .test => 2
    | .recovery => 3

/-- A fault record (R350). -/
structure FRec where
  ctx : Nat
  fault : FaultCode
  access : Nat
  requester : Nat
  outcome : Nat
  addr : Nat
  dispatch : Option Dispatch
  unit : Nat
  level : Nat
  deriving DecidableEq, Repr

/-- Posts a fault record (R350). -/
def State.faultRec (s : State) (r : FRec) : State :=
  let (seq, q, ep) := match r.dispatch with
    | some d => (d.id.seq, d.id.queue, d.epoch)
    | none => (0, 0xFFFF, 0)
  s.post 2 (leBytes 4 r.ctx ++ leBytes 1 r.fault.code ++ leBytes 1 r.access ++ leBytes 1 r.requester
    ++ leBytes 1 r.outcome ++ leBytes 8 r.addr ++ leBytes 8 seq ++ leBytes 2 q ++ leBytes 2 r.unit ++ leBytes 4 ep
    ++ leBytes 8 (s.splitCounter 5 0) ++ leBytes 1 (s.phaseCode (if r.unit < 128 then some (fieldOf r.unit) else none))
    ++ leBytes 1 r.level ++ zeros 6)

/-- An error record (R411). -/
structure ERec where
  cls : Nat
  action : Nat
  kind : Nat
  fault : Nat
  unit : Nat
  addr : Nat
  count : Nat
  ctx : Nat
  dispatch : Option DRef
  tick : Nat
  deriving DecidableEq, Repr

/-- Posts an error record (R411); `tick` is the tick of the first event it tells. -/
def State.errRec (s : State) (r : ERec) : State :=
  let (seq, q) := match r.dispatch with
    | some d => (d.seq, d.queue)
    | none => (0, 0xFFFF)
  s.post 3 (leBytes 1 r.cls ++ leBytes 1 r.action ++ leBytes 1 r.kind ++ leBytes 1 r.fault ++ leBytes 2 r.unit
    ++ zeros 2 ++ leBytes 8 r.addr ++ leBytes 8 (5 * 2 ^ 56 + r.tick) ++ leBytes 4 r.count ++ leBytes 4 r.ctx
    ++ leBytes 8 seq ++ leBytes 2 q ++ zeros 6)

/-- CONTEXT_ID of a record that concerns no context. -/
def noCtx : Nat := 0xFFFFFFFF

/-- A Mark that nothing has allocated (R242). -/
def Mark.free : Mark := ⟨false, false, false, false, 0, 0⟩

/-- A Mark of the module. -/
def State.mark (s : State) (n : Nat) : Mark := (assoc n s.marks).getD Mark.free

/-- Replaces a Mark of the module. -/
def State.setMark (s : State) (n : Nat) (m : Mark) : State := { s with marks := assocSet n m s.marks }

/-- VALUE after an addition: it stops at 0xFFFF_FFFF and sets SAT (R243). -/
def Mark.add (m : Mark) (amount : Nat) : Mark :=
  if m.value + amount > 0xFFFFFFFF then { m with value := 0xFFFFFFFF, sat := true }
  else { m with value := m.value + amount }

/-- The 64-bit state word of a Mark (R242). -/
def Mark.word (m : Mark) : Nat :=
  flag m.alloc 63 + flag m.sat 62 + flag m.hostSig 61 + flag m.peerSig 60 + (m.owner % 2 ^ 20) * 2 ^ 32
    + m.value % 2 ^ 32

/-- Puts a signal onto the Mark network (R243, R245). -/
def State.signal (s : State) (x : MarkSig) : State := { s with markNet := s.markNet ++ [x] }

/-- The module Mark of a context Mark number in the range a dispatch resolved at its admission (R241, R429). -/
def Dispatch.markNum (d : Dispatch) (n : Nat) : Option Nat := if n < d.markCount then some (d.markBase + n) else none

/-- An instruction of the dispatch meets poison: the first poisoning fault is kept (R73). -/
def Dispatch.poison (d : Dispatch) (c : FaultCode) (instr : Nat) : Dispatch :=
  match d.firstPoison with
  | some _ => d
  | none => { d with firstPoison := some (c, instr) }

/-- True when control has reached the natural commit point: ret ended the program and nothing it issued is left
(R199, R307). -/
def Dispatch.finished (d : Dispatch) : Bool :=
  d.fin && d.streams.isEmpty && d.inflight.isEmpty && d.redo.isEmpty && d.stage == .between && d.ringPend.isNone

/-- A stopping fault, an abort or a hard fence wins the commit point unless an outcome has won it; one that comes after
completion has won it is late (R307). -/
def Dispatch.abort (d : Dispatch) (fault cause instr : Nat) : Dispatch :=
  match d.fate with
  | some _ => d
  | none =>
    if d.phase == .ended then d
    else if d.finished then { d with abortLate := true }
    else { d with fate := some ⟨2, fault, cause, instr⟩ }

/-- CAUSE of R289: a fault. -/
def causeFault : Nat := 2

/-- FAULT_INSTR when there is none. -/
def noInstr : Nat := 0xFFFFFFFF

/-- A fault stops the dispatch at an instruction (R203, R307). -/
def State.stop (s : State) (d : Dispatch) (c : FaultCode) (instr : Nat) : State :=
  s.setDisp (d.abort c.code causeFault instr)

/-- The free DMA engine of lowest number on a die (R353). -/
def freeEngine (s : State) (die : Nat) : Option Nat :=
  (List.range 4).find? (fun e => !s.dma.any (fun b => b.die == die && b.engine == some e))

/-- A transfer goes to the free engine of lowest number of a die, or waits for one (R353). -/
def startDma (s : State) (die : Nat) (job : DmaJob) : State :=
  { s with dma := s.dma ++ [⟨die, freeEngine s die, job⟩] }

/-- A transfer ends: its engine is free, and the oldest waiting transfer of the die takes it (R353). -/
def endDma (s : State) (p : DmaBusy → Bool) : State :=
  match s.dma.find? p with
  | none => s
  | some b =>
    let rest := s.dma.erase b
    match b.engine, rest.find? (fun y => y.die == b.die && y.engine.isNone) with
    | some e, some w => { s with dma := rest.map (fun y => if y == w then { y with engine := some e } else y) }
    | _, _ => { s with dma := rest }

/-- Why an operand cannot be used: a fault, a translation that ended (R203), or a page that requesters wait for
(R349) with its table entry. -/
inductive Stop where
  | fault (c : FaultCode)
  | page (c : FaultCode) (va : Nat) (acc : Access) (level : Nat)
  | absent (va : Nat) (acc : Access) (entryPa entry : Nat)
  deriving DecidableEq, Repr

/-- Lifts a check into a result. -/
def guardE (b : Bool) (c : FaultCode) : Except Stop Unit := if b then .ok () else .error (.fault c)

end Sys2Proof.Machine
end

