-- ==== Sys2Proof/Machine/Flags.lean ====
section
/-! DEFINITION. The registers of a core: reads and writes of vector groups, tiles, scalars and loop registers with
their in-use and poison flags (R50 to R54, R74, R75), and ARITH_STATUS (R67). -/

namespace Sys2Proof.Machine

/-- POISON_SEEN of ARITH_STATUS (R67). -/
def stPoisonSeen : Nat := 0x10

/-- Sets bits [4:0] of ARITH_STATUS (R67). -/
def CoreRegs.raise (c : CoreRegs) (flags : Nat) : CoreRegs :=
  { c with status := c.status ||| BitVec.ofNat 32 (flags % 32) }

/-- Counts one residue event in RESIDUE_EVENTS, which stops at 0xFFFF (R67, R73). -/
def CoreRegs.residue (c : CoreRegs) : CoreRegs :=
  let n := c.status.toNat
  { c with status := BitVec.ofNat 32 (satInc 16 (n / 65536) * 65536 + n % 65536) }

/-- A scalar register. -/
def CoreRegs.sget (c : CoreRegs) (n : Nat) : DWord := (assoc n c.s).getD 0

/-- Writes a scalar register; its poison flag becomes that of the value (R74, R75). -/
def CoreRegs.sput (c : CoreRegs) (n : Nat) (v : DWord) (poisoned : Bool) : CoreRegs :=
  { c with s := assocSet n v c.s
           poisS := if poisoned then insertNat n c.poisS else removeNat n c.poisS }

/-- A loop register. -/
def CoreRegs.lget (c : CoreRegs) (n : Nat) : Nat := ((assoc n c.l).getD 0).toNat

/-- Writes a loop register. -/
def CoreRegs.lput (c : CoreRegs) (n v : Nat) : CoreRegs := { c with l := assocSet n (BitVec.ofNat 32 v) c.l }

/-- The stored bits of a vector register as 1,024 bytes. -/
def CoreRegs.vStored (c : CoreRegs) (n : Nat) : Bytes :=
  match assoc n c.v with
  | none => zeros 1024
  | some ws => slice ((ws.map (fun w => leBytes 4 w.toNat)).flatten) 0 1024

/-- What a read of a vector register returns: zeros when its in-use flag is clear (R54). -/
def CoreRegs.vRead (c : CoreRegs) (n : Nat) : Bytes := if c.useV.contains n then c.vStored n else zeros 1024

/-- The little-endian words of a byte string, e bytes each, n of them. -/
def wordsOf (e : Nat) (bs : Bytes) : Nat → List Nat
  | 0 => []
  | n + 1 => leNat (slice bs 0 e) :: wordsOf e (bs.drop e) n

/-- The byte string of words, e bytes each. -/
def bytesOf (e : Nat) (ws : List Nat) : Bytes := (ws.map (leBytes e)).flatten

/-- Replaces the stored bits of a vector register. -/
def CoreRegs.vStore (c : CoreRegs) (n : Nat) (bs : Bytes) : CoreRegs :=
  { c with v := assocSet n ((wordsOf 4 bs 256).map (BitVec.ofNat 32)) c.v, useV := insertNat n c.useV }

/-- The registers of a group of cnt elements of e bytes from register n (R51). -/
def groupRegs (n e cnt : Nat) : List Nat := rangeFrom n (ceilDiv (cnt * e) 1024)

/-- The bytes of a register group. -/
def CoreRegs.groupBytes (c : CoreRegs) (n e cnt : Nat) : Bytes :=
  slice (((groupRegs n e cnt).map c.vRead).flatten) 0 (cnt * e)

/-- The elements of a register group (R51): element j lies at byte e · j of the group. -/
def CoreRegs.groupRead (c : CoreRegs) (n e cnt : Nat) : List Nat := wordsOf e (c.groupBytes n e cnt) cnt

/-- True when a register of a list is poisoned. -/
def CoreRegs.vPois (c : CoreRegs) (rs : List Nat) : Bool := rs.any (c.poisV.contains ·)

/-- Writes bytes over the start of one vector register: the rest of it keeps its contents (R52), its in-use flag is
set (R53), and its poison flag is set by poisoned data and cleared only by a clean write of the whole register (R75). -/
def CoreRegs.vWrite (c : CoreRegs) (n : Nat) (bs : Bytes) (poisoned : Bool) : CoreRegs :=
  let c := c.vStore n (patch (c.vStored n) 0 (bs.take 1024))
  { c with poisV := if poisoned then insertNat n c.poisV
                    else if bs.length ≥ 1024 then removeNat n c.poisV else c.poisV }

/-- Writes a byte string over a register group, register by register. -/
def CoreRegs.groupBytesWrite (c : CoreRegs) : List Nat → Bytes → Bool → CoreRegs
  | [], _, _ => c
  | r :: t, bs, p => CoreRegs.groupBytesWrite (c.vWrite r (bs.take 1024) p) t (bs.drop 1024) p

/-- Writes elements 0 to c - 1 of a register group and nothing else (R51, R52). -/
def CoreRegs.groupWrite (c : CoreRegs) (n e : Nat) (vals : List Nat) (poisoned : Bool) : CoreRegs :=
  c.groupBytesWrite (groupRegs n e vals.length) (bytesOf e vals) poisoned

/-- A tile that nothing has written. -/
def Tile.zero : Tile := ⟨[], [], .none⟩

/-- The stored tile. -/
def CoreRegs.tStored (c : CoreRegs) (n : Nat) : Tile := (assoc n c.a).getD Tile.zero

/-- What a read of a tile's cell j returns: zero when the in-use flag is clear (R54). -/
def CoreRegs.cell (c : CoreRegs) (n j : Nat) : Nat :=
  if c.useA.contains n then (nth (c.tStored n).cells j 0).toNat else 0

/-- Replaces a tile: every cell is written, so the poison flag becomes that of the data (R53, R75). -/
def CoreRegs.tWrite (c : CoreRegs) (n : Nat) (t : Tile) (poisoned : Bool) : CoreRegs :=
  { c with a := assocSet n t c.a, useA := insertNat n c.useA
           poisA := if poisoned then insertNat n c.poisA else removeNat n c.poisA }

/-- rel of one register and one tile (R53, R75). -/
def CoreRegs.relV (c : CoreRegs) (n : Nat) : CoreRegs :=
  { c with useV := removeNat n c.useV, poisV := removeNat n c.poisV }
/-- rel of a tile. -/
def CoreRegs.relA (c : CoreRegs) (n : Nat) : CoreRegs :=
  { c with useA := removeNat n c.useA, poisA := removeNat n c.poisA }

/-- What the Starter clears on a core before the first instruction of a dispatch (R54): in-use and poison flags,
scalar and loop registers, and bits [4:0] of ARITH_STATUS. Storage of vector registers and tiles stays. -/
def CoreRegs.startClear (c : CoreRegs) (gate : Bool) : CoreRegs :=
  { c with s := [], l := [], useV := [], useA := [], poisV := [], poisA := [], poisS := []
           status := BitVec.ofNat 32 (c.status.toNat / 32 * 32), gate := gate }

/-- The scalar operand of an instruction: a register, or its immediate (R223). -/
def CoreRegs.sval (c : CoreRegs) (v : SVal) : DWord :=
  match v with
  | .reg n => c.sget n
  | .imm w => w

/-- The scalar registers an operand reads. -/
def svalRegs (v : SVal) : List Nat :=
  match v with
  | .reg n => [n]
  | .imm _ => []

/-- True when a scalar operand is poisoned. -/
def CoreRegs.svalPois (c : CoreRegs) (v : SVal) : Bool :=
  match v with
  | .reg n => c.poisS.contains n
  | .imm _ => false

end Sys2Proof.Machine
end

