-- ==== Sys2Proof/Machine/Walk.lean ====
section
/-! DEFINITION. Address translation (R341 to R348) and the physical spans of a virtual or logical range (R154, R172). -/

namespace Sys2Proof.Machine

/-- True when two byte ranges meet. -/
def meets (a n b m : Nat) : Bool := a < b + m && b < a + n

/-- True when a range touches the reserved map (R344). -/
def State.isReserved (s : State) (a n : Nat) : Bool := s.mem.reserved.any (fun r => meets a n r.1 r.2)

/-- True when a range touches a frame sealed to a context other than the one named, or a frame being zeroed (R381). -/
def State.sealedOther (s : State) (ctx : Option Nat) (a n : Nat) : Bool :=
  s.ctxs.any (fun c => some c.num != ctx && c.sealed.any (fun f => meets a n (f * 65536) 65536))
  || s.rsp.zeroing.any (fun z => z.2.any (fun f => meets a n (f * 65536) 65536))

/-- True when a range touches a sealed frame of any context (R381). -/
def State.sealedAny (s : State) (a n : Nat) : Bool := s.sealedOther none a n

/-- Shift of the index and page size of a walk level: level 0 to 3 (R342). -/
def levelShift (l : Nat) : Nat := if l == 0 then 39 else if l == 1 then 30 else if l == 2 then 21 else 16

/-- Bytes of the table of a level (R342). -/
def tableSize (l : Nat) : Nat := if l == 3 then 256 else 4096

/-- Index of a virtual address in the table of a level (R342). -/
def tableIndex (l va : Nat) : Nat := bits va (if l == 3 then 20 else levelShift l + 8) (levelShift l)

/-- What a walk finds. -/
inductive WalkRes where
  | leaf (base size pa : Nat) (rd wr : Bool) (lines : List Nat)
  | bad (c : FaultCode) (level : Nat)
  | absent (level entryPa entry : Nat)
  deriving DecidableEq, Repr

/-- PT_ROOT names a pinned context (R341). -/
def Ctx.pinned (c : Ctx) : Bool := bit c.ptRoot 0

/-- Check 2 of R345 on an entry at a level. -/
def entryWellFormed (l e : Nat) : Bool :=
  if bit e 0 then
    bits e 63 48 == 0 && bits e 7 5 == 0 && !bit e 1 &&
    (if bit e 2 then l != 0 && (bits e 47 8 * 256) % 2 ^ levelShift l == 0
     else l != 3 && !bit e 3 && !bit e 4 && (bits e 47 8 * 256) % tableSize (l + 1) == 0)
  else
    let kind := bits e 2 1
    kind == 0 || (kind == 1 && l == 3 && bits e 11 5 == 0)

/-- Check 3 of R345: the access an entry's RD and WR allow. -/
def permits (rd wr : Bool) (acc : Access) : Bool :=
  match acc with
  | .read => rd
  | _ => rd && wr

/-- The walk from a level with the table at an address (R345). -/
def walkFrom (s : State) (c : Ctx) (va : Nat) (acc : Access) : Nat → Nat → Nat → List Nat → WalkRes
  | 0, _, _, _ => .bad .accessDenied 3
  | fuel + 1, l, table, lines =>
    let n := tableSize l
    if !((inHbm table n || (inComp table n && !c.pinned)) && !s.isReserved table n) then .bad .accessDenied l
    else if inComp table n && !s.linkUp then .bad .linkLost l
    else
      let ea := table + 8 * tableIndex l va
      let frozen := assoc table c.frozen
      if frozen.isNone && inHbm ea 8 && anyMarked s.mem.hbmMarked ea 8 then .bad .eccUncorrectable l
      else
        let e := match frozen with
          | some t => field t (8 * tableIndex l va) 8
          | none => leNat (devPeek s.mem ea 8)
        let lines := if frozen.isNone then lines ++ [ea / 64] else lines
        let last := bit e 2 || (!bit e 0 && bits e 2 1 == 1)
        if !entryWellFormed l e then .bad .accessDenied l
        else if last && !permits (bit e 3) (bit e 4) acc then .bad .accessDenied l
        else if !bit e 0 then (if c.pinned then .bad .pageNotPresent l else .absent l ea e)
        else if bit e 2 then
          let size := 2 ^ levelShift l
          let pa := bits e 47 8 * 256
          if (inHbm pa size || (inComp pa size && c.frozen.isEmpty)) && !s.isReserved pa size
              && !s.sealedOther (some c.num) (pa + va % size / 65536 * 65536) 65536
          then .leaf (va / size * size) size pa (bit e 3) (bit e 4) lines
          else .bad .accessDenied l
        else walkFrom s c va acc fuel (l + 1) (bits e 47 8 * 256) lines

/-- A walk of a virtual address of a context (R345). -/
def walk (s : State) (c : Ctx) (va : Nat) (acc : Access) : WalkRes :=
  walkFrom s c va acc 4 0 (bits c.ptRoot 47 12 * 4096) []

/-- Translates one address, or tells why it cannot be. -/
def xlate (s : State) (c : Ctx) (va : Nat) (acc : Access) : Except Stop Nat :=
  if va ≥ 2 ^ 48 then .error (.page .accessDenied va acc 0xFF) else
  match walk s c va acc with
  | .leaf base _ pa _ _ _ =>
    let a := pa + (va - base)
    if inComp a 1 && !s.linkUp then .error (.page .linkLost va acc 0xFF) else .ok a
  | .bad f l => .error (.page f va acc l)
  | .absent _ ea e => .error (.absent va acc ea e)

/-- The physical spans of n bytes from a virtual address, 64 KiB page piece by page piece. -/
def vaSpans (s : State) (c : Ctx) (acc : Access) (hint : Nat) : Nat → Nat → Nat → Except Stop (List Span)
  | 0, _, _ => .ok []
  | fuel + 1, va, n =>
    if n = 0 then .ok [] else
    let k := min n (65536 - va % 65536)
    match xlate s c va acc with
    | .error e => .error e
    | .ok a => match vaSpans s c acc hint fuel (va + k) (n - k) with
      | .error e => .error e
      | .ok t => .ok (⟨0, a, k, hint, some va⟩ :: t)

/-- The spans of n bytes from a virtual address. -/
def vaRange (s : State) (c : Ctx) (acc : Access) (hint va n : Nat) : Except Stop (List Span) :=
  vaSpans s c acc hint (n / 65536 + 2) va n

/-- The physical segment that a logical segment of a unit's map names for a dispatch (R172): its own SCRATCH segment,
or a HELD segment of its context. -/
def segFind (m : List SegMap) (unit ctx : Nat) (d : Option DRef) (logical : Nat) : Option Nat :=
  match m.find? (fun x => x.unit == unit && x.ctx == ctx && x.logical == logical
      && (x.owner == none || x.owner == d)) with
  | some x => some x.phys
  | none => none

/-- The physical Core Store address of a swizzled logical address on a core (R161, R172). -/
def csAddr (s : State) (core ctx : Nat) (d : Option DRef) (mode a : Nat) : Option Nat :=
  match segFind s.mem.csMap core ctx d (a / 65536) with
  | none => none
  | some p => some (core * 2 ^ 21 + p * 65536 + swzAddr mode (a % 2 ^ 21) % 65536)

/-- The physical Infield Store address of a logical address on a die (R172). -/
def infAddr (s : State) (die ctx : Nat) (d : Option DRef) (a : Nat) : Option Nat :=
  match segFind s.mem.ifMap die ctx d (a / 2 ^ 20) with
  | none => none
  | some p => some (die * 2 ^ 28 + p * 2 ^ 20 + a % 2 ^ 20)

/-- The spans of n logical bytes of a scratchpad space, in pieces that neither a chunk of the swizzle nor a segment
crosses. An unmapped segment raises ACCESS_DENIED (R172). -/
def padSpans (s : State) (core ctx : Nat) (d : Option DRef) (sp mode : Nat) :
    Nat → Nat → Nat → Except Stop (List Span)
  | 0, _, _ => .ok []
  | fuel + 1, a, n =>
    if n = 0 then .ok [] else
    let grain := if sp == 1 && mode != 0 then 32 else 1024
    let k := min n (grain - a % grain)
    let at_ := if sp == 1 then (csAddr s core ctx d mode a).map (fun x => (1, x))
      else if sp == 4 then some (2, (4 * core + bits a 17 16) * 65536 + a % 65536)
      else (infAddr s (if sp == 2 then dieOf core else 1 - dieOf core) ctx d a).map (fun x => (3, x))
    match at_ with
    | none => .error (.fault .accessDenied)
    | some (tag, x) => match padSpans s core ctx d sp mode fuel (a + k) (n - k) with
      | .error e => .error e
      | .ok t => .ok (⟨tag, x, k, 0, none⟩ :: t)

/-- The spans of n bytes at an address of a space (R154), as a dispatch's core reaches them. -/
def spaceSpans (s : State) (c : Ctx) (d : Option DRef) (core : Nat) (acc : Access) (hint sp mode a n : Nat) :
    Except Stop (List Span) :=
  if sp == 0 then vaRange s c acc hint a n else padSpans s core c.num d sp mode (n / 32 + 2) a n

/-- A translation of an address for an access is in a unit's cache (R346). -/
def xlateHeld (m : MemState) (u : XUnit) (ctx va : Nat) (acc : Access) : Bool :=
  m.xlate.any (fun x => x.unit == u && x.ctx == ctx && x.va ≤ va && va < x.va + x.size && permits x.rd x.wr acc)

/-- Adds a translation to a unit's cache: 64 entries a core, 4,096 a die, the oldest leaving first (R346; the order is
the model's, log entry 11). -/
def xlateAdd (m : MemState) (x : Xlate) : MemState :=
  let mine := m.xlate.filter (fun y => y.unit == x.unit)
  let cap := match x.unit with
    | .core _ => 64
    | .die _ => 4096
  let rest := m.xlate.filter (fun y => y.unit != x.unit)
  { m with xlate := x :: mine.take (cap - 1) ++ rest }

end Sys2Proof.Machine
end

