-- ==== Sys2Proof/Machine/Operands.lean ====
section
/-! DEFINITION. Issue of an AVIS instruction (R77, R211), resolution of its handles (R148 to R156), object operands
(R20, R23, R156) and object destinations (R19, R227). -/

namespace Sys2Proof.Machine

/-- An instruction that uses nothing. -/
def Use.none : Use := ⟨[], [], [], [], [], [], [], [], [], Option.none⟩

/-- Two lists of numbers share one. -/
def share (a b : List Nat) : Bool := a.any (b.contains ·)

/-- One instruction must wait for another in flight (R77): it reads or writes what the other writes, or writes what the
other reads. -/
def Use.waits (x y : Use) : Bool :=
  share x.rv y.wv || share x.wv y.wv || share x.wv y.rv
  || share x.rt y.wt || share x.wt y.wt || share x.wt y.rt
  || share x.rs y.ws || share x.ws y.ws || share x.ws y.rs
  || spansMeet x.rd y.wr || spansMeet x.wr y.wr || spansMeet x.wr y.rd

/-- An instruction must wait for something its dispatch has in flight: an engine instruction or a stream (R77, R198). -/
def Dispatch.blocked (d : Dispatch) (u : Use) : Bool :=
  d.inflight.any (fun f => u.waits f.use) || d.streams.any (fun f => u.waits f.use)

/-- A loop register must keep its value for an instruction in flight that reads it (R77). -/
def Dispatch.readsLoop (d : Dispatch) (l : Nat) : Bool := d.inflight.any (fun f => f.use.rl.contains l)

/-- An engine's queue has room: it holds up to 4 instructions (R77). -/
def Dispatch.engineFree (d : Dispatch) (e : Nat) : Bool := (d.inflight.filter (·.engine == e)).length < 4

/-- The point at which the instruction being issued starts: 0, or the k-step that a stop left it at (R96). -/
def Dispatch.startPoint (d : Dispatch) : Nat :=
  match d.redo with
  | r :: _ => r.point.getD 0
  | [] => 0

/-- The instruction word at an index of a program's code section. -/
def Program.word (p : Program) (i : Nat) : Nat := ((p.code[i]?).getD 0).toNat

/-- The instruction at an index of a program, and its length in words. -/
def Program.fetch (p : Program) (d : DRef) (i : Nat) : Option (Instr × Nat) :=
  if i < p.code.length then decodeAvis d (p.word i) (p.word (i + 1)) else Option.none

/-- The innermost active lap, if control stands at its end (R236): at its target without having left its body. -/
def Dispatch.atLapEnd (d : Dispatch) : Option LapState :=
  match d.laps with
  | l :: _ => if l.target == d.pc && l.depth == d.calls.length then some l else Option.none
  | [] => Option.none

/-- Every core of a dispatch runs: its Field is in F-RUN and no debug halt holds it (R390, R403). -/
def State.coresRun (s : State) (d : Dispatch) : Bool :=
  d.cores.all (fun c => s.fieldRuns (fieldOf c) && !s.rsp.halted.contains (.core c))

/-- The index of the instruction that a dispatch issues next: the first that a stop left to be issued again, or the one at
its AVIS_PC (R208). -/
def Dispatch.next (d : Dispatch) : Nat :=
  match d.redo with
  | r :: _ => r.instr
  | [] => d.pc

/-- Control may pass to the instruction at AVIS_PC: the program goes on, it waits for nothing, and no ring-configuration
write, stage end or lap end stands before it (R70, R199, R236, R244). -/
def Dispatch.flows (d : Dispatch) : Bool :=
  !d.fin && d.wait.isNone && d.ringPend.isNone && d.stage != .ending && d.atLapEnd.isNone

/-- The dispatch an instruction command names, if the dispatch stands at exactly that instruction and may issue it: it
runs, nothing holds it, its outcome is open, and the word at its index decodes to the command's instruction. What a stop left
to be issued again comes before everything else (R208). -/
def State.ready (s : State) (d : DRef) (i : Instr) : Option (Dispatch × Ctx × Nat) :=
  match s.disp? d with
  | Option.none => Option.none
  | some x =>
    match s.ctx? x.ctx, x.prog.fetch d x.next with
    | some c, some (j, n) =>
      if j = i && x.phase == .running && x.fate.isNone && (!x.redo.isEmpty || x.flows) && s.coresRun x && s.isUp
      then some (x, c, n) else Option.none
    | _, _ => Option.none

/-- Why an instruction does not take effect at issue: a reason to stop; the state it leaves where it has begun, the object
destination begun, and a reason to stop; or something it must wait for. -/
inductive Halt where
  | stop (r : Stop)
  | part (s : State) (begun : List Begun) (r : Stop)
  | busy
  deriving DecidableEq, Repr

/-- A requester halts on a missing page (R202, R349, R352), and the Marshal is told once for each page. -/
def State.askPage (s : State) (x : Dispatch) (req : Nat) (va : Nat) (acc : Access) (ea e : Nat) : State :=
  let page := va / 65536 * 65536
  if s.pageWaits.any (fun p => p.ctx == x.ctx && p.page == page) then s
  else { s with pageWaits := s.pageWaits ++
    [{ ctx := x.ctx, page := page, fill := bits e 2 1 == 1, started := false, entryPa := ea, entry := e, posted := false
       since := s.now, limit := 0, lastWalk := s.now, req := req, unit := x.lead, who := x.id, acc := acc, va := va }] }

/-- The handle references of an instruction. -/
def handlesOf (i : Instr) : List HRef :=
  match i with
  | .nttF _ rd ra rb _ _ => [rd, ra, rb]
  | .nttI _ rd ra rb _ _ => [rd, ra, rb]
  | .auto _ rd ra .. => [rd, ra]
  | .cvtUp _ rd ra .. => [rd, ra]
  | .cvtDown _ rd ra .. => [rd, ra]
  | .cvtRescale _ rd ra => [rd, ra]
  | .cvtMm _ f => [f.rdr]
  | .cvtDrain _ rdr .. => [rdr]
  | .ksPrep _ rd ra _ => [rd, ra]
  | .ksIp _ rd ra rb rc _ => [rd, ra, rb, rc]
  | .ksFin _ rd ra rb .. => [rd, ra, rb]
  | .vAddObj _ rd ra rb => [rd, ra, rb]
  | .vSubObj _ rd ra rb => [rd, ra, rb]
  | .vMulObj _ rd ra rb => [rd, ra, rb]
  | .xpose _ rd ra _ => [rd, ra]
  | .sLd _ f | .sSt _ f | .sPut _ f | .sGet _ f => f.rm :: (match f.other with
    | .rn h => [h]
    | .vr _ => [])
  | .winOpen _ f => [f.rm]
  | .winClose _ rm _ => [rm]
  | .atAddM _ f | .atAddI _ f | .atAddF _ f | .atCas _ f => [f.rm]
  | .scLd _ _ h .. | .scSt _ _ h .. | .scHdr _ _ h _ => [h]
  | .hdrW _ rd ra .. => [rd, ra]
  | .handoffOut _ h .. => [h]
  | .handoffIn _ h .. => [h]
  | _ => []

/-- A missing page halts an instruction, which keeps the descriptors it resolved at issue (R151). One that a stop left to be
issued again waits beside whatever the dispatch waits for. -/
def State.pageHalt (s : State) (x : Dispatch) (req : Nat) (va : Nat) (acc : Access) (ea e : Nat) : State :=
  let page := va / 65536 * 65536
  let y := match x.redo with
    | [] => { x with wait := some (.page x.next page) }
    | r :: t => { x with redo := { r with page := some page } :: t }
  (s.setDisp y).askPage x req va acc ea e

/-- The level a walk of an address ends at, for WALK_LEVEL (R350). -/
def walkLevel (s : State) (c : Ctx) (va : Nat) (acc : Access) : Nat :=
  match walk s c va acc with
  | .leaf .. => 0xFF
  | .bad _ l => l
  | .absent l _ _ => l

/-- A translation that ended with a fault: the record FINAL and the stop of the dispatch (R203, R345, R355). -/
def State.finalPage (s : State) (x : Dispatch) (requester unit : Nat) (c : FaultCode) (va : Nat) (acc : Access)
    (level instr : Nat) : State :=
  (s.faultRec { ctx := x.ctx, fault := c, access := accCode acc, requester := requester, outcome := 4, addr := va,
                dispatch := some x, unit := unit, level := level }).stop x c instr

/-- What becomes of an instruction that meets a reason not to take effect. -/
def State.halt (s : State) (x : Dispatch) (requester : Nat) (r : Stop) : State :=
  match r with
  | .fault c => s.stop x c x.next
  | .page c va acc l => s.finalPage x requester x.lead c va acc l x.next
  | .absent va acc ea e =>
    if bits e 2 1 == 0 && s.settingN 0x0312 0 == 0 then
      let l := match s.ctx? x.ctx with
        | some c => walkLevel s c va acc
        | Option.none => 0xFF
      s.finalPage x requester x.lead .pageNotPresent va acc l x.next
    else s.pageHalt x requester va acc ea e

/-- A refusal inside a meaning. -/
def fail {α : Type} (c : FaultCode) : Except Halt α := .error (.stop (.fault c))

/-- A check inside a meaning. -/
def need (b : Bool) (c : FaultCode) : Except Halt Unit := if b then .ok () else fail c

/-- Nothing in flight may stand in the way (R77). -/
def free (x : Dispatch) (u : Use) : Except Halt Unit := if x.blocked u then .error .busy else .ok ()

/-- Lifts a translation result. -/
def lift {α : Type} (r : Except Stop α) : Except Halt α :=
  match r with
  | .ok a => .ok a
  | .error e => .error (.stop e)

/-- The fault code of a dispatch's first poisoning fault (R76). -/
def Dispatch.poisonCode (x : Dispatch) : FaultCode :=
  match x.firstPoison with
  | some (c, _) => c
  | Option.none => .eccUncorrectable

/-- A control or addressing value must not come from a poisoned scalar (R76). -/
def cleanS (x : Dispatch) (r : CoreRegs) (v : SVal) : Except Halt Unit :=
  if r.svalPois v then fail x.poisonCode else .ok ()

/-- The dispatch with its AVIS_PC moved past n words. -/
def Dispatch.adv (x : Dispatch) (n : Nat) : Dispatch := { x with pc := x.pc + n }

/-- Replaces the lead core's registers and the dispatch. -/
def State.put2 (s : State) (x : Dispatch) (r : CoreRegs) : State := (s.setCore x.lead r).setDisp x

/-- A resolved handle. -/
structure Opnd where
  index : Nat
  raw : Bytes
  deriving DecidableEq, Repr

/-- A descriptor-table entry; an entry nothing has written is FREE with generation 1 (R149). -/
def Ctx.desc (c : Ctx) (i : Nat) : DescEntry := (assoc i c.descs).getD ⟨false, 1, []⟩

/-- The 32-bit handle a reference gives: a literal with its bound generation (R216), bits [31:0] of a scalar (R148), or
the null handle. -/
def href (x : Dispatch) (r : CoreRegs) (h : HRef) : Nat :=
  match h with
  | .lit i => ((assoc i x.prog.binds).getD 0) * 2 ^ 24 + i
  | .reg n => (r.sget n).toNat % 2 ^ 32
  | .null => 0

/-- The scalars a handle reference reads. -/
def hrefRegs (h : HRef) : List Nat :=
  match h with
  | .reg n => [n]
  | _ => []

/-- Checks 1 and 2 of R151 on a handle. -/
def handleCheck (c : Ctx) (v : Nat) : Except FaultCode Opnd :=
  let i := v % 2 ^ 24
  if v == 0 || i ≥ c.descEntries then .error .descInvalid
  else
    let e := c.desc i
    if e.valid && e.gen == v / 2 ^ 24 then .ok ⟨i, e.raw⟩ else .error .handleStale

/-- The descriptor that a handle names for an instruction of a dispatch: the one it kept while a page was missing, or the
table's (R151). -/
def descOf (x : Dispatch) (c : Ctx) (v : Nat) : Except FaultCode Opnd :=
  match assoc v x.kept with
  | some raw => .ok ⟨v % 2 ^ 24, raw⟩
  | Option.none => handleCheck c v

/-- The descriptors that an instruction of a dispatch resolves now, by handle (R151). -/
def keepDescs (x : Dispatch) (c : Ctx) (r : CoreRegs) (i : Instr) : List (Nat × Bytes) :=
  (handlesOf i).filterMap (fun h => match descOf x c (href x r h) with
    | .ok o => some (href x r h, o.raw)
    | .error _ => Option.none)

/-- Resolves a handle reference: the poison check of R76 on its scalar, checks 1 to 3 of R151, and OBJECT of check 4. -/
def resolve (x : Dispatch) (c : Ctx) (r : CoreRegs) (h : HRef) (dst obj : Bool) : Except Halt Opnd := do
  match h with
  | .reg n => cleanS x r (.reg n)
  | _ => pure ()
  match descOf x c (href x r h) with
  | .error e => fail e
  | .ok o => do
    need (!dst || dWrite o.raw) .accessDenied
    need (dObj o.raw == obj) .descInvalid
    pure o

/-- Resolves a handle whose operand may be an object or a plain tensor. -/
def resolveAny (x : Dispatch) (c : Ctx) (r : CoreRegs) (h : HRef) (dst : Bool) : Except Halt Opnd := do
  match h with
  | .reg n => cleanS x r (.reg n)
  | _ => pure ()
  match descOf x c (href x r h) with
  | .error e => fail e
  | .ok o => do
    need (!dst || dWrite o.raw) .accessDenied
    pure o

/-- The spans of n bytes at a logical offset of a descriptor's space, seen from a dispatch. -/
def opSpans (s : State) (x : Dispatch) (c : Ctx) (acc : Access) (d : Bytes) (a n : Nat) : Except Stop (List Span) :=
  spaceSpans s c (some x.id) x.lead acc (dHint d) (dSpace d) (dSwz d) a n

/-- The spans of elements 0 to cnt - 1 of a plain descriptor, in element order (R155). -/
def elemSpans (s : State) (x : Dispatch) (c : Ctx) (acc : Access) (d : Bytes) : List Nat → Except Stop (List Span)
  | [] => .ok []
  | j :: t => match opSpans s x c acc d (dAddr d j) (dE d) with
    | .error e => .error e
    | .ok a => match elemSpans s x c acc d t with
      | .error e => .error e
      | .ok b => .ok (a ++ b)

/-- The spans of the first cnt elements of a plain descriptor in element order (R155). -/
def tensorSpans (s : State) (x : Dispatch) (c : Ctx) (acc : Access) (d : Bytes) (cnt : Nat) : Except Stop (List Span) :=
  if dDense d then opSpans s x c acc d (dBase d) (cnt * dE d) else elemSpans s x c acc d (List.range cnt)

/-- Where an object's header lies (R152). -/
def hdrSpans (s : State) (x : Dispatch) (c : Ctx) (acc : Access) (d : Bytes) : Except Stop (List Span) :=
  spaceSpans s c (some x.id) x.lead acc (dHint d) (dHdrSpace d) 0 (dHdrAddr d) 128

/-- An object named as a source: its header, the spans of its body and header, and whether it is poisoned (R73, R74). -/
structure Obj where
  index : Nat
  raw : Bytes
  h : Hdr
  body : List Span
  hdrAt : List Span
  poisoned : Bool
  deriving DecidableEq, Repr

/-- The header of an object named as a source: the header checks of R20 and check 5 of R151. Only the header is read, once
nothing in flight writes it (R77). -/
def hdrSrc (s : State) (x : Dispatch) (c : Ctx) (r : CoreRegs) (h : HRef) : Except Halt Obj := do
  let o ← resolve x c r h false true
  let ha ← lift (hdrSpans s x c .read o.raw)
  free x { Use.none with rd := ha }
  let b := spansPeek s.mem ha
  need (hdrValid c.param c.psh b) .descInvalid
  let hd := hdrOf b
  need (hd.ctx == c.num) .accessDenied
  pure { index := o.index, raw := o.raw, h := hd, body := [], hdrAt := ha, poisoned := hd.poisoned || spansMarked s.mem ha }

/-- Reads an object operand: the header, then the capacity check of R156 and the body. -/
def objSrc (s : State) (x : Dispatch) (c : Ctx) (r : CoreRegs) (h : HRef) : Except Halt Obj := do
  let o ← hdrSrc s x c r h
  let n := bodyLen c.param o.h
  need (n ≤ 1024 * dSize o.raw 0) .descInvalid
  let body ← lift (opSpans s x c .read o.raw (dBase o.raw) n)
  pure { o with body := body, poisoned := o.poisoned || spansMarked s.mem body }

/-- An object destination: its descriptor, and its body and header spans for a result with a header (R19, R151, R156). -/
structure ObjDst where
  raw : Bytes
  body : List Span
  hdrAt : List Span
  deriving DecidableEq, Repr

/-- Resolves an object destination for a result header. -/
def objDst (s : State) (x : Dispatch) (c : Ctx) (o : Opnd) (h : Hdr) : Except Halt ObjDst := do
  let n := bodyLen c.param h
  need (n ≤ 1024 * dSize o.raw 0) .descInvalid
  let body ← lift (opSpans s x c .write o.raw (dBase o.raw) n)
  let ha ← lift (hdrSpans s x c .write o.raw)
  pure ⟨o.raw, body, ha⟩

/-- A local write to a block of an open receive window is refused (R177): true when a span lies in one. -/
def inWindow (s : State) (xs : List Span) : Bool :=
  s.mgrs.any (fun m => m.2.windows.any (fun w => xs.any (fun x => match m.1 with
    | .core n => x.sp == 1 && (List.range w.blocks.length).any (fun b => match csAddr s n w.ctx (some w.owner) 0 (w.base + 1024 * b) with
          | some a => meets x.addr x.len a 1024
          | Option.none => false)
    | .die n => x.sp == 3 && (List.range w.blocks.length).any (fun b =>
        match infAddr s n w.ctx (some w.owner) (w.base + 1024 * b) with
          | some a => meets x.addr x.len a 1024
          | Option.none => false))))

/-- The words of limb slot t of component k of an object (R23). -/
def limbWordsOf (s : State) (p : Bytes) (o : Obj) (k t : Nat) : List Nat :=
  let n := 2 ^ o.h.logN
  wordsOf 4 (spansPeek s.mem (spansSlice o.body ((k * hdrLimbs p o.h + t) * n * 4) (n * 4))) n

/-- All limbs of component k of an object. -/
def compLimbs (s : State) (p : Bytes) (o : Obj) (k : Nat) : List (List Nat) :=
  (List.range (hdrLimbs p o.h)).map (limbWordsOf s p o k)

/-- Notes the reads of an instruction in the caches (R184): every span read once with its hint. -/
def touchReads (s : State) (xs : List Span) : State :=
  { s with mem := (spansRead s.mem s.ways xs).2.2 }

/-- Notes the reads of table lines in the memory-side caches (R184, R345). -/
def touchLines (s : State) (ls : List Nat) : State :=
  { s with mem := ls.foldl (fun m l => (lineRead m s.ways hintNormal l).2) s.mem }

/-- A unit translates an address of a context (R345, R346): where its cache does not hold the translation it walks, reading the
tables as NORMAL accesses, and keeps what it found. -/
def walkOne (s : State) (u : XUnit) (c : Ctx) (acc : Access) (va : Nat) : State :=
  if xlateHeld s.mem u c.num va acc then s
  else match walk s c va acc with
    | .leaf base size pa rd wr lines =>
      let s := touchLines s lines
      { s with mem := xlateAdd s.mem ⟨u, c.num, base, size, pa, rd, wr, lines⟩ }
    | _ => s

/-- A unit translates what spans were translated from. -/
def walkSpans (s : State) (u : XUnit) (c : Ctx) (acc : Access) (xs : List Span) : State :=
  xs.foldl (fun s x => match x.va with
    | some va => walkOne s u c acc va
    | Option.none => s) s

/-- Writes spans. -/
def State.writeSpans (s : State) (xs : List Span) (bs : Bytes) (poisoned : Bool) : State :=
  { s with mem := spansWrite s.mem s.ways xs bs poisoned }

/-- Puts an engine instruction in flight and moves past it (R77). -/
def Dispatch.launch (x : Dispatch) (n : Nat) (f : InFlight) : Dispatch :=
  { x with pc := x.pc + n, inflight := x.inflight ++ [f] }

/-- The marked blocks that spans touch, as space and block (R74). -/
def marksOf (m : MemState) (xs : List Span) : List (Nat × Nat) :=
  (xs.map (fun x =>
    let l := if x.sp == 0 then m.hbmMarked else (if x.sp == 1 then m.cs else if x.sp == 2 then m.ob else m.inf).marked
    ((blocksOf x.addr x.len).filter (l.contains ·)).map (fun b => (x.sp, b)))).flatten

/-- What spans hold now. -/
def State.was (s : State) (xs : List Span) : Was := ⟨xs, spansPeek s.mem xs, marksOf s.mem xs⟩

/-- The registers that a use writes, as a core holds them now. -/
def CoreRegs.part (r : CoreRegs) (u : Use) : CoreRegs :=
  { CoreRegs.zero with
    v := r.v.filter (fun p => u.wv.contains p.1), a := r.a.filter (fun p => u.wt.contains p.1)
    s := r.s.filter (fun p => u.ws.contains p.1), useV := r.useV.filter (u.wv.contains ·)
    useA := r.useA.filter (u.wt.contains ·), poisV := r.poisV.filter (u.wv.contains ·)
    poisA := r.poisA.filter (u.wt.contains ·), poisS := r.poisS.filter (u.ws.contains ·) }

/-- An instruction as it goes in flight, before it writes: its destinations without a header, its headers with the descriptors
of their objects, the bytes of a limb of its destination, and its stop points (R77, R96). -/
def State.flight (s : State) (x : Dispatch) (engine : Nat) (u : Use) (body : List (List Span)) (heads : List (Bytes × List Span))
    (limb points : Nat) : InFlight :=
  { instr := x.pc, engine := engine, use := u, body := body.map s.was, heads := heads.map (fun h => s.was h.2)
    inPlace := spansMeet u.rd (body.flatten ++ (heads.map (·.2)).flatten), limb := limb, points := points
    start := x.startPoint, before := (s.core x.lead).part u, objs := heads.map (·.1), calls := 0, ticks := 0 }

/-- Records that an instruction of the dispatch met a poisoned operand: POISON_SEEN, and the first poisoning fault (R73). -/
def State.meetPoison (s : State) (x : Dispatch) (c : FaultCode) (instr : Nat) : State :=
  (s.setCore x.lead ((s.core x.lead).raise stPoisonSeen)).setDisp (x.poison c instr)

/-- The header a result carries: CONTEXT_ID, WRITE_EPOCH and POISONED set as R227 states. -/
def resultHdr (x : Dispatch) (c : Ctx) (h : Hdr) (poisoned : Bool) : Hdr :=
  { h with ctx := c.num, epoch := x.epoch, flags := hdrFlags poisoned false h.spent, paramId := pId c.param, psh := c.psh }

/-- Notes what an instruction wrote to memory: it is in flight, and the dispatch meets poison where it read any (R73). -/
def State.flown (s : State) (x : Dispatch) (n : Nat) (f : InFlight) (pois : Bool) : State :=
  let x := (if pois then x.poison .eccUncorrectable x.pc else x).launch n f
  let s := if pois then s.setCore x.lead ((s.core x.lead).raise stPoisonSeen) else s
  s.setDisp x

/-- Completes an object form: body, then header (R19), the instruction in flight with what `u` adds to the objects' own
memory, and poison noted (R73). Its stop points are the limbs of the result (R96). -/
def finishObj (s : State) (x : Dispatch) (c : Ctx) (n engine : Nat) (srcs : List Obj) (u : Use) (extraPois : Bool) (d : ObjDst)
    (h : Hdr) (body : Bytes) : State :=
  let pois := extraPois || srcs.any (·.poisoned)
  let reads := (srcs.map (fun o => o.body ++ o.hdrAt)).flatten
  let u := { u with rd := reads ++ u.rd, wr := d.body ++ d.hdrAt ++ u.wr }
  let limb := if h.kind == kindLwe then 4 * h.lweN else 4 * 2 ^ h.logN
  let f := s.flight x engine u [d.body] [(d.raw, d.hdrAt)] limb (spansLen d.body / limb)
  let s := touchReads s reads
  let s := s.writeSpans d.body body pois
  let s := s.writeSpans d.hdrAt (hdrBytes (resultHdr x c h pois)) false
  s.flown x n f pois

/-- The spans of those pages of a virtual range that translate now. -/
def looseVa (s : State) (c : Ctx) (acc : Access) : Nat → Nat → Nat → List Span
  | 0, _, _ => []
  | fuel + 1, va, n =>
    if n = 0 then [] else
    let k := min n (65536 - va % 65536)
    let t := looseVa s c acc fuel (va + k) (n - k)
    match xlate s c va acc with
    | .ok a => ⟨0, a, k, 0, none⟩ :: t
    | .error _ => t

/-- The spans of the first cnt elements of a descriptor as far as they translate now. -/
def looseSpans (s : State) (x : Dispatch) (c : Ctx) (acc : Access) (d : Bytes) (cnt : Nat) : List Span :=
  if dSpace d == 0 then
    if dObj d || dDense d then looseVa s c acc (cnt * dE d / 65536 + 2) (dBase d) (cnt * dE d)
    else ((List.range cnt).map (fun j => looseVa s c acc 2 (dAddr d j) (dE d))).flatten
  else match (if dObj d then opSpans s x c acc d (dBase d) (cnt * dE d) else tensorSpans s x c acc d cnt) with
    | .ok xs => xs
    | .error _ => []

/-- What a stream reads and writes until it completes (R198): its whole source and its whole destination. -/
def streamUse (s : State) (x : Dispatch) (c : Ctx) (t : Stream) : Use :=
  let reading := t.kind == .ld || t.kind == .get
  let near := fun (acc : Access) => match t.other with
    | .regs _ => []
    | .desc d => looseSpans s x c acc d t.count
  let regs := match t.other with
    | .regs r => groupRegs r (dE t.mem) t.count
    | .desc _ => []
  if reading then { Use.none with rd := looseSpans s x c .read t.mem t.count, wr := near .write, wv := regs }
  else { Use.none with rd := near .read, rv := regs
                       wr := if t.kind == .st then looseSpans s x c .write t.mem t.count else [] }

/-- The dispatch with what its streams use brought up to date with the page tables. -/
def refreshUses (s : State) (x : Dispatch) (c : Ctx) : Dispatch :=
  { x with streams := x.streams.map (fun t => { t with use := streamUse s x c t }) }

/-- The first issue of a dispatch: T_START, and START_MARK signalled by 1 (R287, R289, R290). -/
def began (s : State) (d : DRef) : State :=
  match s.disp? d with
  | Option.none => s
  | some x =>
    if x.tStart.isSome then s
    else
      let s := s.setDisp { x with tStart := some s.now }
      match x.markNum (field x.record 12 2) with
      | some k => s.signal ⟨k, 1, x.ctx, .starter⟩
      | Option.none => s

/-- A SPRINT dispatch whose stream reaches companion memory loses its guarantee (R301, R428); the accesses of the object forms
are streams of the translator's (R211). -/
def Dispatch.reaches (x : Dispatch) (xs : List Span) : Dispatch :=
  { x with void := x.void || (x.cls == .sprint && xs.any (fun y => y.sp == 0 && inComp y.addr y.len)) }

/-- What the memory that an instruction uses brings with it: its lead core has translated the pages (R345), and a SPRINT
dispatch that reaches companion memory loses its guarantee (R301). -/
def usesMemory (s : State) (x : Dispatch) (c : Ctx) (u : Use) : State :=
  let s := walkSpans (walkSpans s (.core x.lead) c .read u.rd) (.core x.lead) c .write u.wr
  match s.disp? x.id with
  | some y => s.setDisp (y.reaches (u.rd ++ u.wr))
  | Option.none => s

/-- The instruction that a dispatch has put in flight since, if it has. -/
def newFlight (x y : Dispatch) : Option InFlight :=
  if x.inflight.length < y.inflight.length then y.inflight.getLast? else Option.none

/-- The dispatch after an instruction of it has issued: it keeps no descriptors, and what a stop had left is issued without
moving AVIS_PC (R208). -/
def Dispatch.settled (x y : Dispatch) : Dispatch :=
  { y with kept := [], begun := y.begun.filter (·.instr != x.next), pc := if x.redo.isEmpty then y.pc else x.pc
           redo := x.redo.tail }

/-- The state after an instruction has issued: where it is in flight, the memory it uses has been translated, and the Vault
calls inserted for it are noted beside it (R121). -/
def issued (x : Dispatch) (c : Ctx) (t : State) : State :=
  match t.disp? x.id with
  | Option.none => t
  | some y =>
    match newFlight x y with
    | Option.none => t.setDisp (x.settled y)
    | some f =>
      let f := { f with calls := y.vaultCalls - x.vaultCalls, ticks := y.vaultTicks - x.vaultTicks }
      usesMemory (t.setDisp (x.settled { y with inflight := y.inflight.dropLast ++ [f] })) x c f.use

/-- The dispatch after a reason has kept an instruction of it from taking effect (R97, R151, R203). -/
def stopped (s : State) (x : Dispatch) (c : Ctx) (i : Instr) (requester : Nat) (begun : List Begun) (r : Stop) : State :=
  let kept := match r with
    | .absent .. => keepDescs x c (s.core x.lead) i
    | _ => []
  s.halt { x with kept := kept, begun := if begun.isEmpty then x.begun else x.begun.filter (·.instr != x.next) ++ begun }
    requester r

/-- Issues an AVIS instruction: where its dispatch stands at it, the meaning given decides on the state, and a reason
to stop ends or halts the dispatch (R76, R151, R203). A command that its dispatch does not stand at changes nothing. -/
def issue (s : State) (d : DRef) (i : Instr) (requester : Nat)
    (f : Dispatch → Ctx → Nat → Except Halt State) : Out :=
  match s.ready d i with
  | Option.none => .next s
  | some (x, c, n) =>
    match f (refreshUses s { x with pc := x.next } c) c n with
    | .ok t => .next (began (issued x c t) d)
    | .error .busy => .next s
    | .error (.stop r) => .next (began (stopped s x c i requester [] r) d)
    | .error (.part t begun r) => .next (began (stopped t x c i requester begun r) d)

end Sys2Proof.Machine
end

