-- ==== Sys2Proof/Machine/Budget.lean ====
section
/-! DEFINITION. The noise and precision budget (R21, R115 to R123, R430), in units of 1/16 bit. Every constant is exact:
logarithms of rationals are compared as integer powers of two. -/

namespace Sys2Proof.Machine

/-- The smallest integer k with num ≤ 2^k · den. -/
def ceilLog (num den : Nat) : Int :=
  if num > den then ((Nat.log2 ((num - 1) / den) + 1 : Nat) : Int)
  else -((Nat.log2 (den / num) : Nat) : Int)

/-- 16 · log2 x rounded up, for x² = num / den. -/
def log16UpSq (num den : Nat) : Int := ceilLog (num ^ 8) (den ^ 8)

/-- 16 · log2 q rounded down (R115). -/
def log16Down (q : Nat) : Int := (Nat.log2 (q ^ 16) : Nat)

/-- 16 · log2 x rounded up for a natural number x. -/
def log16Up (x : Nat) : Int := ceilLog (x ^ 16) 1

/-- nsum of R115. -/
def nsum (x y : Int) : Int := if (x - y).natAbs < 80 then max x y + 16 else max x y + 2

/-- n_fresh (R116): x² = 36 σ² N (1 + 4N/3) with σ = 16/5. -/
def nFresh (n : Nat) : Int := log16UpSq (36 * 256 * n * (3 + 4 * n)) 75

/-- n_rs (R116): x² = 36 N (1 + 2N/3) / 12. -/
def nRs (n : Nat) : Int := log16UpSq (n * (3 + 2 * n)) 1

/-- n_enc (R116): x² = 36 N / 12. -/
def nEnc (n : Nat) : Int := log16UpSq (3 * n) 1

/-- Limbs of a full digit: a = ⌈L / DNUM⌉ (R31). -/
def digitLen (p : Bytes) : Nat := if pDnum p == 0 then 1 else ceilDiv (pL p) (pDnum p)

/-- Digits in use at a level (R98). -/
def digitsAt (p : Bytes) (level : Nat) : Nat := ceilDiv level (digitLen p)

/-- Limb indices of digit k present at a level. -/
def digitIdx (p : Bytes) (level k : Nat) : List Nat :=
  (rangeFrom (k * digitLen p) (digitLen p)).filter (fun i => i < level)

/-- D_ℓ: the largest product of the primes of one digit in use (R116); a partial last digit counts only its primes present at the
level (log entry 56). -/
def digitMax (p : Bytes) (level : Nat) : Nat :=
  ((List.range (digitsAt p level)).map (fun k => prodOf ((digitIdx p level k).map (pPrime p)))).foldl max 1

/-- The P-limb primes. -/
def pPrimesP (p : Bytes) : List Nat := (rangeFrom (pL p) (pK p)).map (pPrime p)

/-- 16 · log2 (√(a/z) + √(b/z)) rounded up: the sixteenth power is (U + V√(ab)) / z^8. -/
def log16UpSum (a b z : Nat) : Int :=
  let w := a * b
  let sq := fun (p : Nat × Nat) => (p.1 * p.1 + p.2 * p.2 * w, 2 * p.1 * p.2)
  let r := sq (sq (sq (a + b, 2)))
  let k := ceilLog r.1 (z ^ 8)
  let lhs := fun (k : Int) => (if k ≥ 0 then (2 ^ k.toNat * z ^ 8 : Nat) else z ^ 8 / 2 ^ (-k).toNat : Nat)
  if lhs k ≥ r.1 && (lhs k - r.1) * (lhs k - r.1) ≥ r.2 * r.2 * w then k else k + 1

/-- n_ks(ℓ) (R116): log2 (6σ N √(d/12) D_ℓ / P + 2^n_rs). -/
def nKs (p : Bytes) (level : Nat) : Int :=
  let n := 2 ^ pLogN p
  let pp := prodOf (pPrimesP p)
  let dm := digitMax p level
  let z := 25 * pp * pp
  log16UpSum (768 * n * n * digitsAt p level * dm * dm) (n * (3 + 2 * n) * z) z

/-- C(ℓ) (R116). -/
def cLevel (p : Bytes) (level : Nat) : Int :=
  ((List.range level).map (fun i => log16Down (pPrime p i))).foldl (· + ·) 0 - 16

/-- log2 t, rounded up. -/
def log16T (p : Bytes) : Int := log16Up (pT p)

/-- τ = log2 (N · t / 2), rounded up (R118). -/
def tau (p : Bytes) : Int := log16Up (2 ^ pLogN p * pT p) - 16

/-- λ: log2 q_{ℓ-1} rounded down (R117). -/
def lam (p : Bytes) (level : Nat) : Int := log16Down (pPrime p (level - 1))

/-- log2 q_{ℓ-1} to the nearest 2^-16, halves up (R101, R430). -/
def lamScale (p : Bytes) (level : Nat) : Nat := (log2f (pPrime p (level - 1) ^ 131072) + 1) / 2

/-- The scale the model reads: SCALE_LOG2 rounded down to 1/16 bit (R430). -/
def hScale (h : Hdr) : Int := ((h.scale / 4096 : Nat) : Int)

/-- The fresh budget of an object (R116). -/
def freshBudget (p : Bytes) (h : Hdr) : Int :=
  if h.scheme == 0 then hScale h - nFresh (2 ^ pLogN p)
  else cLevel p h.level - (log16T p + nFresh (2 ^ pLogN p))

/-- The budget an operand enters with (R21, R119). -/
def takeBudget (p : Bytes) (h : Hdr) : Int :=
  let f := freshBudget p h
  if h.budget == 0xFFFF then f else min (h.budget : Nat) f

/-- The noise an operand enters with (R116). -/
def noiseOf (p : Bytes) (h : Hdr) : Int :=
  if h.kind == kindPlain then nEnc (2 ^ pLogN p)
  else if h.scheme == 0 then hScale h - takeBudget p h
  else cLevel p h.level - takeBudget p h

/-- The operations of the model (R117, R118). -/
inductive BOp where
  | add | addPlain | mul | mulPlain | fin | finRescale | rescale | keep
  deriving DecidableEq, Repr

/-- SCALE_LOG2 of a result, exact (R117, R430). -/
def resultScale (op : BOp) (p : Bytes) (a b : Hdr) : Int :=
  if a.scheme != 0 then 0 else
  match op with
  | .mul | .mulPlain => ((a.scale + b.scale : Nat) : Int)
  | .finRescale | .rescale => (a.scale : Int) - (lamScale p a.level : Nat)
  | _ => (a.scale : Int)

/-- Noise of a result (R117, R118); `a` is the ciphertext operand (the base of ks.fin), `mu` is MSG_LOG2. -/
def resultNoise (op : BOp) (p : Bytes) (mu : Int) (a b : Hdr) : Int :=
  let n := 2 ^ pLogN p
  let n1 := noiseOf p a
  let n2 := noiseOf p b
  if a.scheme == 0 then
    match op with
    | .add => nsum n1 n2
    | .addPlain => nsum n1 (nEnc n)
    | .mulPlain => nsum (n1 + hScale b + mu) (nEnc n + hScale a + mu)
    | .mul => nsum (nsum (n1 + hScale b + mu) (n2 + hScale a + mu)) (n1 + n2)
    | .fin => nsum n1 (nKs p a.level)
    | .finRescale => nsum (n1 - lam p a.level) (nKs p a.level + 16)
    | .rescale => nsum (n1 - lam p a.level) (nRs n)
    | .keep => n1
  else
    match op with
    | .add => nsum n1 n2
    | .addPlain => if a.scheme == 2 then n1 else nsum n1 (tau p)
    | .mulPlain => n1 + tau p
    | .mul =>
      if a.scheme == 2 then nsum (nsum (n1 + tau p) (n2 + tau p)) (n1 + n2)
      else nsum n1 n2 + log16Up (n * pT p) + 16
    | .fin => nsum n1 (log16T p + nKs p a.level)
    | .finRescale => n1
    | .rescale => nsum (n1 - lam p a.level) (log16T p + nRs n)
    | .keep => n1

/-- The result budget before the clamp (R116, R120, R430), for a result at a level with an exact SCALE_LOG2. -/
def resultBudget (op : BOp) (p : Bytes) (mu : Int) (a b : Hdr) (level : Nat) : Int :=
  if a.scheme == 0 then Int.fdiv (resultScale op p a b) 4096 - resultNoise op p mu a b
  else cLevel p level - resultNoise op p mu a b

/-- The clamp of R115. -/
def clampBudget (b : Int) : Nat := (max 0 (min b 0xFFFE)).toNat

/-- BUDGET_POLICY values (R331). -/
def policyMark : Int := 2
/-- AUTO_VAULT. -/
def policyVault : Int := 1

/-- What the policy decides for a result budget (R120, R121): the operation runs, runs with BUDGET_SPENT, asks for a
refresh, or raises NOISE_EXHAUSTED. -/
inductive Decision where
  | ok | spent | vault | exhausted
  deriving DecidableEq, Repr

/-- The decision of R120 and R121 for a dispatch. -/
def decideBudget (x : Dispatch) (budget : Int) : Decision :=
  if budget ≥ x.set 0x0101 then .ok
  else if x.set 0x0100 == policyMark then .spent
  else if x.set 0x0100 == policyVault then .vault else .exhausted

/-- The Vault key list for a slot count (R127): one for the CKKS routines; repacking adds its own rotations to it (R137), and
VLT_BOOT_EXACT has its own (R138). -/
def vaultList (p : Bytes) (routine slots : Nat) : List (Nat × Nat) :=
  if routine == 0x13 then Config.vaultKeys 0x13 p slots
  else if routine == 0x12 then Config.vaultKeys 5 p slots ++ Config.vaultKeys 0x12 p slots
  else Config.vaultKeys 5 p slots

/-- True when every Vault key a routine needs is loaded in the context under the input's key set (R127). -/
def vaultKeysHeld (c : Ctx) (keyset routine slots : Nat) : Bool :=
  match c.keysets.find? (·.id == keyset) with
  | none => false
  | some k => (vaultList c.param routine slots).all (fun n => k.keys.any (fun o => o.kind == n.1 && o.galois == n.2))

/-- The conditions of R122 for AUTO_VAULT on an operand. -/
def autoVaultOk (x : Dispatch) (c : Ctx) (h : Hdr) : Bool :=
  x.prog.autoVault && pScheme c.param == 0 && (pTemplate c.param == 3 || pTemplate c.param == 4)
  && x.cls != .sprint && vaultKeysHeld c h.keyset 5 h.slots

/-- An operand by value: its header and the words of its limbs by component and slot. -/
structure Val where
  h : Hdr
  limbs : List (List (List Nat))
  deriving DecidableEq, Repr

/-- The value of an object operand. -/
def valOf (s : State) (p : Bytes) (o : Obj) : Val := ⟨o.h, (List.range o.h.comps).map (compLimbs s p o)⟩

/-- The words of slot t of component k of a value; a missing component is zero (R226). -/
def Val.limb (v : Val) (k t n : Nat) : List Nat := nth (nth v.limbs k []) t (List.replicate n 0)

/-- The bytes of a value's body (R23). -/
def Val.bytes (v : Val) : Bytes := (v.limbs.map (fun c => (c.map (bytesOf 4)).flatten)).flatten

/-- n words, each the canonical residue of a given word (R10). -/
def canonWords (q n : Nat) (ws : List Nat) : List Nat := (List.range n).map (fun i => nth ws i 0 % q)

/-- Output words of a Vault routine as a value with the header given (R126, R128). -/
def vaultVal (routine out : Nat) (p input : Bytes) (h : Hdr) : Val :=
  ⟨h, (List.range h.comps).map (fun k => (List.range (hdrLimbs p h)).map (fun t =>
    canonWords (pPrime p (limbIndex p h.level t)) (2 ^ h.logN) (Config.vaultWords routine p input out k t)))⟩

/-- What a CKKS routine gives for inputs (R125): one or two outputs at a level, in evaluation form. `pre` goes before the inputs
in what the free words depend on. -/
def vaultStage (routine level : Nat) (p pre : Bytes) (ins : List Val) (outs : Nat) : List Val :=
  match ins with
  | [] => []
  | v :: _ => (List.range outs).map (fun k => vaultVal routine k p (pre ++ (ins.map Val.bytes).flatten)
      { v.h with level := level, comps := 2, repr := 1, pPresent := 0 })

/-- VLT_BOOT on a value: VLT_MODRAISE, VLT_CTS, VLT_EVALMOD and VLT_STC in order (R125). -/
def bootVals (p pre : Bytes) (v : Val) : List Val :=
  let two := if v.h.slots == 2 ^ pLogN p / 2 then 2 else 1
  let raised := vaultStage 1 (pL p) p pre [v] 1
  let slots := vaultStage 2 (pL p - 3) p pre raised two
  let reduced := vaultStage 3 (pL p - 10) p pre slots two
  vaultStage 4 (pL p - 13) p pre reduced 1

/-- The copy of an operand that VLT_BOOT writes into the Vault scratch area (R121, R125, R128): level L - 13, the same
scale, noise nsum(n, n_vault). -/
def refreshed (p : Bytes) (v : Val) : Val :=
  let noise := nsum (noiseOf p v.h) (Config.vaultNoise 5 p v.h.slots : Nat)
  ⟨{ v.h with level := pL p - 13, comps := 2, repr := 1, pPresent := 0, budget := clampBudget (hScale v.h - noise)
              flags := hdrFlags v.h.poisoned false false }, ((bootVals p [] v).map (·.limbs)).headD []⟩

/-- The operands after the policy's decision, and the budget to write, with the refreshed copies. -/
structure Funded where
  a : Val
  b : Val
  budget : Int
  spent : Bool
  copies : List Val
  deriving DecidableEq, Repr

/-- VLT_BOOT can refresh an operand (R122, R125, R127). -/
def canRefresh (x : Dispatch) (c : Ctx) (v : Val) : Bool :=
  v.h.kind == kindRlwe && v.h.repr == 1 && v.h.comps == 2 && v.h.pPresent == 0 && autoVaultOk x c v.h

/-- The first of two operands is the ciphertext of lowest budget; between two of equal budget it is taken (log entry 56). -/
def lowFirst (p : Bytes) (a b : Val) : Bool :=
  a.h.kind == kindRlwe && (b.h.kind != kindRlwe || takeBudget p a.h ≤ takeBudget p b.h)

/-- Applies the budget policy of R121 to an operation on two values. `eval` gives the result budget for operands, or
none where the operation's own checks would refuse them. -/
def fund (x : Dispatch) (c : Ctx) (a b : Val) (eval : Val → Val → Option Int) : Except Halt Funded :=
  match eval a b with
  | none => fail .descInvalid
  | some bud =>
    match decideBudget x bud with
    | .ok => .ok ⟨a, b, bud, false, []⟩
    | .spent => .ok ⟨a, b, bud, true, []⟩
    | .exhausted => fail .noiseExhausted
    | .vault =>
      let low := lowFirst c.param a b
      let first := if low then (refreshed c.param a, b) else (a, refreshed c.param b)
      let one := if low then first.1 else first.2
      let ok := fun (u v : Val) => match eval u v with
        | some y => if y ≥ x.set 0x0101 then some y else none
        | none => none
      if !canRefresh x c (if low then a else b) then fail .noiseExhausted
      else match ok first.1 first.2 with
        | some y => .ok ⟨first.1, first.2, y, false, [one]⟩
        | none =>
          if !canRefresh x c (if low then b else a) then fail .noiseExhausted
          else
            let both := (refreshed c.param a, refreshed c.param b)
            match ok both.1 both.2 with
            | some y => .ok ⟨both.1, both.2, y, false, [both.1, both.2]⟩
            | none => fail .noiseExhausted

/-- Counts inserted Vault calls in the dispatch's statistics (R121, R289). -/
def Dispatch.countVault (x : Dispatch) (c : Ctx) (f : Funded) : Dispatch :=
  { x with vaultCalls := x.vaultCalls + f.copies.length
           vaultTicks := x.vaultTicks + (f.copies.map (fun v => Config.vaultTicks c.param v.h.slots)).sum }

/-- The refreshed copies are written into the context's Vault scratch area (R121). -/
def State.keepCopies (s : State) (c : Ctx) (f : Funded) : State :=
  if f.copies.isEmpty then s
  else match s.ctx? c.num with
    | some y => s.setCtx { y with vaultScratch := f.copies.map Val.bytes }
    | none => s

/-- The operand of a limb-wise object form after the budget policy (R117, R120, R121): it keeps scale and noise. A
plaintext carries no budget (R24). -/
def fundKeep (x : Dispatch) (c : Ctx) (v : Val) : Except Halt Funded :=
  if v.h.kind == kindRlwe then
    fund x c v v (fun a _ => if a.h.repr == v.h.repr
      then some (resultBudget .keep c.param (x.set 0x0102) a.h a.h a.h.level) else none)
  else .ok ⟨v, v, v.h.budget, false, []⟩

/-- A 32-bit field of a result whose exact value may fall outside it: then a free value (log entry 1). -/
def field32 (fr : Nat) (z : Int) : Nat :=
  if 0 ≤ z && z < 2 ^ 32 then z.toNat else (Config.freeWord fr).toNat % 2 ^ 32

end Sys2Proof.Machine
end

