-- ==== Sys2Proof/Machine/Vector.lean ====
section
/-! DEFINITION. The register forms of the vector engine (R51, R52, R58 to R66, R87, R90, R218). -/

namespace Sys2Proof.Machine

/-- Bytes of an element of a format (R51): 1, 2 or 4 elements a slot. -/
def etBytes (e : EType) : Nat :=
  match e with
  | .mod32 => 4
  | .fp32 => 4
  | .bf16 => 2
  | .int8 => 1

/-- The element-wise operations. -/
inductive VOp where
  | add | sub | mul | mac
  deriving DecidableEq, Repr

/-- The active ring configuration of a dispatch (R68, R69). -/
def activeRing (x : Dispatch) (c : Ctx) (s : State) : RingCfg := ringOf c.param (s.core x.lead).gate

/-- The modulus index of a form: MOD, plus the loop register ML names (R218). -/
def vIndex (r : CoreRegs) (f : VForm) : Nat :=
  match f.ml with
  | none => f.mod
  | some l => f.mod + r.lget l

/-- The column of element j for a column-step form (R87). -/
def vStep (f : VForm) (j : Nat) : Nat := if f.tileA && f.colStep then j / 32 else 0

/-- One modular lane (R58). -/
def laneMod (op : VOp) (q a b c : Nat) : Nat :=
  match op with
  | .add => addM q a b
  | .sub => subM q a b
  | .mul => mulM q a b
  | .mac => macM q a b c

/-- One floating-point lane of a format with fb fraction bits (R64). -/
def laneF (op : VOp) (fb a b c : Nat) : Nat × Nat :=
  match op with
  | .add => fAdd fb a b
  | .sub => fSub fb a b
  | .mul => fMul fb a b
  | .mac => fMac fb a b c

/-- One INT8 lane (R66). -/
def laneI (op : VOp) (a b : Nat) : Nat × Nat :=
  let x := signed 8 a
  let y := signed 8 b
  satI8 (match op with
    | .add => x + y
    | .sub => x - y
    | .mul => x * y
    | .mac => x * y)

/-- One lane of a format: the result and the ARITH_STATUS bits it sets. -/
def lane (op : VOp) (ety : EType) (q a b c : Nat) : Nat × Nat :=
  match ety with
  | .mod32 => (laneMod op q a b c, 0)
  | .fp32 => laneF op fbF32 a b c
  | .bf16 => laneF op fbBF a b c
  | .int8 => laneI op a b

/-- The element format a tile source has by the mode that last wrote it (R87): modular words, or FP32 values. -/
def tileFormatOk (t : Tile) (inUse : Bool) (f : VForm) : Bool :=
  !inUse || t.mode == .none ||
  (match f.ety with
   | .mod32 => t.mode != .clear
   | .fp32 => t.mode == .clear
   | _ => false)

/-- Element j of a tile source (R62, R65, R87), and the flags of a rounded P0 + P1. -/
def tileElem (r : CoreRegs) (f : VForm) (q j : Nat) : Nat × Nat :=
  let cell := r.cell f.va (j % 512)
  match f.ety with
  | .mod32 => (cellRead q cell, 0)
  | _ =>
    if f.subop == 1 then (if j < 512 then cell % 2 ^ 32 else cell / 2 ^ 32 % 2 ^ 32, 0)
    else fAdd fbF32 (cell % 2 ^ 32) (cell / 2 ^ 32 % 2 ^ 32)

/-- The source A elements of a form. -/
def vSrcA (r : CoreRegs) (qs : List Nat) (idx : Nat) (f : VForm) (e : Nat) : List (Nat × Nat) :=
  if f.tileA then (List.range f.cnt).map (fun j => tileElem r f (nth qs (idx + vStep f j) 1) j)
  else (r.groupRead f.va e f.cnt).map (fun w => (w, 0))

/-- A form reads its scalar operand column by column from the constants of OB3 (R87). -/
def ob3Consts (f : VForm) : Bool := f.scalB && f.colStep && f.tileA && f.ety == .mod32

/-- The source B elements of a form: a register group; a scalar, as R59 takes it for modular forms and by its low bits
for Clear forms (DEDUCED, log entry 12); or the constants of OB3 by tile column (R87). -/
def vSrcB (s : State) (x : Dispatch) (r : CoreRegs) (qs : List Nat) (idx : Nat) (f : VForm) (e : Nat) : List Nat :=
  if !f.scalB then r.groupRead f.vb e f.cnt
  else if ob3Consts f then
    (List.range f.cnt).map (fun j =>
      leNat (scratchRead s.mem.ob ((4 * x.lead + 3) * 65536 + (f.ob3 + 4 * (j / 32)) % 65536) 4))
  else
    let v := (r.sget f.vb).toNat
    (List.range f.cnt).map (fun j => match f.ety with
      | .mod32 => scalarM (nth qs (idx + vStep f j) 1) v % 2 ^ 32
      | _ => v % 2 ^ (8 * e))

/-- The constants of OB3 that a form reads: one word for each tile column that it touches (R87). -/
def ob3Reads (x : Dispatch) (f : VForm) : List Span :=
  if ob3Consts f then
    (List.range ((f.cnt - 1) / 32 + 1)).map (fun c => ⟨2, (4 * x.lead + 3) * 65536 + (f.ob3 + 4 * c) % 65536, 4, 0, none⟩)
  else []

/-- The loop register that a form reads (R218). -/
def vLoops (f : VForm) : List Nat :=
  match f.ml with
  | some l => [l]
  | none => []

/-- What a form reads and writes (R77). -/
def vUse (x : Dispatch) (f : VForm) (dst : List Nat) (mac : Bool) : Use :=
  let e := etBytes f.ety
  { Use.none with
    rv := (if f.tileA then [] else groupRegs f.va e f.cnt) ++ (if f.scalB then [] else groupRegs f.vb e f.cnt)
          ++ (if mac then groupRegs f.vc e f.cnt else [])
    wv := dst, rt := if f.tileA then [f.va] else [], rs := if f.scalB && !ob3Consts f then [f.vb] else []
    rd := ob3Reads x f, rl := vLoops f }

/-- A source of a form is poisoned (R74). -/
def vPoisoned (s : State) (r : CoreRegs) (u : Use) : Bool :=
  r.vPois u.rv || u.rt.any (r.poisA.contains ·) || u.rs.any (r.poisS.contains ·) || spansMarked s.mem u.rd

/-- The run-time checks of a form (R60, R87). -/
def vCheck (x : Dispatch) (c : Ctx) (s : State) (r : CoreRegs) (f : VForm) : Except Halt Unit := do
  let ring := activeRing x c s
  if f.ety == .mod32 then
    let top := vIndex r f + (if f.tileA && f.colStep then (f.cnt - 1) / 32 else 0)
    need (top < ring.qs.length) .descInvalid
  if f.tileA then
    need (tileFormatOk (r.tStored f.va) (r.useA.contains f.va) f) .descInvalid
    need (f.cnt ≤ 512 || (f.ety == .fp32 && f.subop == 1 && f.cnt ≤ 1024)) .descInvalid
    need (f.subop == 0 || f.ety == .fp32) .descInvalid

/-- Notes what a vector form did: registers, flags, poison, and the instruction in flight. -/
def vFinish (s : State) (x : Dispatch) (n : Nat) (u : Use) (r : CoreRegs) (flags : Nat) (pois : Bool) : State :=
  let f := s.flight x 3 u [] [] 0 0
  (s.setCore x.lead (r.raise flags)).flown x n f pois

/-- An element-wise register form: element j of the destination is the lane operation on elements j of the sources. -/
def vecForm (op : VOp) (s : State) (f : VForm) (x : Dispatch) (c : Ctx) (n : Nat) : Except Halt State := do
  let r := s.core x.lead
  let e := etBytes f.ety
  let u := vUse x f (groupRegs f.vd e f.cnt) (op == .mac)
  free x u
  if !x.engineFree 3 then .error .busy
  vCheck x c s r f
  let qs := (activeRing x c s).qs
  let idx := vIndex r f
  let a := vSrcA r qs idx f e
  let b := vSrcB s x r qs idx f e
  let cc := if op == .mac then r.groupRead f.vc e f.cnt else List.replicate f.cnt 0
  let res := (List.range f.cnt).map (fun j =>
    let p := nth a j (0, 0)
    let y := lane op f.ety (nth qs (idx + vStep f j) 1) p.1 (nth b j 0) (nth cc j 0)
    (y.1, y.2 ||| p.2))
  let pois := vPoisoned s r u
  pure (vFinish s x n u (r.groupWrite f.vd e (res.map (·.1)) pois) (res.foldl (fun m y => m ||| y.2) 0) pois)

/-- Narrowing (true) or widening between FP32 and BF16 (R64, R218). -/
def vecCvt (narrow : Bool) (s : State) (f : VForm) (x : Dispatch) (c : Ctx) (n : Nat) : Except Halt State := do
  let r := s.core x.lead
  let (es, ed) := if narrow then (4, 2) else (2, 4)
  let u : Use := { Use.none with rv := if f.tileA then [] else groupRegs f.va es f.cnt
                                 wv := groupRegs f.vd ed f.cnt, rt := if f.tileA then [f.va] else [], rl := vLoops f }
  free x u
  if !x.engineFree 3 then .error .busy
  need (!f.tileA || narrow) .descInvalid
  vCheck x c s r { f with subop := 0 }
  let a := vSrcA r [] 0 { f with subop := 0 } es
  let res := a.map (fun p =>
    let y := if narrow then f32ToBF p.1 else bfToF32 p.1
    (y.1, y.2 ||| p.2))
  let pois := vPoisoned s r u
  pure (vFinish s x n u (r.groupWrite f.vd ed (res.map (·.1)) pois) (res.foldl (fun m y => m ||| y.2) 0) pois)

/-- Combines the elements of one lane in ascending order, starting from the first (R90). -/
def foldLane {α : Type} (g : α → α → α) : List α → Option α
  | [] => none
  | a :: t => some (t.foldl g a)

/-- One level of the reduction tree: adjacent pairs, an empty member passing the other through (R90). -/
def treeLevel {α : Type} (g : α → α → α) : List (Option α) → List (Option α)
  | a :: b :: t =>
    (match a, b with
     | some x, some y => some (g x y)
     | some x, none => some x
     | none, y => y) :: treeLevel g t
  | l => l

/-- The fixed order of v.red: 64 lanes, then six levels of pairs (R90). -/
def reduceTree {α : Type} (g : α → α → α) (vals : List α) : Option α :=
  let idx := List.range vals.length
  let lanes := (List.range 64).map (fun l =>
    foldLane g ((idx.zip vals).filter (fun p => p.1 % 64 == l) |>.map (·.2)))
  let r := (List.range 6).foldl (fun ls _ => treeLevel g ls) lanes
  (r.headD none)

/-- The combination of two FP32 values in v.red, with flags (R64, R90). -/
def redF (sub : Nat) (a b : Nat × Nat) : Nat × Nat :=
  if sub == 0 then
    let y := fAdd fbF32 a.1 b.1
    (y.1, y.2 ||| a.2 ||| b.2)
  else
    let p := fDecode fbF32 a.1
    let q := fDecode fbF32 b.1
    let m := fMaxV (sub == 1) p.1 q.1
    let y := fEncode fbF32 m.1
    (y.1, y.2 ||| p.2 ||| q.2 ||| m.2 ||| a.2 ||| b.2)

/-- An FP32 element as v.red reads it: a subnormal as zero, a NaN as the quiet NaN (R64, R90). -/
def readF32 (v : Nat × Nat) : Nat × Nat :=
  let p := fDecode fbF32 v.1
  let y := fEncode fbF32 p.1
  (y.1, y.2 ||| p.2 ||| v.2)

/-- The scalar that v.red writes, and the flags it sets (R66, R90). -/
def redValue (f : VForm) (q : Nat) (vals : List (Nat × Nat)) : Nat × Nat :=
  let fl0 := vals.foldl (fun m y => m ||| y.2) 0
  match f.ety with
  | .mod32 => (storeM q ((reduceTree (addM q) (vals.map (·.1))).getD 0), fl0)
  | .int8 =>
    let zs := vals.map (fun v => signed 8 v.1)
    let g : Int → Int → Int := if f.subop == 0 then (· + ·) else if f.subop == 1 then max else min
    (unsignedOf 64 ((reduceTree g zs).getD 0), fl0)
  | .fp32 =>
    let r := (reduceTree (redF f.subop) (vals.map readF32)).getD (0, 0)
    (r.1, r.2)
  | .bf16 =>
    let r := (reduceTree (redF f.subop) (vals.map (fun v =>
      let y := bfToF32 v.1
      (y.1, y.2)))).getD (0, 0)
    (r.1, r.2)

/-- v.red: one scalar from the elements of the source group (R90). With column-step 1 the elements of tile column c are read
under modulus index i + c, and the sum is taken modulo the form's q, entry i (R87, R90; DEDUCED, log entry 12). -/
def vecRed (s : State) (f : VForm) (x : Dispatch) (c : Ctx) (n : Nat) : Except Halt State := do
  let r := s.core x.lead
  let e := etBytes f.ety
  let u : Use := { Use.none with rv := if f.tileA then [] else groupRegs f.va e f.cnt
                                 rt := if f.tileA then [f.va] else [], ws := [f.vd], rl := vLoops f }
  free x u
  if !x.engineFree 3 then .error .busy
  vCheck x c s r { f with subop := 0 }
  let qs := (activeRing x c s).qs
  let idx := vIndex r f
  let vals := vSrcA r qs idx { f with subop := 0 } e
  let y := redValue f (nth qs idx 1) vals
  let pois := vPoisoned s r u
  pure (vFinish s x n u (r.sput f.vd (BitVec.ofNat 64 y.1) pois) y.2 pois)

/-- V_ADD (R58, R218). -/
def execVAdd (d : DRef) (f : VForm) (s : State) : Out := issue s d (.vAdd d f) 1 (vecForm .add s f)
/-- V_SUB (R58, R218). -/
def execVSub (d : DRef) (f : VForm) (s : State) : Out := issue s d (.vSub d f) 1 (vecForm .sub s f)
/-- V_MUL (R58, R59, R218). -/
def execVMul (d : DRef) (f : VForm) (s : State) : Out := issue s d (.vMul d f) 1 (vecForm .mul s f)
/-- V_MAC: VD = VA · VB + VC (R58, R218). -/
def execVMac (d : DRef) (f : VForm) (s : State) : Out := issue s d (.vMac d f) 1 (vecForm .mac s f)
/-- V_RED (R90). -/
def execVRed (d : DRef) (f : VForm) (s : State) : Out := issue s d (.vRed d f) 1 (vecRed s f)
/-- V_CVT_BF: narrow FP32 to BF16 (R64, R218). -/
def execVCvtBf (d : DRef) (f : VForm) (s : State) : Out := issue s d (.vCvtBf d f) 1 (vecCvt true s f)
/-- V_CVT_F: widen BF16 to FP32 (R218). -/
def execVCvtF (d : DRef) (f : VForm) (s : State) : Out := issue s d (.vCvtF d f) 1 (vecCvt false s f)

end Sys2Proof.Machine
end

