-- ==== Sys2Proof/Machine/Engines.lean ====
section
/-! DEFINITION. The NTT engine (R79 to R81), the automorphism unit (R91 to R93), the basis conversions (R84, R431) and
the converter array's tiles and drains (R61, R83, R88, R220). -/

namespace Sys2Proof.Machine

/-- The operand buffers that a composite conversion or ks.ip fills itself (R78). -/
def ownBuffers (x : Dispatch) : List Span := [⟨2, (4 * x.lead + 1) * 65536, 3 * 65536, 0, none⟩]

/-- A composite conversion or ks.ip has filled OB1 to OB3 with words of its own (R78): what they hold afterwards the
manual does not define, a free value (log entry 14). -/
def fillBuffers (s : State) (x : Dispatch) : State :=
  let (fr, s) := s.draw
  s.writeSpans (ownBuffers x) (slice (Config.freeBytes fr (3 * 65536)) 0 (3 * 65536)) false

/-- The spans of the first n bytes of a region of modular words. -/
def regionSpans (s : State) (x : Dispatch) (c : Ctx) (acc : Access) (raw : Bytes) (n : Nat) :
    Except Halt (List Span) := do
  need (dElem raw == 0 && dSpace raw != 4) .descInvalid
  lift (tensorSpans s x c acc raw (n / 4))

/-- The q of a modulus index with a transform: the index is in the configuration and its PSI_M is not 0 (R60, R79). -/
def transformIdx (ring : RingCfg) (gate : Bool) (i : Nat) : Bool := i < ring.qs.length && !(gate && i == 1)

/-- The words of limb k of a region. -/
def regionLimb (s : State) (at_ : List Span) (n k : Nat) : List Nat :=
  wordsOf 4 (spansPeek s.mem (spansSlice at_ (k * n * 4) (n * 4))) n

/-- The staging region of an NTT instruction: exactly one limb, or none for the null handle (R80, R219). -/
def stagingSpans (s : State) (x : Dispatch) (c : Ctx) (r : CoreRegs) (h : HRef) (nn : Nat) : Except Halt (List Span) := do
  match h with
  | .null => pure []
  | h => do
    let o ← resolve x c r h true false
    need (dCount o.raw == nn && dBase o.raw % 1024 == 0) .descInvalid
    regionSpans s x c .write o.raw (nn * 4)

/-- Writes the staging region: words whose values the manual does not define (R80), free values (log entry 1). -/
def writeStaging (s : State) (ga : List Span) (nn : Nat) : State :=
  if ga.isEmpty then s
  else
    let (fr, s) := s.draw
    s.writeSpans ga (slice (Config.freeBytes fr (nn * 4)) 0 (nn * 4)) false

/-- A limb-wise form over a region: NL limbs from index I0, each limb mapped by a function of its index (R80, R93). The
regions do not overlap, and nothing is written before every check holds; for an NTT (`ntt`) they are 1 KiB aligned, hold
exactly NL limbs and need a transform for each index. An operand outside the Core Store is reached through the streams that
translation adds (R211). Its stop points are the limbs (R96). -/
def regionForm (s : State) (x : Dispatch) (c : Ctx) (n engine : Nat) (rd ra stage : HRef) (rs : List Nat) (i0 nl : Nat)
    (ntt : Bool) (g : Nat → List Nat → List Nat) : Except Halt State := do
  let r := s.core x.lead
  let ring := activeRing x c s
  let gate := r.gate
  let nn := 2 ^ ring.logN
  let src ← resolve x c r ra false false
  let dst ← resolve x c r rd true false
  need (if ntt then dCount src.raw == nl * nn && dCount dst.raw == nl * nn
          && dBase src.raw % 1024 == 0 && dBase dst.raw % 1024 == 0
        else dCount src.raw ≥ nl * nn && dCount dst.raw ≥ nl * nn) .descInvalid
  let sa ← regionSpans s x c .read src.raw (nl * nn * 4)
  let da ← regionSpans s x c .write dst.raw (nl * nn * 4)
  let ga ← stagingSpans s x c r stage nn
  need (!spansMeet sa da && !spansMeet sa ga && !spansMeet da ga) .descInvalid
  need ((List.range nl).all (fun k =>
    if ntt then transformIdx ring gate (i0 + k) else i0 + k < ring.qs.length)) .descInvalid
  need (!inWindow s (da ++ ga)) .accessDenied
  let u : Use := { Use.none with rd := sa, wr := da ++ ga, rs := hrefRegs rd ++ hrefRegs ra ++ hrefRegs stage ++ rs }
  free x u
  if !x.engineFree engine then .error .busy
  let out := ((List.range nl).map (fun k => bytesOf 4 (g (i0 + k) (regionLimb s sa nn k)))).flatten
  let pois := spansMarked s.mem sa
  let f := s.flight x engine u [da] [] (nn * 4) nl
  let s := touchReads s sa
  pure ((writeStaging (s.writeSpans da out pois) ga nn).flown x n f pois)

/-- Every limb of a value mapped by a function of its limb index, as the bytes of a body (R23). -/
def mapLimbs (p : Bytes) (v : Val) (g : Nat → List Nat → List Nat) : Bytes :=
  ((List.range v.h.comps).map (fun k => ((List.range (hdrLimbs p v.h)).map (fun t =>
    bytesOf 4 (g (limbIndex p v.h.level t) (v.limb k t (2 ^ v.h.logN))))).flatten)).flatten

/-- A limb-wise form over an object: every limb of every component mapped by a function of its limb index, the header
rewritten with the representation given (R19, R79, R93, R123). Source, destination and staging region do not overlap
(R80, R93). -/
def objectForm (s : State) (x : Dispatch) (c : Ctx) (n engine : Nat) (rd stage : HRef) (rs : List Nat) (o : Obj)
    (repr : Nat) (g : Nat → List Nat → List Nat) : Except Halt State := do
  let r := s.core x.lead
  let d ← resolve x c r rd true true
  need (!o.h.spent) .noiseExhausted
  let f ← fundKeep x c (valOf s c.param o)
  let h := { f.a.h with repr := repr, flags := hdrFlags false false f.spent
                        budget := if o.h.kind == kindRlwe then clampBudget f.budget else o.h.budget }
  let dd ← objDst s x c d h
  let ga ← stagingSpans s x c r stage (2 ^ h.logN)
  need (!spansMeet o.body dd.body && !spansMeet o.body ga && !spansMeet dd.body ga) .descInvalid
  let u : Use := { Use.none with wr := ga, rs := rs ++ hrefRegs rd ++ hrefRegs stage }
  free x { u with rd := o.body ++ o.hdrAt, wr := dd.body ++ dd.hdrAt ++ ga }
  if !x.engineFree engine then .error .busy
  need (!inWindow s (dd.body ++ dd.hdrAt ++ ga)) .accessDenied
  let x := x.countVault c f
  let s := s.keepCopies c f
  pure (finishObj (writeStaging s ga (2 ^ h.logN)) x c n engine [o] u false dd h (mapLimbs c.param f.a g))

/-- A handle names an object (OBJECT set), judged before the form decides which kind of operand it takes. -/
def namesObject (x : Dispatch) (c : Ctx) (r : CoreRegs) (h : HRef) : Except Halt Bool := do
  let o ← resolveAny x c r h false
  pure (dObj o.raw)

/-- ntt.f (false) and ntt.i (true) (R79, R80). On an object while the gate configuration is active it raises DESC_INVALID,
since the object's limbs have no modulus entry there: the manual does not say what happens (DESIGN CHOICE, log entry 55). -/
def nttForm (inv : Bool) (s : State) (rd ra rb : HRef) (i0 nl : Nat) (x : Dispatch) (c : Ctx) (n : Nat) :
    Except Halt State := do
  let r := s.core x.lead
  let ring := activeRing x c s
  let g := fun i (w : List Nat) =>
    let q := nth ring.qs i 1
    if inv then nttInv q ring.logN w else nttFwd q ring.logN w
  if nl == 0 then
    let o ← objSrc s x c r ra
    need (o.h.kind != kindLwe && !r.gate && o.h.repr == (if inv then 1 else 0)) .descInvalid
    objectForm s x c n 0 rd rb (hrefRegs ra) o (1 - o.h.repr) g
  else regionForm s x c n 0 rd ra rb [] i0 nl true g

/-- The Galois element of a form: an immediate, or bits of a scalar that must not be poisoned (R76, R219). -/
def galois (x : Dispatch) (r : CoreRegs) (g : GSrc) : Except Halt Nat := do
  match g with
  | .imm v => pure v
  | .reg n => do
    cleanS x r (.reg n)
    pure (r.sget n).toNat

/-- The scalar a Galois element is taken from. -/
def gsrcRegs (g : GSrc) : List Nat :=
  match g with
  | .imm _ => []
  | .reg n => [n]

/-- auto (R91 to R93). On an object while the gate configuration is active it raises DESC_INVALID (DESIGN CHOICE, log entry
55). -/
def autoForm (s : State) (rd ra : HRef) (i0 nl : Nat) (ev : Bool) (gs : GSrc) (x : Dispatch) (c : Ctx) (n : Nat) :
    Except Halt State := do
  let r := s.core x.lead
  let ring := activeRing x c s
  let g ← galois x r gs
  need (g % 2 == 1 && g < 2 * 2 ^ ring.logN) .descInvalid
  let f := fun i (w : List Nat) => autoLimb ev (nth ring.qs i 1) ring.logN g w
  if nl == 0 then
    let o ← objSrc s x c r ra
    need (o.h.kind != kindLwe && !r.gate && o.h.repr == (if ev then 1 else 0)) .descInvalid
    objectForm s x c n 1 rd .null (hrefRegs ra ++ gsrcRegs gs) o o.h.repr f
  else regionForm s x c n 1 rd ra .null (gsrcRegs gs) i0 nl false f

/-- What a composite conversion of regions leaves: the words of its targets, its own buffers filled (R78), and poison. Its
stop points are the tile groups: 16 target indices by 32 positions, counted limb by limb here (R96). -/
def convFinish (s : State) (x : Dispatch) (n nn : Nat) (u : Use) (sa da : List Span) (nt : Nat) (out : Bytes) : State :=
  let pois := spansMarked s.mem sa
  let f := s.flight x 2 u [da] [] (nn * 4) nt
  let s := fillBuffers ((touchReads s sa).writeSpans da out pois) x
  s.flown x n f pois

/-- cvt.up: the limbs of one digit to NT targets from index T0 (R84). -/
def cvtUpForm (s : State) (rd ra : HRef) (i0 ns t0 nt : Nat) (x : Dispatch) (c : Ctx) (n : Nat) :
    Except Halt State := do
  let r := s.core x.lead
  let ring := activeRing x c s
  let nn := 2 ^ ring.logN
  let src ← resolve x c r ra false false
  let dst ← resolve x c r rd true false
  need (dCount src.raw ≥ ns * nn && dCount dst.raw ≥ nt * nn) .descInvalid
  need (i0 + ns ≤ ring.qs.length && t0 + nt ≤ ring.qs.length) .descInvalid
  let sa ← regionSpans s x c .read src.raw (ns * nn * 4)
  let da ← regionSpans s x c .write dst.raw (nt * nn * 4)
  need (!inWindow s da) .accessDenied
  let u : Use := { Use.none with rd := sa, wr := da ++ ownBuffers x, rs := hrefRegs rd ++ hrefRegs ra }
  free x u
  if !x.engineFree 2 then .error .busy
  let qs := (ring.qs.drop i0).take ns
  let limbs := (List.range ns).map (regionLimb s sa nn)
  let out := ((List.range nt).map (fun t =>
    bytesOf 4 (convLimb nn qs limbs (nth ring.qs (t0 + t) 1)))).flatten
  pure (convFinish s x n nn u sa da nt out)

/-- cvt.down: the K P-limbs converted down to each Q-limb T0 to T0 + NT - 1. The source region holds those NT Q-limbs
and then the NS P-limbs, the extended basis in ascending limb index (DEDUCED, log entry 13) (R84). -/
def cvtDownForm (s : State) (rd ra : HRef) (i0 ns t0 nt : Nat) (x : Dispatch) (c : Ctx) (n : Nat) :
    Except Halt State := do
  let r := s.core x.lead
  let ring := activeRing x c s
  let nn := 2 ^ ring.logN
  let src ← resolve x c r ra false false
  let dst ← resolve x c r rd true false
  need (dCount src.raw ≥ (nt + ns) * nn && dCount dst.raw ≥ nt * nn) .descInvalid
  need (i0 + ns ≤ ring.qs.length && t0 + nt ≤ ring.qs.length) .descInvalid
  let sa ← regionSpans s x c .read src.raw ((nt + ns) * nn * 4)
  let da ← regionSpans s x c .write dst.raw (nt * nn * 4)
  need (!inWindow s da) .accessDenied
  let u : Use := { Use.none with rd := sa, wr := da ++ ownBuffers x, rs := hrefRegs rd ++ hrefRegs ra }
  free x u
  if !x.engineFree 2 then .error .busy
  let ps := (ring.qs.drop i0).take ns
  let pl := (List.range ns).map (fun k => regionLimb s sa nn (nt + k))
  let out := ((List.range nt).map (fun t =>
    bytesOf 4 (downLimb nn (nth ring.qs (t0 + t) 1) (regionLimb s sa nn t) ps pl))).flatten
  pure (convFinish s x n nn u sa da nt out)

/-- One cell after one more product: before the 1,025th product the value is folded (R61). -/
def cellAdd (q : Nat) (tc : Nat × Nat) (p : Nat) : Nat × Nat :=
  let (t, n) := if tc.2 ≥ 1024 then (tc.1 % q, 1) else (tc.1, tc.2 + 1)
  ((t + p) % 2 ^ 72, n)

/-- A word of an operand buffer as a converter reads it (R173). -/
def obWord (s : State) (core b off e : Nat) : Nat :=
  leNat (scratchRead s.mem.ob ((4 * core + b) * 65536 + off) e)

/-- One modular cell of MATRIX mode over k-steps ka to kb - 1 (R61, R83, R220). -/
def matrixCell (s : State) (core q : Nat) (f : MmForm) (g row col ka kb : Nat) (start : Nat × Nat) : Nat × Nat :=
  (rangeFrom ka (kb - ka)).foldl (fun tc k =>
    let xw := condSub (obWord s core 1 (f.xoff + (g * f.k + k) * 128 + 4 * row) 4) q
    let ww := condSub (obWord s core 2 (f.woff + k * 64 + 4 * col) 4) q
    cellAdd q tc (xw * ww)) start

/-- One CLEAR cell over k-steps ka to kb - 1: P0 takes even k and P1 odd k (R65), with flags. -/
def clearCell (s : State) (core : Nat) (f : MmForm) (g row col ka kb : Nat) (start : Nat) : Nat × Nat :=
  let r := (rangeFrom ka (kb - ka)).foldl (fun (acc : (Nat × Nat) × Nat) k =>
    let xv := bfToF32 (obWord s core 1 (f.xoff + (g * f.k + k) * 64 + 2 * row) 2)
    let wv := bfToF32 (obWord s core 2 (f.woff + k * 32 + 2 * col) 2)
    let p := fMul fbF32 xv.1 wv.1
    let fl := acc.2 ||| xv.2 ||| wv.2 ||| p.2
    if k % 2 == 0 then
      let y := fAdd fbF32 acc.1.1 p.1
      ((y.1, acc.1.2), fl ||| y.2)
    else
      let y := fAdd fbF32 acc.1.2 p.1
      ((acc.1.1, y.1), fl ||| y.2)) ((start % 2 ^ 32, start / 2 ^ 32 % 2 ^ 32), 0)
  (r.1.1 + r.1.2 * 2 ^ 32, r.2)

/-- The tile after k-steps ka to kb - 1 of one group of cvt.mm, with flags (R83, R220); a group that goes on from a later
k-step starts from the tile as it stands. A CLEAR instruction leaves every product count 0, so a modular instruction that
accumulates on its cells counts from 0: the manual states no count there (DESIGN CHOICE, log entry 55). -/
def mmTile (s : State) (core q : Nat) (f : MmForm) (g ka kb : Nat) (old : Tile) (inUse : Bool) : Tile × Nat :=
  let start := fun j => if (f.acc || 0 < ka) && inUse then ((nth old.cells j 0).toNat, nth old.counts j 0) else (0, 0)
  if f.clr then
    let cs := (List.range 512).map (fun j => clearCell s core f g (j % 32) (j / 32) ka kb (start j).1)
    (⟨cs.map (fun y => BitVec.ofNat 72 y.1), List.replicate 512 0, .clear⟩, cs.foldl (fun m y => m ||| y.2) 0)
  else
    let cs := (List.range 512).map (fun j => matrixCell s core q f g (j % 32) (j / 32) ka kb (start j))
    (⟨cs.map (fun y => BitVec.ofNat 72 y.1), cs.map (·.2), .matrix f.mod⟩, 0)

/-- What a drain writes of a tile: 512 values of 4 bytes, or of 2 when narrowed (R62, R65, R88), with flags. The modulus
of a modular cell is that of the mode that last wrote the tile; column c of a BASIS tile has index t0 + c. A drain carries no
modulus of its own, so the index that the tile recorded is looked up in the ring configuration active at the drain, and an
index at or above its COUNT gives q = 1, that is zeros: the manual does not state which q a drain uses after a ring change
(DESIGN CHOICE, log entry 55). -/
def drainBytes (qs : List Nat) (t : Tile) (inUse narrow : Bool) : Bytes × Nat :=
  let cell := fun j => if inUse then (nth t.cells j 0).toNat else 0
  match t.mode with
  | .clear =>
    let vs := (List.range 512).map (fun j => fAdd fbF32 (cell j % 2 ^ 32) (cell j / 2 ^ 32 % 2 ^ 32))
    if narrow then
      let ns := vs.map (fun v =>
        let y := f32ToBF v.1
        (y.1, y.2 ||| v.2))
      (bytesOf 2 (ns.map (·.1)), ns.foldl (fun m y => m ||| y.2) 0)
    else (bytesOf 4 (vs.map (·.1)), vs.foldl (fun m y => m ||| y.2) 0)
  | .none => (zeros (if narrow then 1024 else 2048), 0)
  | .matrix i => (bytesOf 4 ((List.range 512).map (fun j => cellRead (nth qs i 1) (cell j))), 0)
  | .element i => (bytesOf 4 ((List.range 512).map (fun j => cellRead (nth qs i 1) (cell j))), 0)
  | .basis t0 => (bytesOf 4 ((List.range 512).map (fun j => cellRead (nth qs (t0 + j / 32) 1) (cell j))), 0)

/-- K-steps lo to hi - 1 of cvt.mm, counted over its groups in order: each group computes in TA (even g) or TB (odd g), and
is drained on completion when RDR is set (R83, R220). -/
def mmGroups (s : State) (core q : Nat) (qs : List Nat) (f : MmForm) (drain pois : Bool) (lo hi : Nat) (r : CoreRegs) :
    CoreRegs × Bytes × Nat :=
  ((List.range f.g).filter (fun g => lo < (g + 1) * f.k && g * f.k < hi)).foldl (fun acc g =>
    let r := acc.1
    let t := if g % 2 == 0 then f.ta else f.tb
    let kb := min f.k (hi - g * f.k)
    let (tile, fl) := mmTile s core q f g (lo - g * f.k) kb (r.tStored t) (r.useA.contains t)
    let r := r.tWrite t tile pois
    let (b, fl2) := if drain && kb == f.k then drainBytes qs tile true f.narrow else ([], 0)
    (r, acc.2.1 ++ b, acc.2.2 ||| fl ||| fl2)) (r, [], 0)

/-- Where the drains of k-steps lo to hi - 1 of cvt.mm land: the groups they complete (R220). -/
def mmDrained (f : MmForm) (da : List Span) (lo hi : Nat) : List Span :=
  let b := spansLen da / f.g
  spansSlice da (lo / f.k * b) ((hi / f.k - lo / f.k) * b)

/-- The poison that cvt.mm meets: in its operand buffers, or in a tile it accumulates on (R74). Every destination of it then
becomes poisoned. -/
def mmPoisoned (s : State) (r : CoreRegs) (f : MmForm) (rd : List Span) (tiles : List Nat) (lo : Nat) : Bool :=
  spansMarked s.mem rd || ((f.acc || 0 < lo) && tiles.any (r.poisA.contains ·))

/-- The drain destination of cvt.mm and cvt.drain: cnt elements of a Core Store descriptor of a fitting type (R220). -/
def drainDst (s : State) (x : Dispatch) (c : Ctx) (r : CoreRegs) (h : HRef) (cnt ety : Nat) :
    Except Halt (List Span) := do
  let o ← resolve x c r h true false
  need (dSpace o.raw == 1 && dElem o.raw == ety && cnt ≤ dCount o.raw) .descInvalid
  let xs ← lift (elemSpans s x c .write o.raw (List.range cnt))
  need (!inWindow s xs) .accessDenied
  pure xs

/-- The words that cvt.mm reads of OB1 and OB2 (R220). -/
def mmReads (x : Dispatch) (f : MmForm) : List Span :=
  let ob := (4 * x.lead) * 65536
  let (sx, sw) := if f.clr then (64, 32) else (128, 64)
  [⟨2, ob + 65536 + f.xoff, f.g * f.k * sx, 0, none⟩, ⟨2, ob + 131072 + f.woff, f.k * sw, 0, none⟩]

/-- The tiles that cvt.mm names. -/
def mmTiles (f : MmForm) : List Nat := if f.g == 1 then [f.ta] else [f.ta, f.tb]

/-- cvt.mm (R83, R220). One that a stop left between two k-steps goes on at the next one (R96). Its stop points are its
k-steps. -/
def mmForm (s : State) (f : MmForm) (x : Dispatch) (c : Ctx) (n : Nat) : Except Halt State := do
  let r := s.core x.lead
  let ring := activeRing x c s
  let drain := f.rdr != .null
  need (f.clr || f.mod < ring.qs.length) .descInvalid
  let da ← (if drain then drainDst s x c r f.rdr (512 * f.g) (if f.clr then (if f.narrow then 2 else 1) else 0)
            else pure [])
  let rdS := mmReads x f
  let tiles := mmTiles f
  let u : Use := { Use.none with rt := if f.acc then tiles else [], wt := tiles, rd := rdS, wr := da, rs := hrefRegs f.rdr }
  free x u
  if !x.engineFree 2 then .error .busy
  let lo := x.startPoint
  let pois := mmPoisoned s r f rdS tiles lo
  let fl := s.flight x 2 u [da] [] (spansLen da / f.g) (f.g * f.k)
  let (r, out, flags) := mmGroups s x.lead (nth ring.qs f.mod 1) ring.qs f drain pois lo (f.g * f.k) r
  let s := (s.writeSpans (mmDrained f da lo (f.g * f.k)) out pois).setCore x.lead (r.raise flags)
  pure (s.flown x n fl pois)

/-- cvt.drain: the named tile to elements 0 to 511 of its destination (R88, R220). NARROW narrows what a CLEAR tile holds, or
the zeros of a tile out of use; a tile written in a modular mode drains as words, whatever NARROW says. -/
def drainForm (s : State) (rdr : HRef) (ta : Nat) (narrow : Bool) (x : Dispatch) (c : Ctx) (n : Nat) :
    Except Halt State := do
  let r := s.core x.lead
  let t := r.tStored ta
  let inUse := r.useA.contains ta
  let clr := t.mode == .clear
  let o ← resolve x c r rdr true false
  let narrow := narrow && (clr || !inUse)
  need (dSpace o.raw == 1 && 512 ≤ dCount o.raw && (if narrow then dElem o.raw == 2 else dE o.raw == 4)) .descInvalid
  let da ← lift (elemSpans s x c .write o.raw (List.range 512))
  need (!inWindow s da) .accessDenied
  let u : Use := { Use.none with rt := [ta], wr := da, rs := hrefRegs rdr }
  free x u
  if !x.engineFree 2 then .error .busy
  let (out, fl) := if inUse then drainBytes (activeRing x c s).qs t true narrow
    else (zeros (if narrow then 1024 else 2048), 0)
  let pois := r.poisA.contains ta
  let f := s.flight x 2 u [da] [] (spansLen da) 0
  let s := (s.writeSpans da out pois).setCore x.lead (r.raise fl)
  pure (s.flown x n f pois)

/-- NTT_F (R79, R80). -/
def execNttF (d : DRef) (rd ra rb : HRef) (i0 nl : Nat) (s : State) : Out :=
  issue s d (.nttF d rd ra rb i0 nl) 1 (nttForm false s rd ra rb i0 nl)
/-- NTT_I (R79, R80). -/
def execNttI (d : DRef) (rd ra rb : HRef) (i0 nl : Nat) (s : State) : Out :=
  issue s d (.nttI d rd ra rb i0 nl) 1 (nttForm true s rd ra rb i0 nl)
/-- AUTO (R91 to R93). -/
def execAuto (d : DRef) (rd ra : HRef) (i0 nl : Nat) (ev : Bool) (g : GSrc) (s : State) : Out :=
  issue s d (.auto d rd ra i0 nl ev g) 1 (autoForm s rd ra i0 nl ev g)
/-- CVT_UP (R84). -/
def execCvtUp (d : DRef) (rd ra : HRef) (i0 ns t0 nt : Nat) (s : State) : Out :=
  issue s d (.cvtUp d rd ra i0 ns t0 nt) 1 (cvtUpForm s rd ra i0 ns t0 nt)
/-- CVT_DOWN (R84). -/
def execCvtDown (d : DRef) (rd ra : HRef) (i0 ns t0 nt : Nat) (s : State) : Out :=
  issue s d (.cvtDown d rd ra i0 ns t0 nt) 1 (cvtDownForm s rd ra i0 ns t0 nt)
/-- CVT_MM (R83, R220). -/
def execCvtMm (d : DRef) (f : MmForm) (s : State) : Out := issue s d (.cvtMm d f) 1 (mmForm s f)
/-- CVT_DRAIN (R88). -/
def execCvtDrain (d : DRef) (rdr : HRef) (ta : Nat) (narrow : Bool) (s : State) : Out :=
  issue s d (.cvtDrain d rdr ta narrow) 1 (drainForm s rdr ta narrow)

end Sys2Proof.Machine
end

