-- ==== Sys2Proof/Machine/Scalar.lean ====
section
/-! DEFINITION. The scalar instructions: R45, R67, R170, R224, R229, R237. -/

namespace Sys2Proof.Machine

/-- A scalar result: SD written, its poison noted (R74), AVIS_PC moved past n words. -/
def putScalar (s : State) (x : Dispatch) (r : CoreRegs) (n sd : Nat) (v : DWord) (pois : Bool) : State :=
  let r := r.sput sd v pois
  s.put2 (x.adv n) (if pois then r.raise stPoisonSeen else r)

/-- sc.li (R229). -/
def scLiForm (s : State) (sd : Nat) (v : DWord) (x : Dispatch) (_c : Ctx) (n : Nat) : Except Halt State := do
  free x { Use.none with ws := [sd] }
  pure (putScalar s x (s.core x.lead) n sd v false)

/-- The scalar arithmetic of opcode 0x41 (R225, R229): 64-bit values modulo 2^64, shifts by bits [5:0]. -/
inductive ScOp where
  | add | sub | mul | and | or | xor | shl | shr
  deriving DecidableEq, Repr

/-- The value of a scalar operation (R229). -/
def scValue (op : ScOp) (a b : DWord) : DWord :=
  match op with
  | .add => a + b
  | .sub => a - b
  | .mul => a * b
  | .and => a &&& b
  | .or => a ||| b
  | .xor => a ^^^ b
  | .shl => a <<< (b.toNat % 64)
  | .shr => a >>> (b.toNat % 64)

/-- A scalar arithmetic instruction (R229); a poisoned operand poisons SD (R74). -/
def scArithForm (op : ScOp) (s : State) (sd sa : Nat) (b : SVal) (x : Dispatch) (_c : Ctx) (n : Nat) :
    Except Halt State := do
  let r := s.core x.lead
  free x { Use.none with rs := sa :: svalRegs b, ws := [sd] }
  pure (putScalar s x r n sd (scValue op (r.sget sa) (r.sval b)) (r.svalPois (.reg sa) || r.svalPois b))

/-- The Core Store bytes of sc.ld and sc.st: 8 bytes at BASE + IMM32, plus SA where the form adds it, 8-byte aligned and
inside the descriptor's extent (R151, R170, R229). -/
def scAddress (s : State) (x : Dispatch) (c : Ctx) (r : CoreRegs) (acc : Access) (o : Opnd) (imm : Nat) (sa : Option Nat) :
    Except Halt (List Span) := do
  need (dSpace o.raw == 1) .descInvalid
  let off ← (match sa with
    | some k => do
      cleanS x r (.reg k)
      pure (r.sget k).toNat
    | none => pure 0 : Except Halt Nat)
  let a : Nat := (dBase o.raw + imm + off) % 2 ^ 64
  need (a % 8 == 0) .descInvalid
  let (lo, hi) := dExtent o.raw
  need (lo ≤ (a : Int) && (a : Int) + 8 ≤ hi) .descInvalid
  lift (opSpans s x c acc o.raw a 8)

/-- sc.ld (R224, R229). -/
def scLdForm (s : State) (sd : Nat) (h : HRef) (imm : Nat) (sa : Option Nat) (x : Dispatch) (c : Ctx) (n : Nat) :
    Except Halt State := do
  let r := s.core x.lead
  let o ← resolve x c r h false false
  let at_ ← scAddress s x c r .read o imm sa
  free x { Use.none with rd := at_, rs := hrefRegs h ++ sa.toList, ws := [sd] }
  let pois := spansMarked s.mem at_
  let v := BitVec.ofNat 64 (leNat (spansPeek s.mem at_))
  pure (putScalar s (if pois then x.poison .eccUncorrectable x.pc else x) r n sd v pois)

/-- sc.st (R224, R229). A poisoned scalar marks the block (R74); an open receive window refuses the write (R177). -/
def scStForm (s : State) (sd : Nat) (h : HRef) (imm : Nat) (sa : Option Nat) (x : Dispatch) (c : Ctx) (n : Nat) :
    Except Halt State := do
  let r := s.core x.lead
  let o ← resolve x c r h true false
  let at_ ← scAddress s x c r .write o imm sa
  need (!inWindow s at_) .accessDenied
  free x { Use.none with wr := at_, rs := sd :: hrefRegs h ++ sa.toList }
  let pois := r.svalPois (.reg sd)
  let s := s.writeSpans at_ (leBytes 8 (r.sget sd).toNat) pois
  pure (s.put2 (x.adv n) (if pois then r.raise stPoisonSeen else r))

/-- The header field a SUBOP of sc.hdr selects (R229). -/
def hdrField (h : Hdr) (sub : Nat) : Nat :=
  match sub with
  | 0 => h.level
  | 1 => h.budget
  | 2 => h.scale
  | 3 => h.flags
  | 4 => h.comps
  | 5 => h.repr
  | 6 => h.pPresent
  | 7 => h.slots
  | _ => h.keyset

/-- sc.hdr (R74, R123, R229). -/
def scHdrForm (s : State) (sd : Nat) (h : HRef) (sub : Nat) (x : Dispatch) (c : Ctx) (n : Nat) : Except Halt State := do
  let r := s.core x.lead
  let o ← hdrSrc s x c r h
  free x { Use.none with rd := o.hdrAt, rs := hrefRegs h, ws := [sd] }
  let s := touchReads s o.hdrAt
  pure (putScalar s (if o.poisoned then x.poison .eccUncorrectable x.pc else x) r n sd
    (BitVec.ofNat 64 (hdrField o.h sub)) o.poisoned)

/-- Argument word k of a dispatch record (R287). -/
def recArg (rec : Bytes) (k : Nat) : Nat := field rec (24 + 8 * k) 8

/-- sc.arg (R229, R287). -/
def scArgForm (s : State) (sd k : Nat) (x : Dispatch) (_c : Ctx) (n : Nat) : Except Halt State := do
  free x { Use.none with ws := [sd] }
  pure (putScalar s x (s.core x.lead) n sd (BitVec.ofNat 64 (recArg x.record k)) false)

/-- What sc.ctr reads on the lead core: the split counter of its core, Relay, Field, die or the module (R45), or the ck
the dispatch has run (R229). -/
def ctrValue (s : State) (x : Dispatch) (sub : Nat) : Nat :=
  let c := x.lead
  match sub with
  | 0 => s.splitCounter 1 c
  | 1 => s.splitCounter 2 (relayOf c)
  | 2 => s.splitCounter 3 (fieldOf c)
  | 3 => s.splitCounter 4 (dieOf c)
  | 4 => s.splitCounter 5 0
  | _ => x.ck3 / 3

/-- sc.ctr (R229). -/
def scCtrForm (s : State) (sd sub : Nat) (x : Dispatch) (_c : Ctx) (n : Nat) : Except Halt State := do
  free x { Use.none with ws := [sd] }
  pure (putScalar s x (s.core x.lead) n sd (BitVec.ofNat 64 (ctrValue s x sub)) false)

/-- Clears W1C bits [4:0] of ARITH_STATUS (R67). -/
def CoreRegs.clearStatus (r : CoreRegs) (m : Nat) : CoreRegs :=
  { r with status := r.status &&& ~~~ BitVec.ofNat 32 (m % 32) }

/-- sc.stat (R67, R229): reads what every earlier instruction left, and then clears the bits named. -/
def scStatForm (s : State) (sd : Nat) (clr : Option Nat) (x : Dispatch) (_c : Ctx) (n : Nat) : Except Halt State := do
  free x { Use.none with ws := [sd] }
  if !x.inflight.isEmpty then .error .busy
  let r := s.core x.lead
  let v := BitVec.ofNat 64 r.status.toNat
  pure (putScalar s x (match clr with
    | some m => r.clearStatus m
    | none => r) n sd v false)

/-- sc.lrd (R224). -/
def scLrdForm (s : State) (sd ln : Nat) (x : Dispatch) (_c : Ctx) (n : Nat) : Except Halt State := do
  let r := s.core x.lead
  free x { Use.none with ws := [sd] }
  pure (putScalar s x r n sd (BitVec.ofNat 64 (r.lget ln)) false)

/-- sc.lwr (R224, R237): bits [31:0] of SA; while a lap on the register is active it records the pending value. -/
def scLwrForm (s : State) (ln sa : Nat) (x : Dispatch) (_c : Ctx) (n : Nat) : Except Halt State := do
  let r := s.core x.lead
  cleanS x r (.reg sa)
  free x { Use.none with rs := [sa] }
  let v := (r.sget sa).toNat % 2 ^ 32
  if x.laps.any (·.ln == ln) then
    pure (s.setDisp { x.adv n with laps := x.laps.map (fun l => if l.ln == ln then { l with pendingVal := some v } else l) })
  else if x.readsLoop ln then .error .busy
  else pure (s.put2 (x.adv n) (r.lput ln v))

/-- SC_LI (R229). -/
def execScLi (d : DRef) (sd : Nat) (v : DWord) (long : Bool) (s : State) : Out :=
  issue s d (.scLi d sd v long) 1 (scLiForm s sd v)
/-- SC_ADD (R229). -/
def execScAdd (d : DRef) (sd sa : Nat) (b : SVal) (s : State) : Out :=
  issue s d (.scAdd d sd sa b) 1 (scArithForm .add s sd sa b)
/-- SC_SUB (R229). -/
def execScSub (d : DRef) (sd sa : Nat) (b : SVal) (s : State) : Out :=
  issue s d (.scSub d sd sa b) 1 (scArithForm .sub s sd sa b)
/-- SC_MUL (R229): the low 64 bits. -/
def execScMul (d : DRef) (sd sa : Nat) (b : SVal) (s : State) : Out :=
  issue s d (.scMul d sd sa b) 1 (scArithForm .mul s sd sa b)
/-- SC_AND (R229). -/
def execScAnd (d : DRef) (sd sa : Nat) (b : SVal) (s : State) : Out :=
  issue s d (.scAnd d sd sa b) 1 (scArithForm .and s sd sa b)
/-- SC_OR (R229). -/
def execScOr (d : DRef) (sd sa : Nat) (b : SVal) (s : State) : Out :=
  issue s d (.scOr d sd sa b) 1 (scArithForm .or s sd sa b)
/-- SC_XOR (R229). -/
def execScXor (d : DRef) (sd sa : Nat) (b : SVal) (s : State) : Out :=
  issue s d (.scXor d sd sa b) 1 (scArithForm .xor s sd sa b)
/-- SC_SHL (R229). -/
def execScShl (d : DRef) (sd sa : Nat) (b : SVal) (s : State) : Out :=
  issue s d (.scShl d sd sa b) 1 (scArithForm .shl s sd sa b)
/-- SC_SHR (R229): logical. -/
def execScShr (d : DRef) (sd sa : Nat) (b : SVal) (s : State) : Out :=
  issue s d (.scShr d sd sa b) 1 (scArithForm .shr s sd sa b)
/-- SC_LD (R229). -/
def execScLd (d : DRef) (sd : Nat) (h : HRef) (imm : Nat) (sa : Option Nat) (s : State) : Out :=
  issue s d (.scLd d sd h imm sa) 1 (scLdForm s sd h imm sa)
/-- SC_ST (R229). -/
def execScSt (d : DRef) (sd : Nat) (h : HRef) (imm : Nat) (sa : Option Nat) (s : State) : Out :=
  issue s d (.scSt d sd h imm sa) 1 (scStForm s sd h imm sa)
/-- SC_HDR (R229). -/
def execScHdr (d : DRef) (sd : Nat) (h : HRef) (sub : Nat) (s : State) : Out :=
  issue s d (.scHdr d sd h sub) 1 (scHdrForm s sd h sub)
/-- SC_ARG (R229). -/
def execScArg (d : DRef) (sd k : Nat) (s : State) : Out := issue s d (.scArg d sd k) 1 (scArgForm s sd k)
/-- SC_CTR (R229). -/
def execScCtr (d : DRef) (sd sub : Nat) (s : State) : Out := issue s d (.scCtr d sd sub) 1 (scCtrForm s sd sub)
/-- SC_STAT (R229). -/
def execScStat (d : DRef) (sd : Nat) (clr : Option Nat) (s : State) : Out :=
  issue s d (.scStat d sd clr) 1 (scStatForm s sd clr)
/-- SC_LRD (R224). -/
def execScLrd (d : DRef) (sd ln : Nat) (s : State) : Out := issue s d (.scLrd d sd ln) 1 (scLrdForm s sd ln)
/-- SC_LWR (R237). -/
def execScLwr (d : DRef) (ln sa : Nat) (s : State) : Out := issue s d (.scLwr d ln sa) 1 (scLwrForm s ln sa)

end Sys2Proof.Machine
end

