-- ==== Sys2Proof/Machine/Control.lean ====
section
/-! DEFINITION. Control flow: br (R235), laps (R236 to R239), call and ret (R239), ring-configuration writes (R69, R70),
stages (R199) and rel (R230). -/

namespace Sys2Proof.Machine

/-- AVIS_PC after a signed offset in words from the instruction's first word (R223). -/
def jumpTo (pc : Nat) (off : Int) : Nat := ((pc : Int) + off).toNat

/-- A branch condition on two 64-bit values (R225, R235). -/
def condHolds (c : Cond) (a b : DWord) : Bool :=
  match c with
  | .always => true
  | .eq => a == b
  | .ne => a != b
  | .ltu => a.toNat < b.toNat
  | .geu => b.toNat ≤ a.toNat
  | .lts => a.toInt < b.toInt
  | .ges => b.toInt ≤ a.toInt

/-- The loop register of a lap that ends: its pending value, or what it holds (R237, R239). -/
def endLap (r : CoreRegs) (l : LapState) : CoreRegs :=
  match l.pendingVal with
  | some v => r.lput l.ln v
  | none => r

/-- Ending the laps that pass a test writes a loop register that something in flight reads (R77, R237). -/
def lapsHeld (x : Dispatch) (p : LapState → Bool) : Bool :=
  x.laps.any (fun l => p l && l.pendingVal.isSome && x.readsLoop l.ln)

/-- Ends the laps that pass a test. -/
def endLaps (x : Dispatch) (r : CoreRegs) (p : LapState → Bool) : Dispatch × CoreRegs :=
  ({ x with laps := x.laps.filter (fun l => !p l) }, (x.laps.filter p).foldl endLap r)

/-- A branch to an index leaves the body of a lap entered at the same call depth (R239). -/
def leavesLap (x : Dispatch) (pc : Nat) (l : LapState) : Bool :=
  l.depth == x.calls.length && !(l.start ≤ pc && pc < l.target)

/-- br (R76, R235, R239). -/
def brForm (s : State) (c : Cond) (sa : Nat) (b : SVal) (off : Int) (x : Dispatch) (_c : Ctx) (n : Nat) :
    Except Halt State := do
  let r := s.core x.lead
  let rs := if c == .always then [] else sa :: svalRegs b
  free x { Use.none with rs := rs }
  if c != .always then
    cleanS x r (.reg sa)
    cleanS x r b
  if condHolds c (r.sget sa) (r.sval b) then
    let pc := jumpTo x.pc off
    if lapsHeld x (leavesLap x pc) then .error .busy
    let (x, r) := endLaps x r (leavesLap x pc)
    pure (s.put2 { x with pc := pc } r)
  else pure (s.setDisp (x.adv n))

/-- lap (R236, R238). -/
def lapForm (s : State) (ln : Nat) (cnt : SVal) (off : Int) (x : Dispatch) (_c : Ctx) (n : Nat) : Except Halt State := do
  let r := s.core x.lead
  free x { Use.none with rs := svalRegs cnt }
  cleanS x r cnt
  let c := (r.sval cnt).toNat
  need (c ≤ 0xFFFFFFFF) .descInvalid
  need (x.laps.length < 4 && !x.laps.any (·.ln == ln)) .descInvalid
  if x.readsLoop ln then .error .busy
  let target := jumpTo x.pc off
  let r := r.lput ln 0
  if c == 0 then pure (s.put2 { x with pc := target } r)
  else
    let l : LapState := { ln := ln, count := c, start := x.pc + n, target := target, pendingVal := none
                          depth := x.calls.length }
    pure (s.put2 { x.adv n with laps := l :: x.laps } r)

/-- A dispatch that may act between instructions: it runs, nothing holds it, its outcome is open. -/
def State.acts (s : State) (d : DRef) : Option Dispatch :=
  match s.disp? d with
  | none => none
  | some x =>
    if x.phase == .running && x.fate.isNone && x.wait.isNone && x.redo.isEmpty && s.coresRun x && s.isUp then some x else none

/-- LAP_ITERATION_END (R236): Ln advances; control returns to the first body instruction or passes to the target. -/
def execLapIterationEnd (d : DRef) (s : State) : Out :=
  match s.acts d with
  | none => .next s
  | some x => match x.atLapEnd with
    | none => .next s
    | some l =>
      if x.readsLoop l.ln then .next s else
      let r := s.core x.lead
      let k := r.lget l.ln + 1
      let r := r.lput l.ln k
      if k == l.count then .next (s.put2 { x with pc := l.target, laps := x.laps.tail } (endLap r l))
      else .next (s.put2 { x with pc := l.start } r)

/-- call of a code offset (R239): the call stack holds 16 return points. -/
def callForm (s : State) (off : Int) (x : Dispatch) (_c : Ctx) (n : Nat) : Except Halt State := do
  need (x.calls.length < 16) .descInvalid
  pure (s.setDisp { x with pc := jumpTo x.pc off, calls := (x.pc + n) :: x.calls })

/-- ret (R225, R239): back to the return point, or the end of the program; laps opened since the call end. -/
def retForm (s : State) (x : Dispatch) (_c : Ctx) (_n : Nat) : Except Halt State := do
  if lapsHeld x (fun l => l.depth == x.calls.length) then .error .busy
  let (x, r) := endLaps x (s.core x.lead) (fun l => l.depth == x.calls.length)
  match x.calls with
  | [] => pure (s.put2 { x with fin := true } r)
  | pc :: t => pure (s.put2 { x with pc := pc, calls := t } r)

/-- ring (R32, R69): the write waits for what was issued before it (R70). The gate configuration exists only with a gate
section, the main one only outside a gate-only record (R32, R68). -/
def ringForm (s : State) (gate : Bool) (x : Dispatch) (c : Ctx) (n : Nat) : Except Halt State := do
  need (if gate then hasGate c.param else !gateOnly c.param) .descInvalid
  pure (s.setDisp { x.adv n with ringPend := some gate })

/-- RING_CONFIG_EFFECT (R70, R71): once everything issued before it has retired. -/
def execRingConfigEffect (d : DRef) (s : State) : Out :=
  match s.acts d with
  | none => .next s
  | some x => match x.ringPend with
    | none => .next s
    | some g =>
      if !(x.inflight.isEmpty && x.streams.isEmpty) then .next s
      else .next (s.put2 { x with ringPend := none } { s.core x.lead with gate := g })

/-- stage.begin (R199, R206). -/
def stageBeginForm (s : State) (x : Dispatch) (_c : Ctx) (n : Nat) : Except Halt State := do
  pure (s.setDisp { x.adv n with stage := .inStage, stageNum := x.stageNum + 1, stageAt := x.pc, stageCk3 := x.ck3 })

/-- stage.end issues (R199); it retires when every stream of the stage has completed. -/
def stageEndForm (s : State) (x : Dispatch) (_c : Ctx) (n : Nat) : Except Halt State := do
  pure (s.setDisp { x.adv n with stage := .ending })

/-- rel (R53, R75, R230): in-use and poison flags of the registers and tiles named. -/
def relForm (s : State) (vfirst vcount tmask : Nat) (x : Dispatch) (_c : Ctx) (n : Nat) : Except Halt State := do
  let vs := rangeFrom vfirst vcount
  let ts := (List.range 4).filter (bit tmask)
  free x { Use.none with wv := vs, wt := ts }
  let r := vs.foldl CoreRegs.relV (s.core x.lead)
  pure (s.put2 (x.adv n) (ts.foldl CoreRegs.relA r))

/-- BR (R235). -/
def execBr (d : DRef) (c : Cond) (sa : Nat) (b : SVal) (off : Int) (s : State) : Out :=
  issue s d (.br d c sa b off) 1 (brForm s c sa b off)
/-- LAP (R236). -/
def execLap (d : DRef) (ln : Nat) (cnt : SVal) (off : Int) (s : State) : Out :=
  issue s d (.lap d ln cnt off) 1 (lapForm s ln cnt off)
/-- CALL (R239). -/
def execCall (d : DRef) (off : Int) (s : State) : Out := issue s d (.call d off) 1 (callForm s off)
/-- RET (R239). -/
def execRet (d : DRef) (s : State) : Out := issue s d (.ret d) 1 (retForm s)
/-- RING (R69). -/
def execRing (d : DRef) (gate : Bool) (s : State) : Out := issue s d (.ring d gate) 1 (ringForm s gate)
/-- STAGE_BEGIN (R199). -/
def execStageBegin (d : DRef) (s : State) : Out := issue s d (.stageBegin d) 1 (stageBeginForm s)
/-- STAGE_END (R199). -/
def execStageEnd (d : DRef) (s : State) : Out := issue s d (.stageEnd d) 1 (stageEndForm s)
/-- REL (R230). -/
def execRel (d : DRef) (vfirst vcount tmask : Nat) (s : State) : Out :=
  issue s d (.rel d vfirst vcount tmask) 1 (relForm s vfirst vcount tmask)

end Sys2Proof.Machine
end

