-- ==== Sys2Proof/Machine/Windows.lean ====
section
/-! DEFINITION. Receive windows and the credit managers: R177 to R181, R230, R266. -/

namespace Sys2Proof.Machine

/-- A manager's own ticks for a sender: its level's split counter, the module's for a sender on another module
(R48, R180). -/
def mgrTicks (s : State) (m : Mgr) (x : Sender) : Nat :=
  match x.module, m with
  | some _, _ => s.now
  | none, .core n => s.unitTicks 1 n
  | none, .die n => s.unitTicks 4 n

/-- A manager that exists and whose unit is in service (R44, R177). -/
def mgrServes (s : State) (m : Mgr) : Bool :=
  match m with
  | .core n => n < 128 && !s.coreGone n
  | .die n => n < 2

/-- Field self-test: the credit managers of the Field open no window (R357). -/
def mgrTesting (s : State) (m : Mgr) : Bool :=
  match m with
  | .core n => (s.field (fieldOf n)).phase == .test
  | .die _ => false

/-- Entries of a manager: 64 of a core, 512 of a die (R230). -/
def mgrCap (m : Mgr) : Nat :=
  match m with
  | .core _ => 64
  | .die _ => 512

/-- A window accepts a sender (R230, R266): its cores, its module, and the issuing context, or the context bound to it on
the sender's module. -/
def windowAccepts (s : State) (w : Window) (x : Sender) : Bool :=
  w.scoreLo ≤ x.core && x.core ≤ w.scoreHi && w.smod == x.module
  && (match x.module with
    | none => x.ctx == w.ctx
    | some m => s.sys.leaving.isNone && s.settingN (0x0140 + m) w.ctx == x.ctx)

/-- A block that an open grant still lends (R177, R178). -/
def blockLent (m : Manager) (win b : Nat) : Bool :=
  m.grants.any (fun g => g.window == win && g.first + g.returned ≤ b && b < g.first + g.count)

/-- The length of the run of blocks from b that may be granted, at most n. -/
def freeRun (m : Manager) (w : Window) : Nat → Nat → Nat
  | 0, _ => 0
  | n + 1, b =>
    if (w.blocks[b]?) == some BlockState.empty && !blockLent m w.num b then freeRun m w n (b + 1) + 1 else 0

/-- The lowest block that may be granted. -/
def freeFirst (m : Manager) (w : Window) : Option Nat :=
  (List.range w.blocks.length).find? (fun b => freeRun m w 1 b == 1)

/-- The record of a Baton port. -/
def State.port (s : State) (p : Nat) : Port := nth s.ports p Port.reset

/-- Changes the record of a port. -/
def State.modPort (s : State) (p : Nat) (f : Port → Port) : State := { s with ports := modNth f p s.ports }

/-- The port carries traffic of the admitted peer (R253, R264). -/
def carries (x : Port) : Bool := x.st == .active || x.st == .leaving

/-- The ports that carry traffic with a module, in ascending order: its bundle, and while this module leaves the ports that were
its bundle (R264). -/
def lanes (s : State) (module : Nat) : List Nat :=
  (List.range 16).filter (fun p => carries (s.port p) && (s.port p).peer == module)

/-- A message of the peer has passed on a port: no flit of it is being retried any more (R256, R258). -/
def State.heardOn (s : State) (p : Nat) : State :=
  s.modPort p (fun x => { x with lastGood := s.unitTicks 4 (p / 8), flitFails := 0 })

/-- A message whose port the command does not tell has passed from a module, on the lowest port that leads to it (DESIGN CHOICE,
log entry 51). -/
def State.heardFrom (s : State) (module : Nat) : State :=
  match (lanes s module).head? with
  | some p => s.heardOn p
  | none => s

/-- The traffic key of a port: that of the SPDM session set up on it (R257, R261). -/
def portKey (s : State) (p : Nat) : Bytes :=
  match s.rsp.sessions.find? (fun x => x.via == .port p) with
  | some x => x.key
  | none => []

/-- A message of the PUT or COLL class leaves on a port, its payload under AES-256-GCM with the port's traffic key (R257). -/
def State.guard (s : State) (p : Nat) (m : Msg) : State := s.emit (.guarded p (portKey s p) m)

/-- The bundle of a module: the ACTIVE ports that lead to it, in ascending order (R262). -/
def bundle (s : State) (module : Nat) : List Nat :=
  (List.range 16).filter (fun p => (s.port p).st == .active && (s.port p).peer == module)

/-- The port that carries a grant: the one of rank grant number mod p in the bundle (R267), which a module that is leaving still
has at its LEAVING ports (R264). -/
def grantPort (s : State) (module grant : Nat) : Option Nat :=
  let b := lanes s module
  b[grant % b.length]?

/-- The way of a credit message inside the module (R42): from a core to a manager (true) or back, with both ends; none for one
that leaves the module. -/
def Msg.path (m : Msg) : Option (Bool × Nat × Mgr) :=
  match m with
  | .crReq none g x _ _ => some (true, x.core, g)
  | .put none g x _ _ _ _ => some (true, x.core, g)
  | .senderCancel none g x _ _ => some (true, x.core, g)
  | .crGrant x g _ _ _ _ _ => if x.module.isNone then some (false, x.core, g) else none
  | .crReturn x g _ _ => if x.module.isNone then some (false, x.core, g) else none
  | .crCancel x g _ _ => if x.module.isNone then some (false, x.core, g) else none
  | _ => none

/-- An s.put of an uncommitted dispatch that a manager's message is meant for: of the sender's context and epoch. -/
def putFor (s : State) (y : Sender) (p : Stream → Bool) : Bool :=
  s.disps.any (fun x => x.phase != .ended && x.ctx == y.ctx && x.epoch == y.epoch
    && x.streams.any (fun t => t.kind == .put && t.tmod.isNone && p t))

/-- A message has someone to act on it: a manager always, a sender while its stream waits for the answer or holds the grant. -/
def awaited (s : State) (m : Msg) : Bool :=
  match m with
  | .crGrant y _ win _ _ _ _ => putFor s y (fun t => t.reqOpen && t.window == win)
  | .crReturn y _ g _ => putFor s y (fun t => t.grant == g)
  | .crCancel y _ g _ => putFor s y (fun t => t.grant == g)
  | _ => true

/-- A credit message of the module arrives (R42): it is the oldest on its way, but for messages that no one waits for any more,
which are discarded and counted as they arrive before it (R303). -/
def State.arrive (s : State) (m : Msg) : Option State :=
  let i := s.net.idxOf m
  let mine := fun (y : Msg) => y.path == m.path
  let before := (s.net.take i).filter mine
  if i < s.net.length && before.all (fun y => !awaited s y) then
    some { s with net := (s.net.take i).filter (fun y => !mine y) ++ s.net.drop (i + 1)
                  staleDiscards := min (s.staleDiscards + before.length) 0xFFFFFFFF }
  else none

/-- The answer of a manager to CR_REQ (R178): status, first block and count. Which EMPTY blocks a grant takes is the
model's choice, the lowest run (DESIGN CHOICE, log entry 15). -/
def crAnswer (s : State) (mgr : Mgr) (x : Sender) (win want : Nat) : GrantStatus × Nat × Nat :=
  let m := s.mgr mgr
  match m.windows.find? (·.num == win) with
  | none => (.noWindow, 0, 0)
  | some w =>
    if !(mgrServes s mgr && windowAccepts s w x) then (.noWindow, 0, 0)
    else if m.grants.length ≥ 1024 then (.wait, 0, 0)
    else match freeFirst m w with
      | none => (.wait, 0, 0)
      | some b => (.granted, b, freeRun m w (min want 256) b)

/-- Sends a credit message: to another module, or into the module's own fabric (R42, R178). -/
def State.credit (s : State) (m : Msg) : State :=
  if m.path.isSome then { s with net := s.net ++ [m] } else s.emit m

/-- A CR_REQ that arrives is answered with one CR_GRANT (R178). -/
def answerReq (s : State) (mgr : Mgr) (x : Sender) (win want : Nat) : State :=
  match crAnswer s mgr x win want with
  | (.granted, b, n) =>
    let m := s.mgr mgr
    let g : Grant := { num := m.nextGrant, window := win, sender := x, first := b, count := n, puts := [], returned := 0,
                       lastTick := mgrTicks s mgr x, port := x.module.bind (fun k => grantPort s k m.nextGrant) }
    (s.setMgr mgr { m with grants := m.grants ++ [g], nextGrant := m.nextGrant + 1 }).credit
      (.crGrant x mgr win g.num b n .granted)
  | (st, _, _) => s.credit (.crGrant x mgr win 0 0 0 st)

/-- CR_REQ (R178): the manager answers with one CR_GRANT. One of this module is the next to arrive of those its sender sent
(R42). One of another module wakes the module from REST and is held at its port (R402); nothing arrives from a module that is
not a peer (R265). -/
def execCrReq (mgr : Mgr) (x : Sender) (win want : Nat) (s : State) : Out :=
  if !(1 ≤ want && want ≤ 256) then .next s
  else if !s.isUp then .next (if x.module.isNone then s else s.holdAtLink (.crReq mgr x win want))
  else match x.module with
    | some m => if (lanes s m).isEmpty then .next s else .next (answerReq (s.heardFrom m) mgr x win want)
    | none => match s.arrive (.crReq none mgr x win want) with
      | some s => .next (answerReq s mgr x win want)
      | none => .next s

/-- Marks blocks of a window of a manager. -/
def setBlocks (m : Manager) (win : Nat) (p : Nat → Bool) (st : BlockState) : Manager :=
  { m with windows := m.windows.map (fun w => if w.num == win then
      { w with blocks := mapIdxFrom (fun b x => if p b then st else x) 0 w.blocks } else w) }

/-- Where block b of a window lies (R172, R177). -/
def windowSpans (s : State) (mgr : Mgr) (w : Window) (b : Nat) : Except Stop (List Span) :=
  match mgr with
  | .core n => padSpans s n w.ctx (some w.owner) 1 w.swz 34 (w.base + 1024 * b) 1024
  | .die n => padSpans s (64 * n) w.ctx (some w.owner) 2 0 34 (w.base + 1024 * b) 1024

/-- Counts a discarded PUT (R179, R181). -/
def countStalePut (s : State) (mgr : Mgr) : State :=
  let m := s.mgr mgr
  s.setMgr mgr { m with staleCount := satInc 16 m.staleCount }

/-- A PUT that arrives (R178, R179): the block is written and made FULL, and ARRIVE_MARK is signalled; a PUT that names no open
grant, or another epoch than the grant's, is discarded and counted. The PUTs of a grant arrive in the order of its blocks. -/
def takePut (s : State) (mgr : Mgr) (y : Sender) (grant block : Nat) (payload : Bytes) (marked : Bool) : State :=
  let m := s.mgr mgr
  match m.grants.find? (·.num == grant) with
  | none => countStalePut s mgr
  | some g =>
    if g.sender.epoch != y.epoch then countStalePut s mgr
    else if !(block == g.first + g.puts.length && g.puts.length < g.count && payload.length == 1024) then s
    else match m.windows.find? (·.num == g.window) with
      | none => s
      | some w => match windowSpans s mgr w block with
        | .error _ => s
        | .ok xs =>
          let g' := { g with puts := g.puts ++ [block], lastTick := mgrTicks s mgr g.sender }
          let m := setBlocks m w.num (· == block) .full
          let s := s.setMgr mgr { m with grants := m.grants.map (fun y => if y.num == grant then g' else y) }
          let s := s.writeSpans xs payload marked
          match w.mark with
          | some k => s.signal ⟨k, 1, w.ctx, .program w.owner w.epoch⟩
          | none => s

/-- PUT (R178, R179). One of this module is the next to arrive of those its sender sent, with what it sent (R42); one of a peer
has passed the CRC and the tag of its port, where GCM_TAG_FAILURE tells the other case (R257, R265). -/
def execPut (mgr : Mgr) (y : Sender) (grant block : Nat) (payload : Bytes) (marked : Bool) (s : State) : Out :=
  match y.module with
  | some m =>
    if (lanes s m).isEmpty then .next s
    else if !s.isUp then .next (s.holdAtLink (.put mgr y grant block payload marked))
    else
      let s := match ((s.mgr mgr).grants.find? (·.num == grant)).bind (·.port) with
        | some p => s.heardOn p
        | none => s.heardFrom m
      .next (takePut s mgr y grant block payload marked)
  | none => match s.arrive (.put none mgr y grant block payload marked) with
    | some s => .next (takePut s mgr y grant block payload marked)
    | none => .next s

/-- The end of a grant at its manager (R180): unconsumed blocks become EMPTY, the cancel is counted. -/
def dropGrant (m : Manager) (g : Grant) : Manager :=
  let m := setBlocks m g.window (fun b => g.first + g.returned ≤ b && b < g.first + g.count) .empty
  { m with grants := m.grants.filter (·.num != g.num), cancelCount := satInc 16 m.cancelCount }

/-- A manager cancels a grant and tells the sender (R178, R180). -/
def cancelGrant (s : State) (mgr : Mgr) (g : Grant) (r : CancelReason) : State :=
  (s.setMgr mgr (dropGrant (s.mgr mgr) g)).credit (.crCancel g.sender mgr g.num r)

/-- Cancels every grant of a manager that passes a test. -/
def cancelGrants (s : State) (mgr : Mgr) (p : Grant → Bool) (r : CancelReason) : State :=
  ((s.mgr mgr).grants.filter p).foldl (fun s g => cancelGrant s mgr g r) s

/-- Cancels every grant of every manager that passes a test. -/
def cancelAll (s : State) (p : Mgr → Grant → Bool) (r : CancelReason) : State :=
  s.mgrs.foldl (fun s m => cancelGrants s m.1 (p m.1) r) s

/-- Ends every grant that passes a test at its manager, where no message is sent for it: the sender acts of its own (R180). -/
def dropGrantsOf (s : State) (p : Mgr → Grant → Bool) : State :=
  { s with mgrs := s.mgrs.map (fun m => (m.1, (m.2.grants.filter (p m.1)).foldl dropGrant m.2)) }

/-- Closes a window (R230): grants cancelled with reason CLOSED, the entry freed. -/
def closeWindow (s : State) (mgr : Mgr) (win : Nat) : State :=
  let s := cancelGrants s mgr (·.window == win) .closed
  let m := s.mgr mgr
  s.setMgr mgr { m with windows := m.windows.filter (·.num != win) }

/-- Closes every window that a dispatch opened (R230). -/
def closeWindowsOf (s : State) (d : DRef) : State :=
  s.mgrs.foldl (fun s m => (m.2.windows.filter (·.owner == d)).foldl (fun s w => closeWindow s m.1 w.num) s) s

/-- CREDIT_TIMEOUT (R180): a grant that saw no PUT and no CR_RETURN for CREDIT_TIMEOUT ticks. -/
def execCreditTimeout (mgr : Mgr) (grant : Nat) (s : State) : Out :=
  match (s.mgr mgr).grants.find? (·.num == grant) with
  | none => .next s
  | some g =>
    if due (mgrTicks s mgr g.sender) g.lastTick (s.settingN 0x0303 0) then .next (cancelGrant s mgr g .timeout) else .next s

/-- The manager that a SPACE selects for a dispatch (R221, R230). -/
def mgrOf (x : Dispatch) (sp : Nat) : Mgr := if sp == 1 then .core x.lead else .die (dieOf x.lead)

/-- win.open (R230). -/
def winOpenForm (s : State) (f : WForm) (x : Dispatch) (c : Ctx) (n : Nat) : Except Halt State := do
  let r := s.core x.lead
  let o ← resolveAny x c r f.rm false
  let sp := dSpace o.raw
  need (sp == 1 || sp == 2) .descInvalid
  let (lo, hi) := dExtent o.raw
  let len := (hi - lo).toNat
  need (dBase o.raw % 1024 == 0 && lo.toNat % 1024 == 0 && len % 1024 == 0) .descInvalid
  let mgr := mgrOf x sp
  let m := s.mgr mgr
  need (!m.windows.any (·.num == f.window) && m.windows.length < mgrCap mgr && !mgrTesting s mgr) .descInvalid
  let mark ← (if f.markEn then (match x.markNum f.arriveMark with
      | some k => pure (some k)
      | none => fail .accessDenied) else pure none)
  let _ ← lift (spaceSpans s c (some x.id) x.lead .write 0 sp 0 lo.toNat len)
  free x { Use.none with rs := hrefRegs f.rm }
  let w : Window := { num := f.window, ctx := c.num, owner := x.id, base := lo.toNat, swz := if sp == 1 then dSwz o.raw else 0
                      blocks := List.replicate (len / 1024) .empty, scoreLo := f.scoreLo, scoreHi := f.scoreHi
                      smod := if f.xmod then some f.smod else none, mark := mark, epoch := x.epoch }
  pure ((s.setMgr mgr { m with windows := m.windows ++ [w] }).setDisp (x.adv n))

/-- win.close (R230). A window that is not open, or not this context's, raises DESC_INVALID (DEDUCED, log entry 15). -/
def winCloseForm (s : State) (rm : HRef) (win : Nat) (x : Dispatch) (c : Ctx) (n : Nat) : Except Halt State := do
  let r := s.core x.lead
  let o ← resolveAny x c r rm false
  need (dSpace o.raw == 1 || dSpace o.raw == 2) .descInvalid
  let mgr := mgrOf x (dSpace o.raw)
  need ((s.mgr mgr).windows.any (fun w => w.num == win && w.ctx == c.num)) .descInvalid
  free x { Use.none with rs := hrefRegs rm }
  if x.streams.any (fun t => t.kind == .get && t.window == win) then .error .busy
  pure ((closeWindow s mgr win).setDisp (x.adv n))

/-- WIN_OPEN (R230). -/
def execWinOpen (d : DRef) (f : WForm) (s : State) : Out := issue s d (.winOpen d f) 1 (winOpenForm s f)
/-- WIN_CLOSE (R230). -/
def execWinClose (d : DRef) (rm : HRef) (win : Nat) (s : State) : Out :=
  issue s d (.winClose d rm win) 1 (winCloseForm s rm win)

end Sys2Proof.Machine
end

