-- ==== Sys2Proof/Machine/Fence.lean ====
section
/-! DEFINITION. Error records and their merging (R410, R411), what a lost unit loses (R176), fences (R44, R304, R413,
R415), and memory errors met by a read (R73, R74, R410). -/

namespace Sys2Proof.Machine

/-- UNIT_KIND of an error record (R411). -/
def ukCore : Nat := 1
/-- A Relay. -/
def ukRelay : Nat := 2
/-- A Field. -/
def ukField : Nat := 3
/-- A die. -/
def ukDie : Nat := 4
/-- The module. -/
def ukModule : Nat := 5
/-- An HBM stack. -/
def ukStack : Nat := 6
/-- A Baton port. -/
def ukPort : Nat := 7

/-- Posts an error record of a class with an action for a unit, and nothing else to tell (R411). -/
def State.plainErr (s : State) (cls action kind unit fault addr : Nat) : State :=
  s.errRec { cls := cls, action := action, kind := kind, fault := fault, unit := unit, addr := addr, count := 1
             ctx := noCtx, dispatch := none, tick := s.now }

/-- Posts the record of merged events (R410). -/
def State.postMerge (s : State) (m : CeMerge) : State :=
  s.errRec { cls := m.cls, action := m.action, kind := m.kind, fault := 0, unit := m.unit, addr := m.addr, count := m.count
             ctx := noCtx, dispatch := none, tick := m.since }

/-- Posts every merged record whose PACE_PERIOD has ended (R410). -/
def State.flushMerges (s : State) : State :=
  let done := s.fence.merges.filter (fun m => s.now ≥ m.since + s.settingN 0x0317 0)
  let rest := s.fence.merges.filter (fun m => s.now < m.since + s.settingN 0x0317 0)
  done.foldl State.postMerge { s with fence := { s.fence with merges := rest } }

/-- A corrected event: joined to the record of its class and unit within one PACE_PERIOD, or the first of a new one
(R410). -/
def State.corrected (s : State) (cls action kind unit addr : Nat) : State :=
  let s := s.flushMerges
  if s.fence.merges.any (fun m => m.cls == cls && m.kind == kind && m.unit == unit) then
    { s with fence := { s.fence with merges := s.fence.merges.map (fun m =>
        if m.cls == cls && m.kind == kind && m.unit == unit then { m with count := m.count + 1 } else m) } }
  else { s with fence := { s.fence with merges := s.fence.merges ++ [⟨cls, action, kind, unit, addr, s.now, 1⟩] } }

/-- Records the loss of n HELD segments in their context's entry (R176, R331). -/
def State.heldLost (s : State) (ctx n : Nat) : State :=
  if n = 0 then s else
  { s with ctxs := s.ctxs.map (fun c => if c.num == ctx
      then { c with heldLost := true, heldLostCount := min (c.heldLostCount + n) 0xFFFFFFFF } else c) }

/-- A scratchpad without the bytes of a range: nothing is written there. -/
def scratchLose (sc : Scratch) (a n : Nat) : Scratch :=
  { data := sc.data.filter (fun c => !(a ≤ c.1 && c.1 < a + n))
    written := sc.written.filter (fun b => !(a ≤ 1024 * b && 1024 * b < a + n))
    marked := sc.marked.filter (fun b => !(a ≤ 1024 * b && 1024 * b < a + n)) }

/-- What a core loses with its storage (R176, R403): Core Store and operand buffers, its mapped segments, registers; HELD
segments are recorded as lost. Its ck counter is never set back (R46) but by the core reset of a Field that goes F-OFF or is
reset (`resetCore`). -/
def loseCore (s : State) (n : Nat) : State :=
  let held := s.mem.csMap.filter (fun x => x.unit == n && x.held)
  let s := held.foldl (fun s x => s.heldLost x.ctx 1) s
  let m := s.mem
  let m := { m with cs := scratchLose m.cs (n * 2 ^ 21) (2 ^ 21), ob := scratchLose m.ob (4 * n * 65536) (4 * 65536)
                    csMap := m.csMap.filter (·.unit != n), xlate := m.xlate.filter (·.unit != .core n) }
  { s with mem := m, cores := assocSet n { CoreRegs.zero with ck3 := (s.core n).ck3 } s.cores }

/-- A core reset (R46, R403, R417): its storage is lost and its ck counter starts at 0. -/
def resetCore (s : State) (n : Nat) : State :=
  let s := loseCore s n
  { s with cores := s.cores.filter (·.1 != n) }

/-- The cores of a unit: 1 a core, 2 a Relay, 3 a Field, by UNIT_KIND. -/
def unitCores (kind unit : Nat) : List Nat :=
  if kind == ukCore then [unit] else if kind == ukRelay then rangeFrom (4 * unit) 4 else rangeFrom (16 * unit) 16

/-- A dispatch has a core of a unit in its placement. -/
def onUnit (x : Dispatch) (kind unit : Nat) : Bool := x.cores.any ((unitCores kind unit).contains ·)

/-- The fences of a kind of unit. -/
def fencesOf (s : State) (kind : Nat) : List Fence :=
  if kind == ukCore then s.fence.cores else if kind == ukRelay then s.fence.relays else s.fence.fields

/-- Replaces the fences of a kind of unit. -/
def setFences (s : State) (kind : Nat) (l : List Fence) : State :=
  if kind == ukCore then { s with fence := { s.fence with cores := l } }
  else if kind == ukRelay then { s with fence := { s.fence with relays := l } }
  else { s with fence := { s.fence with fields := l } }

/-- The local sender of a grant lies on one of the cores given. -/
def grantFrom (cores : List Nat) (g : Grant) : Bool := g.sender.module.isNone && cores.contains g.sender.core

/-- An s.put that has lost its grant: back to the first unreturned block (R180, R205). -/
def lostGrant (t : Stream) : Stream :=
  { t with done := if t.grant == 0 then t.done else t.gBase + t.gRet, grant := 0, gFirst := 0, gCount := 0, gSent := 0
           gRet := 0, reqOpen := false }

/-- The receiving manager of an s.put (R177, R221). -/
def putMgr (t : Stream) : Mgr := if dSpace t.mem == 1 then .core t.tcore else .die (dieOf t.tcore)

/-- A stream holds a grant of a manager on the cores given, in this module. -/
def grantTo (cores : List Nat) (t : Stream) : Bool :=
  t.kind == .put && t.tmod.isNone && t.grant != 0 && (match putMgr t with
    | .core n => cores.contains n
    | .die _ => false)

/-- The senders that hold grants of a fenced unit act on FENCE of their own (R180, R205): each such stream goes back and ends
with CREDIT_VIOLATION. -/
def fenceSenders (s : State) (cores : List Nat) : State :=
  s.disps.foldl (fun s x => match x.streams.find? (grantTo cores) with
    | some t => if x.phase == .ended then s else
        s.stop { x with streams := x.streams.map (fun y => if grantTo cores y then lostGrant y else y) } .creditViolation t.instr
    | none => s) s

/-- A fence acts at the boundary of its unit (R44, R180, R176): grants at either end there are cancelled with reason
FENCE, storage is lost, a Field is taken to F-OFF. -/
def actFence (s : State) (kind unit : Nat) : State :=
  let cs := unitCores kind unit
  let ends := fun (m : Mgr) (g : Grant) => (match m with
    | .core n => cs.contains n
    | .die _ => false) || grantFrom cs g
  let s := dropGrantsOf s (fun m g => g.sender.module.isNone && ends m g)
  let s := fenceSenders (cancelAll s ends .fence) cs
  let s := cs.foldl loseCore s
  let s := setFences s kind ((fencesOf s kind).map (fun f => if f.unit == unit then { f with acts := true } else f))
  if kind == ukField then s.modField unit (fun f => if f.st == .off then f else { f with entering := some .off }) else s

/-- The dispatches of a hard-fenced unit abort with CAUSE fence (R304); those of a soft-fenced one are to migrate or to be
re-divided, and the Sprint guarantee of any is void (R301). -/
def fenceDispatches (s : State) (kind unit : Nat) (hard : Bool) (fault : Nat) : State :=
  { s with disps := s.disps.map (fun x =>
      if x.phase != .ended && onUnit x kind unit then
        let x := { x with void := x.void || x.cls == Class3.sprint }
        if hard then x.abort fault 3 noInstr else { x with redivide := true }
      else x) }

/-- True when a dispatch that is not committed has a core of a unit. -/
def unitBusy (s : State) (kind unit : Nat) : Bool := s.disps.any (fun x => x.phase != .ended && onUnit x kind unit)

/-- The record of a fence decision (R411, R415): class FENCE, ACTION SOFT_FENCE or HARD_FENCE. -/
def fenceRecord (s : State) (kind unit : Nat) (hard : Bool) (fault : Nat) : State :=
  s.plainErr 0x0F (if hard then 5 else 4) kind unit fault 0

/-- A fence decision on one unit (R415): merged into a fence that holds, the harder form applying; a hard fence acts at
once, a soft one when no dispatch is left on the unit. -/
def fenceUnit (s : State) (kind unit : Nat) (hard : Bool) (fault : Nat) : State :=
  let old := (fencesOf s kind).find? (·.unit == unit)
  match old with
  | some f =>
    if f.hard || !hard then s
    else
      let s := setFences s kind ((fencesOf s kind).map (fun f => if f.unit == unit then { f with hard := true } else f))
      let s := fenceDispatches s kind unit true fault
      fenceRecord (if f.acts then s else actFence s kind unit) kind unit true fault
  | none =>
    let s := setFences s kind (fencesOf s kind ++ [⟨unit, hard, false⟩])
    let s := fenceDispatches s kind unit hard fault
    let s := if hard || !unitBusy s kind unit then actFence s kind unit else s
    fenceRecord s kind unit hard fault

/-- Cores of a Field that are fenced, themselves or with their Relay. -/
def fieldFencedCores (s : State) (f : Nat) : Nat := ((rangeFrom (16 * f) 16).filter s.coreFenced).length

/-- A fence decision, and that of the Field when half or more of its cores are fenced (R415). -/
def decideFence (s : State) (kind unit : Nat) (hard : Bool) (fault : Nat) : State :=
  let s := fenceUnit s kind unit hard fault
  let f := if kind == ukCore then fieldOf unit else if kind == ukRelay then fieldOfRelay unit else unit
  if kind != ukField && fieldFencedCores s f ≥ 8 then fenceUnit s ukField f false 0 else s

/-- Soft fences whose units no dispatch holds any more act at the boundary (R415). -/
def settleFences (s : State) : State :=
  let go := fun (s : State) kind => ((fencesOf s kind).filter (fun f => !f.acts && !unitBusy s kind f.unit)).foldl
    (fun s f => actFence s kind f.unit) s
  go (go (go s ukCore) ukRelay) ukField

/-- A tick lies in the PACE_WINDOW that ends now. -/
def inPaceWindow (s : State) (t : Nat) : Bool := s.now < t + s.settingN 0x0318 0

/-- The multiplier's checks modulo 7 pass (R72): the product against its operands, and the result of REDC against the product;
in Clear mode only the first. -/
def checksPass (p : Product) : Bool :=
  p.prod % 7 == (p.a % 7) * (p.b % 7) % 7 && (p.clear || 4 * p.res % 7 == (p.prod + (p.m % 7) * (p.q % 7)) % 7)

/-- One residue event on a core, by its dispatch (R73, R410, R415): the record, and a soft fence at the FENCE_RES-th event
within one PACE_WINDOW. -/
def residueEvent (s : State) (core : Nat) (x : Dispatch) : State :=
  let s := s.errRec { cls := 5, action := 2, kind := ukCore, fault := FaultCode.residueCheck.code, unit := core, addr := 0
                      count := 1, ctx := x.ctx, dispatch := some x.id, tick := s.now }
  let es := (core, s.now) :: s.fence.residues.filter (fun e => inPaceWindow s e.2)
  let s := { s with fence := { s.fence with residues := es } }
  if (es.filter (·.1 == core)).length ≥ s.settingN 0x031D 0 then decideFence s ukCore core false 0 else s

/-- CE_COUNT of a Field: the correctable errors of the PACE_WINDOW that lasts; none once it has passed (R399). -/
def ceCount (s : State) (f : Nat) : Nat := if inPaceWindow s (s.field f).ceSince then (s.field f).ce else 0

/-- n corrected errors in a Field (R399, R410, R415): CE_COUNT rises within its PACE_WINDOW; at FENCE_CE the Field is
fenced. -/
def fieldCe (s : State) (f n : Nat) : State :=
  if n = 0 then s else
  let s := s.modField f (fun g =>
    if inPaceWindow s g.ceSince then { g with ce := min (g.ce + n) 0xFFFF }
    else { g with ce := min n 0xFFFF, ceSince := s.now })
  if (s.field f).ce ≥ s.settingN 0x031E 0 then decideFence s ukField f false 0 else s

/-- A corrected SRAM error of a core's storage (R410). In a fenced unit it is recorded and changes nothing outside (R44). -/
def sramCe (s : State) (core : Nat) : State :=
  let s := s.corrected 1 1 ukCore core 0
  if s.coreFenced core then s else fieldCe s (fieldOf core) 1

/-- A corrected SRAM error of an Infield Store, contained by its die (R38, R410). -/
def infieldCe (s : State) (die : Nat) : State := s.corrected 1 1 ukDie die 0

/-- An uncorrectable SRAM error of an Infield Store, contained by its die (R38, R410): recorded; the data read is poisoned. -/
def infieldUe (s : State) (die : Nat) : State := s.plainErr 2 2 ukDie die FaultCode.eccUncorrectable.code 0

/-- A corrected HBM error (R410): counted in the die's CE count. -/
def hbmCe (s : State) (addr : Nat) : State :=
  let die := if addr < 6 * 2 ^ 34 then 0 else 1
  let s := s.corrected 3 1 ukStack (addr / 2 ^ 34) addr
  { s with fence := { s.fence with dieCe := modNth (· + 1) die s.fence.dieCe } }

/-- An uncorrectable SRAM error at a block of a core's storage (R410, R415): recorded, and a second one at the block
within one PACE_WINDOW fences the core. -/
def sramUe (s : State) (core block : Nat) : State :=
  let s := s.plainErr 2 2 ukCore core FaultCode.eccUncorrectable.code 0
  let again := s.fence.sramUe.any (fun e => e.1 == core && e.2.1 == block && inPaceWindow s e.2.2)
  let s := { s with fence := { s.fence with sramUe :=
    (core, block, s.now) :: s.fence.sramUe.filter (fun e => inPaceWindow s e.2.2) } }
  if again && !s.coreFenced core then decideFence s ukCore core false 0 else s

/-- The core whose storage a scratchpad span lies in, or the die of an Infield span (R36, R170). -/
def spanUnit (x : Span) : Nat := if x.sp == 1 then x.addr / 2 ^ 21 else if x.sp == 2 then x.addr / 2 ^ 18 else x.addr / 2 ^ 28

/-- Marks the blocks that spans touch (R74, R410). -/
def markSpans (m : MemState) (xs : List Span) : MemState :=
  xs.foldl (fun m x =>
    if x.sp == 0 then (if inHbm x.addr x.len then { m with hbmMarked := markBlocks m.hbmMarked x.addr x.len true } else m)
    else
      let mk := fun (sc : Scratch) => { sc with marked := markBlocks sc.marked x.addr x.len true }
      if x.sp == 1 then { m with cs := mk m.cs } else if x.sp == 2 then { m with ob := mk m.ob }
      else { m with inf := mk m.inf }) m

/-- The first span of a space, HBM (true) or a scratchpad. -/
def spanOf (xs : List Span) (hbm : Bool) : Option Span := xs.find? (fun x => (x.sp == 0) == hbm)

/-- A memory error that a read of spans meets (R410): corrected and counted, or the block of the first span concerned is
marked and poisons the reader (R73, R74). The unit that owns the memory contains it (R38): the core of a Core Store or operand
buffer, the die of an Infield Store, the stack of HBM. -/
def memError (s : State) (xs : List Span) (e : MemErr) : State :=
  match e with
  | .none | .product _ => s
  | .sramCe => match spanOf xs false with
    | some x => if x.sp == 3 then infieldCe s (spanUnit x) else sramCe s (spanUnit x)
    | Option.none => s
  | .hbmCe => match spanOf xs true with
    | some x => if inHbm x.addr 1 then hbmCe s x.addr else s
    | Option.none => s
  | .sramUe => match spanOf xs false with
    | some x =>
      let s := { s with mem := markSpans s.mem [{ x with len := 1 }] }
      if x.sp == 3 then infieldUe s (spanUnit x) else sramUe s (spanUnit x) (x.sp * 2 ^ 32 + x.addr / 1024)
    | Option.none => s
  | .hbmUe => match spanOf xs true with
    | some x =>
      if inHbm x.addr 1 then
        ({ s with mem := markSpans s.mem [{ x with len := 1 }] }).plainErr 4 2 ukStack (x.addr / 2 ^ 34)
          FaultCode.eccUncorrectable.code x.addr
      else s
    | Option.none => s

end Sys2Proof.Machine
end

