-- ==== Sys2Proof/Machine/Streams.lean ====
section
/-! DEFINITION. The stream unit: issue of s.ld, s.st, s.put and s.get (R192, R221), units and their commit (R196, R197),
halts and faults (R202, R203), and the sender's side of credit (R178, R179, R205). -/

namespace Sys2Proof.Machine

/-- Row segments of a descriptor from element j (R196): at most 1,024 bytes of one row. -/
def rowUnits (s0 seg : Nat) : Nat → Nat → Nat → List SUnit
  | 0, _, _ => []
  | fuel + 1, j, cnt =>
    if j ≥ cnt then [] else
    let n := min (min seg ((j / s0 + 1) * s0 - j)) (cnt - j)
    if n = 0 then [] else ⟨j, n⟩ :: rowUnits s0 seg fuel (j + n) cnt

/-- Units of per elements each. -/
def evenUnits (per cnt : Nat) : List SUnit :=
  (List.range (ceilDiv cnt per)).map (fun k => ⟨k * per, min per (cnt - k * per)⟩)

/-- A memory side is moved limb block by limb block: an object body, or MOD32 rows of 256 words (R196). -/
def limbUnits (d : Bytes) : Bool := dObj d || (dElem d == 0 && dSize d 0 == 256 && dStride d 0 == 1 && dBase d % 1024 == 0)

/-- The units of a stream of cnt elements (R196). -/
def unitsOf (d : Bytes) (regs : Bool) (cnt : Nat) : List SUnit :=
  if regs then evenUnits (1024 / dE d) cnt
  else if limbUnits d then evenUnits 256 cnt
  else rowUnits (dSize d 0) (1024 / dE d) (cnt + 1) 0 cnt

/-- Elements a descriptor holds: an object's capacity in words, or its element count (R151, R156). -/
def dCap (d : Bytes) : Nat := if dObj d then 256 * dSize d 0 else dCount d

/-- The spaces and buffers of R192 and R78 for the memory side and the other side of a stream. -/
def streamSpaces (k : StreamKind) (md : Bytes) (od : Option Bytes) : Bool :=
  let buf := fun d => bits (dBase d) 17 16
  match k with
  | .ld => dSpace md != 4 && od.all (fun d => dSpace d == 1 || dSpace d == 4)
  | .st => (dSpace md == 0 || dSpace md == 2) && od.all (fun d => dSpace d == 1)
  | .put => (dSpace md == 1 || dSpace md == 2) && od.all (fun d => dSpace d == 1)
  | .get => (dSpace md == 1 || dSpace md == 2)
      && od.all (fun d => dSpace d == 1 || (dSpace d == 4 && (buf d == 1 || buf d == 2)))

/-- The header of a stream's source, where its descriptor names an object: the checks of R20 and the capacity (R151, R156). -/
def streamHdr (s : State) (x : Dispatch) (c : Ctx) (d : Bytes) : Except Halt (Option Hdr) := do
  if !dObj d then pure none
  else do
    let ha ← lift (hdrSpans s x c .read d)
    free x { Use.none with rd := ha }
    let b := spansPeek s.mem ha
    need (hdrValid c.param c.psh b) .descInvalid
    let h := hdrOf b
    need (h.ctx == c.num) .accessDenied
    need (bodyLen c.param h ≤ 1024 * dSize d 0) .descInvalid
    pure (some h)

/-- Words in one run of equal modulus and the modulus index of run k, for a converting stream (R192). A memory side that is
named only as a destination has its old header left unread (R20), so an object there takes the primes of its first component in
the order of R23, MOD being 0 (DESIGN CHOICE, log entry 58). -/
def convIndex (p : Bytes) (ring : RingCfg) (h : Option Hdr) (mod : Nat) : Nat × (Nat → Nat) :=
  match h with
  | some h =>
    if h.kind == kindLwe then (2 ^ 30, fun _ => 1)
    else (2 ^ h.logN, fun k => limbIndex p h.level (k % hdrLimbs p h))
  | none => (2 ^ ring.logN, fun k => mod + k)

/-- The first of the 8 stream slots that is free (R192). -/
def freeSlot (x : Dispatch) : Option Nat := (List.range 8).find? (fun n => !x.streams.any (·.slot == n))

/-- Where an issued stream goes: a free slot, or, with all 8 occupied, a place from 8 on in the stream unit's queue, which
holds 4 (R77, R192). -/
def placeFor (x : Dispatch) : Option Nat :=
  match freeSlot x with
  | some n => some n
  | none =>
    let q := (x.streams.filter (·.slot ≥ 8)).map (·.slot)
    if q.length < 4 then some (q.foldl max 7 + 1) else none

/-- The sender of a stream (R178). -/
def streamSender (s : State) (x : Dispatch) (t : Stream) : Sender :=
  ⟨if t.tmod.isSome then some s.sys.modNum else none, x.lead, x.ctx, x.epoch⟩

/-- Replaces a stream of a dispatch. -/
def Dispatch.setStream (x : Dispatch) (t : Stream) : Dispatch :=
  { x with streams := x.streams.map (fun y => if y.slot == t.slot then t else y) }

/-- Removes a stream that has completed. -/
def Dispatch.dropStream (x : Dispatch) (t : Stream) : Dispatch :=
  { x with streams := x.streams.filter (·.slot != t.slot) }

/-- Sends CR_REQ for the blocks a stream still has to write (R178), to another module on a port of its bundle; a module that
is not a peer ends the stream with LINK_LOST, and nothing leaves (R265). -/
def sendReq (s : State) (x : Dispatch) (t : Stream) : State :=
  let port := t.tmod.bind (fun m => (bundle s m).head?)
  if t.tmod.isSome && port.isNone then s.stop (x.setStream t) .linkLost t.instr
  else (s.setDisp (x.setStream { t with reqOpen := true, port := port })).credit
    (.crReq t.tmod (putMgr t) (streamSender s x t) t.window (min 256 (t.units.length - t.done)))

/-- A slot that has become free takes the oldest stream of the queue (R192). -/
def fillSlot (s : State) (d : DRef) : State :=
  match s.disp? d with
  | none => s
  | some x => match freeSlot x, x.streams.find? (·.slot ≥ 8) with
    | some n, some t =>
      let t' := { t with slot := n }
      let x := { x with streams := x.streams.map (fun y => if y.slot == t.slot then t' else y) }
      if t.kind == .put then sendReq (s.setDisp x) x t' else s.setDisp x
    | _, _ => s

/-- The stream that a form's operands make, once they pass every check (R192, R221). -/
def streamPlan (k : StreamKind) (s : State) (f : SForm) (x : Dispatch) (c : Ctx) : Except Halt Stream := do
  let r := s.core x.lead
  let writes := k == .st || k == .put
  let m ← resolveAny x c r f.rm writes
  let md := m.raw
  let od ← (match f.other with
    | .vr _ => pure none
    | .rn h => do
      let o ← resolveAny x c r h (!writes)
      pure (some o.raw))
  need (streamSpaces k md od && od.all (fun d => dElem d == dElem md)) .descInvalid
  let h ← (if writes then pure none else streamHdr s x c md)
  let _ ← (match od with
    | some d => if writes then streamHdr s x c d else pure none
    | none => pure none : Except Halt (Option Hdr))
  let cnt := if f.count != 0 then f.count else match h with
    | some h => bodyLen c.param h / 4
    | none => dCap md
  need (cnt ≤ dCap md && od.all (fun d => cnt ≤ dCap d)) .descInvalid
  let place ← (match f.other, od with
    | .vr v, _ => do
      need (cnt ≤ 4096 && v + ceilDiv (cnt * dE md) 1024 ≤ 64) .descInvalid
      pure (Place.regs v)
    | .rn _, some d => pure (Place.desc d)
    | .rn _, none => fail .descInvalid)
  let ring := activeRing x c s
  let (run, idx) := convIndex c.param ring h f.mod
  if f.conv then
    need (dElem md == 0 && od.all (fun d => dSpace d == 4 || dSpace md == 4)) .descInvalid
    need (!(h.any (·.kind == kindLwe) && !r.gate)) .descInvalid
    need ((List.range (ceilDiv cnt run)).all (fun q => idx q < ring.qs.length)) .descInvalid
  match placeFor x with
  | none => .error .busy
  | some slot => do
    let t : Stream :=
      { slot := slot, kind := k, state := .running, instr := x.pc, mem := md, other := place, conv := f.conv
        primes := if f.conv then (List.range (ceilDiv cnt run)).map (fun q => nth ring.qs (idx q) 1) else []
        limbWords := run, count := cnt, units := unitsOf md (match place with
          | .regs _ => true
          | .desc _ => false) cnt
        done := 0, faultVa := 0, epoch := x.epoch, tmod := if f.xmod then some f.tmod else none, tcore := f.tcore
        window := f.window, grant := 0, gFirst := 0, gCount := 0, gSent := 0, gRet := 0, gBase := 0, reqOpen := false
        port := none, noWindow := false, nextReq := 0, use := Use.none }
    pure { t with use := streamUse s x c t }

/-- What a stream's issue uses: what the stream will move, and the scalars that give its handles. -/
def streamIssueUse (f : SForm) (t : Stream) : Use :=
  { t.use with rs := hrefRegs f.rm ++ (match f.other with
      | .rn h => hrefRegs h
      | .vr _ => []) }

/-- Issues a stream (R192, R221). -/
def streamForm (k : StreamKind) (s : State) (f : SForm) (x : Dispatch) (c : Ctx) (n : Nat) : Except Halt State := do
  let t ← streamPlan k s f x c
  free x (streamIssueUse f t)
  let y := { (x.adv n) with streams := x.streams ++ [t] }
  pure (if k == .put && t.slot < 8 then sendReq (s.setDisp y) y t else s.setDisp y)

/-- The spans of elements first to first + count - 1 of a descriptor (R155, R156). -/
def unitSpans (s : State) (x : Dispatch) (c : Ctx) (acc : Access) (d : Bytes) (u : SUnit) : Except Stop (List Span) :=
  if dObj d || dDense d then opSpans s x c acc d (dBase d + u.first * dE d) (u.count * dE d)
  else elemSpans s x c acc d (rangeFrom u.first u.count)

/-- The words of a unit converted with the primes of their limbs (R57, R192). -/
def convWords (t : Stream) (load : Bool) (u : SUnit) (bs : Bytes) : Bytes :=
  if !t.conv then bs
  else bytesOf 4 (mapIdxFrom (fun j w =>
    let q := nth t.primes (j / t.limbWords) 1
    if load then loadM q w else storeM q w) u.first (wordsOf 4 bs u.count))

/-- The register that holds unit k of a register side. -/
def unitReg (first : Nat) (t : Stream) : Nat := first + t.done

/-- What a unit reads: where it lies, its bytes, and whether they are poisoned. -/
structure Taken where
  at_ : List Span
  data : Bytes
  poisoned : Bool
  deriving DecidableEq, Repr

/-- Reads a unit of a source side. -/
def takeUnit (s : State) (x : Dispatch) (c : Ctx) (t : Stream) (u : SUnit) (p : Place) : Except Stop Taken :=
  match p with
  | .regs v =>
    let r := s.core x.lead
    let n := unitReg v t
    .ok ⟨[], slice (r.vRead n) 0 (u.count * dE t.mem), r.poisV.contains n⟩
  | .desc d => match unitSpans s x c .read d u with
    | .error e => .error e
    | .ok xs => .ok ⟨xs, spansPeek s.mem xs, spansMarked s.mem xs⟩

/-- Where a unit goes: nothing to translate for a register. -/
def goal (s : State) (x : Dispatch) (c : Ctx) (u : SUnit) (p : Place) : Except Stop (List Span) :=
  match p with
  | .regs _ => .ok []
  | .desc d => match unitSpans s x c .write d u with
    | .error e => .error e
    | .ok xs => if inWindow s xs then .error (.fault .accessDenied) else .ok xs

/-- Writes a unit. -/
def landUnit (s : State) (x : Dispatch) (t : Stream) (p : Place) (at_ : List Span) (bs : Bytes) (poisoned : Bool) : State :=
  match p with
  | .regs v => s.setCore x.lead ((s.core x.lead).vWrite (unitReg v t) bs poisoned)
  | .desc _ => s.writeSpans at_ bs poisoned

/-- A stream meets a reason not to go on (R202, R203): a missing page halts it, anything else ends it and stops its
dispatch. -/
def streamHalt (s : State) (x : Dispatch) (t : Stream) (e : Stop) : State :=
  match e with
  | .fault c => s.stop x c t.instr
  | .page c va acc l => s.finalPage x 1 x.lead c va acc l t.instr
  | .absent va acc ea en =>
    if bits en 2 1 == 0 && s.settingN 0x0312 0 == 0 then
      let l := match s.ctx? x.ctx with
        | some c => walkLevel s c va acc
        | none => 0xFF
      s.finalPage x 1 x.lead .pageNotPresent va acc l t.instr
    else
      (s.setDisp (x.setStream { t with state := .haltPage, faultVa := va })).askPage x 1 va acc ea en

/-- The dispatch after a unit of a stream has been committed: DONE advances, and the stream leaves its slot after its last
unit, an s.put only when its grants are wholly returned (R197, R199). -/
def advance (x : Dispatch) (t : Stream) : Dispatch :=
  let t := { t with done := t.done + 1, epoch := x.epoch }
  if t.done ≥ t.units.length && t.kind != .put then x.dropStream t else x.setStream t

/-- A product of a converting unit fails its check (R57, R72). -/
def unitFails (t : Stream) (err : MemErr) : Bool :=
  match err with
  | .product p => t.conv && !checksPass p
  | _ => false

/-- A unit has moved: the dispatch meets the poison of its source, or that of a failed residue check (R73, R203). -/
def unitDone (s : State) (x : Dispatch) (t : Stream) (pois bad : Bool) : State :=
  let s := if pois then s.meetPoison x .eccUncorrectable t.instr else s.setDisp x
  if bad then
    let y := (s.disp? x.id).getD x
    let s := s.meetPoison y .residueCheck t.instr
    residueEvent (s.setCore x.lead (s.core x.lead).residue) x.lead y
  else s

/-- Moves one unit of a stream between its memory side and the other side; `src` and `dst` are its sides (R197). -/
def moveUnit (s : State) (x : Dispatch) (c : Ctx) (t : Stream) (u : SUnit) (src dst : Place) (load : Bool) (err : MemErr) :
    Except Stop State :=
  match takeUnit s x c t u src, goal s x c u dst with
  | .error e, _ => .error e
  | _, .error e => .error e
  | .ok a, .ok at_ =>
    let s := memError s a.at_ err
    let pois := a.poisoned || spansMarked s.mem a.at_
    let s := walkSpans (walkSpans s (.core x.lead) c .read a.at_) (.core x.lead) c .write at_
    let s := touchReads s a.at_
    let s := landUnit s x t dst at_ (convWords t load u a.data) (pois || unitFails t err)
    let x := ((s.disp? x.id).getD x).reaches (a.at_ ++ at_)
    .ok (unitDone s (advance x t) t pois (unitFails t err))

/-- The manager, window and block from which an s.get takes a unit (R192, R221, R230): a window of the issuing context
that holds the unit's address. -/
def getBlock (s : State) (x : Dispatch) (t : Stream) (u : SUnit) : Option (Mgr × Window × Nat) :=
  let mgr := mgrOf x (dSpace t.mem)
  match (s.mgr mgr).windows.find? (fun w => w.num == t.window && w.ctx == x.ctx) with
  | none => none
  | some w =>
    let a := dAddr t.mem u.first
    if w.base ≤ a && (a - w.base) / 1024 < w.blocks.length then some (mgr, w, (a - w.base) / 1024) else none

/-- Blocks at the front of a grant that have been consumed. -/
def returnable (w : Window) (g : Grant) : Nat → Nat → Nat
  | 0, n => n
  | fuel + 1, n =>
    if n < g.count && (w.blocks[g.first + n]?) == some BlockState.used then returnable w g fuel (n + 1) else n

/-- The receiver consumes a block (R177, R178): the blocks of its grant become EMPTY in ascending order, and CR_RETURN tells the
prefix of the grant consumed since; a grant wholly returned is closed. -/
def consume (s : State) (mgr : Mgr) (win b : Nat) : State :=
  let m := setBlocks (s.mgr mgr) win (· == b) .used
  match m.windows.find? (·.num == win),
        m.grants.find? (fun g => g.window == win && g.first + g.returned ≤ b && b < g.first + g.count) with
  | some w, some g =>
    let n := returnable w g g.count g.returned
    if n == g.returned then s.setMgr mgr m else
    let m := setBlocks m win (fun k => g.first + g.returned ≤ k && k < g.first + n) .empty
    let g' := { g with returned := n, lastTick := mgrTicks s mgr g.sender }
    let gs := if n == g.count then m.grants.filter (·.num != g.num)
      else m.grants.map (fun y => if y.num == g.num then g' else y)
    (s.setMgr mgr { m with grants := gs }).credit (.crReturn g.sender mgr g.num (n - g.returned))
  | _, _ => s.setMgr mgr (setBlocks m win (· == b) .empty)

/-- A unit of an s.get (R192, R202, R204): it waits for a FULL block, and the block is consumed when the last unit that
lies in it has been committed. -/
def getUnit (s : State) (x : Dispatch) (c : Ctx) (t : Stream) (u : SUnit) (err : MemErr) : Except Stop State :=
  match getBlock s x t u with
  | none => .error (.fault .descInvalid)
  | some (mgr, w, b) =>
    if (w.blocks[b]?) != some BlockState.full then .ok (s.setDisp (x.setStream { t with state := .haltEmpty }))
    else match moveUnit s x c t u (.desc t.mem) t.other true err with
      | .error e => .error e
      | .ok s' =>
        let next := (t.units[t.done + 1]?).bind (getBlock s x t)
        let stays := match next with
          | some (_, _, b') => b' == b
          | none => false
        .ok (if stays then s' else consume s' mgr w.num b)

/-- A unit of an s.put (R179): a PUT under the open grant, or nothing while the stream waits for one. -/
def putUnit (s : State) (x : Dispatch) (c : Ctx) (t : Stream) (u : SUnit) (err : MemErr) : Except Stop State :=
  if t.tmod.isNone && !mgrServes s (putMgr t) then .error (.fault .creditViolation)
  else if t.noWindow then .error (.fault .creditViolation)
  else if t.grant == 0 || t.gSent ≥ t.gCount then .ok s
  else match takeUnit s x c t u t.other with
    | .error e => .error e
    | .ok a =>
      let s := memError s a.at_ err
      let pois := a.poisoned || spansMarked s.mem a.at_
      let (fr, s) := s.draw
      let s := touchReads (walkSpans s (.core x.lead) c .read a.at_) a.at_
      let data := convWords t false u a.data
      let data := data ++ slice (Config.freeBytes fr (1024 - data.length)) 0 (1024 - data.length)
      let x := ((s.disp? x.id).getD x).reaches a.at_
      let m := Msg.put t.tmod (putMgr t) (streamSender s x t) t.grant (t.gFirst + t.gSent) data (pois || unitFails t err)
      let s := match t.port with
        | some p => s.guard p m
        | none => s.credit m
      .ok (unitDone s (advance x { t with gSent := t.gSent + 1 }) t pois (unitFails t err))

/-- A dispatch whose cores run and whose outcome is open. -/
def State.running (s : State) (d : DRef) : Option (Dispatch × Ctx) :=
  match s.disp? d with
  | none => none
  | some x => match s.ctx? x.ctx with
    | none => none
    | some c => if x.phase == .running && x.fate.isNone && s.coresRun x && s.isUp then some (x, c) else none

/-- A stream slot of a dispatch. -/
def Dispatch.stream? (x : Dispatch) (slot : Nat) : Option Stream := x.streams.find? (·.slot == slot)

/-- STREAM_UNIT_COMMIT (R197): the next unit of a running stream. -/
def execStreamUnitCommit (d : DRef) (slot : Nat) (err : MemErr) (s : State) : Out :=
  match s.running d with
  | none => .next s
  | some (x, c) => match x.stream? slot with
    | none => .next s
    | some t =>
      match t.units[t.done]? with
      | none => .next s
      | some u =>
        if t.state != .running || t.slot ≥ 8 then .next s
        else
          let r := match t.kind with
            | .ld => moveUnit s x c t u (.desc t.mem) t.other true err
            | .st => moveUnit s x c t u t.other (.desc t.mem) false err
            | .get => getUnit s x c t u err
            | .put => putUnit s x c t u err
          match r with
          | .ok s' => .next (fillSlot s' d)
          | .error e => .next (streamHalt s x t e)

/-- STREAM_CREDIT_RETRY (R202): 512 ck after a WAIT the stream asks again. -/
def execStreamCreditRetry (d : DRef) (slot : Nat) (s : State) : Out :=
  match s.running d with
  | none => .next s
  | some (x, _) => match x.stream? slot with
    | none => .next s
    | some t =>
      if t.state == .haltCredit && !t.reqOpen && x.ck3 ≥ t.nextReq then .next (sendReq s x t) else .next s

/-- STREAM_EMPTY_RESUME (R202): the block an s.get waits on is FULL. -/
def execStreamEmptyResume (d : DRef) (slot : Nat) (s : State) : Out :=
  match s.running d with
  | none => .next s
  | some (x, _) => match x.stream? slot with
    | none => .next s
    | some t =>
      let full := match (t.units[t.done]?).bind (getBlock s x t) with
        | some (_, w, b) => (w.blocks[b]?) == some BlockState.full
        | none => false
      if t.state == .haltEmpty && full then .next (s.setDisp (x.setStream { t with state := .running })) else .next s

/-- A dispatch that holds its streams, running or saved, its outcome open: credit messages reach it (R178, R206). -/
def State.holding (s : State) (d : DRef) : Option Dispatch :=
  match s.disp? d with
  | none => none
  | some x => if (x.phase == .running || x.phase == .saved) && x.fate.isNone && s.isUp then some x else none

/-- A stream goes on once its dispatch runs (R204, R209). -/
def goesOn (x : Dispatch) : StreamState := if x.phase == .saved then .stopped else .running

/-- A stream that has blocks to write and no grant asks for one, when its dispatch runs (R178, R209). -/
def askAgain (s : State) (x : Dispatch) (t : Stream) : State :=
  if x.phase == .saved then s.setDisp (x.setStream t) else sendReq s x t

/-- Counts an item discarded under R303: in STALE_DISCARDS and in its dispatch's STALE count. -/
def countStale (s : State) (d : DRef) : State :=
  let s := { s with staleDiscards := satInc 32 s.staleDiscards }
  { s with disps := s.disps.map (fun x => if x.id == d then { x with stale := satInc 32 x.stale } else x) }

/-- The message of this module's fabric that passes a test, the oldest first, taken as it arrives (R42); one of another module
arrives as the command gives it. -/
def State.arriveFor (s : State) (t : Stream) (p : Msg → Bool) : Option State :=
  if t.tmod.isSome then some (match t.port with
    | some p => s.heardOn p
    | none => s)
  else match s.net.find? p with
    | some m => s.arrive m
    | none => none

/-- A CR_GRANT at the sender (R178, R179, R202). -/
def takeGrant (s : State) (x : Dispatch) (t : Stream) (grant first count : Nat) (st : GrantStatus) : State :=
  match st with
  | .granted => s.setDisp (x.setStream { t with
      state := goesOn x, grant := grant, gFirst := first, gCount := count, gSent := 0, gRet := 0, gBase := t.done,
      reqOpen := false, port := t.tmod.bind (fun m => grantPort s m grant) })
  | .wait => s.setDisp (x.setStream { t with state := .haltCredit, reqOpen := false, nextReq := x.ck3 + 3 * 512 })
  | .noWindow => s.stop (x.setStream { t with reqOpen := false, noWindow := true }) .creditViolation t.instr

/-- CR_GRANT (R178): an answer under another epoch than the dispatch's is discarded and counted (R303), and a grant from another
module that it carries is cancelled with reason EPOCH by the side that moved (R180). -/
def execCrGrant (d : DRef) (slot epoch grant first count : Nat) (st : GrantStatus) (s : State) : Out :=
  match s.holding d with
  | none => .next s
  | some x => match x.stream? slot with
    | none => .next s
    | some t =>
      if t.kind != .put then .next s
      else match s.arriveFor t (fun m => match m with
          | .crGrant y g w n f k q => g == putMgr t && w == t.window && y.ctx == x.ctx && y.epoch == epoch && n == grant
              && f == first && k == count && q == st
          | _ => false) with
        | none => .next s
        | some s =>
          if epoch != x.epoch then
            .next (countStale (if t.tmod.isSome && st == .granted
              then s.emit (.senderCancel t.tmod (putMgr t) { streamSender s x t with epoch := epoch } grant .epoch) else s) d)
          else if !t.reqOpen then .next s
          else .next (takeGrant s x t grant first count st)

/-- A CR_RETURN at the sender (R178, R199): a grant wholly returned is closed, and the stream completes or asks again. -/
def takeReturn (s : State) (x : Dispatch) (t : Stream) (count : Nat) : State :=
  let t := { t with gRet := t.gRet + count }
  if t.gRet < t.gCount then s.setDisp (x.setStream t)
  else
    let t := { t with grant := 0 }
    if t.done ≥ t.units.length then fillSlot (s.setDisp (x.dropStream t)) x.id else askAgain s x t

/-- CR_RETURN (R178): one under another epoch than the dispatch's is discarded and counted (R303). -/
def execCrReturn (d : DRef) (slot epoch grant count : Nat) (s : State) : Out :=
  match s.holding d with
  | none => .next s
  | some x => match x.stream? slot with
    | none => .next s
    | some t =>
      if t.kind != .put then .next s
      else match s.arriveFor t (fun m => match m with
          | .crReturn y g n k => g == putMgr t && y.ctx == x.ctx && y.epoch == epoch && n == grant && k == count
          | _ => false) with
        | none => .next s
        | some s =>
          if epoch != x.epoch then .next (countStale s d)
          else if !(grant != 0 && t.grant == grant && t.gRet + count ≤ t.gSent) then .next s
          else .next (takeReturn s x t count)

/-- What a cancelled grant does to the stream that held it (R180, R205). -/
def cancelStream (s : State) (x : Dispatch) (t : Stream) (r : CancelReason) : State :=
  let t := lostGrant t
  match r with
  | .epoch => askAgain s x { t with state := goesOn x }
  | .link => s.stop (x.setStream t) .linkLost t.instr
  | _ => s.stop (x.setStream t) .creditViolation t.instr

/-- CR_CANCEL at the sender (R180, R205): the stream goes back to the first unreturned block. -/
def cancelAtSender (s : State) (d : DRef) (slot grant : Nat) (r : CancelReason) : State :=
  match s.holding d with
  | none => s
  | some x => match x.stream? slot with
    | none => s
    | some t =>
      if t.kind == .put && grant != 0 && t.grant == grant then
        match s.arriveFor t (fun m => match m with
          | .crCancel y g n q => g == putMgr t && y.ctx == x.ctx && y.epoch == x.epoch && n == grant && q == r
          | _ => false) with
        | none => s
        | some s => cancelStream s x t r
      else s

/-- CR_CANCEL at the manager (R180): the grant ends. -/
def cancelAtManager (s : State) (m : Mgr) (y : Sender) (grant : Nat) : State :=
  match (s.mgr m).grants.find? (fun g => g.num == grant && g.sender == y) with
  | none => s
  | some g =>
    let s := match g.port with
      | some p => s.heardOn p
      | none => s
    s.setMgr m (dropGrant (s.mgr m) g)

/-- CR_CANCEL (R180, R205). -/
def execCrCancel (e : GrantEnd) (grant : Nat) (r : CancelReason) (s : State) : Out :=
  match e with
  | .stream d slot => .next (cancelAtSender s d slot grant r)
  | .manager m y => if y.module.isSome then .next (cancelAtManager s m y grant) else .next s

/-- S_LD (R192). -/
def execSLd (d : DRef) (f : SForm) (s : State) : Out := issue s d (.sLd d f) 1 (streamForm .ld s f)
/-- S_ST (R192). -/
def execSSt (d : DRef) (f : SForm) (s : State) : Out := issue s d (.sSt d f) 1 (streamForm .st s f)
/-- S_PUT (R192). -/
def execSPut (d : DRef) (f : SForm) (s : State) : Out := issue s d (.sPut d f) 1 (streamForm .put s f)
/-- S_GET (R192). -/
def execSGet (d : DRef) (f : SForm) (s : State) : Out := issue s d (.sGet d f) 1 (streamForm .get s f)

end Sys2Proof.Machine
end

