-- ==== Sys2Proof/Machine/Marks.lean ====
section
/-! DEFINITION. Marks: mark.sig and mark.wait (R241 to R244), and Mark numbers as the host names them (R241, R429). -/

namespace Sys2Proof.Machine

/-- The module Mark a dispatch's context Mark number names, or ACCESS_DENIED (R241, R429). -/
def markOf (x : Dispatch) (n : Nat) : Except Halt Nat :=
  match x.markNum n with
  | some k => pure k
  | none => fail .accessDenied

/-- The blocks a stream has sent are FULL at their receiver, as far as this module sees it (R243): a remote module's
receiver is taken to have them (DESIGN CHOICE, log entry 17). -/
def putLanded (s : State) (t : Stream) : Bool :=
  t.kind == .put && t.done ≥ t.units.length
  && (t.tmod.isSome || match (s.mgr (putMgr t)).grants.find? (·.num == t.grant) with
    | some g => g.puts.length ≥ t.gSent
    | none => true)

/-- What a stream has written has come to the point R243 names: a stream into registers or operand buffers and an s.get
have none. -/
def streamLanded (s : State) (t : Stream) : Bool :=
  match t.kind with
  | .get => true
  | .ld => (match t.other with
    | .regs _ => true
    | .desc d => dSpace d == 4)
  | .st => false
  | .put => putLanded s t

/-- Every write of every earlier instruction has come to the point R243 names. -/
def writesDone (s : State) (x : Dispatch) : Bool := x.inflight.isEmpty && x.streams.all (streamLanded s)

/-- mark.sig (R76, R241, R243): one signal onto the Mark network, after the writes it orders. -/
def markSigForm (s : State) (mark : Nat) (amount : SVal) (x : Dispatch) (_c : Ctx) (n : Nat) : Except Halt State := do
  let r := s.core x.lead
  let k ← markOf x mark
  free x { Use.none with rs := svalRegs amount }
  cleanS x r amount
  if !writesDone s x then .error .busy
  let v := (r.sval amount).toNat % 2 ^ 32
  pure ((s.setDisp (x.adv n)).signal ⟨k, v, x.ctx, .program x.id x.epoch⟩)

/-- The result of a wait in SD (R244). -/
def waitResult (s : State) (x : Dispatch) (sd : Nat) (ok : Bool) : State :=
  s.put2 { x with wait := none } ((s.core x.lead).sput sd (if ok then 1 else 0) false)

/-- The tick of the lead core's split counter, on which a dispatch's waits are measured (R47, R146, R244). -/
def leadTicks (s : State) (x : Dispatch) : Nat := s.unitTicks 1 x.lead

/-- mark.wait (R76, R241, R244). -/
def markWaitForm (s : State) (sd mark : Nat) (f : WaitForm) (x : Dispatch) (_c : Ctx) (n : Nat) : Except Halt State := do
  let r := s.core x.lead
  let k ← markOf x mark
  let rs := match f with
    | .short sa => [sa]
    | .long _ _ => []
  free x { Use.none with rs := rs, ws := [sd] }
  let (t, left) ← (match f with
    | .short sa => do
      cleanS x r (.reg sa)
      pure ((r.sget sa).toNat % 2 ^ 32, none)
    | .long t lim => pure (t, if lim == 0xFFFFFFFF then none else some lim) : Except Halt (Nat × Option Nat))
  let x := x.adv n
  if (s.mark k).value ≥ t then pure (waitResult s x sd true)
  else if left == some 0 then pure (waitResult s x sd false)
  else pure (s.setDisp { x with wait := some (.mark sd k t (leadTicks s x) left) })

/-- MARK_SIG (R243). -/
def execMarkSig (d : DRef) (mark : Nat) (amount : SVal) (s : State) : Out :=
  issue s d (.markSig d mark amount) 1 (markSigForm s mark amount)
/-- MARK_WAIT (R244). -/
def execMarkWait (d : DRef) (sd mark : Nat) (f : WaitForm) (s : State) : Out :=
  issue s d (.markWait d sd mark f) 1 (markWaitForm s sd mark f)

/-- The Mark range of a context in force (R246, R429). -/
def ctxMark (s : State) (ctx n : Nat) : Option Nat :=
  if n < s.settingN 0x0107 ctx then some (s.settingN 0x0106 ctx + n) else none

/-- The ownership test of R245. -/
def markOwned (s : State) (k ctx : Nat) : Bool := (s.mark k).alloc && (s.mark k).owner == ctx

end Sys2Proof.Machine
end

