-- ==== Sys2Proof/Machine/Handoff.lean ====
section
/-! DEFINITION. Hand-off: slots (R140 to R142), handoff.out (R143), handoff.in (R145, R146), and what a Mark's change
wakes (R244, R245). -/

namespace Sys2Proof.Machine

/-- The states of a hand-off slot (R142). -/
def hsOutReady : Nat := 2
/-- ANSWERED. -/
def hsAnswered : Nat := 3
/-- CONSUMED. -/
def hsConsumed : Nat := 4
/-- EXPIRED. -/
def hsExpired : Nat := 5
/-- ABANDONED. -/
def hsAbandoned : Nat := 6

/-- log2 Z and Z of a dispatch's context (R140). -/
def slotSize (x : Dispatch) : Nat := 2 ^ (x.set 0x0105).toNat

/-- The device virtual address of a slot (R141). -/
def slotVa (x : Dispatch) (slot : Nat) : Nat := (x.set 0x0103).toNat + slot * slotSize x

/-- The HBM spans of a whole slot (R140): every page present, allowed and in HBM. -/
def slotSpans (s : State) (x : Dispatch) (c : Ctx) (slot : Nat) : Except Halt (List Span) := do
  let xs ← lift (vaRange s c .write hintNormal (slotVa x slot) (slotSize x))
  need (xs.all (fun y => inHbm y.addr y.len)) .accessDenied
  pure xs

/-- Bytes of a slot. -/
def slotRead (s : State) (xs : List Span) (off n : Nat) : Bytes := spansPeek s.mem (spansSlice xs off n)

/-- Writes bytes of a slot. -/
def slotWrite (s : State) (xs : List Span) (off : Nat) (bs : Bytes) : State :=
  s.writeSpans (spansSlice xs off bs.length) bs false

/-- CRC-32C over bytes 0 to 123 of a hand-off header with STATE taken as zero (R142). -/
def reqCrc (h : Bytes) : Nat := crc32c (patch (slice h 0 124) 5 [0])

/-- The hand-off header that handoff.out writes, bytes 0 to 127 (R142, R143). -/
def slotHeader (c : Ctx) (x : Dispatch) (seq tag notify answer value size : Nat) : Bytes :=
  let h := leBytes 4 0x0960A2D1 ++ leBytes 1 1 ++ leBytes 1 0 ++ zeros 2 ++ leBytes 4 c.num ++ leBytes 4 seq
    ++ leBytes 8 tag ++ leBytes 2 notify ++ leBytes 2 answer ++ leBytes 4 value ++ leBytes 4 size ++ zeros 28
    ++ slice x.prog.meas 0 48 ++ zeros 12
  patch (h ++ leBytes 4 (reqCrc h)) 5 (leBytes 1 hsOutReady)

/-- The slot holds the request that this dispatch's handoff.out wrote there: CONTEXT_ID, SEQ and REQ_CRC (R145). -/
def slotOurs (c : Ctx) (h : Bytes) (e : HandSlot) : Bool :=
  field h 8 4 == c.num && field h 12 4 == e.seq && field h 124 4 == reqCrc h

/-- Copies memory block by block with the marks of its blocks (R74, R143). The first argument bounds the number of blocks. -/
def carrySpans (s : State) (src dst : List Span) : Nat → Nat → State
  | 0, _ => s
  | fuel + 1, off =>
    if off ≥ spansLen src then s
    else
      let a := spansSlice src off 1024
      carrySpans (s.writeSpans (spansSlice dst off (spansLen a)) (spansPeek s.mem a) (spansMarked s.mem a)) src dst fuel (off + 1024)

/-- Takes a TAG from the pool of the lead core's die (R383): the pool refills while the DRBG answers; none where the
pool is empty. -/
def takeTag (s : State) (x : Dispatch) : Option (Nat × State) :=
  let die := dieOf x.lead
  let (fr, t) := s.draw
  let tag := (Config.freeWord fr).toNat
  if s.rsp.drbgOk then some (tag, t)
  else if nth s.rsp.tagPools die 0 == 0 then none
  else some (tag, { t with rsp := { t.rsp with tagPools := modNth (· - 1) die t.rsp.tagPools } })

/-- handoff.out (R140 to R143): a source flagged POISONED stops it; marked blocks are copied with their marks. -/
def handoffOutForm (s : State) (src : HRef) (slot notify answer : Nat) (x : Dispatch) (c : Ctx) (n : Nat) :
    Except Halt State := do
  let r := s.core x.lead
  let o ← objSrc s x c r src
  let size := bodyLen c.param o.h
  need (slot < (x.set 0x0104).toNat && 1024 + size ≤ slotSize x / 2) .descInvalid
  let kn ← markOf x notify
  let ka ← markOf x answer
  let value := (s.mark ka).value
  need (value < 0xFFFFFFFF) .descInvalid
  if o.h.poisoned then fail (x.poison .eccUncorrectable x.pc).poisonCode
  let xs ← slotSpans s x c slot
  free x { Use.none with rd := o.body ++ o.hdrAt, wr := xs, rs := hrefRegs src }
  need (let st := field (slotRead s xs 5 1) 0 1
        st == 0 || st == hsConsumed || st == hsExpired || st == hsAbandoned) .descInvalid
  match takeTag s x with
  | none => .error .busy
  | some (tag, s) =>
    let seq := c.handoffSeq + 1
    let pois := spansMarked s.mem (o.body ++ o.hdrAt)
    let s := touchReads s (o.body ++ o.hdrAt)
    let s := carrySpans s o.hdrAt (spansSlice xs 256 128) 1 0
    let s := carrySpans s o.body (spansSlice xs 1024 size) (size / 1024 + 1) 0
    let s := slotWrite s xs 0 (slotHeader c x seq tag kn ka (value + 1) size)
    let s := s.setCtx { c with handoffSeq := seq }
    let e : HandSlot := ⟨slot, seq, tag, o.h.keyset, o.h.scheme, ka, value + 1⟩
    let y := { x.adv n with slots := x.slots.filter (·.slot != slot) ++ [e] }
    let s := if pois then s.meetPoison y .eccUncorrectable x.pc else s.setDisp y
    pure (s.signal ⟨kn, 1, x.ctx, .program x.id x.epoch⟩)

/-- Sets STATE of a slot of a dispatch where the slot can be reached and its STATE passes a test. -/
def setSlotState (s : State) (x : Dispatch) (c : Ctx) (slot st : Nat) (p : Nat → Bool) : State :=
  match vaRange s c .write hintNormal (slotVa x slot + 5) 1 with
  | .ok xs => if xs.all (fun y => inHbm y.addr y.len) && p (leNat (spansPeek s.mem xs))
    then s.writeSpans xs (leBytes 1 st) false else s
  | .error _ => s

/-- The checks of R145 on an answer, in order: none when they pass. -/
def answerFault (c : Ctx) (hh ah : Bytes) (e : HandSlot) (half cap : Nat) : Option FaultCode :=
  let h := hdrOf ah
  if !(slotOurs c hh e && field hh 5 1 == hsAnswered && field hh 252 4 == crc32c (slice hh 128 124)) then some .descInvalid
  else if field hh 128 8 != e.tag then some .handoffTag
  else if !hdrValid c.param c.psh ah then some .descInvalid
  else if h.ctx != c.num then some .accessDenied
  else if !(h.keyset == e.keyset && h.scheme == e.scheme) then some .descInvalid
  else if !(bodyLen c.param h ≤ half - 1024 && bodyLen c.param h ≤ cap) then some .descInvalid
  else none

/-- The header of the copied answer: BUDGET clamped (R19, R21). -/
def answerHdr (c : Ctx) (h : Hdr) : Hdr :=
  if h.kind == kindRlwe then { h with budget := clampBudget (takeBudget c.param h) } else h

/-- A dispatch stops for a fault that leaves STATE of a slot as found, at the abort too (R140, R145). -/
def stopSlot (s : State) (x : Dispatch) (slot : Nat) (f : FaultCode) : State :=
  s.stop { x with wait := none, slots := x.slots.filter (·.slot != slot) } f x.pc

/-- The end of a wait on the Mark (R145): the checks, and the copy, which is in flight until it retires. A fault at check 1
leaves STATE as found, a later one sets it to EXPIRED. -/
def answerIn (s : State) (x : Dispatch) (c : Ctx) (e : HandSlot) (dst : Bytes) : Except Halt State := do
  match slotSpans s x c e.slot with
  | .error (.stop (.fault f)) => pure (stopSlot s x e.slot f)
  | .error r => .error r
  | .ok xs =>
  let half := slotSize x / 2
  let hh := slotRead s xs 0 256
  let ah := slotRead s xs half 128
  match answerFault c hh ah e half (1024 * dSize dst 0) with
  | some f =>
    let one := !(slotOurs c hh e && field hh 5 1 == hsAnswered && field hh 252 4 == crc32c (slice hh 128 124))
    let s := if one then s else slotWrite s xs 5 (leBytes 1 hsExpired)
    pure (stopSlot s x e.slot f)
  | none => do
    let h := answerHdr c (hdrOf ah)
    let size := bodyLen c.param h
    let d ← objDst s x c ⟨0, dst⟩ h
    need (!inWindow s (d.body ++ d.hdrAt)) .accessDenied
    let at_ := spansSlice xs (half + 1024) size
    let pois := h.poisoned || spansMarked s.mem at_ || spansMarked s.mem (spansSlice xs half 128)
    let body := spansPeek s.mem at_
    let limb := if h.kind == kindLwe then 4 * h.lweN else 4 * 2 ^ h.logN
    let u : Use := { Use.none with rd := spansSlice xs half 128 ++ at_, wr := d.body ++ d.hdrAt ++ spansSlice xs 5 1 }
    let f := s.flight x 8 u [d.body] [(d.raw, d.hdrAt)] limb (size / limb)
    let s := touchReads s at_
    let s := s.writeSpans d.body body pois
    let s := s.writeSpans d.hdrAt (hdrBytes (resultHdr x c h pois)) false
    pure (s.flown { x with wait := some (.answer e.slot) } 0 f pois)

/-- The answer copy has ended (R145): STATE becomes CONSUMED, and the program goes on. -/
def answered (s : State) (x : Dispatch) : State :=
  match x.wait, s.ctx? x.ctx with
  | some (.answer slot), some c =>
    (setSlotState s x c slot hsConsumed (fun st => st == hsAnswered)).setDisp
      { x.adv 2 with wait := none, slots := x.slots.filter (·.slot != slot) }
  | _, _ => s

/-- handoff.in (R145): the slot must hold a request of this dispatch, or STATE stays as found, at the abort too; then the
wait on ANSWER_MARK. -/
def handoffInForm (s : State) (dst : HRef) (slot : Nat) (timeout : SVal) (x : Dispatch) (c : Ctx) (_n : Nat) :
    Except Halt State := do
  let r := s.core x.lead
  let o ← resolve x c r dst true true
  cleanS x r timeout
  need (slot < (x.set 0x0104).toNat) .descInvalid
  match slotSpans s x c slot with
  | .error (.stop (.fault f)) => pure (stopSlot s x slot f)
  | .error r => .error r
  | .ok xs =>
  free x { Use.none with rs := hrefRegs dst ++ svalRegs timeout
                         wr := xs ++ looseSpans s x c .write o.raw (256 * dSize o.raw 0) }
  let hh := slotRead s xs 0 256
  let st := field hh 5 1
  match x.slots.find? (·.slot == slot) with
  | none => fail .descInvalid
  | some e =>
    if !((st == hsOutReady || st == hsAnswered) && slotOurs c hh e) then
      pure (stopSlot s x e.slot .descInvalid)
    else
    let t := (r.sval timeout).toNat % 2 ^ 32
    if (s.mark e.mark).value ≥ e.value then answerIn s x c e o.raw
    else if t == 0 then
      pure ((slotWrite s xs 5 (leBytes 1 hsExpired)).stop x .handoffTimeout x.pc)
    else pure (s.setDisp { x with wait := some (.handoff slot o.raw (leadTicks s x) t) })

/-- The wait of a dispatch's handoff.in ends on the Mark. -/
def endHandoff (s : State) (x : Dispatch) (slot : Nat) (dst : Bytes) : State :=
  match s.ctx? x.ctx, x.slots.find? (·.slot == slot) with
  | some c, some e =>
    match answerIn s x c e dst with
    | .ok t => issued x c t
    | .error .busy => s
    | .error (.part t _ _) => t
    | .error (.stop r) => s.halt { x with wait := none } 4 r
  | _, _ => s

/-- The Mark tests the wait of one dispatch after a change (R145, R244, R245). -/
def wakeOne (s : State) (x : Dispatch) : State :=
  if x.phase != .running || x.fate.isSome then s
  else match x.wait with
    | some (.mark sd k t _ _) => if (s.mark k).value ≥ t then waitResult s x sd true else s
    | some (.handoff slot dst _ _) =>
      match x.slots.find? (·.slot == slot) with
      | some e => if (s.mark e.mark).value ≥ e.value then endHandoff s x slot dst else s
      | none => s
    | _ => s

/-- Every waiter is evaluated after a change of a Mark (R245). -/
def wake (s : State) : State := s.disps.foldl (fun s x => match s.disp? x.id with
  | some y => wakeOne s y
  | none => s) s

/-- A signal changes a Mark (R243), and its waiters see it. -/
def addMark (s : State) (k amount : Nat) : State := wake (s.setMark k ((s.mark k).add amount))

/-- A signal of a dispatch bears another epoch than the dispatch's current one (R245, R303). -/
def sigStale (s : State) (a : SigAgent) : Option DRef :=
  match a with
  | .program d ep => match s.disp? d with
    | some x => if x.epoch == ep then none else some d
    | none => none
  | .starter => none

/-- MARK_SIGNAL_ARRIVAL (R245): the two tests, in their order. -/
def execMarkSignalArrival (n : Nat) (s : State) : Out :=
  match s.markNet[n]? with
  | none => .next s
  | some x =>
    let s := { s with markNet := s.markNet.eraseIdx n }
    match sigStale s x.agent with
    | some d => .next (countStale s d)
    | none =>
      if markOwned s x.mark x.ctx then .next (addMark s x.mark x.amount)
      else match x.agent with
        | .starter => .next s
        | .program d _ => match s.disp? d with
          | some y => .next (s.stop y .accessDenied y.pc)
          | none => .next s

/-- MARK_WAIT_TIMEOUT (R244): 0 in SD; a Mark that satisfies the wait on the same tick wins. -/
def execMarkWaitTimeout (d : DRef) (s : State) : Out :=
  match s.disp? d with
  | none => .next s
  | some x => match x.wait with
    | some (.mark sd k t start (some left)) =>
      if x.phase == .running && x.fate.isNone && due (leadTicks s x) start left then
        .next (waitResult s x sd ((s.mark k).value ≥ t))
      else .next s
    | _ => .next s

/-- HANDOFF_TIMEOUT (R146): STATE becomes EXPIRED and the dispatch stops; the Mark wins a tie (R145). -/
def execHandoffTimeout (d : DRef) (s : State) : Out :=
  match s.disp? d with
  | none => .next s
  | some x => match x.wait, s.ctx? x.ctx with
    | some (.handoff slot dst start t), some c =>
      if !(x.phase == .running && x.fate.isNone && due (leadTicks s x) start t) then .next s
      else if x.slots.any (fun e => e.slot == slot && (s.mark e.mark).value ≥ e.value) then .next (endHandoff s x slot dst)
      else
        let s := setSlotState s x c slot hsExpired (fun st => st == hsOutReady || st == hsAnswered)
        .next (s.stop { x with wait := none } .handoffTimeout x.pc)
    | _, _ => .next s

/-- What an abort leaves of a dispatch's hand-off slots (R147): ABANDONED from FILLING or OUT_READY, or during the wait. -/
def abandonSlots (s : State) (x : Dispatch) : State :=
  match s.ctx? x.ctx with
  | none => s
  | some c => x.slots.foldl (fun s e =>
      let waits := match x.wait with
        | some (.handoff slot _ _ _) => slot == e.slot
        | _ => false
      setSlotState s x c e.slot hsAbandoned (fun st => st == 1 || st == hsOutReady || (waits && st == hsAnswered))) s

/-- A refused host signal is counted in HOST_SIG_STATUS (R320, R322). -/
def hostSigRefused (s : State) (c : FaultCode) : State :=
  { s with hostSig := { lastFault := c.code, refused := satInc 32 s.hostSig.refused } }

/-- HOST_MARK_SIG (R322): context, context Mark number and amount; the tests of R245 with HOST_SIG. -/
def execHostMarkSig (data : Bytes) (s : State) : Out :=
  if !(s.serves && s.linkUp && data.length == 16) then .next s
  else
    let ctx := field data 0 4
    if !(allZero data 6 2 && allZero data 12 4) then .next (hostSigRefused s .descInvalid)
    else match (if (s.ctx? ctx).isSome then ctxMark s ctx (field data 4 2) else none) with
      | none => .next (hostSigRefused s .accessDenied)
      | some k =>
        if markOwned s k ctx && (s.mark k).hostSig then .next (addMark s k (field data 8 4))
        else .next (hostSigRefused s .accessDenied)

/-- HANDOFF_OUT (R143). -/
def execHandoffOut (d : DRef) (src : HRef) (slot notify answer : Nat) (s : State) : Out :=
  issue s d (.handoffOut d src slot notify answer) 4 (handoffOutForm s src slot notify answer)
/-- HANDOFF_IN (R145). -/
def execHandoffIn (d : DRef) (dst : HRef) (slot : Nat) (timeout : SVal) (s : State) : Out :=
  issue s d (.handoffIn d dst slot timeout) 4 (handoffInForm s dst slot timeout)

end Sys2Proof.Machine
end

