-- ==== Sys2Proof/Machine/Stops.lean ====
section
/-! DEFINITION. Stopping an engine mid-instruction (R96, R169, R208): how far each instruction in flight has come, what it
leaves, and what is left to be issued again. -/

namespace Sys2Proof.Machine

/-- How far an instruction in flight has come when a stop reaches its engine (R96): not started, at one of its stop points, or
complete. -/
inductive StopAt where
  | unstarted
  | point (k : Nat)
  | complete
  deriving DecidableEq, Repr

/-- How far the i-th instruction in flight has come, which the manual leaves to the moment of the stop. The vector engine and
cvt.drain complete what they have started; atomics, hdr.w and Vault calls stand complete (log entry 57). -/
def stopAt (fr i : Nat) (f : InFlight) : StopAt :=
  let n := Config.stopPick fr i % (f.points + 2)
  if f.engine ≥ 5 && f.engine != 8 then .complete
  else if n == 0 then .unstarted
  else if f.points == 0 || n == f.points + 1 then .complete
  else .point (max f.start (n - 1))

/-- How far every instruction in flight has come: an engine takes its queue in order, so nothing behind an instruction that is
not complete has started (R77, R168). `busy` lists the engines that hold such an instruction. -/
def stopPoints (fr : Nat) : Nat → List Nat → List InFlight → List (InFlight × StopAt)
  | _, _, [] => []
  | i, busy, f :: t =>
    let a := if busy.contains f.engine then .unstarted else stopAt fr i f
    (f, a) :: stopPoints fr (i + 1) (if a == .complete then busy else f.engine :: busy) t

/-- The marks of the blocks that spans touch, set as they were. -/
def setMarks (m : MemState) (xs : List Span) (marks : List (Nat × Nat)) : MemState :=
  let fix := fun (sp : Nat) (l : List Nat) =>
    let touched := ((xs.filter (·.sp == sp)).map (fun x => blocksOf x.addr x.len)).flatten
    ((marks.filter (·.1 == sp)).map (·.2)).foldl (fun l b => insertNat b l) (l.filter (fun b => !touched.contains b))
  { m with hbmMarked := fix 0 m.hbmMarked, cs := { m.cs with marked := fix 1 m.cs.marked }
           ob := { m.ob with marked := fix 2 m.ob.marked }, inf := { m.inf with marked := fix 3 m.inf.marked } }

/-- Puts back what spans held, with the marks of their blocks. -/
def putBack (s : State) (w : Was) : State :=
  let s := s.writeSpans w.at_ w.data false
  { s with mem := setMarks s.mem w.at_ w.marks }

/-- Puts back the registers that an instruction wrote. -/
def CoreRegs.putBack (r b : CoreRegs) (u : Use) : CoreRegs :=
  let flags := fun (l old mine : List Nat) => old.foldl (fun l n => insertNat n l) (l.filter (fun n => !mine.contains n))
  { r with v := b.v ++ r.v.filter (fun p => !u.wv.contains p.1), a := b.a ++ r.a.filter (fun p => !u.wt.contains p.1)
           s := b.s ++ r.s.filter (fun p => !u.ws.contains p.1), useV := flags r.useV b.useV u.wv
           useA := flags r.useA b.useA u.wt, poisV := flags r.poisV b.poisV u.wv
           poisA := flags r.poisA b.poisA u.wt, poisS := flags r.poisS b.poisS u.ws }

/-- Everything that an instruction wrote is put back: it is withdrawn without effect (R208). -/
def undoAll (s : State) (x : Dispatch) (f : InFlight) : State :=
  let s := (f.body ++ f.heads).foldl putBack s
  s.setCore x.lead ((s.core x.lead).putBack f.before f.use)

/-- Words of a destination that a stop or an abort cut off: each old or new (R96, R308). -/
def tornWords (fr : Nat) (old new : Bytes) : Bytes :=
  mapIdxFrom (fun i (p : Byte × Byte) => if Config.tornPick fr (i / 4) then p.2 else p.1) 0 (old.zip new)

/-- A destination that an instruction has written up to a point: the limbs before it final, each word of the limb at it old or
final, the rest as it was (R96). -/
def cutBody (s : State) (fr limb k : Nat) (w : Was) : State :=
  let new := spansPeek s.mem w.at_
  let s := putBack s w
  let now := new.take (k * limb) ++ tornWords fr ((w.data.drop (k * limb)).take limb) ((new.drop (k * limb)).take limb)
  s.writeSpans (spansSlice w.at_ 0 now.length) now false

/-- cvt.mm stopped between two k-steps: the tiles hold the partial sums, and the groups completed are drained (R96). -/
def cutMm (s : State) (x : Dispatch) (c : Ctx) (f : InFlight) (g : MmForm) (k : Nat) : State :=
  let s := undoAll s x f
  let r := s.core x.lead
  let ring := activeRing x c s
  let pois := mmPoisoned s r g (mmReads x g) (mmTiles g) f.start
  let (r, out, flags) := mmGroups s x.lead (nth ring.qs g.mod 1) ring.qs g (!f.body.all (·.at_.isEmpty)) pois f.start k r
  let da := (f.body.map (·.at_)).flatten
  (s.writeSpans (mmDrained g da f.start k) out pois).setCore x.lead (r.raise flags)

/-- The cvt.mm of a dispatch at an index. -/
def mmAt (x : Dispatch) (i : Nat) : Option MmForm :=
  match x.prog.fetch x.id i with
  | some (.cvtMm _ g, _) => some g
  | _ => none

/-- What an instruction that has reached a stop point leaves: its headers are written last (R19), so they are as they were; a
form in place works through a shadow buffer (R227), so its destination is as it was. -/
def cutAt (s : State) (x : Dispatch) (c : Ctx) (f : InFlight) (fr k : Nat) : State :=
  if f.inPlace then undoAll s x f
  else match mmAt x f.instr with
    | some g => cutMm s x c f g k
    | none => f.body.foldl (fun s w => cutBody s fr f.limb k w) (f.heads.foldl putBack s)

/-- The object destinations of an instruction in flight, with the headers that the result carries. -/
def begunOf (s : State) (f : InFlight) : List Begun :=
  (f.objs.zip f.heads).map (fun p => ⟨f.instr, p.1, spansPeek s.mem p.2.at_⟩)

/-- The Vault calls counted for an instruction are counted when it is issued again. -/
def Dispatch.uncount (x : Dispatch) (f : InFlight) : Dispatch :=
  { x with vaultCalls := x.vaultCalls - f.calls, vaultTicks := x.vaultTicks - f.ticks }

/-- The answer copy of a handoff.in at a stop (R147): complete, or cut off; the program then stands at the handoff.in. -/
def stopAnswer (s : State) (x : Dispatch) (c : Ctx) (f : InFlight) (fr : Nat) (a : StopAt) : State × Dispatch :=
  match a with
  | .complete =>
    let s := answered (s.setDisp x) x
    (s, (s.disp? x.id).getD x)
  | .unstarted => (undoAll s x f, { x with wait := none })
  | .point k => (cutAt s x c f fr k, { x with wait := none, begun := x.begun ++ begunOf s f })

/-- One instruction at a stop (R96, R208): complete, left at its point, or withdrawn; what is to be issued again goes before
what a later instruction left. -/
def stopOne (c : Ctx) (fr : Nat) (p : InFlight × StopAt) (acc : State × Dispatch) : State × Dispatch :=
  let (s, x) := acc
  let f := p.1
  if f.engine == 8 then stopAnswer s x c f fr p.2 else
  match p.2 with
  | .complete => (s, x)
  | .unstarted => (undoAll s x f, { x.uncount f with redo := ⟨f.instr, f.engine, none, 0, none⟩ :: x.redo })
  | .point k =>
    let words := if f.engine == 2 && f.points > 0 then Config.expWords fr % 2 ^ pLogN c.param else 0
    let begun := if f.inPlace then x.begun else x.begun ++ begunOf s f
    (cutAt s x c f fr k, { x.uncount f with redo := ⟨f.instr, f.engine, some k, words, none⟩ :: x.redo, begun := begun })

/-- Every engine of a dispatch reaches its stop point (R96): nothing is in flight any more, and what is not complete is to be
issued again, in program order (R208); a stream that waits in the stream unit's queue is withdrawn too (log entry 57). -/
def stopEngines (s : State) (c : Ctx) (x : Dispatch) : State × Dispatch :=
  let (fr, s) := s.draw
  let ps := stopPoints fr 0 [] x.inflight
  let (s, y) := ps.foldr (stopOne c fr) (s, { x with redo := x.redo.map (fun r => { r with page := none }) })
  let queued := (y.streams.filter (·.slot ≥ 8)).map (fun t => (⟨t.instr, 7, none, 0, none⟩ : Redo))
  (s, { y with inflight := [], streams := y.streams.filter (·.slot < 8), redo := y.redo ++ queued })

end Sys2Proof.Machine
end

