-- ==== Sys2Proof/Machine/Frames.lean ====
section
/-! DEFINITION. The records of a stop, byte by byte: the register save record (R55), the stream save record (R206 to R208),
the control save record (R294), and the save frame that holds them (R293). -/

namespace Sys2Proof.Machine

/-- A mask of the numbers of a list. -/
def maskOf (l : List Nat) : Nat := l.foldl (fun m i => m ||| 2 ^ i) 0

/-- The 256 words of a vector register. -/
def vBytes (r : CoreRegs) (i : Nat) : Bytes := r.vStored i

/-- A tile row by row, each cell in 9 bytes (R55): cell (row, column) is cell 32 · column + row of the column-major order. -/
def tileBytes (t : Tile) : Bytes :=
  ((List.range 512).map (fun k => leBytes 9 (nth t.cells (k % 16 * 32 + k / 16) 0).toNat)).flatten

/-- The numbers below n that a list holds, in ascending order. -/
def inUse (n : Nat) (l : List Nat) : List Nat := (List.range n).filter (l.contains ·)

/-- The register save record (R55). -/
def regRecord (r : CoreRegs) : Bytes :=
  leBytes 8 (maskOf r.useV) ++ leBytes 1 (maskOf r.useA) ++ leBytes 1 (flag r.gate 0) ++ leBytes 2 (r.status.toNat % 32)
    ++ leBytes 8 (maskOf r.poisV) ++ leBytes 1 (maskOf r.poisA) ++ leBytes 4 (maskOf r.poisS) ++ zeros 39
    ++ ((List.range 32).map (fun n => leBytes 8 (r.sget n).toNat)).flatten
    ++ ((List.range 4).map (fun n => leBytes 4 (r.lget n))).flatten ++ zeros 176
    ++ ((inUse 64 r.useV).map (vBytes r)).flatten ++ ((inUse 4 r.useA).map (fun n => tileBytes (r.tStored n))).flatten

/-- KIND of a stream entry (R207). -/
def StreamKind.code : StreamKind → Nat
  | .ld => 1
  | .st => 2
  | .put => 3
  | .get => 4

/-- STATE of a stream entry (R207). -/
def StreamState.code : StreamState → Nat
  | .running => 1
  | .haltPage => 2
  | .haltCredit => 3
  | .haltEmpty => 4
  | .stopped => 5

/-- The descriptor of the side that is not the memory side, zeros for registers. -/
def placeBytes (p : Place) : Bytes :=
  match p with
  | .regs _ => zeros 64
  | .desc d => slice d 0 64

/-- A stream entry of the stream save record (R207); `unit` gives its UNIT code. -/
def streamEntry (unit : Stream → Nat) (t : Stream) : Bytes :=
  let reading := t.kind == .ld || t.kind == .get
  leBytes 4 t.instr ++ leBytes 1 t.kind.code ++ leBytes 1 t.state.code ++ leBytes 1 (unit t) ++ leBytes 1 (t.tmod.getD 0)
    ++ leBytes 4 t.units.length ++ leBytes 4 t.done ++ leBytes 8 (if t.state == .haltPage then t.faultVa else 0)
    ++ leBytes 4 t.epoch ++ leBytes 2 t.tcore ++ leBytes 2 t.window ++ leBytes 4 t.grant ++ zeros 28
    ++ (if reading then slice t.mem 0 64 ++ placeBytes t.other else placeBytes t.other ++ slice t.mem 0 64)

/-- A progress entry (R207): the instruction of an engine that a stop left at a point. -/
def progEntry (x : Dispatch) (engine : Nat) : Bytes :=
  match x.redo.find? (fun r => r.engine == engine && (r.point.isSome || engine == 4)) with
  | some r => leBytes 4 r.instr ++ leBytes 4 (r.point.getD 0) ++ leBytes 4 (if engine == 2 then r.words else 0) ++ zeros 52
  | none => leBytes 4 0xFFFFFFFF ++ zeros 60

/-- The withdrawn instructions of an engine in PENDING_Q (R208). -/
def pendingEntry (x : Dispatch) (engine : Nat) : Bytes :=
  let l := ((x.redo.filter (fun r => r.engine == engine && r.point.isNone)).map (·.instr)).take 4
  ((l ++ List.replicate (4 - l.length) 0xFFFFFFFF).map (leBytes 4)).flatten

/-- STAGE_STATE (R206). -/
def StageState.code : StageState → Nat
  | .between => 0
  | .inStage => 1
  | .ending => 2

/-- The stream save record of a dispatch (R206 to R208). -/
def streamRecord (unit : Stream → Nat) (x : Dispatch) : Bytes :=
  leBytes 1 (maskOf (x.streams.map (·.slot))) ++ leBytes 1 x.stage.code ++ zeros 2 ++ leBytes 4 x.stageNum ++ zeros 56
    ++ ((List.range 8).map (fun i => match x.streams.find? (·.slot == i) with
        | some t => streamEntry unit t
        | none => zeros 192)).flatten
    ++ progEntry x 0 ++ progEntry x 1 ++ progEntry x 2 ++ progEntry x 4
    ++ ((List.range 4).map (pendingEntry x)).flatten ++ zeros 128

/-- WAIT_KIND and WAIT_LEFT of a wait (R294), at the tick at which it is saved. -/
def waitCode (w : Option WaitState) : Nat × Nat :=
  match w with
  | some (.mark _ _ _ _ left) => (1, left.getD (2 ^ 64 - 1))
  | some (.handoff _ _ _ left) => (2, left)
  | _ => (0, 0)

/-- A lap of the control save record (R294). -/
def lapBytes (x : Dispatch) (n : Nat) : Bytes :=
  match x.laps.find? (·.ln == n) with
  | some l => leBytes 4 l.count ++ leBytes 4 l.start ++ leBytes 4 l.target ++ leBytes 4 (l.pendingVal.getD 0)
  | none => zeros 16

/-- The control save record (R294) of a dispatch whose wait stands as saved. The model's native instruction index is the AVIS
index (log entry 57). -/
def controlRecord (x : Dispatch) : Bytes :=
  leBytes 4 x.pc ++ leBytes 4 x.pc ++ leBytes 1 (maskOf (x.laps.map (·.ln))) ++ leBytes 1 x.calls.length
    ++ leBytes 1 (waitCode x.wait).1 ++ zeros 5 ++ leBytes 8 (waitCode x.wait).2
    ++ ((List.range 4).map (lapBytes x)).flatten
    ++ leBytes 4 (maskOf ((x.laps.filter (·.pendingVal.isSome)).map (·.ln)))
    ++ slice ((x.calls.reverse.map (leBytes 4)).flatten) 0 64 ++ zeros 356

/-- Bytes of a save frame (R293): 88 KiB. -/
def frameBytes : Nat := 90112

/-- The device physical address of a save frame: by core and number on the core's die (R293). -/
def frameAddr (f : Nat × Nat) : Nat := Config.frameBase (dieOf f.1) + frameBytes * f.2

/-- Writes the save frames of a stopped dispatch (R293 to R295): every frame holds the control save record; the lead core's
holds the streams and the registers, and every other core's its own (log entry 20). -/
def writeFrames (s : State) (unit : Stream → Nat) (x : Dispatch) (lead : CoreRegs) : State :=
  let none_ := { x with streams := [], redo := [] }
  x.frames.foldl (fun s f =>
    let body := if f.1 == x.lead then controlRecord x ++ streamRecord unit x ++ regRecord lead
      else controlRecord x ++ streamRecord unit none_ ++ regRecord (s.core f.1)
    { s with mem := { s.mem with hbm := memPut s.mem.hbm (frameAddr f) body } }) s

/-- The lowest save frames of a die that no dispatch holds; numbers 0 to 63 of a die are those of its cores for SPRINT, one
for each core (R293). -/
def freeFrame (s : State) (die : Nat) (taken : List (Nat × Nat)) : Nat :=
  let used := ((s.disps.map (·.frames)).flatten ++ taken).filter (fun f => dieOf f.1 == die) |>.map (·.2)
  ((rangeFrom 64 (used.length + 1)).find? (fun k => !used.contains k)).getD 64

/-- The save frames of a placement (R293): a SPRINT dispatch uses those of its own Fields. -/
def giveFrames (s : State) (x : Dispatch) : Dispatch :=
  { x with frames := if x.cls == .sprint then x.cores.map (fun n => (n, n % 64))
      else x.cores.foldl (fun l n => l ++ [(n, freeFrame s (dieOf n) l)]) [] }

end Sys2Proof.Machine
end

