-- ==== Sys2Proof/Machine/Residency.lean ====
section
/-! DEFINITION. Resident key copies (R110 to R113): reuse scores, admission, eviction, and the windows in which the Starter
measures the reads of a die. -/

namespace Sys2Proof.Machine

/-- The physical spans of n bytes at an offset of a loaded key, through the frames recorded at load (R328, R348). -/
def keySpansFrom (k : KeyObj) : Nat → Nat → Nat → List Span
  | 0, _, _ => []
  | fuel + 1, off, n =>
    if n = 0 then [] else
    let m := min n (65536 - off % 65536)
    ⟨0, nth k.frames (off / 65536) 0 * 65536 + off % 65536, m, hintNormal, none⟩ :: keySpansFrom k fuel (off + m) (n - m)

/-- The spans of n bytes at an offset of a loaded key. -/
def keySpans (k : KeyObj) (off n : Nat) : List Span := keySpansFrom k (n / 65536 + 2) (k.va % 65536 + off) n

/-- The name under which a key's residency is kept. -/
def keyName (set : Nat) (k : KeyObj) : KeyName := ⟨set, k.kind, k.galois⟩

/-- A copy serves ks.ip (R113). -/
def KeyCopy.complete (k : KeyCopy) : Bool := k.stage == .ready

/-- A copy of a key on a die, unless it is evicted. -/
def copyOn (s : State) (ctx : Nat) (k : KeyName) (die : Nat) : Option KeyCopy :=
  s.keyCopies.find? (fun e => e.die == die && e.ctx == ctx && e.key == k && e.stage != .evicted)

/-- Bytes of the copies of a die that pass a test. -/
def copyBytes (s : State) (die : Nat) (p : KeyCopy → Bool) : Nat :=
  ((s.keyCopies.filter (fun k => k.die == die && p k)).map (·.bytes)).sum

/-- Bytes of the copies a die has or is to have: what is evicted counts no more. -/
def residentBytes (s : State) (die : Nat) : Nat := copyBytes s die (·.stage != .evicted)

/-- Bytes of KEY_RES_MIB that a die has in use: an evicted copy that is still read keeps its space (R113). -/
def heldBytes (s : State) (die : Nat) : Nat := copyBytes s die (·.stage != .waiting)

/-- The reuse score of a key on a die (R111). -/
def keyScore (s : State) (die ctx : Nat) (k : KeyName) : Nat :=
  match s.keyScores.find? (fun e => e.die == die && e.ctx == ctx && e.key == k) with
  | some e => e.last + e.cur
  | none => 0

/-- Adds one ks.ip read to a key's score (R111). -/
def countKeyRead (s : State) (die ctx : Nat) (k : KeyName) : State :=
  if s.keyScores.any (fun e => e.die == die && e.ctx == ctx && e.key == k) then
    { s with keyScores := s.keyScores.map (fun e =>
        if e.die == die && e.ctx == ctx && e.key == k then { e with cur := e.cur + 1 } else e) }
  else { s with keyScores := s.keyScores ++ [⟨die, ctx, k, 0, 1⟩] }

/-- A copy that nothing pins (R112). -/
def KeyCopy.loose (k : KeyCopy) : Bool := !k.pinned && k.users.isEmpty

/-- Lowest score first and the oldest among equal scores (R111). -/
def evictFirst (s : State) (a b : KeyCopy) : Bool :=
  let sa := keyScore s a.die a.ctx a.key
  let sb := keyScore s b.die b.ctx b.key
  sa < sb || (sa == sb && a.order ≤ b.order)

/-- Insertion into the order of eviction. -/
def insEvict (s : State) (a : KeyCopy) : List KeyCopy → List KeyCopy
  | [] => [a]
  | b :: t => if evictFirst s a b then a :: b :: t else b :: insEvict s a t

/-- The copies to evict, in order, until a need is met; none where they do not suffice. -/
def evictUpTo : List KeyCopy → Nat → Option (List KeyCopy)
  | _, 0 => some []
  | [], _ + 1 => none
  | k :: t, need => (evictUpTo t (need - k.bytes)).map (k :: ·)

/-- The number a copy takes in the order of admission. -/
def nextCopyOrder (s : State) : Nat := s.keyCopies.foldl (fun m k => max m (k.order + 1)) 0

/-- A ks.ip in flight reads a copy. -/
def copyRead (s : State) (e : KeyCopy) : Bool := s.disps.any (fun x => x.inflight.any (·.use.copy == some e.order))

/-- The transfer that makes a copy (R353). -/
def KeyCopy.transfer (e : KeyCopy) (b : DmaBusy) : Bool := b.die == e.die && b.job == .keyCopy e.ctx e.key

/-- Evicts copies: their transfers end, and one that is being read keeps its space (R113). -/
def evict (s : State) (ev : List KeyCopy) : State :=
  let s := ev.foldl (fun s e => endDma s e.transfer) s
  { s with keyCopies := s.keyCopies.filterMap (fun k =>
      if !ev.contains k then some k else if copyRead s k then some { k with stage := .evicted } else none) }

/-- The oldest copy that waits for room and has it. -/
def nextCopy (s : State) : Option KeyCopy :=
  s.keyCopies.find? (fun e => e.stage == .waiting && heldBytes s e.die + e.bytes ≤ s.settingN 0x0200 e.die * 2 ^ 20)

/-- Starts the transfers of the copies for which there is room, one by one (R353). -/
def startCopies : Nat → State → State
  | 0, s => s
  | n + 1, s => match nextCopy s with
    | none => s
    | some e => startCopies n (startDma { s with keyCopies := s.keyCopies.map (fun k =>
        if k == e then { k with stage := .copying } else k) } e.die (.keyCopy e.ctx e.key))

/-- Frees the evicted copies that nothing reads any more, and gives their room to the copies that wait for it (R113). -/
def settleCopies (s : State) : State :=
  startCopies s.keyCopies.length { s with keyCopies := s.keyCopies.filter (fun e => e.stage != .evicted || copyRead s e) }

/-- Makes room for a copy by evicting loose copies that pass a test, lowest score first (R111, R112). None where the
room cannot be had. -/
def makeRoom (s : State) (die bytes : Nat) (ok : KeyCopy → Bool) : Option State :=
  let cap := s.settingN 0x0200 die * 2 ^ 20
  let used := residentBytes s die
  if used + bytes ≤ cap then some s
  else
    let cand := (s.keyCopies.filter (fun k => k.die == die && k.stage != .evicted && k.loose && ok k)).foldl
      (fun l k => insEvict s k l) []
    match evictUpTo cand (used + bytes - cap) with
    | none => none
    | some ev => some (evict s ev)

/-- The dispatches placed on a die whose key-pin lists name a key (R112, R213). -/
def keyUsers (s : State) (die ctx : Nat) (k : KeyName) : List DRef :=
  (s.disps.filter (fun x => x.ctx == ctx && (x.phase == .running || x.phase == .saved) && x.prog.pins.contains k
    && x.cores.any (fun n => dieOf n == die))).map (·.id)

/-- Has a copy of a key made on a die, by a DMA engine once there is room, incomplete until KEY_COPY_COMPLETE (R111, R113,
R353). -/
def startCopy (s : State) (die ctx : Nat) (k : KeyName) (bytes : Nat) (pinned : Bool) : State :=
  let e : KeyCopy := ⟨die, ctx, k, bytes, .waiting, pinned, keyUsers s die ctx k, nextCopyOrder s, [], false⟩
  settleCopies { s with keyCopies := s.keyCopies ++ [e] }

/-- The meter of a die with a change. -/
def State.modMeter (s : State) (die : Nat) (g : Meter → Meter) : State :=
  { s with meters := mapIdxFrom (fun i m => if i == die then g m else m) 0 s.meters }

/-- The meter of a die. -/
def State.meter (s : State) (die : Nat) : Meter := nth s.meters die ⟨0, 0, 0, 0⟩

/-- What a read of a key by ks.ip does to its residency on a die: the score rises, and a key without a copy whose score
reaches RES_ADMIT gets one if room can be made (R111). -/
def touchKey (s : State) (die ctx : Nat) (k : KeyName) (bytes : Nat) : State :=
  let s := countKeyRead s die ctx k
  let score := keyScore s die ctx k
  if (copyOn s ctx k die).isSome || score < s.settingN 0x0301 0 then s
  else match makeRoom s die bytes (fun e => keyScore s die e.ctx e.key < score) with
    | none => s
    | some t => startCopy t die ctx k bytes false

end Sys2Proof.Machine
end

