-- ==== Sys2Proof/Machine/Progress.lean ====
section
/-! DEFINITION. An engine instruction retires (R73, R77), and a translation walk (R345, R346). -/

namespace Sys2Proof.Machine

/-- Rewrites the header at spans with POISONED set (R17, R74). -/
def poisonHdr (s : State) (at_ : List Span) : State :=
  let h := spansPeek s.mem at_
  s.writeSpans at_ (withCrc (patch h 28 (leBytes 2 (field h 28 2 ||| 1)))) false

/-- Marks the limb numbered k of the destinations without a header that an instruction wrote (R73, R74, R81). -/
def poisonLimb (s : State) (f : InFlight) (k : Nat) : State :=
  let all := (f.body.map (·.at_)).flatten
  let at_ := if f.limb == 0 then all else spansSlice all (k * f.limb) f.limb
  let s := { s with mem := markSpans s.mem (if at_.isEmpty then all.take 1 else at_) }
  (f.heads.map (·.at_)).foldl poisonHdr s

/-- A core's registers with one more destination poisoned: the vector register, tile or scalar numbered k of those that an
instruction writes. -/
def CoreRegs.poisonReg (r : CoreRegs) (u : Use) (k : Nat) : CoreRegs :=
  let nv := u.wv.length
  let nt := u.wt.length
  if k < nv then { r with poisV := insertNat (nth u.wv k 0) r.poisV }
  else if k < nv + nt then { r with poisA := insertNat (nth u.wt (k - nv) 0) r.poisA }
  else { r with poisS := insertNat (nth u.ws (k - nv - nt) 0) r.poisS }

/-- The destination numbered k of an instruction becomes poisoned (R73): a vector register, a tile, a scalar, or a limb in
memory. An instruction that writes tiles and drains them poisons every destination it has (R74). -/
def poisonDest (s : State) (x : Dispatch) (f : InFlight) (k : Nat) : State :=
  let n := f.use.wv.length + f.use.wt.length + f.use.ws.length
  if f.use.wt.isEmpty then
    if k < n then s.setCore x.lead ((s.core x.lead).poisonReg f.use k) else poisonLimb s f (k - n)
  else
    let s := s.setCore x.lead ((List.range n).foldl (fun r k => r.poisonReg f.use k) (s.core x.lead))
    { s with mem := markSpans s.mem (f.body.map (·.at_)).flatten }

/-- A vector form forms products (R72): multiplications, and in modular form every conversion of a scalar (R59), of a tile cell
(R62) and of a sum to its canonical residue (R90). -/
def vProducts (mul : Bool) (red : Bool) (f : VForm) : Bool := mul || (f.ety == .mod32 && (f.scalB || f.tileA || red))

/-- An instruction's multipliers form products, which are checked (R72): NTT butterflies and twiddle generators, converter
cells, vector lanes, the reduction units of the tile read path, and the conversions that its streams make (R57, R211). -/
def formsProducts (i : Instr) : Bool :=
  match i with
  | .nttF .. | .nttI .. | .cvtUp .. | .cvtDown .. | .cvtRescale .. | .cvtMm .. | .cvtDrain .. | .ksPrep .. | .ksIp .. | .ksFin .. => true
  | .vAddObj .. | .vSubObj .. | .vMulObj .. => true
  | .vltModraise .. | .vltCts .. | .vltEvalmod .. | .vltStc .. | .vltBoot .. | .vltExtract .. | .vltPbs .. | .vltRepack ..
  | .vltBootExact .. => true
  | .vMul _ f | .vMac _ f => vProducts true false f
  | .vAdd _ f | .vSub _ f => vProducts false false f
  | .vRed _ f => vProducts false true f
  | _ => false

/-- The instruction in flight forms products. -/
def InFlight.multiplies (x : Dispatch) (f : InFlight) : Bool :=
  f.engine == 6 || (match x.prog.fetch x.id f.instr with
    | some (i, _) => formsProducts i
    | none => false)

/-- Division of limbs within a Relay (R40): limb k of a limb-wise operation goes to the core of rank k mod c of the Relay's
c cores in service; how the limbs are shared among several Relays, and the division of other operations, the translator's
schedule states, so any core of the placement may do them (log entry 20). -/
def limbCore (x : Dispatch) (f : InFlight) (k core : Nat) : Bool :=
  x.cores.contains core
  && (x.relays.length != 1 || f.body.isEmpty || !f.use.wt.isEmpty || nth x.cores (k % max 1 x.cores.length) core == core)

/-- The dispatch meets poison that an instruction in flight produced on a core (R73, R233): POISON_SEEN there and where the
dispatch's ARITH_STATUS is read, and the first poisoning fault unless one is recorded. -/
def meetsOn (s : State) (x : Dispatch) (f : InFlight) (core : Nat) (c : FaultCode) : State :=
  let s := s.setCore x.lead ((s.core x.lead).raise stPoisonSeen)
  let s := s.setCore core ((s.core core).raise stPoisonSeen)
  s.setDisp (x.poison c f.instr)

/-- A failed residue check (R73): the destination is poisoned, RESIDUE_CHECK is the first poisoning fault unless one is
recorded, RESIDUE_EVENTS of the core rises, the event is recorded (R410). -/
def residueFail (s : State) (x : Dispatch) (f : InFlight) (core k : Nat) : State :=
  let s := meetsOn (poisonDest s x f k) x f core .residueCheck
  residueEvent (s.setCore core (s.core core).residue) core x

/-- An uncorrectable error of a core's registers or of its Expander state (R73, R109, R410): the destination is poisoned with
ECC_UNCORRECTABLE, and the event is recorded and counted against the core. -/
def registerUe (s : State) (x : Dispatch) (f : InFlight) (core k : Nat) : State :=
  sramUe (meetsOn (poisonDest s x f k) x f core .eccUncorrectable) core (3 * 2 ^ 32 + core)

/-- What an error does to the instruction in flight that met it. -/
def upset (s : State) (x : Dispatch) (f : InFlight) (u : Upset) : State :=
  match u with
  | .product core k p => if f.multiplies x && limbCore x f k core && !checksPass p then residueFail s x f core k else s
  | .registerUe core k => if x.cores.contains core && !f.use.rv.isEmpty then registerUe s x f core k else s
  | .expander core k => match x.prog.fetch x.id f.instr with
    | some (.ksIp .., _) => if limbCore x f k core then registerUe s x f core k else s
    | _ => s
  | .corrected core => if x.cores.contains core then sramCe s core else s

/-- The oldest instruction in flight on its engine: an engine takes its queue in order (R77, R168). -/
def Dispatch.oldest (x : Dispatch) (n : Nat) (f : InFlight) : Bool :=
  f.engine ≥ 5 || !(x.inflight.take n).any (·.engine == f.engine)

/-- INSTRUCTION_RETIRE (R73, R77, R145). -/
def execInstructionRetire (d : DRef) (n : Nat) (met : Option Upset) (s : State) : Out :=
  match s.disp? d with
  | none => .next s
  | some x => match x.inflight[n]? with
    | none => .next s
    | some f =>
      if !(x.phase == .running && x.fate.isNone && s.coresRun x && s.isUp && x.oldest n f) then .next s
      else
        let x := { x with inflight := x.inflight.eraseIdx n }
        let s := if f.engine == 8 then answered (s.setDisp x) x else s.setDisp x
        .next (settleCopies (match met with
          | some u => upset s x f u
          | none => s))

/-- The unit that walks is in service and, for a core, its Field runs. -/
def xunitServes (s : State) (u : XUnit) : Bool :=
  match u with
  | .core n => n < 128 && !s.coreGone n && s.fieldRuns (fieldOf n)
  | .die n => n < 2

/-- PAGE_WALK (R345, R346): the walk reads its tables as NORMAL accesses, and a translation that passes every check is
cached by the unit. -/
def execPageWalk (u : XUnit) (ctx va : Nat) (acc : Access) (s : State) : Out :=
  match s.ctx? ctx with
  | none => .next s
  | some c =>
    if !(s.isUp && xunitServes s u && va < 2 ^ 48) then .next s
    else match walk s c va acc with
      | .leaf base size pa rd wr lines =>
        let s := touchLines s lines
        .next { s with mem := xlateAdd s.mem ⟨u, ctx, base, size, pa, rd, wr, lines⟩ }
      | _ => .next s

end Sys2Proof.Machine
end

