-- ==== Sys2Proof/Machine/Paging.lean ====
section
/-! DEFINITION. Missing pages (R349, R350, R354) and the DMA engines (R353). -/

namespace Sys2Proof.Machine

/-- The UNIT of a record for a DMA engine (R350). -/
def dmaUnit (s : State) (die : Nat) : Nat := 0x100 + die * 4 + (freeEngine s die).getD 0

/-- DMA_TRANSFER_COMPLETE (R353). -/
def execDmaTransferComplete (die engine : Nat) (s : State) : Out :=
  .next (endDma s (fun b => b.die == die && b.engine == some engine))

/-- A stream of a dispatch is halted on a page. -/
def haltedOn (t : Stream) (page : Nat) : Bool := t.state == .haltPage && t.faultVa / 65536 * 65536 == page

/-- A dispatch waits for a page, itself or with one of its streams. -/
def waitsPage (x : Dispatch) (ctx page : Nat) : Bool :=
  x.phase == .running && x.ctx == ctx
  && ((match x.wait with
    | some (.page _ p) => p == page
    | _ => false) || x.streams.any (fun t => haltedOn t page) || x.redo.any (·.page == some page))

/-- The page wait of a context and page. -/
def pageWait? (s : State) (ctx va : Nat) : Option PageWait :=
  s.pageWaits.find? (fun w => w.ctx == ctx && w.page == va / 65536 * 65536)

/-- Replaces a page wait. -/
def setWait (s : State) (w : PageWait) : State :=
  { s with pageWaits := s.pageWaits.map (fun v => if v.ctx == w.ctx && v.page == w.page then w else v) }

/-- Removes a page wait. -/
def dropWait (s : State) (w : PageWait) : State :=
  { s with pageWaits := s.pageWaits.filter (fun v => !(v.ctx == w.ctx && v.page == w.page)) }

/-- The record of a page wait with an OUTCOME (R350). -/
def waitRec (s : State) (w : PageWait) (c : FaultCode) (outcome level : Nat) : State :=
  s.faultRec { ctx := w.ctx, fault := c, access := accCode w.acc, requester := w.req, outcome := outcome, addr := w.va
               dispatch := s.disp? w.who, unit := w.unit, level := level }

/-- Every requester halted on a page goes on (R349). -/
def resumePage (s : State) (ctx page : Nat) : State :=
  { s with disps := s.disps.map (fun x =>
      if waitsPage x ctx page then
        { x with wait := (match x.wait with
                   | some (.page i p) => if p == page then none else some (.page i p)
                   | w => w)
                 redo := x.redo.map (fun r => if r.page == some page then { r with page := none } else r)
                 streams := x.streams.map (fun t =>
                   if haltedOn t page then { t with state := .running, faultVa := 0 } else t) }
      else x) }

/-- Every requester halted on a page ends with a fault, and a FINAL record is posted (R203, R349). -/
def endPage (s : State) (w : PageWait) (c : FaultCode) (level : Nat) : State :=
  let s := { s with disps := s.disps.map (fun x =>
      if waitsPage x w.ctx w.page then
        let i := match x.wait with
          | some (.page i p) => if p == w.page then i else x.next
          | _ => ((x.streams.find? (fun t => haltedOn t w.page)).map (·.instr)).getD x.next
        x.abort c.code causeFault i
      else x) }
  waitRec (dropWait s w) w c 4 level

/-- What the entry of a wait holds now. -/
def entryNow (s : State) (w : PageWait) : Nat := leNat (devPeek s.mem w.entryPa 8)

/-- The Marshal's walk of a page that requesters wait for (R349): present, a fill, still absent, or a fault. -/
def rewalk (s : State) (w : PageWait) : State :=
  match s.ctx? w.ctx with
  | none => dropWait s w
  | some c =>
    match walk s c w.va w.acc with
    | .leaf .. => waitRec (resumePage (dropWait s w) w.ctx w.page) w .pageNotPresent 2 3
    | .bad f l => endPage s w f l
    | .absent _ ea e =>
      let fill := bits e 2 1 == 1
      setWait s { w with entryPa := ea, entry := e, fill := fill, started := w.started && !fill, lastWalk := s.now }

/-- HBM frame of a FILL entry, as a device physical address (R344). -/
def fillFrame (e : Nat) : Nat := bits e 33 12 * 65536
/-- Its backing copy, as a companion physical address (R344). -/
def fillBack (e : Nat) : Nat := bits e 63 34 * 65536
/-- The entry that a completed fill writes: V, LEAF, ADDR, with RD and WR kept (R349). -/
def filledEntry (e : Nat) : Nat := 1 + 4 + bits e 4 3 * 8 + fillFrame e

/-- A fill's frame lies in HBM and outside the reserved map (R349). -/
def frameOk (s : State) (ctx e : Nat) : Bool :=
  inHbm (fillFrame e) 65536 && !s.isReserved (fillFrame e) 65536 && !s.sealedOther (some ctx) (fillFrame e) 65536

/-- The die whose HBM holds an address (R182). -/
def hbmDie (a : Nat) : Nat := if a < 6 * 2 ^ 34 then 0 else 1

/-- Copies the backing copy to the frame and rewrites the entry (R349). -/
def doFill (s : State) (entryPa e : Nat) : State :=
  let (data, m) := devRead s.mem s.ways hintNormal (compBase + fillBack e) 65536
  ({ s with mem := m }.devWr (fillFrame e) data).devWr entryPa (leBytes 8 (filledEntry e))

/-- Who reads a range at once (R352): REQUESTER, and the dispatch concerned. -/
structure Reader where
  code : Nat
  dispatch : Option Dispatch
  deriving DecidableEq, Repr

/-- A command of the Marshal as a reader. -/
def cmdReader : Reader := ⟨5, none⟩

/-- The record of a page that a reader met (R350); the engine is taken to be one of die 0. -/
def readerRec (s : State) (c : Ctx) (r : Reader) (f : FaultCode) (outcome va level : Nat) : State :=
  s.faultRec { ctx := c.num, fault := f, access := 1, requester := r.code, outcome := outcome, addr := va
               dispatch := r.dispatch, unit := dmaUnit s 0, level := level }

/-- Fills the FILL entries under a range that a reader reads (R349, R352). The first argument bounds the number of
pages. -/
def fillRange (s : State) (c : Ctx) (r : Reader) : Nat → Nat → Nat → State
  | 0, _, _ => s
  | fuel + 1, va, n =>
    if n = 0 then s else
    let k := min n (65536 - va % 65536)
    let s := match walk s c va .read with
      | .absent l ea e =>
        if bits e 2 1 == 1 && frameOk s c.num e && s.linkUp then
          readerRec (doFill s ea e) c r .pageNotPresent 3 va l else s
      | _ => s
    fillRange s c r fuel (va + k) (n - k)

/-- The fault and walk level of a range that a reader cannot read (R318, R345, R349, R352). -/
def readerFault (s : State) (c : Ctx) (e : Stop) : FaultCode × Nat :=
  match e with
  | .fault f => (f, 0xFF)
  | .page f _ _ l => (f, l)
  | .absent va acc _ e =>
    (if bits e 2 1 == 1 then (if frameOk s c.num e then .linkLost else .accessDenied) else .pageNotPresent
     , walkLevel s c va acc)

/-- A reader reads a range through a context (R352): the state after the fills and the read, its spans and bytes, and
whether a block was marked; or the state after the fills, and the fault with its level. -/
def readerRead (s : State) (c : Ctx) (r : Reader) (va n : Nat) :
    State × Except (FaultCode × Nat) (List Span × Bytes × Bool) :=
  let s := fillRange s c r (n / 65536 + 2) va n
  match vaRange s c .read hintNormal va n with
  | .error e => (s, .error (readerFault s c e))
  | .ok xs => (touchReads (walkSpans s (.die 0) c .read xs) xs, .ok (xs, spansPeek s.mem xs, spansMarked s.mem xs))

/-- MARSHAL_FAULT_SERVICE (R349): a fill starts, at most 64 at once, or a WAITING record is posted. -/
def execMarshalFaultService (ctx va : Nat) (s : State) : Out :=
  match pageWait? s ctx va with
  | none => .next s
  | some w =>
    if w.started || !s.isUp then .next s
    else if w.fill then
      if !frameOk s ctx w.entry then .next (endPage s w .accessDenied 3)
      else if !s.linkUp then .next (endPage s w .linkLost 3)
      else if (s.pageWaits.filter (fun v => v.fill && v.started)).length ≥ 64 then .next s
      else .next (startDma (setWait s { w with started := true }) (hbmDie (fillFrame w.entry)) (.fill ctx w.page))
    else
      let lim := s.settingN 0x0312 0
      let w := { w with started := true, posted := true, since := s.now, limit := lim }
      .next (waitRec (setWait s w) w .pageNotPresent 1 (match s.ctx? ctx with
        | some c => walkLevel s c w.va w.acc
        | none => 0xFF))

/-- Marks the blocks of a filled frame whose copy met an uncorrectable error (R74, R354). -/
def markFrame (s : State) (e : Nat) (ue : List Nat) : State :=
  ue.foldl (fun s b => { s with mem := { s.mem with
    hbmMarked := markBlocks s.mem.hbmMarked (fillFrame e + 1024 * (b % 64)) 1 true } }) s

/-- PAGE_FILL_COMPLETE (R349): the compare-and-swap on the entry; another value found, and the page is walked again. A
block of the page copied with an uncorrectable error is written marked, and the fill completes (R354). -/
def execPageFillComplete (ctx va : Nat) (ue : List Nat) (s : State) : Out :=
  match pageWait? s ctx va with
  | none => .next s
  | some w =>
    let waiting := s.dma.any (fun b => b.job == .fill ctx w.page && b.engine.isNone)
    if !(w.fill && w.started && !waiting && s.linkUp) then .next s
    else
      let s := endDma s (fun b => b.job == .fill ctx w.page)
      if entryNow s w != w.entry then .next (rewalk s { w with started := false })
      else
        let s := markFrame (doFill s w.entryPa w.entry) w.entry ue
        .next (waitRec (resumePage (dropWait s w) ctx w.page) w .pageNotPresent 3 3)

/-- PAGE_REWALK (R349): at a change of the entry, and every 125 ticks. -/
def execPageRewalk (ctx va : Nat) (s : State) : Out :=
  match pageWait? s ctx va with
  | none => .next s
  | some w =>
    if !w.fill && w.started && (entryNow s w != w.entry || s.now ≥ w.lastWalk + 125) then .next (rewalk s w) else .next s

/-- FAULT_WAIT_EXPIRY (R349, R351). -/
def execFaultWaitExpiry (ctx va : Nat) (s : State) : Out :=
  match pageWait? s ctx va with
  | none => .next s
  | some w =>
    if w.posted && due s.now w.since w.limit then
      .next (endPage s w .pageNotPresent (match s.ctx? ctx with
        | some c => walkLevel s c w.va w.acc
        | none => 0xFF))
    else .next s

/-- Waits that no requester is left for (R354): a WAITING record is closed with CANCELLED where the requester was
aborted; a fill in progress completes. -/
def settleWaits (s : State) (closed : Bool) : State :=
  let gone := s.pageWaits.filter (fun w => !(w.fill && w.started) && !s.disps.any (fun x => waitsPage x w.ctx w.page))
  gone.foldl (fun s w =>
    let s := dropWait s w
    if closed && w.posted then waitRec s w .pageNotPresent 7 0xFF else s) s

/-- The translation of a page fails with LINK_LOST when the link goes down (R318, R354). -/
def linkDownWaits (s : State) : State :=
  (s.pageWaits.filter (fun w => w.fill || inComp w.entryPa 8)).foldl (fun s w =>
    let s := { s with dma := s.dma.filter (fun b => b.job != .fill w.ctx w.page) }
    endPage s w .linkLost 3) s

end Sys2Proof.Machine
end

