-- ==== Sys2Proof/Machine/Static.lean ====
section
/-! DEFINITION. The static rules that PROG_LOAD checks on a code section: decoding, control-flow paths, and the rules of
R225, R232, R235, R236 and R238 (check 4 of R215). -/

namespace Sys2Proof.Machine

/-- An instruction of a code section: its index, the instruction, and its words (R211). -/
structure CodeAt where
  at_ : Nat
  ins : Instr
  n : Nat
  deriving DecidableEq, Repr

/-- The dispatch name under which a code section is decoded; no static rule looks at it. -/
def noDisp : DRef := ⟨0, 0⟩

/-- The instructions of a code section from a word on, first word after first word; the second part tells that every word
decodes (R225, R232). The first argument bounds the number of instructions. -/
def codeFrom (words : List DWord) : Nat → Nat → List CodeAt × Bool
  | 0, _ => ([], true)
  | fuel + 1, i =>
    match words[i]? with
    | none => ([], true)
    | some w =>
      if bit w.toNat 56 && words.length ≤ i + 1 then ([], false)
      else match decodeAvis noDisp w.toNat ((words[i + 1]?).getD 0).toNat with
        | none => ([], false)
        | some (x, n) =>
          let (t, ok) := codeFrom words fuel (i + n)
          (⟨i, x, n⟩ :: t, ok)

/-- The instructions of a code section. -/
def codeOf (words : List DWord) : List CodeAt × Bool := codeFrom words (words.length + 1) 0

/-- The instruction whose first word has an index. -/
def codeAt (code : List CodeAt) (i : Nat) : Option CodeAt := code.find? (·.at_ == i)

/-- A static target as an index, none when it lies below the code section. -/
def targetOf (c : CodeAt) (off : Int) : Option Nat := if (c.at_ : Int) + off < 0 then none else some ((c.at_ : Int) + off).toNat

/-- The target of a branch, lap or call, if the instruction has one. -/
def jumpOf (c : CodeAt) : Option (Option Nat) :=
  match c.ins with
  | .br _ _ _ _ off => some (targetOf c off)
  | .lap _ _ _ off => some (targetOf c off)
  | .call _ off => some (targetOf c off)
  | _ => none

/-- The body of a lap: its first word and the word after its last, with the loop register (R236). -/
structure LapBody where
  at_ : Nat
  lo : Nat
  hi : Nat
  ln : Nat
  deriving DecidableEq, Repr

/-- The lap bodies of a code section. -/
def lapBodies (code : List CodeAt) : List LapBody :=
  code.filterMap (fun c => match c.ins with
    | .lap _ ln _ off => (targetOf c off).map (fun t => ⟨c.at_, c.at_ + c.n, t, ln⟩)
    | _ => none)

/-- Targets, lap bodies and branches (R223, R232, R235, R236, R238). -/
def structureOk (code : List CodeAt) : Bool :=
  let bodies := lapBodies code
  let isIn := fun (i : Nat) (b : LapBody) => b.lo ≤ i && i < b.hi
  code.all (fun c => match jumpOf c with
    | none => true
    | some none => false
    | some (some t) => (codeAt code t).isSome)
  && bodies.all (fun b => b.lo ≤ b.hi
      && bodies.all (fun o => !isIn b.at_ o || (o.lo ≤ b.lo && b.hi ≤ o.hi && o.ln != b.ln))
      && (bodies.filter (isIn b.at_)).length ≤ 3)
  && code.all (fun c => match c.ins, jumpOf c with
    | .br .., some (some t) => bodies.all (fun b => !isIn t b || isIn c.at_ b)
    | _, _ => true)

/-- Where a procedure begins (R239): its first instruction, the ring configuration there (true is gate), and whether a stage
is open. The program itself is one. -/
structure ProcKey where
  pc : Nat
  gate : Bool
  open_ : Bool
  deriving DecidableEq

/-- A point that a path reaches within a procedure. -/
structure Point where
  proc : ProcKey
  pc : Nat
  gate : Bool
  open_ : Bool
  deriving DecidableEq

/-- The points that follow one whose control goes on at an index: that index, and the bodies of the laps that end there
(R236). -/
def flowTo (bodies : List LapBody) (p : Point) (i : Nat) : List Point :=
  { p with pc := i } :: (bodies.filter (fun b => b.hi == i && b.lo ≤ p.pc && p.pc < b.hi)).map (fun b => { p with pc := b.lo })

/-- Where a call goes on when the procedure it calls returns in a configuration. -/
def callReturn (code : List CodeAt) (bodies : List LapBody) (call ret : Point) : List Point :=
  match codeAt code call.pc with
  | some c => flowTo bodies { call with gate := ret.gate, open_ := ret.open_ } (c.at_ + c.n)
  | none => []

/-- The procedure that a point calls, if it does. -/
def calleeOf (code : List CodeAt) (p : Point) : Option ProcKey :=
  match codeAt code p.pc with
  | some c => match c.ins with
    | .call _ off => (targetOf c off).map (fun t => ⟨t, p.gate, p.open_⟩)
    | _ => none
  | none => none

/-- A point returns from its procedure. -/
def isRet (code : List CodeAt) (p : Point) : Bool :=
  match codeAt code p.pc with
  | some c => match c.ins with
    | .ret _ => true
    | _ => false
  | none => false

/-- The points that one more point leads to, given the points reached so far (R232, R235 to R239). -/
def pointsAfter (code : List CodeAt) (bodies : List LapBody) (seen : List Point) (p : Point) : List Point :=
  match codeAt code p.pc with
  | none => []
  | some c =>
    let next := c.at_ + c.n
    match c.ins with
    | .ret _ => ((seen.filter (fun q => calleeOf code q == some p.proc)).map (fun q => callReturn code bodies q p)).flatten
    | .call .. => match calleeOf code p with
      | none => []
      | some k => ⟨k, k.pc, k.gate, k.open_⟩
          :: ((seen.filter (fun q => q.proc == k && isRet code q)).map (fun q => callReturn code bodies p q)).flatten
    | .br _ cond _ _ off => (match targetOf c off with
        | some t => [{ p with pc := t }]
        | none => []) ++ (if cond == .always then [] else flowTo bodies p next)
    | .lap _ _ _ off => (match targetOf c off with
        | some t => flowTo bodies p t
        | none => []) ++ flowTo bodies p next
    | .ring _ gate => flowTo bodies { p with gate := gate } next
    | .stageBegin _ => flowTo bodies { p with open_ := true } next
    | .stageEnd _ => flowTo bodies { p with open_ := false } next
    | _ => flowTo bodies p next

/-- Follows the paths: a work list and the points reached. The first argument bounds the number of steps. -/
def reach (code : List CodeAt) (bodies : List LapBody) : Nat → List Point → List Point → List Point
  | 0, _, seen => seen
  | _ + 1, [], seen => seen
  | fuel + 1, p :: work, seen =>
    if seen.contains p then reach code bodies fuel work seen
    else reach code bodies fuel (pointsAfter code bodies (p :: seen) p ++ work) (p :: seen)

/-- Every point that a path from ENTRY reaches (R232): a program starts under main, or gate for a gate-only record (R32). -/
def pointsOf (code : List CodeAt) (entry : Nat) (gate : Bool) : List Point :=
  let n := 16 * (code.length + 1) * (code.length + 1)
  reach code (lapBodies code) (4 * n * n) [⟨⟨entry, gate, false⟩, entry, gate, false⟩] []

/-- The rules of R232 on a point: control stays in the code section, and stages open and close in turn. -/
def pointOk (code : List CodeAt) (p : Point) : Bool :=
  match codeAt code p.pc with
  | none => false
  | some c => match c.ins with
    | .stageBegin _ => !p.open_
    | .stageEnd _ => p.open_
    | .ret _ => !p.open_
    | _ => true

/-- Where control can go after an instruction; `rets` are the return points of the calls in force. -/
def nextOf (bodies : List LapBody) (rets : List Nat) (c : CodeAt) : List Nat :=
  let next := c.at_ + c.n
  let goesOn := next :: (bodies.filter (·.hi == next)).map (·.lo)
  let jump := match jumpOf c with
    | some (some t) => [t]
    | _ => []
  match c.ins with
  | .ret _ => rets
  | .br _ cond _ _ _ => jump ++ (if cond == .always then [] else goesOn)
  | _ => jump ++ goesOn

/-- Some path from the indices of a work list reads what is asked for before it writes it whole: `ask` tells of an instruction that
it reads it (true), writes it whole (false), or neither. The first argument bounds the number of steps. -/
def readAhead (code : List CodeAt) (bodies : List LapBody) (rets : List Nat) (ask : Instr → Option Bool) :
    Nat → List Nat → List Nat → Bool
  | 0, _, _ => true
  | _ + 1, [], _ => false
  | fuel + 1, i :: work, seen =>
    if seen.contains i then readAhead code bodies rets ask fuel work seen
    else match codeAt code i with
      | none => readAhead code bodies rets ask fuel work (i :: seen)
      | some c => match ask c.ins with
        | some true => true
        | some false => readAhead code bodies rets ask fuel work (i :: seen)
        | none => readAhead code bodies rets ask fuel (nextOf bodies rets c ++ work) (i :: seen)

/-- What an instruction says of a tile (R87, R225): the mode it writes it in (true is CLEAR), or the mode in which it reads it as a
tile source. -/
inductive TileUse where
  | writes (clear : Bool)
  | reads (clear : Bool)
  | drops
  deriving DecidableEq, Repr

/-- The use that a vector form makes of a tile source: MOD32 reads a tile of MATRIX mode, FP32 one of CLEAR mode. -/
def tileSource (f : VForm) (t : Nat) : Option TileUse :=
  if f.tileA && f.va == t then some (.reads (f.ety != .mod32)) else none

/-- What an instruction does to tile t. -/
def tileUse (t : Nat) (i : Instr) : Option TileUse :=
  match i with
  | .vAdd _ f => tileSource f t
  | .vSub _ f => tileSource f t
  | .vMul _ f => tileSource f t
  | .vMac _ f => tileSource f t
  | .vRed _ f => tileSource f t
  | .vCvtBf _ f => tileSource f t
  | .vCvtF _ f => tileSource f t
  | .cvtMm _ f => if f.ta == t || (f.g != 1 && f.tb == t) then some (.writes f.clr) else none
  | .rel _ _ _ m => if bit m t then some .drops else none
  | .vltModraise _ => some .drops
  | .vltCts _ => some .drops
  | .vltEvalmod _ => some .drops
  | .vltStc _ => some .drops
  | .vltBoot _ => some .drops
  | .vltExtract _ => some .drops
  | .vltPbs _ => some .drops
  | .vltRepack _ => some .drops
  | .vltBootExact _ => some .drops
  | _ => none

/-- The element format of every tile source follows the mode that wrote the tile (R225): on no path does a tile source read, in
another format, what an instruction wrote into the tile. -/
def tilesOk (code : List CodeAt) : Bool :=
  let bodies := lapBodies code
  let rets := (code.filter (fun c => match c.ins with
    | .call .. => true
    | _ => false)).map (fun c => c.at_ + c.n)
  let n := code.length + 1
  code.all (fun c => (List.range 4).all (fun t => match tileUse t c.ins with
    | some (.writes clr) => !readAhead code bodies rets (fun i => (tileUse t i).map (fun u => match u with
        | .reads k => k != clr
        | _ => false)) (4 * n * n) (nextOf bodies rets c) []
    | _ => true))

/-- What the static rules of an instruction look at: the parameter-set record, the descriptor of a literal index, the SCHEME
of the image, and the configurations under which the instruction can run. -/
structure LoadEnv where
  p : Bytes
  scheme : Nat
  desc : Nat → Option Bytes
  gates : List Bool

/-- The smallest COUNT of the configurations (R60, R232); 64 where no path reaches the instruction. -/
def LoadEnv.count (e : LoadEnv) : Nat := (e.gates.map (fun g => if g then 2 else pL e.p + pK e.p)).foldl min 64

/-- The smallest 2N of the configurations. -/
def LoadEnv.twoN (e : LoadEnv) : Nat := (e.gates.map (fun g => 2 ^ ((ringOf e.p g).logN + 1))).foldl min (2 ^ 18)

/-- The descriptor of a handle reference, where it is a literal. -/
def LoadEnv.known (e : LoadEnv) (h : HRef) : Option Bytes :=
  match h with
  | .lit i => e.desc i
  | _ => none

/-- Elements per slot (R51). -/
def perSlot (e : EType) : Nat :=
  match e with
  | .mod32 => 1
  | .fp32 => 1
  | .bf16 => 2
  | .int8 => 4

/-- A register group does not pass V63 (R51). -/
def groupOk (first cnt per : Nat) : Bool := first + ceilDiv cnt (256 * per) ≤ 64

/-- The static rules of a vector form: slots per element of its source and destination, none for a scalar destination, and
whether it reads B and C (R51, R60, R87, R218). -/
def vFormOk (e : LoadEnv) (f : VForm) (src : Nat) (dst : Option Nat) (b c : Bool) : Bool :=
  let part := f.ety == .fp32 && f.tileA && f.subop == 1
  (if f.tileA then f.cnt ≤ (if part then 1024 else 512) else groupOk f.va f.cnt src)
  && (match dst with
    | some k => groupOk f.vd f.cnt k
    | none => true)
  && (!b || f.scalB || groupOk f.vb f.cnt src) && (!c || groupOk f.vc f.cnt src)
  && (!f.tileA || f.ety == .mod32 || f.ety == .fp32) && (!f.colStep || (f.ety == .mod32 && f.tileA)) && (f.ety != .mod32 || f.ml.isSome || f.mod < e.count)

/-- The static rules of a stream (R78, R192, R221, R232). -/
def streamOk (e : LoadEnv) (k : StreamKind) (f : SForm) : Bool :=
  let md := e.known f.rm
  let od := match f.other with
    | .rn h => e.known h
    | .vr _ => none
  let mem := fun (o : Option Bytes) => o.any (fun d => dSpace d != 4)
  let buf := fun (d : Bytes) => bits (dBase d) 17 16
  (match f.other with
    | .vr v =>
      let n := if f.count != 0 then f.count else match md with
        | some d => if dObj d then 0 else dCount d
        | none => 0
      n ≤ 4096 && v + ceilDiv (n * (match md with
        | some d => dE d
        | none => 1)) 1024 ≤ 64
    | .rn _ => true)
  && (!f.conv || (f.mod < e.count && (f.mod == 0 || !md.any dObj) && !(mem md && mem od)))
  && (match k with
    | .ld => md.all (fun d => dSpace d != 4) && od.all (fun d => dSpace d == 1 || dSpace d == 4)
    | .st => md.all (fun d => dSpace d == 0 || dSpace d == 2) && od.all (fun d => dSpace d == 1)
    | .put => md.all (fun d => dSpace d == 1 || dSpace d == 2) && od.all (fun d => dSpace d == 1)
    | .get => md.all (fun d => dSpace d == 1 || dSpace d == 2)
        && od.all (fun d => dSpace d == 1 || (dSpace d == 4 && buf d != 3)))

/-- The static rules of an atomic (R51, R222). -/
def atomicOk (f : AForm) : Bool :=
  let n := f.cnt * (if f.w64 then 2 else 1)
  (!f.w64 || f.cnt ≤ 2048) && groupOk f.vs n 1 && (!f.fetch || groupOk f.vf n 1)

/-- A static modulus index and a number of limbs from it (R60, R219, R232). -/
def limbsOk (e : LoadEnv) (i0 nl : Nat) : Bool := nl ≤ 64 && i0 + max nl 1 ≤ e.count

/-- A transform names no entry 1 of a gate configuration (R79, R232). -/
def nttOk (e : LoadEnv) (i0 nl : Nat) : Bool := limbsOk e i0 nl && !(e.gates.contains true && i0 ≤ 1 && 1 < i0 + max nl 1)

/-- The literal handles of an instruction name no operand buffer (R78). -/
def noBuffers (e : LoadEnv) (hs : List HRef) : Bool := hs.all (fun h => (e.known h).all (fun d => dSpace d != 4))

/-- The static rules of one instruction (R225, R232). -/
def staticOk (e : LoadEnv) (i : Instr) : Bool :=
  match i with
  | .nttF _ _ _ _ i0 nl => nttOk e i0 nl
  | .nttI _ _ _ _ i0 nl => nttOk e i0 nl
  | .auto _ _ _ i0 nl _ g => limbsOk e i0 nl && (match g with
    | .imm g => g % 2 == 1 && g < e.twoN
    | .reg _ => true)
  | .cvtUp _ _ _ i0 ns t0 nt => 1 ≤ ns && 1 ≤ nt && i0 + ns ≤ e.count && t0 + nt ≤ e.count
  | .cvtDown _ _ _ i0 ns t0 nt => 1 ≤ ns && 1 ≤ nt && i0 + ns ≤ e.count && t0 + nt ≤ e.count
  | .cvtRescale .. => e.scheme != 1 && e.scheme != 3
  | .cvtMm _ f =>
    f.xoff % 64 == 0 && f.woff % 64 == 0 && f.xoff + f.g * f.k * (if f.clr then 64 else 128) ≤ 65536
    && f.woff + f.k * (if f.clr then 32 else 64) ≤ 65536 && (f.rdr != .null || f.g ≤ 2) && (f.ta != f.tb || f.g == 1)
    && (f.clr || f.mod < e.count)
  | .vAdd _ f => vFormOk e f (perSlot f.ety) (some (perSlot f.ety)) true false
  | .vSub _ f => vFormOk e f (perSlot f.ety) (some (perSlot f.ety)) true false
  | .vMul _ f => vFormOk e f (perSlot f.ety) (some (perSlot f.ety)) true false
  | .vMac _ f => vFormOk e f (perSlot f.ety) (some (perSlot f.ety)) true true
  | .vRed _ f => vFormOk e f (perSlot f.ety) none false false
  | .vCvtBf _ f => vFormOk e f 1 (some 2) false false
  | .vCvtF _ f => vFormOk e f 2 (some 1) false false
  | .xpose _ _ ra perm => (e.known ra).all (fun d => permOk (dRank d) perm)
  | .sLd _ f => streamOk e .ld f
  | .sSt _ f => streamOk e .st f
  | .sPut _ f => streamOk e .put f
  | .sGet _ f => streamOk e .get f
  | .atAddM _ f => atomicOk f && f.mod < e.count
  | .atAddI _ f => atomicOk f
  | .atAddF _ f => atomicOk f
  | .atCas _ f => atomicOk f && groupOk f.vc (f.cnt * (if f.w64 then 2 else 1)) 1
  | _ => true

/-- The handle references of an instruction. -/
def refsOf (i : Instr) : List HRef :=
  let str := fun (f : SForm) => f.rm :: (match f.other with
    | .rn h => [h]
    | .vr _ => [])
  match i with
  | .nttF _ rd ra rb _ _ => [rd, ra, rb]
  | .nttI _ rd ra rb _ _ => [rd, ra, rb]
  | .auto _ rd ra _ _ _ _ => [rd, ra]
  | .cvtUp _ rd ra _ _ _ _ => [rd, ra]
  | .cvtDown _ rd ra _ _ _ _ => [rd, ra]
  | .cvtRescale _ rd ra => [rd, ra]
  | .cvtMm _ f => [f.rdr]
  | .cvtDrain _ r _ _ => [r]
  | .ksPrep _ rd ra _ => [rd, ra]
  | .ksIp _ rd ra rb rc _ => [rd, ra, rb, rc]
  | .ksFin _ rd ra rb _ _ => [rd, ra, rb]
  | .vAddObj _ rd ra rb => [rd, ra, rb]
  | .vSubObj _ rd ra rb => [rd, ra, rb]
  | .vMulObj _ rd ra rb => [rd, ra, rb]
  | .xpose _ rd ra _ => [rd, ra]
  | .sLd _ f => str f
  | .sSt _ f => str f
  | .sPut _ f => str f
  | .sGet _ f => str f
  | .winOpen _ f => [f.rm]
  | .winClose _ rm _ => [rm]
  | .atAddM _ f => [f.rm]
  | .atAddI _ f => [f.rm]
  | .atAddF _ f => [f.rm]
  | .atCas _ f => [f.rm]
  | .scLd _ _ h _ _ => [h]
  | .scSt _ _ h _ _ => [h]
  | .scHdr _ _ h _ => [h]
  | .hdrW _ rd ra _ _ => [rd, ra]
  | .handoffOut _ h _ _ _ => [h]
  | .handoffIn _ h _ _ => [h]
  | _ => []

/-- A stream of R192: the only use of the operand buffers (R78). -/
def isStream (i : Instr) : Bool :=
  match i with
  | .sLd .. => true
  | .sSt .. => true
  | .sPut .. => true
  | .sGet .. => true
  | _ => false

/-- The handles of an instruction's destinations, by R219 to R224. -/
def dstRefs (i : Instr) : List HRef :=
  match i with
  | .nttF _ rd _ _ _ _ => [rd]
  | .nttI _ rd _ _ _ _ => [rd]
  | .auto _ rd _ _ _ _ _ => [rd]
  | .cvtUp _ rd _ _ _ _ _ => [rd]
  | .cvtDown _ rd _ _ _ _ _ => [rd]
  | .cvtRescale _ rd _ => [rd]
  | .cvtMm _ f => [f.rdr]
  | .cvtDrain _ r _ _ => [r]
  | .ksPrep _ rd _ _ => [rd]
  | .ksIp _ rd _ _ _ _ => [rd]
  | .ksFin _ rd _ _ _ _ => [rd]
  | .vAddObj _ rd _ _ => [rd]
  | .vSubObj _ rd _ _ => [rd]
  | .vMulObj _ rd _ _ => [rd]
  | .xpose _ rd _ _ => [rd]
  | .sLd _ f => (refsOf (.sLd noDisp f)).drop 1
  | .sGet _ f => (refsOf (.sGet noDisp f)).drop 1
  | .sSt _ f => [f.rm]
  | .winOpen _ f => [f.rm]
  | .scSt _ _ h _ _ => [h]
  | .hdrW _ rd _ _ _ => [rd]
  | .handoffIn _ h _ _ => [h]
  | _ => []

/-- A Core Store region is read only under the swizzle mode in which it was written, for the literal descriptors of an image
(R162; log entry 61): on no path does an instruction read, through a descriptor of another mode that overlaps it, what another
wrote, before an instruction has written the whole of it again. -/
def modesOk (desc : Nat → Option Bytes) (code : List CodeAt) : Bool :=
  let bodies := lapBodies code
  let rets := (code.filter (fun c => match c.ins with
    | .call .. => true
    | _ => false)).map (fun c => c.at_ + c.n)
  let n := code.length + 1
  let known := fun (hs : List HRef) => hs.filterMap (fun h => match h with
    | .lit i => (desc i).filter (fun d => dSpace d == 1)
    | _ => none)
  let covers := fun (w a : Bytes) => dDense w && (dExtent w).1 ≤ (dExtent a).1 && (dExtent a).2 ≤ (dExtent w).2
  code.all (fun c => (known (dstRefs c.ins)).all (fun a =>
    !readAhead code bodies rets (fun i =>
      if (known ((refsOf i).filter (fun h => !(dstRefs i).contains h))).any (fun b => dSwz b != dSwz a && extentsMeet a b) then some true
      else if (known (dstRefs i)).any (fun w => covers w a) then some false else none) (4 * n * n) (nextOf bodies rets c) []))

/-- The literal indices of a code section, each once (R216). -/
def literals (code : List CodeAt) : List Nat :=
  (code.map (fun c => (refsOf c.ins).filterMap (fun h => match h with
    | .lit i => some i
    | _ => none))).flatten.foldl (fun l i => insertNat i l) []

/-- The program uses the gate configuration or a gate routine (check 2 of R215). -/
def usesGate (i : Instr) : Bool :=
  match i with
  | .ring _ g => g
  | .vltExtract _ => true
  | .vltPbs _ => true
  | .vltRepack _ => true
  | .vltBootExact _ => true
  | _ => false

/-- Check 4 of R215 on a code section that decodes whole. -/
def codeOk (p : Bytes) (scheme entry : Nat) (desc : Nat → Option Bytes) (code : List CodeAt) : Bool :=
  let pts := pointsOf code entry (gateOnly p)
  structureOk code && pts.all (pointOk code) && tilesOk code && modesOk desc code && (literals code).all (fun i => (desc i).isSome)
  && code.all (fun c =>
    let e : LoadEnv := ⟨p, scheme, desc, (pts.filter (·.pc == c.at_)).map (·.gate)⟩
    staticOk e c.ins && (isStream c.ins || noBuffers e (refsOf c.ins)))

end Sys2Proof.Machine
end

