-- ==== Sys2Proof/Machine/Release.lean ====
section
/-! DEFINITION. The releases that the translator inserts after the last use of a vector register or tile (R231, R248). -/

namespace Sys2Proof.Machine

/-- What one instruction does to vector registers and tiles: those it reads, and those it writes whole or releases. -/
structure RegUse where
  rv : List Nat
  kv : List Nat
  rt : List Nat
  kt : List Nat
  deriving DecidableEq, Repr

/-- The registers that a group fills whole (R51, R52). -/
def wholeRegs (n e cnt : Nat) : List Nat := rangeFrom n (cnt * e / 1024)

/-- A vector form with the given element bytes of source and destination, and whether it reads B and C. -/
def vRegUse (f : VForm) (es ed : Nat) (dst b c : Bool) : RegUse :=
  { rv := (if f.tileA then [] else groupRegs f.va es f.cnt) ++ (if b && !f.scalB then groupRegs f.vb es f.cnt else [])
          ++ (if c then groupRegs f.vc es f.cnt else [])
    kv := if dst then wholeRegs f.vd ed f.cnt else [], rt := if f.tileA then [f.va] else [], kt := [] }

/-- A stream with a register group as its other side: COUNT 0 may reach to V63. -/
def sRegUse (f : SForm) (reads : Bool) : RegUse :=
  match f.other with
  | .rn _ => ⟨[], [], [], []⟩
  | .vr n =>
    if reads then ⟨if f.count == 0 then rangeFrom n (64 - n) else groupRegs n 4 f.count, [], [], []⟩
    else ⟨[], wholeRegs n 1 f.count, [], []⟩

/-- An atomic: its sources, and what it fetches. -/
def aRegUse (f : AForm) (cas : Bool) : RegUse :=
  let e := if f.w64 then 8 else 4
  ⟨groupRegs f.vs e f.cnt ++ (if cas then groupRegs f.vc e f.cnt else []), if f.fetch then wholeRegs f.vf e f.cnt else [], [], []⟩

/-- What an instruction does to vector registers and tiles; a Vault routine releases all (R126). -/
def regUse (i : Instr) : RegUse :=
  let e := fun (f : VForm) => etBytes f.ety
  match i with
  | .vAdd _ f => vRegUse f (e f) (e f) true true false
  | .vSub _ f => vRegUse f (e f) (e f) true true false
  | .vMul _ f => vRegUse f (e f) (e f) true true false
  | .vMac _ f => vRegUse f (e f) (e f) true true true
  | .vRed _ f => vRegUse f (e f) 0 false false false
  | .vCvtBf _ f => vRegUse f 4 2 true false false
  | .vCvtF _ f => vRegUse f 2 4 true false false
  | .cvtMm _ f => ⟨[], [], if f.acc then [f.ta, f.tb] else [], if f.acc then [] else if f.g == 1 then [f.ta] else [f.ta, f.tb]⟩
  | .cvtDrain _ _ ta _ => ⟨[], [], [ta], []⟩
  | .sLd _ f => sRegUse f false
  | .sGet _ f => sRegUse f false
  | .sSt _ f => sRegUse f true
  | .sPut _ f => sRegUse f true
  | .atAddM _ f => aRegUse f false
  | .atAddI _ f => aRegUse f false
  | .atAddF _ f => aRegUse f false
  | .atCas _ f => aRegUse f true
  | .rel _ v n m => ⟨[], rangeFrom v n, [], (List.range 4).filter (bit m)⟩
  | .vltModraise _ => ⟨[], List.range 64, [], List.range 4⟩
  | .vltCts _ => ⟨[], List.range 64, [], List.range 4⟩
  | .vltEvalmod _ => ⟨[], List.range 64, [], List.range 4⟩
  | .vltStc _ => ⟨[], List.range 64, [], List.range 4⟩
  | .vltBoot _ => ⟨[], List.range 64, [], List.range 4⟩
  | .vltExtract _ => ⟨[], List.range 64, [], List.range 4⟩
  | .vltPbs _ => ⟨[], List.range 64, [], List.range 4⟩
  | .vltRepack _ => ⟨[], List.range 64, [], List.range 4⟩
  | .vltBootExact _ => ⟨[], List.range 64, [], List.range 4⟩
  | _ => ⟨[], [], [], []⟩

/-- Some path of a dispatch still reads a register or tile, from its next instruction, what a stop left, or a stream. -/
def Dispatch.reads (x : Dispatch) (ask : Instr → Option Bool) : Bool :=
  let code := (codeOf x.prog.code).1
  let n := code.length + 1
  readAhead code (lapBodies code) x.calls ask (4 * n * n) (x.pc :: x.redo.map (·.instr) ++ x.streams.map (·.instr)) []

/-- A question about one of two lists. -/
def asks (n : Nat) (reads kills : RegUse → List Nat) (i : Instr) : Option Bool :=
  let u := regUse i
  if (reads u).contains n then some true else if (kills u).contains n then some false else none

/-- Every vector register and tile in use whose last use has passed is released (R231; log entry 59). -/
def releaseDead (s : State) (x : Dispatch) : State :=
  let r := s.core x.lead
  let r := (r.useV.filter (fun n => !x.reads (asks n RegUse.rv RegUse.kv))).foldl CoreRegs.relV r
  let r := (r.useA.filter (fun n => !x.reads (asks n RegUse.rt RegUse.kt))).foldl CoreRegs.relA r
  s.setCore x.lead r

end Sys2Proof.Machine
end

