-- ==== Sys2Proof/Machine/Save.lean ====
section
/-! DEFINITION. Placements: epochs (R302), Fields that work keeps awake (R403, R406), what a placement maps and clears
(R54, R172 to R175), save and restore (R293 to R295), and what moves with a new placement (R180, R304). -/

namespace Sys2Proof.Machine

/-- The epoch that a message between units of the module bears (R303). -/
def epochBorne (m : Msg) : Option Nat :=
  match m with
  | .crReq _ _ y _ _ => some y.epoch
  | .crGrant y _ _ _ _ _ _ => some y.epoch
  | .put _ _ y _ _ _ _ => some y.epoch
  | .crReturn y _ _ _ => some y.epoch
  | .crCancel y _ _ _ => some y.epoch
  | .senderCancel _ _ y _ _ => some y.epoch
  | _ => none

/-- The epochs that live placements hold, and those that messages not yet delivered or discarded bear: credit messages, open
grants, and Mark signals (R302, R303). -/
def epochsHeld (s : State) : List Nat :=
  (s.disps.filter (·.phase != .ended)).map (·.epoch) ++ s.net.filterMap epochBorne
  ++ (s.mgrs.map (fun m => m.2.grants.map (·.sender.epoch))).flatten
  ++ s.markNet.filterMap (fun g => match g.agent with
    | .program _ e => some e
    | _ => none)

/-- Advances the epoch counter (R302): it skips 0 and every value still held. -/
def nextEpoch (s : State) : State :=
  let live := epochsHeld s
  let cand := (rangeFrom 1 (live.length + 2)).map (fun i => (s.epochNow + i) % 2 ^ 32)
  match cand.find? (fun e => e != 0 && !live.contains e) with
  | some e => { s with epochNow := e }
  | none => s

/-- An uncommitted dispatch holds a Field's cores, or is an admitted SPRINT dispatch that will (R296, R403). -/
def fieldBusy (s : State) (f : Nat) : Bool :=
  s.disps.any (fun x => (x.phase == .running && x.cores.any (fun n => fieldOf n == f))
    || (x.phase == .waiting && x.relays.any (fun r => fieldOfRelay r == f)))

/-- A Field without a resident dispatch enters F-WARM at once (R403, R406). -/
def releaseFields (s : State) : State :=
  { s with fields := mapIdxFrom (fun f g =>
      if g.st == .run && g.entering.isNone && !fieldBusy s f then { g with entering := some .warm, idleSince := s.now }
      else g) 0 s.fields }

/-- A placement wakes its Fields (R403): an entry in progress completes first. -/
def wakeFields (s : State) (cores : List Nat) : State :=
  { s with fields := mapIdxFrom (fun f g =>
      if cores.any (fun n => fieldOf n == f) && !(g.st == .run && g.entering.isNone) then { g with waking := true }
      else g) 0 s.fields }

/-- Segments of a map that a unit holds. -/
def segsOn (m : List SegMap) (unit : Nat) : List SegMap := m.filter (·.unit == unit)

/-- The lowest physical segment of a unit that no entry holds. -/
def freeSeg (m : List SegMap) (unit cap : Nat) : Option Nat :=
  (List.range cap).find? (fun p => !(segsOn m unit).any (·.phys == p))

/-- Maps one segment of a footprint on a unit (R172 to R175): a HELD one that the context holds there stays; another
takes the lowest free physical segment. Answers the map and the physical segment taken, if one was. -/
def mapSeg (m : List SegMap) (unit cap ctx : Nat) (d : DRef) (f : FootSeg) : List SegMap × Option Nat :=
  if f.held && m.any (fun e => e.unit == unit && e.ctx == ctx && e.logical == f.seg && e.held) then (m, none)
  else match freeSeg m unit cap with
    | some p => (m ++ [⟨unit, ctx, if f.held then none else some d, f.seg, p, f.held⟩], some p)
    | none => (m, none)

/-- Maps a footprint segment on a core; the written bits of its blocks are cleared (R173). -/
def mapCore (s : State) (x : Dispatch) (f : FootSeg) (core : Nat) : State :=
  let r := mapSeg s.mem.csMap core 32 x.ctx x.id f
  let cs := match r.2 with
    | some p => scratchClear s.mem.cs (core * 2048 + p * 64) 64
    | none => s.mem.cs
  { s with mem := { s.mem with csMap := r.1, cs := cs } }

/-- Maps a footprint segment on a die. -/
def mapDie (s : State) (x : Dispatch) (f : FootSeg) (die : Nat) : State :=
  let r := mapSeg s.mem.ifMap die 256 x.ctx x.id f
  let inf := match r.2 with
    | some p => scratchClear s.mem.inf (die * 2 ^ 18 + p * 1024) 1024
    | none => s.mem.inf
  { s with mem := { s.mem with ifMap := r.1, inf := inf } }

/-- No other dispatch is placed on a Relay and no SPRINT dispatch holds it (R291); it has a core in service, and its
Field is neither in test nor in recovery (R357). -/
def relayFreeOf (s : State) (p : Dispatch → Bool) (r : Nat) : Bool :=
  !(s.relayCores r).isEmpty && (s.field (fieldOfRelay r)).phase == .service
  && !s.disps.any (fun y => p y && y.relays.contains r
      && (y.phase == .running || (y.cls == .sprint && y.phase != .ended)))

/-- A Relay is free for a dispatch. -/
def relayFree (s : State) (d : DRef) (r : Nat) : Bool := relayFreeOf s (fun y => y.id != d) r

/-- The last tick at which each Relay was taken, now. -/
def relaysSeen (s : State) : List Nat := mapIdxFrom (fun r t => if relayFreeOf s (fun _ => true) r then t else s.now) 0 s.relayBusy

/-- The dies of a placement's cores. -/
def diesOf (cores : List Nat) : List Nat := [0, 1].filter (fun d => cores.any (fun n => dieOf n == d))

/-- Maps the whole footprint of a dispatch (R172). -/
def mapFootprint (s : State) (x : Dispatch) : State :=
  x.prog.foot.foldl (fun s f =>
    if f.core then x.cores.foldl (fun s n => mapCore s x f n) s else (diesOf x.cores).foldl (fun s d => mapDie s x f d) s) s

/-- Unmaps the SCRATCH segments of a dispatch (R174). -/
def unmapScratch (s : State) (d : DRef) : State :=
  { s with mem := { s.mem with csMap := s.mem.csMap.filter (·.owner != some d)
                               ifMap := s.mem.ifMap.filter (·.owner != some d) } }

/-- The context holds a Core Store segment that the dispatch declares on a core (R175). -/
def boundCore (s : State) (x : Dispatch) (core : Nat) : Bool :=
  x.prog.foot.any (fun f => f.core && f.held
    && s.mem.csMap.any (fun e => e.unit == core && e.ctx == x.ctx && e.logical == f.seg && e.held))

/-- The context holds an Infield segment that the dispatch declares on a die (R175). -/
def boundDie (s : State) (x : Dispatch) (die : Nat) : Bool :=
  x.prog.foot.any (fun f => !f.core && f.held
    && s.mem.ifMap.any (fun e => e.unit == die && e.ctx == x.ctx && e.logical == f.seg && e.held))

/-- What the Starter clears on a core at the start of a dispatch (R54, R173); `bound` tells that the core is bound to the
context under R175. The ring configuration is main, or gate under a gate-only record (R32). -/
def clearCore (s : State) (c : Ctx) (bound : Bool) (core : Nat) : State :=
  let r := s.core core
  let ob := if bound && r.lastCtx == some c.num then s.mem.ob else scratchClear s.mem.ob ((4 * core + 1) * 64) 192
  { s.setCore core { r.startClear (gateOnly c.param) with lastCtx := some c.num } with mem := { s.mem with ob := ob } }

/-- The register save record of R55: only registers and tiles in use, and bits [4:0] of ARITH_STATUS. -/
def saveRegs (r : CoreRegs) : CoreRegs :=
  { r with v := r.v.filter (fun p => r.useV.contains p.1), a := r.a.filter (fun p => r.useA.contains p.1)
           status := BitVec.ofNat 32 (r.status.toNat % 32) }

/-- A tile as a restore leaves it: its product counts are not saved, so every cell stands as full, and the next modular
product that it takes folds it first, by the prime of that product (R61, R96). -/
def foldTile (t : Tile) : Tile := { t with counts := List.replicate 512 1024 }

/-- A restore onto a core (R55): registers out of use keep the core's storage, with their flags clear; RESIDUE_EVENTS is the
core's own. -/
def restoreRegs (c : Ctx) (r f : CoreRegs) : CoreRegs :=
  { f with v := f.v.foldl (fun l p => assocSet p.1 p.2 l) r.v
           a := f.a.foldl (fun l p => assocSet p.1 (foldTile p.2) l) r.a
           status := BitVec.ofNat 32 (r.status.toNat / 32 * 32 + f.status.toNat % 32)
           ck3 := r.ck3, lastCtx := some c.num }

/-- The ticks left of a wait when its dispatch is saved (R147, R294). A page wait ends, and the instruction or stream
translates again (R209, R354). -/
def saveWait (now : Nat) (w : Option WaitState) : Option WaitState :=
  match w with
  | some (.mark sd m t start (some left)) => some (.mark sd m t now (some (left - (now - start))))
  | some (.handoff slot dst start left) => some (.handoff slot dst now (left - (now - start)))
  | some (.page _ _) => none
  | w => w

/-- A wait that goes on at a tick of the lead core's counter (R147). -/
def restartWait (now : Nat) (w : Option WaitState) : Option WaitState :=
  match w with
  | some (.mark sd m t _ left) => some (.mark sd m t now left)
  | some (.handoff slot dst _ left) => some (.handoff slot dst now left)
  | w => w

/-- A stream at its stop point (R204, R207). -/
def stopStream (t : Stream) : Stream := if t.state == .running then { t with state := .stopped } else t

/-- A stream that goes on (R209): one halted on a page translates its unit again. -/
def restartStream (t : Stream) : Stream :=
  if t.state == .stopped || t.state == .haltPage then { t with state := .running, faultVa := 0 } else t

/-- A part of a scratchpad, its offsets counted from the part's start. -/
def scratchPart (sc : Scratch) (a n : Nat) : Scratch :=
  let mine := fun (b : Nat) => a ≤ 1024 * b && 1024 * b < a + n
  { data := (sc.data.filter (fun p => a ≤ p.1 && p.1 < a + n)).map (fun p => (p.1 - a, p.2))
    written := (sc.written.filter mine).map (· - a / 1024), marked := (sc.marked.filter mine).map (· - a / 1024) }

/-- A scratchpad with a part of n bytes put in at an address. -/
def scratchPutPart (sc : Scratch) (a n : Nat) (p : Scratch) : Scratch :=
  let keep := fun (l : List Nat) => l.filter (fun b => !(a ≤ 1024 * b && 1024 * b < a + n))
  { data := memPut sc.data a (memRead p.data 0 n)
    written := (p.written.map (· + a / 1024)).foldl (fun l b => insertNat b l) (keep sc.written)
    marked := (p.marked.map (· + a / 1024)).foldl (fun l b => insertNat b l) (keep sc.marked) }

/-- Where OB1 to OB3 of a core lie (R78). -/
def obStart (core : Nat) : Nat := (4 * core + 1) * 65536

/-- What a stop saves of a core: its registers, and OB1 to OB3, whose contents an uninterrupted run would still find (R295;
log entry 57). -/
def saveFrame (s : State) (core : Nat) : Frame := ⟨saveRegs (s.core core), scratchPart s.mem.ob (obStart core) (3 * 65536)⟩

/-- UNIT of a stream entry (R207). -/
def unitCode (t : Stream) : Nat :=
  match t.other with
  | .regs _ => 0
  | .desc _ => if limbUnits t.mem then 1 else 2

/-- Stops and saves a running dispatch (R231, R293 to R295): its engines and streams reach their stop points (R96, R204), its frames
hold its state, and its cores are released. -/
def saveDispatch (s : State) (x : Dispatch) : State :=
  let (s, x) := match s.ctx? x.ctx with
    | some c => stopEngines s c x
    | none => (s, x)
  let s := releaseDead s x
  let y := { x with phase := .saved, frame := some (saveFrame s x.lead), wait := saveWait (leadTicks s x) x.wait, kept := []
                    streams := x.streams.map stopStream }
  let s := writeFrames s unitCode y (saveRegs (s.core x.lead))
  releaseFields (settleWaits (settleCopies (s.setDisp y)) false)

/-- Pre-empts a running dispatch (R295). -/
def preempt (s : State) (x : Dispatch) : State :=
  saveDispatch s { x with preempts := min (x.preempts + 1) 0xFFFF }

/-- Restores a saved dispatch on the cores it names (R295); its wait looks at its Mark again (R245). -/
def restoreDispatch (s : State) (c : Ctx) (x : Dispatch) : State :=
  let s := match x.frame with
    | some f =>
      let s := s.setCore x.lead (restoreRegs c (s.core x.lead) f.regs)
      { s with mem := { s.mem with ob := scratchPutPart s.mem.ob (obStart x.lead) (3 * 65536) f.ob } }
    | none => s
  let x := { x with phase := .running, frame := none, wait := restartWait (leadTicks s x) x.wait
                    streams := x.streams.map restartStream }
  wakeOne (wakeFields (s.setDisp x) x.cores) x

/-- Tells the manager of an s.put on another module that the grant is cancelled (R178, R180). -/
def tellCancel (s : State) (x : Dispatch) (t : Stream) (r : CancelReason) : State :=
  if t.kind == .put && t.tmod.isSome && t.grant != 0
  then s.emit (.senderCancel t.tmod (putMgr t) (streamSender s x t) t.grant r) else s

/-- A grant that a dispatch's placement holds as sender (R178). -/
def ownGrant (x : Dispatch) (g : Grant) : Bool :=
  g.sender.module.isNone && g.sender.core == x.lead && g.sender.ctx == x.ctx && g.sender.epoch == x.epoch

/-- A manager's window was opened by a dispatch. -/
def ownWindow (s : State) (x : Dispatch) (m : Mgr) (g : Grant) : Bool :=
  (s.mgr m).windows.any (fun w => w.num == g.window && w.owner == x.id)

/-- The streams of a placement that has taken a new epoch: each s.put back to its first unreturned block (R180, R205). -/
def rewindPut (t : Stream) : Stream := if t.kind == .put then lostGrant t else t

/-- Every grant at either end of a dispatch's placement is cancelled with a reason (R180). -/
def cancelPlacement (s : State) (x : Dispatch) (r : CancelReason) : State :=
  let s := x.streams.foldl (fun s t => tellCancel s x t r) s
  let s := dropGrantsOf s (fun _ g => ownGrant x g)
  cancelAll s (fun m g => ownWindow s x m g) r

/-- The windows of a dispatch at its old lead core's manager move to the new one's, under the new epoch. -/
def moveWindows (s : State) (x : Dispatch) (lead epoch : Nat) : State :=
  let mine := fun (w : Window) => w.owner == x.id
  let fresh := fun (w : Window) => if mine w then { w with epoch := epoch } else w
  if lead == x.lead then
    { s with mgrs := s.mgrs.map (fun m => (m.1, { m.2 with windows := m.2.windows.map fresh })) }
  else
    let old := s.mgr (.core x.lead)
    let new := s.mgr (.core lead)
    let s := s.setMgr (.core x.lead) { old with windows := old.windows.filter (fun w => !mine w) }
    let s := s.setMgr (.core lead) { new with windows := new.windows ++ old.windows.filter mine }
    { s with mgrs := s.mgrs.map (fun m => (m.1, { m.2 with windows := m.2.windows.map fresh })) }

/-- Copies the written blocks of one Core Store segment, with their written bits and marks (R304). -/
def copySeg (sc : Scratch) (from_ into : Nat) : Scratch :=
  (List.range 64).foldl (fun sc b =>
    let src := from_ + b
    if sc.written.contains src then
      scratchWrite sc ((into + b) * 1024) (scratchRead sc (src * 1024) 1024) (sc.marked.contains src)
    else sc) sc

/-- Moves the segments of a dispatch's placement from a core into another (R304, R305): its SCRATCH segments, and the HELD
segments it declares, each into the same logical segment there. -/
def moveSegs (s : State) (x : Dispatch) (from_ into : Nat) : State :=
  if from_ == into then s else
  let mine := s.mem.csMap.filter (fun e => e.unit == from_ && e.ctx == x.ctx
    && (e.owner == some x.id || (e.held && x.prog.foot.any (fun f => f.core && f.held && f.seg == e.logical))))
  mine.foldl (fun s e =>
    let map := s.mem.csMap
    let r := match map.find? (fun y => y.unit == into && y.ctx == x.ctx && y.logical == e.logical && y.held == e.held
        && y.owner == e.owner) with
      | some y => (map, some y.phys)
      | none => mapSeg map into 32 x.ctx x.id ⟨e.logical, true, e.held⟩
    match r.2 with
    | none => s
    | some p =>
      let cs := scratchClear s.mem.cs (into * 2048 + p * 64) 64
      let cs := copySeg cs (from_ * 2048 + e.phys * 64) (into * 2048 + p * 64)
      { s with mem := { s.mem with csMap := r.1.filter (fun y => !(y.unit == from_ && y.phys == e.phys)), cs := cs } }) s

/-- A dispatch is given another placement (R302, R304, R305): a new epoch, grants cancelled with reason EPOCH, windows and
Core Store segments moved as the pairs of cores tell, and save frames on the new cores' dies (R293). Nothing of it is in
flight: it is saved (R96), or at a stage boundary (R199). -/
def replaceCores (s : State) (x : Dispatch) (relays cores : List Nat) (moves : List (Nat × Nat)) : State × Dispatch :=
  let s := cancelPlacement s x .epoch
  let s := nextEpoch s
  let y := { x with relays := relays, cores := cores, epoch := s.epochNow, streams := x.streams.map rewindPut, frames := [] }
  let y := giveFrames (s.setDisp y) y
  let s := moveWindows s x y.lead y.epoch
  let s := moves.foldl (fun s p => moveSegs s x p.1 p.2) s
  (s.setDisp y, y)

/-- Every s.put of a dispatch that holds no grant and has blocks to write asks for one (R209). -/
def askGrants (s : State) (d : DRef) : State :=
  match s.disp? d with
  | none => s
  | some x => x.streams.foldl (fun s t =>
      match s.disp? d with
      | some y => if t.kind == .put && t.grant == 0 && !t.reqOpen && t.done < t.units.length then sendReq s y t else s
      | none => s) s

end Sys2Proof.Machine
end

