-- ==== Sys2Proof/Machine/Commit.lean ====
section
/-! DEFINITION. Completion records (R289, R290, R338), refusals (R288), and the commit of a dispatch (R307 to R309) with
what an abort leaves (R147, R210, R308). -/

namespace Sys2Proof.Machine

/-- OUTCOME of a completion record (R289). -/
def ocCompleted : Nat := 1
/-- ABORTED. -/
def ocAborted : Nat := 2
/-- REFUSED. -/
def ocRefused : Nat := 3

/-- A tick as the module split counter holds it (R45). -/
def moduleStamp (t : Nat) : Nat := 5 * 2 ^ 56 + t % 2 ^ 56

/-- A completion record (R289). `o` carries OUTCOME, FAULT, CAUSE and FAULT_INSTR, `flags` FLAGS. -/
def completion (s : State) (x : Dispatch) (o : Fate) (flags : Nat) : Bytes :=
  withCrc (leBytes 8 x.id.seq ++ leBytes 4 (field x.record 0 4) ++ leBytes 2 x.id.queue ++ leBytes 1 o.outcome
    ++ leBytes 1 flags ++ leBytes 1 o.fault ++ leBytes 1 o.cause ++ zeros 2 ++ leBytes 4 o.instr ++ leBytes 4 x.epoch
    ++ leBytes 2 x.migrations ++ leBytes 2 x.preempts ++ leBytes 8 (moduleStamp x.tDoorbell)
    ++ leBytes 8 (match x.tStart with
        | some t => moduleStamp t
        | none => 0)
    ++ leBytes 8 (moduleStamp s.now) ++ leBytes 8 (x.ck3 / 3) ++ leBytes 4 x.bound
    ++ leBytes 4 (min x.vaultCalls 0xFFFFFFFF) ++ leBytes 4 (min x.vaultTicks 0xFFFFFFFF) ++ leBytes 4 x.stale
    ++ leBytes 4 x.torn ++ zeros 40)

/-- Writes the copy of a completion record at COMPLETION_VA with the hint STREAM; a missing page skips it and is reported
(R290, R318, R352). -/
def completionCopy (s : State) (x : Dispatch) (b : Bytes) : State :=
  let va := field x.record 16 8
  match s.ctx? x.ctx with
  | none => s
  | some c =>
    if va == 0 || va % 128 != 0 then s
    else
      let bad := fun (f : FaultCode) (l : Nat) => s.faultRec
        { ctx := x.ctx, fault := f, access := 2, requester := 6, outcome := 4, addr := va, dispatch := some x
          unit := dmaUnit s 0, level := l }
      match vaRange s c .write hintStream va 128 with
      | .ok xs => s.writeSpans xs b false
      | .error (.fault f) => bad f 0xFF
      | .error (.page f _ _ l) => bad f l
      | .error (.absent va acc _ _) => bad .pageNotPresent (walkLevel s c va acc)

/-- DONE_MARK, signalled by the Starter at the module Mark that admission resolved (R287, R290). -/
def doneMark (s : State) (x : Dispatch) : State :=
  match x.markNum (field x.record 14 2) with
  | some k => s.signal ⟨k, 1, x.ctx, .starter⟩
  | none => s

/-- Puts a completion record into the result store, then the copy, then DONE_MARK (R290, R338). -/
def writeResult (s : State) (x : Dispatch) (b : Bytes) : State :=
  let s := match s.queue? x.id.queue with
    | some q => if q.ctx == x.ctx then s.setQueue { q with results := assocSet x.id.seq (.written b) q.results } else s
    | none => s
  doneMark (completionCopy s x b) x

/-- Frees Marks (R429). -/
def freeMarks (s : State) (ks : List Nat) : State := { s with marks := s.marks.filter (fun m => !ks.contains m.1) }

/-- A Mark that left a context's range is freed once every dispatch admitted under a range that holds it has committed
(R429). -/
def settleMarks (s : State) (ctx : Nat) : State :=
  match s.ctx? ctx with
  | none => s
  | some c =>
    let kept := c.oldMarks.filter (fun k => s.disps.any (fun x => x.ctx == ctx && x.phase != .ended
      && x.markBase ≤ k && k < x.markBase + x.markCount))
    (freeMarks s (c.oldMarks.filter (fun k => !kept.contains k))).setCtx { c with oldMarks := kept }

/-- A dispatch ends: it holds nothing any more, and what waited for its units goes on (R174, R290, R354, R415). -/
def endDispatch (s : State) (x : Dispatch) : State :=
  let y := { x with phase := .ended, relays := [], cores := [], streams := [], inflight := [], redo := [], begun := []
                    frames := [], kept := [], slots := [], wait := none, frame := none, laps := [], calls := []
                    ringPend := none, stage := .between }
  let s := unmapScratch (s.setDisp y) x.id
  let s := settleCopies { s with keyCopies := s.keyCopies.map (fun k => { k with users := k.users.filter (· != x.id) }) }
  settleFences (releaseFields (settleMarks (settleWaits s true) x.ctx))

/-- The Starter refuses a dispatch (R288): a completion record, and nothing else. -/
def refuseDispatch (s : State) (x : Dispatch) (c : FaultCode) : State :=
  let b := completion s x ⟨ocRefused, c.code, 0, noInstr⟩ 0
  writeResult (endDispatch s x) x b

/-- The header of a result with TORN set (R17, R308), as this module writes it under an epoch, reserved bytes zero (R16). -/
def tornHdr (ctx epoch : Nat) (b : Bytes) : Bytes :=
  let h := hdrOf b
  hdrBytes { h with ctx := ctx, epoch := epoch, flags := h.flags % 8 ||| 2 }

/-- Writes a result's header with TORN set at spans and counts the destination (R308). -/
def tearHdr (s : State) (x : Dispatch) (at_ : List Span) (hdr : Bytes) : State :=
  let s := s.writeSpans at_ (tornHdr x.ctx x.epoch hdr) false
  match s.disp? x.id with
  | some y => s.setDisp { y with torn := y.torn + 1 }
  | none => s

/-- An object destination begun and not finished becomes TORN, where its header can be reached (R308). -/
def tearBegun (s : State) (x : Dispatch) (c : Ctx) (b : Begun) : State :=
  match hdrSpans s x c .write b.raw with
  | .ok at_ => tearHdr s x at_ b.hdr
  | .error _ => s

/-- What an abort leaves of what a dispatch has in flight (R96, R308): each instruction as the stop of its engine leaves it, and
every object destination begun and not finished TORN. -/
def cutOff (s : State) (x : Dispatch) (c : Ctx) : State :=
  let (s, y) := stopEngines s c x
  y.begun.foldl (fun s b => tearBegun s x c b) s

/-- The object destination that a stream had begun (R210, R308). -/
def begunObject (t : Stream) : Option Bytes :=
  let d := match t.kind, t.other with
    | .st, _ => some t.mem
    | .put, _ => none
    | _, .desc d => some d
    | _, .regs _ => none
  match d with
  | some d => if dObj d && t.done > 0 && t.done < t.units.length then some d else none
  | none => none

/-- Marks the object destination of a stream TORN, where its header can be reached. -/
def tearStream (s : State) (x : Dispatch) (c : Ctx) (t : Stream) : State :=
  match begunObject t with
  | none => s
  | some d => match hdrSpans s x c .write d with
    | .ok at_ => tearHdr s x at_ (spansPeek s.mem at_)
    | .error _ => s

/-- What an abort leaves of a dispatch's memory, slots and grants (R147, R210, R308). -/
def abortEffects (s : State) (x : Dispatch) : State :=
  let s := abandonSlots s x
  let s := match s.ctx? x.ctx with
    | some c => x.streams.foldl (fun s t => tearStream s x c t) (cutOff s x c)
    | none => s
  cancelPlacement s x .closed

/-- The outcome of a dispatch that has reached its commit point (R289, R307); none before. -/
def outcomeOf (x : Dispatch) : Option Fate :=
  match x.fate with
  | some f => some { f with fault := if f.fault == 0 then FaultCode.aborted.code else f.fault }
  | none =>
    if x.finished then
      match x.firstPoison with
      | some (c, i) => some ⟨ocCompleted, c.code, 0, i⟩
      | none => some ⟨ocCompleted, 0, 0, noInstr⟩
    else none

/-- FLAGS of a completion record (R289, R301): a SPRINT dispatch that stops with a fault is void. -/
def recordFlags (x : Dispatch) (o : Fate) : Nat :=
  flag x.abortLate 0 + flag (o.outcome == ocCompleted && x.firstPoison.isSome) 1
    + flag (x.cls == .sprint && (x.void || o.cause == causeFault)) 2

/-- The Starter commits a dispatch (R290, R307 to R309). -/
def commitDispatch (s : State) (x : Dispatch) (o : Fate) : State :=
  let s := if o.outcome == ocAborted && (x.phase == .running || x.phase == .saved) then abortEffects s x else s
  let s := closeWindowsOf s x.id
  let y := (s.disp? x.id).getD x
  let s := endDispatch s y
  writeResult s y (completion s y o (recordFlags y o))

end Sys2Proof.Machine
end

