-- ==== Sys2Proof/Machine/ObjectForms.lean ====
section
/-! DEFINITION. The object forms: sums and products (R226, R227), cvt.rescale (R84, R431), hdr.w (R228) and xpose
(R164, R166). -/

namespace Sys2Proof.Machine

/-- The operations of R226. -/
inductive OOp where
  | add | sub | mul
  deriving DecidableEq, Repr

/-- The ciphertext operand of a pair: the first, unless only the second is one. -/
def ctOf (a b : Val) : Val := if a.h.kind == kindRlwe then a else b

/-- The other operand. -/
def otherOf (a b : Val) : Val := if a.h.kind == kindRlwe then b else a

/-- Two ciphertexts. -/
def twoCts (a b : Val) : Bool := a.h.kind == kindRlwe && b.h.kind == kindRlwe

/-- The conditions of R226 and of R24 and R117 on equal scales. -/
def objOpOk (op : OOp) (a b : Val) : Bool :=
  let ct := (ctOf a b).h
  let ot := (otherOf a b).h
  let cc := twoCts a b
  (a.h.kind == kindRlwe || b.h.kind == kindRlwe) && a.h.kind != kindLwe && b.h.kind != kindLwe
  && a.h.pPresent == 0 && b.h.pPresent == 0 && a.h.repr == b.h.repr
  && (!cc || a.h.keyset == b.h.keyset)
  && (!(ct.scheme == 2 && op != .mul) || a.h.factor == b.h.factor)
  && (!(ct.scheme == 1 && cc) || a.h.level == b.h.level)
  && (op != .mul || (a.h.repr == 1 && (!cc || (a.h.comps == 2 && b.h.comps == 2))))
  && (cc || ct.level ≤ ot.level)
  && (!(ct.scheme == 0 && op != .mul) || a.h.scale == b.h.scale)

/-- Level of the result: the lower of two ciphertexts, else the ciphertext's (R226). -/
def objOpLevel (a b : Val) : Nat := if twoCts a b then min a.h.level b.h.level else (ctOf a b).h.level

/-- The model operation of a pair (R117, R118). -/
def objBOp (op : OOp) (a b : Val) : BOp :=
  if twoCts a b then (if op == .mul then .mul else .add) else (if op == .mul then .mulPlain else .addPlain)

/-- Result budget of a pair, none where R226 refuses it. -/
def objOpBudget (op : OOp) (x : Dispatch) (p : Bytes) (a b : Val) : Option Int :=
  if objOpOk op a b then
    some (resultBudget (objBOp op a b) p (x.set 0x0102) (ctOf a b).h (otherOf a b).h (objOpLevel a b))
  else none

/-- Components of the result (R226). -/
def objOpComps (op : OOp) (a b : Val) : Nat :=
  match op with
  | .mul => if twoCts a b then 3 else (ctOf a b).h.comps
  | _ => max a.h.comps b.h.comps

/-- The words of limb t of component k of the result, canonical (R10, R226). -/
def objOpLimb (op : OOp) (p : Bytes) (a b : Val) (k t : Nat) : List Nat :=
  let q := pPrime p t
  let n := 2 ^ a.h.logN
  let la := fun k => a.limb k t n
  let lb := fun k => b.limb k t n
  match op with
  | .add => zipMod (addMod q) (la k) (lb k)
  | .sub => zipMod (subMod q) (la k) (lb k)
  | .mul =>
    if twoCts a b then
      if a.h.scheme == 1 then canonWords q n (Config.bfvWords p a.h.level a.bytes b.bytes k t)
      else if k == 0 then zipMod (mulMod q) (la 0) (lb 0)
      else if k == 1 then zipMod (addMod q) (zipMod (mulMod q) (la 0) (lb 1)) (zipMod (mulMod q) (la 1) (lb 0))
      else zipMod (mulMod q) (la 1) (lb 1)
    else zipMod (mulMod q) ((ctOf a b).limb k t n) ((otherOf a b).limb 0 t n)

/-- The header of the result (R227). SLOTS of two ciphertexts that differ, a scale outside its field and a BGV_FACTOR
whose product is 0 modulo t are values the manual does not give: free values (log entry 1). -/
def objOpHdr (op : OOp) (fr : Nat) (p : Bytes) (f : Funded) : Hdr :=
  let ct := (ctOf f.a f.b).h
  let bop := objBOp op f.a f.b
  let prod := f.a.h.factor * f.b.h.factor % pT p
  { ct with comps := objOpComps op f.a f.b, level := objOpLevel f.a f.b, pPresent := 0
            slots := if twoCts f.a f.b && f.a.h.slots != f.b.h.slots then (Config.freeWord (fr + 1)).toNat % 2 ^ 32
                     else ct.slots
            scale := if ct.scheme == 0 then field32 fr (resultScale bop p ct (otherOf f.a f.b).h) else 0
            factor := if ct.scheme != 2 then 0
                      else if op != .mul then ct.factor
                      else if prod == 0 then (Config.freeWord (fr + 2)).toNat % 2 ^ 32 else prod
            budget := clampBudget f.budget, flags := hdrFlags false false f.spent }

/-- Reserves three free values. -/
def State.draw3 (s : State) : Nat × State := (s.freeCtr, { s with freeCtr := s.freeCtr + 3 })

/-- v.add.m, v.sub.m and v.mul.m on objects (R226). -/
def objForm (op : OOp) (s : State) (rd ra rb : HRef) (x : Dispatch) (c : Ctx) (n : Nat) : Except Halt State := do
  let r := s.core x.lead
  let d ← resolve x c r rd true true
  let oa ← objSrc s x c r ra
  let ob ← objSrc s x c r rb
  let a := valOf s c.param oa
  let b := valOf s c.param ob
  need (objOpOk op a b) .descInvalid
  need (!a.h.spent && !b.h.spent) .noiseExhausted
  let f ← fund x c a b (objOpBudget op x c.param)
  let (fr, s) := s.draw3
  let h := objOpHdr op fr c.param f
  let dd ← objDst s x c d h
  let u : Use := { Use.none with rs := hrefRegs rd ++ hrefRegs ra ++ hrefRegs rb }
  free x { u with rd := oa.body ++ oa.hdrAt ++ ob.body ++ ob.hdrAt, wr := dd.body ++ dd.hdrAt }
  if !x.engineFree 3 then .error .busy
  need (!inWindow s (dd.body ++ dd.hdrAt)) .accessDenied
  let body := ((List.range h.comps).map (fun k => ((List.range h.level).map (fun t =>
    bytesOf 4 (objOpLimb op c.param f.a f.b k t))).flatten)).flatten
  let x := x.countVault c f
  let s := s.keepCopies c f
  pure (finishObj s x c n 3 [oa, ob] u false dd h body)

/-- The words of the rescaled limb i of component k (R84, R431). -/
def rescaleOut (p : Bytes) (v : Val) (k i : Nat) : List Nat :=
  let n := 2 ^ v.h.logN
  let t := if v.h.scheme == 2 then pT p else 0
  rescaleLimbForm (v.h.repr == 1) v.h.logN t (pPrime p i) (pPrime p (v.h.level - 1)) (v.limb k i n)
    (v.limb k (v.h.level - 1) n)

/-- The header of a rescale (R22, R84, R430). -/
def rescaleHdr (fr : Nat) (p : Bytes) (f : Funded) : Hdr :=
  let h := f.a.h
  { h with level := h.level - 1
           scale := if h.scheme == 0 then field32 fr (resultScale .rescale p h h) else 0
           factor := if h.scheme == 2 then h.factor * invMod (pPrime p (h.level - 1)) (pT p) % pT p else 0
           budget := clampBudget f.budget, flags := hdrFlags false false f.spent }

/-- cvt.rescale (R84, R120, R431). -/
def rescaleForm (s : State) (rd ra : HRef) (x : Dispatch) (c : Ctx) (n : Nat) : Except Halt State := do
  let r := s.core x.lead
  let d ← resolve x c r rd true true
  let o ← objSrc s x c r ra
  need (o.h.kind == kindRlwe && (o.h.scheme == 0 || o.h.scheme == 2) && o.h.pPresent == 0) .descInvalid
  need (o.h.level > 1) .levelUnderflow
  need (!o.h.spent) .noiseExhausted
  let v := valOf s c.param o
  let f ← fund x c v v (fun a _ =>
    if a.h.level > 1 then some (resultBudget .rescale c.param (x.set 0x0102) a.h a.h (a.h.level - 1)) else none)
  let (fr, s) := s.draw
  let h := rescaleHdr fr c.param f
  let dd ← objDst s x c d h
  let u : Use := { Use.none with wr := ownBuffers x, rs := hrefRegs rd ++ hrefRegs ra }
  free x { u with rd := o.body ++ o.hdrAt, wr := dd.body ++ dd.hdrAt ++ ownBuffers x }
  if !x.engineFree 2 then .error .busy
  need (!inWindow s (dd.body ++ dd.hdrAt)) .accessDenied
  let body := ((List.range h.comps).map (fun k => ((List.range h.level).map (fun i =>
    bytesOf 4 (rescaleOut c.param f.a k i))).flatten)).flatten
  let x := x.countVault c f
  let s := s.keepCopies c f
  pure (finishObj (fillBuffers s x) x c n 2 [o] u false dd h body)

/-- hdr.w (R228): a complete header over a body the program wrote. -/
def hdrWForm (s : State) (rd ra : HRef) (budgetS levelS : Nat) (x : Dispatch) (c : Ctx) (n : Nat) :
    Except Halt State := do
  let r := s.core x.lead
  let d ← resolve x c r rd true true
  let t ← hdrSrc s x c r ra
  let level := (r.sget levelS).toNat % 256
  let budget := (r.sget budgetS).toNat % 65536
  need (1 ≤ level && level ≤ pL c.param) .descInvalid
  let h := { t.h with level := level, budget := budget }
  let dd ← objDst s x c d h
  let u : Use := { Use.none with rd := t.hdrAt ++ dd.body, wr := dd.hdrAt
                                 rs := hrefRegs rd ++ hrefRegs ra ++ [budgetS, levelS] }
  free x u
  need (!inWindow s dd.hdrAt) .accessDenied
  let scalPois := r.poisS.contains budgetS || r.poisS.contains levelS
  let pois := t.poisoned || spansMarked s.mem dd.body || scalPois
  let h := resultHdr x c { h with flags := hdrFlags false false t.h.spent } pois
  let f := s.flight x 5 u [] [(d.raw, dd.hdrAt)] 0 0
  pure (((touchReads s t.hdrAt).writeSpans dd.hdrAt (hdrBytes h) false).flown x n f pois)

/-- The source element that destination element j takes under π (R155, R164). -/
def permSrc (src dst : Bytes) (perm : List Nat) (j : Nat) : Nat :=
  let rank := dRank src
  let idx := (List.range rank).map (fun d =>
    j / ((List.range d).map (dSize dst)).foldl (· * ·) 1 % dSize dst d)
  let srcIdx := fun i => (((List.range rank).find? (fun d => nth perm d 0 == i)).map (fun d => nth idx d 0)).getD 0
  (List.range rank).foldl (fun (acc : Nat × Nat) i =>
    (acc.1 + acc.2 * srcIdx i, acc.2 * dSize src i)) (0, 1) |>.1

/-- A reason that stops the dispatch, and is no missing page that the Transposer halts on (R169). -/
def stopsAt (r : Stop) : Bool :=
  match r with
  | .absent .. => false
  | _ => true

/-- The Transposer stages up to 32 KiB at a time (R167). -/
def stagedTile : Nat := 32768

/-- The elements of the staged tiles before the first element whose pages are not all there, and the reason at that element
(R169). -/
def xposeReach (s : State) (x : Dispatch) (c : Ctx) (src dst : Bytes) (perm : List Nat) (per : Nat) :
    Nat → Nat → Nat × Option Stop
  | 0, j => (j / per * per, none)
  | fuel + 1, j =>
    if j ≥ dCount dst then (dCount dst, none)
    else match opSpans s x c .write dst (dAddr dst j) (dE dst), opSpans s x c .read src (dAddr src (permSrc src dst perm j)) (dE src) with
      | .error e, _ => (j / per * per, some e)
      | _, .error e => (j / per * per, some e)
      | .ok _, .ok _ => xposeReach s x c src dst perm per fuel (j + 1)

/-- xpose of two plain tensors (R164, R166). Its stop points are its staged tiles; a page that is not present halts it at the
same kind of point, the tiles before it written (R169). -/
def xposePlain (s : State) (src dst : Opnd) (perm : List Nat) (x : Dispatch) (c : Ctx) (n : Nat) (rs : List Nat) :
    Except Halt State := do
  let rank := dRank src.raw
  need (rank == dRank dst.raw && dElem src.raw == dElem dst.raw && dSpace src.raw != 4 && dSpace dst.raw != 4
    && permOk rank perm && (List.range rank).all (fun d => dSize dst.raw d == dSize src.raw (nth perm d 0))) .descInvalid
  need (!extentsMeet src.raw dst.raw) .descInvalid
  let e := dE dst.raw
  let per := stagedTile / e
  let (cnt, halt) := xposeReach s x c src.raw dst.raw perm per (dCount dst.raw + 1) 0
  let da ← lift (elemSpans s x c .write dst.raw (List.range cnt))
  let sa ← lift (elemSpans s x c .read src.raw ((List.range cnt).map (permSrc src.raw dst.raw perm)))
  need (!inWindow s da) .accessDenied
  let u : Use := { Use.none with rd := sa, wr := da, rs := rs }
  free x u
  if x.inflight.any (·.engine == 4) then .error .busy
  let pois := spansMarked s.mem sa
  let out := spansPeek s.mem sa
  let f := s.flight x 4 u [da] [] stagedTile (ceilDiv (cnt * e) stagedTile)
  let s := (touchReads s sa).writeSpans da (slice out 0 (cnt * e)) pois
  match halt with
  | none => pure (s.flown x n f pois)
  | some r =>
    if cnt == 0 || stopsAt r then .error (.stop r)
    else .error (.part (if pois then s.meetPoison x .eccUncorrectable x.pc else s) [] r)

/-- The bytes of the staged tiles of a body before the first tile whose pages are not all there, and the reason there
(R169). -/
def bodyReach (s : State) (x : Dispatch) (c : Ctx) (src dst : Bytes) (n : Nat) : Nat → Nat → Nat × Option Stop
  | 0, a => (a, none)
  | fuel + 1, a =>
    if a ≥ n then (n, none)
    else
      let k := min stagedTile (n - a)
      match opSpans s x c .write dst (dBase dst + a) k, opSpans s x c .read src (dBase src + a) k with
      | .error e, _ => (a, some e)
      | _, .error e => (a, some e)
      | .ok _, .ok _ => bodyReach s x c src dst n fuel (a + k)

/-- A copy of an object body that a missing page halts after some of its staged tiles (R169): its destination is begun. -/
def xposeHalted (s : State) (x : Dispatch) (c : Ctx) (o : Obj) (dst : Bytes) (u : Use) (cnt : Nat) (r : Stop) :
    Except Halt State := do
  let sa ← lift (opSpans s x c .read o.raw (dBase o.raw) cnt)
  let da ← lift (opSpans s x c .write dst (dBase dst) cnt)
  need (!inWindow s da) .accessDenied
  free x { u with rd := sa ++ o.hdrAt, wr := da }
  let pois := o.poisoned || spansMarked s.mem sa
  let s := (touchReads s (sa ++ o.hdrAt)).writeSpans da (spansPeek s.mem sa) pois
  .error (.part (if pois then s.meetPoison x .eccUncorrectable x.pc else s)
    [⟨x.pc, dst, hdrBytes (resultHdr x c o.h pois)⟩] r)

/-- The object that a copy writes (R117, R120, R123, R164): the source as it stands, BUDGET_SPENT and all, unless the budget policy
has it marked or refreshed. -/
def copyVal (x : Dispatch) (c : Ctx) (v : Val) : Except Halt (Funded × Hdr) := do
  if v.h.spent then pure (⟨v, v, v.h.budget, true, []⟩, v.h)
  else
    let f ← fundKeep x c v
    let kept := f.copies.isEmpty && !f.spent
    pure (f, if kept then v.h else { f.a.h with budget := clampBudget f.budget, flags := hdrFlags false false f.spent })

/-- xpose of two objects: a copy of body and header, WRITE_EPOCH of the placement (R164). -/
def xposeObj (s : State) (rd ra : HRef) (perm : List Nat) (x : Dispatch) (c : Ctx) (n : Nat) : Except Halt State := do
  let r := s.core x.lead
  let h ← hdrSrc s x c r ra
  let d ← resolve x c r rd true true
  need (permOk 1 perm && dSize d.raw 0 == dSize h.raw 0 && !extentsMeet h.raw d.raw) .descInvalid
  let len := bodyLen c.param h.h
  need (len ≤ 1024 * dSize h.raw 0) .descInvalid
  let u : Use := { Use.none with rs := hrefRegs rd ++ hrefRegs ra }
  if x.inflight.any (·.engine == 4) then .error .busy
  match bodyReach s x c h.raw d.raw len (len / stagedTile + 2) 0 with
  | (cnt, some e) => if cnt == 0 || stopsAt e then .error (.stop e) else xposeHalted s x c h d.raw u cnt e
  | (_, none) =>
    let o ← objSrc s x c r ra
    let (f, h) ← copyVal x c (valOf s c.param o)
    let dd ← objDst s x c d h
    need (!spansMeet o.body dd.body && !spansMeet o.body dd.hdrAt && !spansMeet o.hdrAt dd.body) .descInvalid
    need (!inWindow s (dd.body ++ dd.hdrAt)) .accessDenied
    free x { u with rd := o.body ++ o.hdrAt, wr := dd.body ++ dd.hdrAt }
    let x := x.countVault c f
    let s := s.keepCopies c f
    pure (finishObj s x c n 4 [o] u false dd h (if f.copies.isEmpty then spansPeek s.mem o.body else f.a.bytes))

/-- xpose (R164). -/
def xposeForm (s : State) (rd ra : HRef) (perm : List Nat) (x : Dispatch) (c : Ctx) (n : Nat) : Except Halt State := do
  let r := s.core x.lead
  let src ← resolveAny x c r ra false
  let dst ← resolveAny x c r rd true
  need (dObj src.raw == dObj dst.raw) .descInvalid
  if dObj src.raw then xposeObj s rd ra perm x c n
  else xposePlain s src dst perm x c n (hrefRegs rd ++ hrefRegs ra)

/-- V_ADD_M_OBJECT (R226). -/
def execVAddObj (d : DRef) (rd ra rb : HRef) (s : State) : Out :=
  issue s d (.vAddObj d rd ra rb) 1 (objForm .add s rd ra rb)
/-- V_SUB_M_OBJECT (R226). -/
def execVSubObj (d : DRef) (rd ra rb : HRef) (s : State) : Out :=
  issue s d (.vSubObj d rd ra rb) 1 (objForm .sub s rd ra rb)
/-- V_MUL_M_OBJECT (R226). -/
def execVMulObj (d : DRef) (rd ra rb : HRef) (s : State) : Out :=
  issue s d (.vMulObj d rd ra rb) 1 (objForm .mul s rd ra rb)
/-- CVT_RESCALE (R84, R431). -/
def execCvtRescale (d : DRef) (rd ra : HRef) (s : State) : Out :=
  issue s d (.cvtRescale d rd ra) 1 (rescaleForm s rd ra)
/-- HDR_W (R228). -/
def execHdrW (d : DRef) (rd ra : HRef) (budgetS levelS : Nat) (s : State) : Out :=
  issue s d (.hdrW d rd ra budgetS levelS) 1 (hdrWForm s rd ra budgetS levelS)
/-- XPOSE (R164). -/
def execXpose (d : DRef) (rd ra : HRef) (perm : List Nat) (s : State) : Out :=
  issue s d (.xpose d rd ra perm) 2 (xposeForm s rd ra perm)

end Sys2Proof.Machine
end

