-- ==== Sys2Proof/Machine/KeySwitch.lean ====
section
/-! DEFINITION. The key switch: ks.prep (R98, R99), ks.ip (R100, R102, R104 to R107) and ks.fin (R101). -/

namespace Sys2Proof.Machine

/-- The exact word count of a digit tensor for a level (R98). -/
def digitWords (p : Bytes) (level : Nat) : Nat := digitsAt p level * (level + pK p) * 2 ^ pLogN p

/-- The limb of digit k at limb slot t, from the coefficient limbs of the component: cvt.up of the digit's limbs, in
evaluation form; a limb of the digit itself holds the residues of the source words (R84, R98, R99). -/
def prepLimb (p : Bytes) (level : Nat) (ev coeff : List (List Nat)) (k t : Nat) : List Nat :=
  let i := limbIndex p level t
  let q := pPrime p i
  let own := digitIdx p level k
  if own.contains i then (nth ev i []).map (· % q)
  else nttFwd q (pLogN p) (convLimb (2 ^ pLogN p) (own.map (pPrime p)) (own.map (fun j => nth coeff j [])) q)

/-- ks.prep (R98, R99, R117, R120). -/
def ksPrepForm (s : State) (rd ra : HRef) (j : Nat) (x : Dispatch) (c : Ctx) (n : Nat) : Except Halt State := do
  let r := s.core x.lead
  let p := c.param
  let d ← resolve x c r rd true false
  let o ← objSrc s x c r ra
  let level := o.h.level
  need (o.h.kind == kindRlwe && o.h.repr == 1 && o.h.pPresent == 0 && 1 ≤ j && j < o.h.comps) .descInvalid
  need (dElem d.raw == 0 && dSpace d.raw != 4 && dCount d.raw == digitWords p level) .descInvalid
  need (!o.h.spent) .noiseExhausted
  let v := valOf s p o
  let f ← fund x c v v (fun a _ => if a.h.level == level && j < a.h.comps
    then some (resultBudget .keep p (x.set 0x0102) a.h a.h level) else none)
  let da ← lift (tensorSpans s x c .write d.raw (digitWords p level))
  need (!inWindow s da) .accessDenied
  let u : Use := { Use.none with rd := o.body ++ o.hdrAt, wr := da ++ ownBuffers x, rs := hrefRegs rd ++ hrefRegs ra }
  free x u
  if !x.engineFree 0 then .error .busy
  let x := x.countVault c f
  let s := s.keepCopies c f
  let ev := nth f.a.limbs j []
  let coeff := (List.range level).map (fun i => nttInv (pPrime p i) (pLogN p) (nth ev i []))
  let out := ((List.range (digitsAt p level)).map (fun k =>
    ((List.range (level + pK p)).map (fun t => bytesOf 4 (prepLimb p level ev coeff k t))).flatten)).flatten
  let f := s.flight x 0 u [da] [] (4 * 2 ^ pLogN p) (digitsAt p level * (level + pK p))
  let s := fillBuffers ((touchReads s (o.body ++ o.hdrAt)).writeSpans da out o.poisoned) x
  pure (s.flown x n f o.poisoned)

/-- The loaded key object that a plain descriptor names, with its key set (R106, R328). -/
def keyFind (c : Ctx) (raw : Bytes) : Option (KeySet × KeyObj) :=
  if dSpace raw != 0 then none
  else c.keysets.findSome? (fun ks => (ks.keys.find? (fun k => k.va == dBase raw)).map (fun k => (ks, k)))

/-- KEY_KIND of a key header is defined (R104). -/
def keyKindOk (k : Nat) : Bool := k == 1 || k == 2 || k == 0x10 || k == 0x11

/-- The checks of R106 in their order, on the 64 bytes of a key header; none when they pass. -/
def keyCheck (hdr : Bytes) (loaded : Bool) (src : Hdr) (g : Nat) : Option FaultCode :=
  let kind := field hdr 5 1
  if !(field hdr 0 4 == 0x0960A2CB && field hdr 4 1 == 1 && keyKindOk kind) then some .descInvalid
  else if !loaded then some .accessDenied
  else if field hdr 8 4 != src.keyset then some .keyMismatch
  else if slice hdr 16 16 != src.psh then some .keyMismatch
  else if !((g == 0 && kind == 1) || (g != 0 && kind == 2 && field hdr 12 4 == g)) then some .keyMismatch
  else if !(field hdr 6 1 ≤ src.level && src.level ≤ field hdr 7 1) then some .keyMismatch
  else none

/-- A Galois element that ks.ip and ks.fin accept: 0, or odd in [3, 2N) (R100, R101). -/
def ksGalois (p : Bytes) (g : Nat) : Bool := g == 0 || (g % 2 == 1 && 3 ≤ g && g < 2 * 2 ^ pLogN p)

/-- Byte offset of limb index i of digit k in a key (R26). -/
def keyLimbOff (p : Bytes) (k i : Nat) : Nat := 1024 + (k * (pL p + pK p) + i) * 2 ^ pLogN p * 4

/-- σ_g of a limb in evaluation form, the identity for g = 0 (R92, R100). -/
def sigma (q logN g : Nat) (w : List Nat) : List Nat := if g == 0 then w.map (· % q) else autoEval q logN g w

/-- One limb of a component of ks.ip: Σ_k σ_g(D_k) · b_k for component 0, with a_k for component 1 (R100, R107). -/
def ipLimb (p : Bytes) (level g : Nat) (seed : Bytes) (kind : Nat) (digit key : Nat → Nat → List Nat) (e t : Nat) :
    List Nat :=
  let i := limbIndex p level t
  let q := pPrime p i
  let n := 2 ^ pLogN p
  let ks := List.range (digitsAt p level)
  dotLimbs n q (ks.map (fun k => sigma q (pLogN p) g (digit k t)))
    (ks.map (fun k => if e == 0 then key k i else expand (expandMsg seed k i (pLogN p) kind) q n))

/-- The die of a key switch (R102): the die of a placement on one die; on both, the one the translator placed it on. -/
def ipDie (x : Dispatch) (c : Ctx) : Nat :=
  match x.cores.map dieOf with
  | [] => 0
  | d :: t => if t.all (· == d) then d else Config.ipDie x.prog.meas c.psh x.prog.translator x.pc % 2

/-- Where ks.ip reads its key on a die (R113): the complete copy there, else the key object in HBM. -/
def keyReader (s : State) (c : Ctx) (set : Nat) (k : KeyObj) (die : Nat) : Option KeyCopy :=
  (copyOn s c.num (keyName set k) die).filter (·.complete)

/-- n bytes at an offset of a key, from a copy or from HBM. -/
def keyBytes (s : State) (k : KeyObj) (copy : Option KeyCopy) (off n : Nat) : Bytes :=
  match copy with
  | some e => slice e.data off n
  | none => spansPeek s.mem (keySpans k off n)

/-- The operand that a key switch refreshes under AUTO_VAULT is the whole object (R121); its header alone is read otherwise. -/
def ipSource (s : State) (x : Dispatch) (c : Ctx) (h : HRef) (o : Obj) : Except Halt Val :=
  if decideBudget x (resultBudget .keep c.param (x.set 0x0102) o.h o.h o.h.level) == .vault then do
    pure (valOf s c.param (← objSrc s x c (s.core x.lead) h))
  else pure ⟨o.h, []⟩

/-- ks.ip (R100, R102, R105 to R107, R113). Its source is an arithmetic operand of R123, though it reads the header only
(log entry 56). -/
def ksIpForm (s : State) (rd ra rb rc : HRef) (gs : GSrc) (x : Dispatch) (c : Ctx) (n : Nat) : Except Halt State := do
  let r := s.core x.lead
  let p := c.param
  let d ← resolve x c r rd true true
  let dig ← resolve x c r ra false false
  let key ← resolve x c r rb false false
  let o ← hdrSrc s x c r rc
  let g ← galois x r gs
  let level := o.h.level
  need (ksGalois p g && o.h.kind == kindRlwe && o.h.repr == 1 && o.h.pPresent == 0) .descInvalid
  need (dElem dig.raw == 0 && dSpace dig.raw != 4 && dCount dig.raw == digitWords p level) .descInvalid
  let found := keyFind c key.raw
  let kh ← (match found with
    | some (_, k) => pure (keySpans k 0 64)
    | none => lift (opSpans s x c .read key.raw (dBase key.raw) 64))
  let hdr := spansPeek s.mem kh
  (match keyCheck hdr found.isSome o.h g with
    | some e => fail e
    | none => pure ())
  need (!o.h.spent) .noiseExhausted
  let v ← ipSource s x c rc o
  let f ← fund x c v v (fun a _ => if a.h.level == level
    then some (resultBudget .keep p (x.set 0x0102) a.h a.h level) else none)
  let h := { o.h with comps := 2, pPresent := 1, repr := 1, budget := clampBudget f.budget
                      flags := hdrFlags false false f.spent }
  match found with
  | none => fail .accessDenied
  | some (set, k) => do
    let dd ← objDst s x c d h
    let ta ← lift (tensorSpans s x c .read dig.raw (digitWords p level))
    let nb := 2 ^ pLogN p * 4
    let slots := level + pK p
    let die := ipDie x c
    let copy := keyReader s c set.id k die
    let kb := if copy.isSome then [] else kh ++ ((List.range (digitsAt p level)).map (fun kk =>
      ((List.range slots).map (fun t => keySpans k (keyLimbOff p kk (limbIndex p level t)) nb)).flatten)).flatten
    let u : Use := { Use.none with rd := ta ++ o.hdrAt ++ kb, wr := ownBuffers x, copy := copy.map (·.order)
                                   rs := hrefRegs rd ++ hrefRegs ra ++ hrefRegs rb ++ hrefRegs rc ++ gsrcRegs gs }
    free x { u with wr := dd.body ++ dd.hdrAt ++ ownBuffers x }
    if !x.engineFree 2 then .error .busy
    need (!inWindow s (dd.body ++ dd.hdrAt)) .accessDenied
    let digit := fun kk t => wordsOf 4 (spansPeek s.mem (spansSlice ta ((kk * slots + t) * nb) nb)) (2 ^ pLogN p)
    let half := fun kk i => wordsOf 4 (keyBytes s k copy (keyLimbOff p kk i) nb) (2 ^ pLogN p)
    let out := ((List.range 2).map (fun e => ((List.range slots).map (fun t =>
      bytesOf 4 (ipLimb p level g (slice hdr 32 32) (field hdr 5 1) digit half e t))).flatten)).flatten
    let pois := spansMarked s.mem (ta ++ kb) || copy.any (·.marked)
    let s := (touchReads s (ta ++ kb)).modMeter die (fun m => { m with keyCur := m.keyCur + spansLen kb })
    let s := touchKey s die c.num (keyName set.id k) (1024 + k.bodyLen)
    let x := x.countVault c f
    let s := s.keepCopies c f
    pure (finishObj (fillBuffers s x) x c n 2 [o] u pois dd h out)

/-- The base terms of ks.fin: component k of the base for g = 0, σ_g of component 0 otherwise, nothing else (R101). -/
def finBase (p : Bytes) (b : Val) (g k i : Nat) : List Nat :=
  let n := 2 ^ pLogN p
  if g == 0 then b.limb k i n
  else if k == 0 then autoEval (pPrime p i) (pLogN p) g (b.limb 0 i n) else List.replicate n 0

/-- One output limb of ks.fin (R84, R101): cvt.down of the accumulator plus the base terms, or the merged division by
P · q_{ℓ-1}. -/
def finLimb (p : Bytes) (acc b : Val) (g : Nat) (rescale : Bool) (k i : Nat) : List Nat :=
  let lg := pLogN p
  let n := 2 ^ lg
  let level := acc.h.level
  let q := pPrime p i
  let coeff := fun j (w : List Nat) => nttInv (pPrime p j) lg w
  let pIdx := rangeFrom (pL p) (pK p)
  let pl := (List.range (pK p)).map (fun j => coeff (pL p + j) (acc.limb k (level + j) n))
  if !rescale then
    let y := nttFwd q lg (downLimb n q (coeff i (acc.limb k i n)) (pIdx.map (pPrime p)) pl)
    zipMod (addMod q) y (finBase p b g k i)
  else
    let pp := prodOf (pIdx.map (pPrime p))
    let z := fun j => zipMod (addMod (pPrime p j)) (acc.limb k j n) ((finBase p b g k j).map (mulMod (pPrime p j) pp))
    nttFwd q lg (downLimb n q (coeff i (z i)) (pIdx.map (pPrime p) ++ [pPrime p (level - 1)])
      (pl ++ [coeff (level - 1) (z (level - 1))]))

/-- The conditions of R101 that raise DESC_INVALID, and that the accumulator has two components (log entry 56). -/
def finOk (p : Bytes) (a b : Hdr) (g : Nat) (rescale : Bool) : Bool :=
  a.kind == kindRlwe && b.kind == kindRlwe && a.pPresent == 1 && a.level == b.level && a.keyset == b.keyset
  && (!rescale || b.scheme == 0) && a.repr == 1 && b.repr == 1 && a.comps == 2 && b.pPresent == 0
  && b.comps == (if g == 0 then 3 else 2) && ksGalois p g

/-- ks.fin (R101). -/
def ksFinForm (s : State) (rd ra rb : HRef) (gs : GSrc) (rescale : Bool) (x : Dispatch) (c : Ctx) (n : Nat) :
    Except Halt State := do
  let r := s.core x.lead
  let p := c.param
  let d ← resolve x c r rd true true
  let oa ← objSrc s x c r ra
  let ob ← objSrc s x c r rb
  let g ← galois x r gs
  need (finOk p oa.h ob.h g rescale) .descInvalid
  need (!(rescale && ob.h.level == 1)) .levelUnderflow
  need (!oa.h.spent && !ob.h.spent) .noiseExhausted
  let op := if rescale then BOp.finRescale else BOp.fin
  let level := if rescale then ob.h.level - 1 else ob.h.level
  let va := valOf s p oa
  let vb := valOf s p ob
  let f ← fund x c vb vb (fun b _ => if finOk p oa.h b.h g rescale
    then some (resultBudget op p (x.set 0x0102) b.h b.h level) else none)
  let (fr, s) := s.draw
  let h := { f.a.h with comps := 2, level := level, budget := clampBudget f.budget, flags := hdrFlags false false f.spent
                        scale := if ob.h.scheme == 0 then field32 fr (resultScale op p f.a.h f.a.h) else 0 }
  let dd ← objDst s x c d h
  let u : Use := { Use.none with wr := ownBuffers x, rs := hrefRegs rd ++ hrefRegs ra ++ hrefRegs rb ++ gsrcRegs gs }
  free x { u with rd := oa.body ++ oa.hdrAt ++ ob.body ++ ob.hdrAt, wr := dd.body ++ dd.hdrAt ++ ownBuffers x }
  if !x.engineFree 0 then .error .busy
  need (!inWindow s (dd.body ++ dd.hdrAt)) .accessDenied
  let out := ((List.range 2).map (fun k => ((List.range level).map (fun i =>
    bytesOf 4 (finLimb p va f.a g rescale k i))).flatten)).flatten
  let x := x.countVault c f
  let s := s.keepCopies c f
  pure (finishObj (fillBuffers s x) x c n 0 [oa, ob] u false dd h out)

/-- KS_PREP (R98). -/
def execKsPrep (d : DRef) (rd ra : HRef) (j : Nat) (s : State) : Out :=
  issue s d (.ksPrep d rd ra j) 1 (ksPrepForm s rd ra j)
/-- KS_IP (R100). -/
def execKsIp (d : DRef) (rd ra rb rc : HRef) (g : GSrc) (s : State) : Out :=
  issue s d (.ksIp d rd ra rb rc g) 1 (ksIpForm s rd ra rb rc g)
/-- KS_FIN (R101). -/
def execKsFin (d : DRef) (rd ra rb : HRef) (g : GSrc) (rescale : Bool) (s : State) : Out :=
  issue s d (.ksFin d rd ra rb g rescale) 1 (ksFinForm s rd ra rb g rescale)

end Sys2Proof.Machine
end

