-- ==== Sys2Proof/Machine/Cost.lean ====
section
/-! DEFINITION. Static cost tables (R94, R102, R147, R244, R247): the count of each stage of a program for a shape, the keys it
reads, and the time a placement is predicted to take (R94, R306). -/

namespace Sys2Proof.Machine

/-- What the counts of a program depend on: the parameter-set record, and the descriptor of a literal index. -/
structure CostEnv where
  p : Bytes
  desc : Nat → Option Bytes

/-- log2 of the ring degree that a program's limbs have. -/
def CostEnv.logN (e : CostEnv) : Nat := if gateOnly e.p then pBrLogN e.p else pLogN e.p

/-- t_N of R82: one limb transform. -/
def tLimb (logN : Nat) : Nat := 2 ^ logN * (logN + 1) / 256

/-- Limbs of the largest object that a handle and a form allow (R247): what fills the capacity of a literal's descriptor, or `most`
limbs for a handle taken from a scalar; `nl` limbs of a tensor without a header. -/
def CostEnv.limbs (e : CostEnv) (h : HRef) (most nl : Nat) : Nat :=
  match h with
  | .lit i => match e.desc i with
    | some d => if dObj d then 1024 * dSize d 0 / (4 * 2 ^ e.logN) else nl
    | none => nl
  | _ => max most nl

/-- The counts of R94 and R102 for one instruction, by engine: 0 NTT, 1 automorphism unit, 2 converter array, 3 vector engine. -/
def workOf (e : CostEnv) (i : Instr) : List (Nat × Nat) :=
  let g := e.logN
  let n := 2 ^ g
  let l := pL e.p
  let k := pK e.p
  let all := l + k
  let d := digitsAt e.p l
  match i with
  | .nttF _ _ ra _ _ nl => [(0, e.limbs ra (3 * all) nl * tLimb g)]
  | .nttI _ _ ra _ _ nl => [(0, e.limbs ra (3 * all) nl * tLimb g)]
  | .auto _ _ ra _ nl _ _ => [(1, e.limbs ra (3 * all) nl * (n / 64))]
  | .cvtUp _ _ _ _ ns _ nt => [(2, ns * ceilDiv nt 16 * (n / 32))]
  | .cvtDown _ _ _ _ ns _ nt => [(2, ns * ceilDiv nt 16 * (n / 32))]
  | .cvtRescale _ _ ra =>
    let m := e.limbs ra (3 * l) 0
    [(2, m * (n / 64)), (0, m * tLimb g)]
  | .cvtMm _ f => [(2, f.g * (if f.clr then ceilDiv f.k 2 else f.k) + (if f.rdr == .null then 0 else 2 * f.g))]
  | .cvtDrain .. => [(2, 2)]
  | .ksPrep .. =>
    [(0, d * all * tLimb g), (3, l * (n / 64)),
      (2, n / 32 * ((List.range d).map (fun j => let a := (digitIdx e.p l j).length; a * ceilDiv (all - a) 16)).sum)]
  | .ksIp .. => [(2, d * all * (n / 256)), (1, d * all * (n / 64))]
  | .ksFin .. => [(0, (2 * k + 2 * l) * tLimb g), (2, n / 16 * k * ceilDiv l 16), (3, 4 * l * (n / 64))]
  | .vAddObj _ _ ra _ => [(3, e.limbs ra (3 * l) 0 * (n / 64))]
  | .vSubObj _ _ ra _ => [(3, e.limbs ra (3 * l) 0 * (n / 64))]
  | .vMulObj _ _ ra _ => [(3, e.limbs ra (2 * l) 0 / 2 * 3 * (4 * n / 64))]
  | .vAdd _ f => if f.ety == .mod32 then [(3, ceilDiv f.cnt 64)] else []
  | .vSub _ f => if f.ety == .mod32 then [(3, ceilDiv f.cnt 64)] else []
  | .vMul _ f => if f.ety == .mod32 then [(3, ceilDiv f.cnt 64)] else []
  | .vMac _ f => if f.ety == .mod32 then [(3, ceilDiv f.cnt 64)] else []
  | .vRed _ f => if f.ety == .mod32 then [(3, ceilDiv f.cnt 64)] else []
  | _ => []

/-- Ticks at which a wait counts: its timeout (R147, R244); a timeout that a scalar holds is the largest there can be (R247). -/
def waitTicks (i : Instr) : Nat :=
  match i with
  | .markWait _ _ _ (.long _ t) => t
  | .handoffIn _ _ _ (.imm v) => v.toNat % 2 ^ 32
  | .handoffIn _ _ _ (.reg _) => 2 ^ 32 - 1
  | _ => 0

/-- How often a lap runs its body where its count is an immediate (R236); else 1, and the translator's table counts the rest. -/
def lapRuns (code : List CodeAt) (b : LapBody) : Nat :=
  match codeAt code b.at_ with
  | some ⟨_, .lap _ _ (.imm v) _, _⟩ => v.toNat
  | _ => 1

/-- How often the instruction at an index runs for each time that control reaches the laps around it which pass a test. -/
def runsAt (code : List CodeAt) (i : Nat) (p : LapBody → Bool) : Nat :=
  (((lapBodies code).filter (fun b => b.lo ≤ i && i < b.hi && p b)).map (lapRuns code)).foldl (· * ·) 1

/-- The stages of a code section in the order of their stage.begin: its index, and the instructions up to the stage.end. -/
def stagesOf (code : List CodeAt) : List (Nat × List CodeAt) :=
  code.filterMap (fun c => match c.ins with
    | .stageBegin _ => some (c.at_, (code.filter (fun y => c.at_ < y.at_)).takeWhile (fun y => match y.ins with
        | .stageEnd _ => false
        | _ => true))
    | _ => none)

/-- The counts of a stage that R94 gives on a number of cores: its busiest engine, and every wait at its timeout, 140 ck to a
tick at 1.75 GHz. -/
def stageFloor (e : CostEnv) (code : List CodeAt) (cores : Nat) (st : Nat × List CodeAt) : Nat :=
  let inner := fun (b : LapBody) => !(b.lo ≤ st.1 && st.1 < b.hi)
  let work := (st.2.map (fun c => (workOf e c.ins).map (fun w => (w.1, runsAt code c.at_ inner * w.2)))).flatten
  let engine := fun k => ceilDiv ((work.filter (·.1 == k)).map (·.2)).sum (max 1 cores)
  ((List.range 4).map engine).foldl max 0 + 140 * (st.2.map (fun c => runsAt code c.at_ inner * waitTicks c.ins)).sum

/-- One stage in the cost table of a shape: the index of its stage.begin, its count in ck, how often the program runs it, and
the keys its ks.ip instructions read, each with the index of the ks.ip. -/
structure StageCost where
  at_ : Nat
  ck : Nat
  runs : Nat
  keys : List (Nat × KeyName)
  deriving DecidableEq, Repr

/-- A program holds a mark.wait without limit, from an index of its code section on (R244, R297). -/
def waitsUnlimited (p : Program) : Nat → Nat → Bool
  | 0, _ => false
  | fuel + 1, i => match p.fetch ⟨0, 0⟩ i with
    | some (.markWait _ _ _ (.short _), _) => true
    | some (.markWait _ _ _ (.long _ t), n) => t == 0xFFFFFFFF || waitsUnlimited p fuel (i + n)
    | some (_, n) => waitsUnlimited p fuel (i + n)
    | none => false

/-- The shape of a placement: the cores in service on each of its Relays, in rank order (R40, R305). -/
def shapeOfCores (relays cores : List Nat) : List Nat := relays.map (fun r => (cores.filter (fun n => relayOf n == r)).length)

/-- The static cost table of a program for a shape (R247): the translator's count of each stage, no less than what R94 gives; none
where the shape is none of the table's, or a count is not finite (log entry 29). -/
def costTable (c : Ctx) (x : Dispatch) (shape : List Nat) : Option (List StageCost) :=
  if waitsUnlimited x.prog x.prog.code.length 0 then none
  else match Config.stageCk x.prog.meas c.psh x.prog.translator shape with
    | none => none
    | some cks =>
      let code := (codeOf x.prog.code).1
      let e : CostEnv := ⟨c.param, fun i => if (c.desc i).valid then some (c.desc i).raw else none⟩
      let keys := Config.stageKeys x.prog.meas c.psh x.prog.translator
      some (mapIdxFrom (fun i st => ⟨st.1, max (nth cks i 0) (stageFloor e code shape.sum st), runsAt code st.1 (fun _ => true),
        (keys.filter (fun k => st.2.any (·.at_ == k.1))).map (fun k => (k.1, ⟨k.2.1, k.2.2.1, k.2.2.2⟩))⟩) 0 (stagesOf code))

/-- Bytes of a loaded key that a die must read: none where a complete copy is resident there (R111, R297). -/
def keyCost (s : State) (c : Ctx) (die : Nat) (k : KeyName) : Nat :=
  if (copyOn s c.num k die).any (·.complete) then 0
  else match (c.keysets.find? (·.id == k.keyset)).bind (fun t =>
      t.keys.find? (fun o => o.kind == k.kind && o.galois == k.galois)) with
    | some o => o.bodyLen
    | none => 0

/-- Key bytes that a stage reads on a die of a placement (R102, R297, R298). -/
def stageKeyBytes (s : State) (c : Ctx) (x : Dispatch) (cores : List Nat) (st : StageCost) (die : Nat) : Nat :=
  (((st.keys.filter (fun k => ipDie { x with cores := cores, pc := k.1 } c == die)).map (fun k => keyCost s c die k.2))).sum

/-- Bytes that the key streams of a die can read in one tick: its six stacks at 819.2 GB/s (R103). -/
def keyCapacity : Nat := 393216

/-- The unused key rate of a die, in bytes per tick, by its last complete measurement window (R306). -/
def unusedRate (s : State) (die : Nat) : Nat := keyCapacity - (s.meter die).keyRate

/-- The slowest step of any Field that cores belong to (R94). -/
def slowestStep (s : State) (cores : List Nat) : Nat := (cores.map (fun n => (s.field (fieldOf n)).step)).foldl max 0

/-- Picoseconds of a count at a Pacer step: 1.75 GHz × (30 − k) / 30 (R94, R397). -/
def ckTime (step ck : Nat) : Nat := ceilDiv (ck * 120000) (7 * (30 - step))

/-- Picoseconds to read key bytes at a rate in bytes per tick of 80 ns; none where there is no rate to read at. -/
def keyTime (rate bytes : Nat) : Option Nat := if bytes == 0 then some 0 else if rate == 0 then none else some (ceilDiv (bytes * 80000) rate)

/-- The time in picoseconds that a dispatch is predicted to take on a placement (R94, R306): each stage for its count at the
slowest step of the placement's Fields, or for its keys at the unused key rate of each die; none where no count is finite. -/
def predict (s : State) (c : Ctx) (x : Dispatch) (relays cores : List Nat) : Option Nat :=
  match costTable c x (shapeOfCores relays cores) with
  | none => none
  | some t =>
    t.foldl (fun acc st =>
      match acc, keyTime (unusedRate s 0) (stageKeyBytes s c x cores st 0), keyTime (unusedRate s 1) (stageKeyBytes s c x cores st 1) with
      | some a, some k0, some k1 => some (a + st.runs * max (ckTime (slowestStep s cores) st.ck) (max k0 k1))
      | _, _, _ => none) (some 0)

end Sys2Proof.Machine
end

