-- ==== Sys2Proof/Machine/Admission.lean ====
section
/-! DEFINITION. Queues and admission: doorbells (R286, R321), dispatch records (R287, R288, R338), SPRINT admission (R296
to R299), settings at admission (R336, R429). -/

namespace Sys2Proof.Machine

/-- A write to a queue doorbell (R286, R321): counts compare by their difference modulo 2^32. -/
def ringBell (s : State) (q v : Nat) : State :=
  match s.queue? q with
  | none => s
  | some x =>
    let diff := (v % 2 ^ 32 + 2 ^ 32 - x.consumed % 2 ^ 32) % 2 ^ 32
    if diff > 2 ^ x.k || diff < x.prod - x.consumed then s
    else
      let n := x.consumed + diff
      wakeRest (s.setQueue { x with prod := n, bells := if n == x.prod then x.bells else x.bells ++ [(n, s.now)] })

/-- QUEUE_DOORBELL (R286, R317, R321, R402): accepted in REST too, behind the host window writes that the link holds. -/
def execQueueDoorbell (q v : Nat) (s : State) : Out :=
  if s.linkUp && (s.isUp || s.pwr.st == .rest || s.pwr.st == .restEntry || s.pwr.st == .restWake) then
    .next (if bellWaits s then s.holdAtLink (.queueDoorbell q v) else ringBell s q v)
  else .next s

/-- A queue has a record that the Starter may read: doorbelled, and its store entry released (R338). -/
def recordReady (q : Queue) : Bool :=
  q.consumed < q.prod
  && (q.consumed < 2 ^ q.k || assoc (q.consumed + 1 - 2 ^ q.k) q.results == some .released)

/-- The tick at which sequence number n was doorbelled. -/
def bellTick (q : Queue) (n now : Nat) : Nat :=
  match q.bells.find? (fun b => n ≤ b.1) with
  | some b => b.2
  | none => now

/-- The queue after its next record has been consumed. -/
def consumeRecord (q : Queue) : Queue :=
  { q with consumed := q.consumed + 1, bells := q.bells.filter (fun b => q.consumed + 1 < b.1)
           results := assocSet (q.consumed + 1) .pending q.results }

/-- A program that is not there. -/
def noProgram : Program := ⟨0, [], 0, [], [], [], false, [], []⟩

/-- A dispatch as its record makes it (R287). -/
def newDispatch (s : State) (c : Ctx) (q : Queue) (rec : Bytes) : Dispatch :=
  { id := ⟨q.num, q.consumed + 1⟩, ctx := c.num
    prog := (c.programs.find? (·.num == field rec 4 2)).getD noProgram, cls := q.cls, record := rec
    cfg := [], markBase := s.settingN 0x0106 c.num, markCount := s.settingN 0x0107 c.num
    tDoorbell := bellTick q (q.consumed + 1) s.now, tStart := none, waitSince := s.now, relays := [], cores := []
    epoch := 0, phase := .waiting, pc := 0, calls := [], laps := [], wait := none, stage := .between, stageNum := 0, stageAt := 0
    stageCk3 := 0, doneCk := 0, runCk := 0, slow := none
    streams := [], inflight := [], ringPend := none, redo := [], begun := [], frame := none, frames := [], kept := [], firstPoison := none, slots := [], stale := 0
    torn := 0, migrations := 0, preempts := 0, vaultCalls := 0, vaultTicks := 0, bound := 0, void := false, ck3 := 0
    lastMove := 0, redivide := false, abortLate := false, fin := false, fate := none }

/-- The DESC_INVALID row of R288. Mark fields are judged by the MARK_COUNT that the admission would bring into force. -/
def recordOk (s : State) (c : Ctx) (q : Queue) (rec : Bytes) : Bool :=
  let n := (s.settingNext 0x0107 c.num).toNat
  let markOk := fun k => k == 0xFFFF || k < n
  field rec 6 1 < 2 && allZero rec 56 8 && c.programs.any (·.num == field rec 4 2)
  && markOk (field rec 12 2) && markOk (field rec 14 2) && field rec 16 8 % 128 == 0
  && ((q.cls == .sprint) == (field rec 8 4 != 0))

/-- A key that a program names is loaded for the context (R213). -/
def keyLoaded (c : Ctx) (k : KeyName) : Bool :=
  c.keysets.any (fun t => t.id == k.keyset && t.keys.any (fun o => o.kind == k.kind && o.galois == k.galois))

/-- Relays with a core in service, or Fields not fenced (R288). -/
def unitsInService (s : State) (cls : Class3) : Nat :=
  if cls == .sprint then ((List.range 8).filter (fun f => !s.fence.fields.any (·.unit == f))).length
  else ((List.range 32).filter (fun r => !(s.relayCores r).isEmpty)).length

/-- SHAPE of a dispatch. -/
def shapeOf (x : Dispatch) : Nat := field x.record 7 1

/-- Decided context settings take effect at the admission of the context's next dispatch (R336). -/
def applyDecided (s : State) (ctx : Nat) : State :=
  let mine := s.cfg.decided.filter (fun e => e.1.1 < 0x0200 && e.1.2 == ctx)
  { s with cfg := { s.cfg with values := mine.foldl (fun l e => assocSet e.1 e.2 l) s.cfg.values
                               decided := s.cfg.decided.filter (fun e => !(e.1.1 < 0x0200 && e.1.2 == ctx)) } }

/-- The Marks that enter a context's range are allocated, and those that leave it wait to be freed (R429). -/
def moveMarks (s : State) (ctx b0 n0 b1 n1 : Nat) : State :=
  let old := rangeFrom b0 n0
  let new := rangeFrom b1 n1
  let ins := new.filter (fun k => !(b0 ≤ k && k < b0 + n0))
  let outs := old.filter (fun k => !(b1 ≤ k && k < b1 + n1))
  let fresh : List (Nat × Mark) := ins.map (fun k => (k, ⟨true, false, false, false, ctx, 0⟩))
  let s := { s with marks := fresh ++ s.marks.filter (fun (m : Nat × Mark) => !ins.contains m.1) }
  match s.ctx? ctx with
  | none => s
  | some c => settleMarks (s.setCtx { c with oldMarks := c.oldMarks.filter (fun k => !(b1 ≤ k && k < b1 + n1)) ++ outs }) ctx

/-- What an admission brings into force for its context, and the settings the dispatch keeps (R336, R429). -/
def takeSettings (s : State) (x : Dispatch) : State × Dispatch :=
  let b0 := s.settingN 0x0106 x.ctx
  let n0 := s.settingN 0x0107 x.ctx
  let s := applyDecided s x.ctx
  let b1 := s.settingN 0x0106 x.ctx
  let n1 := s.settingN 0x0107 x.ctx
  let s := if b0 == b1 && n0 == n1 then s else moveMarks s x.ctx b0 n0 b1 n1
  (s, { x with cfg := contextSettingIds.map (fun i => (i, s.setting i x.ctx)), markBase := b1, markCount := n1 })

/-- A Field is named in SPRINT_FIELDS (R296). -/
def reservedField (s : State) (f : Nat) : Bool := bit (s.settingN 0x030A 0) f

/-- A SPRINT dispatch holds a Field (R291). -/
def sprintHolds (s : State) (f : Nat) : Bool :=
  s.disps.any (fun x => x.cls == .sprint && x.phase != .ended && x.relays.any (fun r => fieldOfRelay r == f))

/-- A reserved Field that a SPRINT dispatch may take (R297, R357, R403). -/
def sprintFree (s : State) (f : Nat) : Bool :=
  reservedField s f && !sprintHolds s f && (rangeFrom (16 * f) 16).all (fun n => !s.coreFenced n)
  && (s.field f).phase == .service && ((s.field f).st == .warm || (s.field f).st == .run)

/-- The Fields of a mask, ascending. -/
def maskFields (m : Nat) : List Nat := (List.range 8).filter (bit m)

/-- The cores of Fields. -/
def fieldCores (fs : List Nat) : List Nat := (fs.map (fun f => rangeFrom (16 * f) 16)).flatten

/-- The Relays of Fields. -/
def relaysOf (fs : List Nat) : List Nat := (fs.map (fun f => rangeFrom (4 * f) 4)).flatten

/-- Segments of a footprint that a dispatch needs anew on a core or die: all, and those that become HELD there. -/
def footNeed (m : List SegMap) (x : Dispatch) (core : Bool) (unit : Nat) : Nat × Nat :=
  let fs := x.prog.foot.filter (·.core == core)
  let new := fs.filter (fun f => f.held
    && !m.any (fun e => e.unit == unit && e.ctx == x.ctx && e.logical == f.seg && e.held))
  ((fs.filter (fun f => !f.held)).length + new.length, new.length)

/-- HELD segments of a unit. -/
def heldOn (m : List SegMap) (unit : Nat) : Nat := ((segsOn m unit).filter (·.held)).length

/-- SCRATCH Infield segments on a die that SPRINT dispatches (or all others) hold. -/
def ifUsed (s : State) (die : Nat) (sprint : Bool) : Nat :=
  ((segsOn s.mem.ifMap die).filter (fun e => match e.owner with
    | some d => match s.disp? d with
      | some y => (y.cls == .sprint) == sprint
      | none => !sprint
    | none => !sprint)).length

/-- Every HELD segment that a dispatch declares and its context holds lies within a placement (R175). -/
def heldInside (s : State) (x : Dispatch) (cores : List Nat) : Bool :=
  (List.range 128).all (fun n => !boundCore s x n || cores.contains n)
  && [0, 1].all (fun d => !boundDie s x d || (diesOf cores).contains d)

/-- The HELD limits of R175 on a placement. -/
def heldLimits (s : State) (x : Dispatch) (cores : List Nat) : Bool :=
  cores.all (fun n => heldOn s.mem.csMap n + (footNeed s.mem.csMap x true n).2 ≤ s.settingN 0x0302 0
    || (footNeed s.mem.csMap x true n).2 == 0)
  && (diesOf cores).all (fun d => heldOn s.mem.ifMap d + (footNeed s.mem.ifMap x false d).2 ≤ s.settingN 0x0201 d
    || (footNeed s.mem.ifMap x false d).2 == 0)

/-- The Footprint condition of R297. -/
def sprintFits (s : State) (x : Dispatch) (cores : List Nat) : Bool :=
  (x.prog.foot.filter (·.core)).length ≤ s.settingN 0x030C 0
  && cores.all (fun n => (segsOn s.mem.csMap n).length + (footNeed s.mem.csMap x true n).1 ≤ 32)
  && (diesOf cores).all (fun d => ifUsed s d true + (footNeed s.mem.ifMap x false d).1 ≤ s.settingN 0x0204 d)
  && heldInside s x cores && heldLimits s x cores

/-- The bound of R298 in ticks on a set of Fields, from the cost table of that shape: counts at 1.75 GHz, and the key bytes that are
not resident on the die of each ks.ip (R297) at that die's SPRINT_READ_GBS; none where it is not finite. -/
def sprintBound (s : State) (c : Ctx) (x : Dispatch) (fs : List Nat) : Option Nat :=
  let cores := fieldCores fs
  let g := fun d => s.settingN 0x0205 d
  let m := fun d => max (g d) 1
  match costTable c x (shapeOfCores (relaysOf fs) cores) with
  | none => none
  | some t =>
    let ks := fun d => t.map (fun st => stageKeyBytes s c x cores st d)
    if [0, 1].any (fun d => g d == 0 && (ks d).any (· != 0)) then none
    else
      let term := fun (st : StageCost) => st.runs * max (st.ck * 4000 * m 0 * m 1)
        (max (stageKeyBytes s c x cores st 0 * 7000 * m 1) (stageKeyBytes s c x cores st 1 * 7000 * m 0))
      some (ceilDiv ((t.map term).foldl (· + ·) (15000000 * 7 * m 0 * m 1)) (7 * m 0 * m 1 * 80000))

/-- A list of Field numbers comes before another. -/
def fieldsBefore : List Nat → List Nat → Bool
  | [], _ => true
  | _ :: _, [] => false
  | a :: s, b :: t => a < b || (a == b && fieldsBefore s t)

/-- The better of two candidates: the smaller bound, and the lowest Field numbers among equals (R298). -/
def betterSprint (a b : Nat × List Nat) : Nat × List Nat :=
  if a.1 < b.1 || (a.1 == b.1 && fieldsBefore a.2 b.2) then a else b

/-- The Fields and bound with which a SPRINT dispatch is admitted (R297, R298); none where a condition fails. -/
def sprintChoice (s : State) (c : Ctx) (x : Dispatch) : Option (Nat × List Nat) :=
  let n := (s.disps.filter (fun y => y.cls == .sprint && y.phase != .ended)).length
  if n ≥ s.settingN 0x030B 0 || !c.pinned then none
  else
    let cands := (rangeFrom 1 255).filterMap (fun m =>
      let fs := maskFields m
      if fs.all (sprintFree s) && (shapeOf x == 0 || fs.length == shapeOf x) && sprintFits s x (fieldCores fs) then
        match sprintBound s c x fs with
        | some b => if b ≤ field x.record 8 4 then some (b, fs) else none
        | none => none
      else none)
    match cands with
    | [] => none
    | a :: t => some (t.foldl betterSprint a)

/-- Pins the resident copies of keys that a dispatch names on the dies of its placement (R112). -/
def pinKeys (s : State) (x : Dispatch) (dies : List Nat) (keys : List KeyName) : State :=
  { s with keyCopies := s.keyCopies.map (fun k =>
      if k.ctx == x.ctx && dies.contains k.die && keys.contains k.key && !k.users.contains x.id
      then { k with users := k.users ++ [x.id] } else k) }

/-- Every running MIDDLE or DISTANCE dispatch that holds a core of some Relays is pre-empted (R291, R295). -/
def preemptOn (s : State) (relays : List Nat) (p : Dispatch → Bool) : State :=
  s.disps.foldl (fun s x => match s.disp? x.id with
    | some y => if y.phase == .running && p y && y.relays.any (relays.contains ·) then preempt s y else s
    | none => s) s

/-- Every key that the cost table of a program on some Fields reads (R298). -/
def tableKeys (c : Ctx) (x : Dispatch) (fs : List Nat) : List KeyName :=
  match costTable c x (shapeOfCores (relaysOf fs) (fieldCores fs)) with
  | some t => ((t.map (·.keys)).flatten).map (·.2)
  | none => []

/-- Admits a SPRINT dispatch on Fields (R291, R296 to R299): the lower classes there are pre-empted, the Fields wake, the
keys found resident are pinned. -/
def admitSprint (s : State) (c : Ctx) (x : Dispatch) (b : Nat) (fs : List Nat) : State :=
  let relays := relaysOf fs
  let s := preemptOn s relays (fun y => y.cls != .sprint)
  let (s, x) := takeSettings s x
  let s := nextEpoch s
  let x := { x with relays := relays, epoch := s.epochNow, bound := b, void := s.pwr.emerg }
  let s := wakeFields { s with disps := s.disps ++ [x] } (fieldCores fs)
  pinKeys s x (diesOf (fieldCores fs)) (x.prog.pins ++ tableKeys c x fs)

/-- Admits a dispatch whose record has passed the DESC_INVALID row, or refuses it (R288). -/
def admitRecord (s : State) (c : Ctx) (x : Dispatch) : State :=
  let refuse := refuseDispatch { s with disps := s.disps ++ [x] } x .admissionDenied
  if !(x.prog.pins.all (keyLoaded c) && shapeOf x ≤ unitsInService s x.cls) then refuse
  else if x.cls == .sprint then
    match sprintChoice s c x with
    | some (b, fs) => admitSprint s c x b fs
    | none => refuse
  else
    let (s, x) := takeSettings s x
    let s := nextEpoch s
    { s with disps := s.disps ++ [{ x with epoch := s.epochNow }] }

/-- A record that could not be read (R288, R352): consumed, refused with TAG 0, and a FINAL fault record. -/
def refuseUnread (s : State) (c : Ctx) (q : Queue) (va : Nat) (f : FaultCode) (level : Nat) : State :=
  let b := patch (patch (zeros 64) 12 (leBytes 4 0xFFFFFFFF)) 0 (zeros 4)
  let x := newDispatch s c q b
  let s := s.faultRec { ctx := c.num, fault := f, access := 1, requester := 9, outcome := 4, addr := va
                        dispatch := some x, unit := dmaUnit s 0, level := level }
  refuseDispatch { s with disps := s.disps ++ [x] } x f

/-- An ABORT command waits for a dispatch whose record was not yet read (R307, R340). -/
def abortWaits (s : State) (d : DRef) : Bool := s.mbs.any (fun b => b.2.wait == some (.abort d))

/-- The Starter reads the next record of a queue (R286, R288, R352). -/
def readRecord (s : State) (c : Ctx) (q : Queue) : State :=
  let va := q.ringVa + q.consumed % 2 ^ q.k * 64
  match readerRead s c ⟨9, some (newDispatch s c q [])⟩ va 64 with
  | (s, .error (f, l)) => refuseUnread (s.setQueue (consumeRecord q)) c q va f l
  | (s, .ok (_, b, bad)) =>
    let t := s.setQueue (consumeRecord q)
    if bad then refuseUnread t c q va .eccUncorrectable 0xFF
    else
      let x := newDispatch t c q b
      if abortWaits t x.id then { t with disps := t.disps ++ [{ x with fate := some ⟨ocAborted, 0, 1, noInstr⟩ }] }
      else if recordOk t c q b then admitRecord t c x
      else refuseDispatch { t with disps := t.disps ++ [x] } x .descInvalid

end Sys2Proof.Machine
end

