-- ==== Sys2Proof/Machine/Placement.lean ====
section
/-! DEFINITION. Placements: DISPATCH_PLACE (R291 to R293), yield (R291), resume (R295), migration (R304, R306) and the stage
boundary with re-division (R199, R305), and the policy of placements (R306, R407). -/

namespace Sys2Proof.Machine

/-- Relay numbers in ascending order, each below 32. -/
def risingRelays (rs : List Nat) : Bool := rs.all (· < 32) && (rs.zip rs.tail).all (fun p => p.1 < p.2)

/-- The cores in service of some Relays. -/
def coresOf (s : State) (relays : List Nat) : List Nat := (relays.map s.relayCores).flatten

/-- What the Starter finds of a placement (R172, R175, R293). -/
inductive Verdict where
  | ok | wait | refuse
  deriving DecidableEq, Repr

/-- Save frames in use and kept for named Fields (R293). -/
def framesHeld (s : State) : Nat :=
  ((s.disps.filter (fun y => y.cls != .sprint && (y.phase == .running || y.phase == .saved))).map (·.cores.length)).sum
    + 16 * ((List.range 8).filter (reservedField s)).length

/-- n more save frames are free (R293). -/
def framesFree (s : State) (n : Nat) : Bool := (framesHeld s + n) * 88 ≤ s.settingN 0x030D 0 * 1024

/-- The free physical segments of cores and of their dies hold a footprint (R172, R296). -/
def segsFit (s : State) (x : Dispatch) (cores : List Nat) : Bool :=
  cores.all (fun n => (segsOn s.mem.csMap n).length + (footNeed s.mem.csMap x true n).1
    ≤ 32 - (if reservedField s (fieldOf n) && x.cls != .sprint then s.settingN 0x030C 0 else 0))
  && (diesOf cores).all (fun d => let n := (footNeed s.mem.ifMap x false d).1
      if x.cls == .sprint then ifUsed s d true + n ≤ s.settingN 0x0204 d
      else ifUsed s d false + n ≤ 256 - s.settingN 0x0200 d - s.settingN 0x0204 d)

/-- The verdict on a first placement. -/
def verdict (s : State) (x : Dispatch) (cores : List Nat) : Verdict :=
  if !heldInside s x cores then .wait
  else if !heldLimits s x cores then .refuse
  else if segsFit s x cores && (x.cls == .sprint || framesFree s cores.length) then .ok
  else .wait

/-- The queue's previous dispatch has committed, where ORDERED asks for it (R287). -/
def orderMet (s : State) (x : Dispatch) : Bool :=
  !bit (field x.record 6 1) 0
    || !s.disps.any (fun y => y.id.queue == x.id.queue && y.id.seq + 1 == x.id.seq && y.phase != .ended)

/-- A waiting dispatch waits for HELD segments or save frames, or for its queue (R287, R292). -/
def waitsApart (s : State) (x : Dispatch) : Bool :=
  !orderMet s x || (List.range 128).any (fun n => boundCore s x n && !relayFree s x.id (relayOf n))
  || [0, 1].any (fun d => boundDie s x d && (rangeFrom (16 * d) 16).all (fun r => !relayFree s x.id r))
  || !framesFree s (4 * max 1 (shapeOf x))

/-- Another waiting dispatch of the class comes first (R292). -/
def someoneFirst (s : State) (x : Dispatch) : Bool :=
  s.disps.any (fun y => y.phase == .waiting && y.fate.isNone && y.cls == x.cls && y.tDoorbell < x.tDoorbell
    && !waitsApart s y)

/-- Relays are those of whole free reserved Fields (R39, R296, R304). -/
def wholeFields (s : State) (relays : List Nat) : Bool :=
  relays == relaysOf ((List.range 8).filter (fun f => relays.contains (4 * f))) && (relays.map fieldOfRelay).all (sprintFree s)

/-- Relays that a waiting dispatch may be placed on: SHAPE of them, all free; a SPRINT dispatch takes the Fields it was
admitted on, or, where one of their units has been fenced since, as many free reserved Fields, or what remains (R296, R304). -/
def mayTake (s : State) (x : Dispatch) (relays : List Nat) : Bool :=
  risingRelays relays && !relays.isEmpty && relays.all (relayFree s x.id)
  && (if x.cls == .sprint then
        relays == x.relays.filter (fun r => !(s.relayCores r).isEmpty)
        || ((fieldCores (x.relays.map fieldOfRelay)).any s.coreFenced && relays.length == x.relays.length && wholeFields s relays)
      else shapeOf x == 0 || relays.length == shapeOf x)

/-- The total time that the Fields of a placement need to wake, in ns (R403, R407). -/
def wakeTime (s : State) (relays : List Nat) : Nat :=
  ((List.range 8).map (fun f => if !relays.any (fun r => fieldOfRelay r == f) then 0 else
    match (s.field f).st with
    | .run => 0
    | .warm => 500
    | .sleep => 30000
    | .off => 200000)).sum

/-- Fields of a placement that are in F-RUN (R407). -/
def runFields (s : State) (relays : List Nat) : Nat :=
  ((List.range 8).filter (fun f => relays.any (fun r => fieldOfRelay r == f) && (s.field f).st == .run)).length

/-- The placements that the Starter compares for a MIDDLE or DISTANCE dispatch (R306; log entry 60): for every set of Fields and
every number of Relays that SHAPE allows, the free Relays of lowest number there that take the dispatch now. -/
def candidates (s : State) (x : Dispatch) : List (List Nat) :=
  let free := (List.range 32).filter (relayFree s x.id)
  let shapes := if shapeOf x == 0 then rangeFrom 1 free.length else [shapeOf x]
  ((rangeFrom 1 255).map (fun m =>
    let there := free.filter (fun r => bit m (fieldOfRelay r))
    (shapes.filter (· ≤ there.length)).map (fun n => there.take n))).flatten.filter
      (fun rs => verdict s x (coresOf s rs) == .ok)

/-- A time is at most a number of percent above another; one that is not finite exceeds every finite one. -/
def within (pct : Nat) : Option Nat → Option Nat → Bool
  | some a, some b => 100 * a ≤ b * (100 + pct)
  | none, some _ => false
  | _, none => true

/-- The lower of two predicted times. -/
def lowerTime (a b : Option Nat) : Option Nat :=
  match a, b with
  | some a, some b => some (min a b)
  | some a, none => some a
  | none, b => b

/-- The placement that a candidate leaves standing (R306, R407): its predicted time is within CONSOLIDATE_PCT of the lowest, and
among the candidates of which that holds too its Fields need the shortest total wake, and among equals more of them are in F-RUN. -/
def bestPlacement (s : State) (c : Ctx) (x : Dispatch) (relays : List Nat) : Bool :=
  let pct := s.settingN 0x031C 0
  let time := fun rs => predict s c x rs (coresOf s rs)
  let all := candidates s x
  all.all (fun y => y == relays
    || (within pct (time relays) (time y)
      && (!within pct (time y) ((all.map time).foldl lowerTime (time relays))
        || wakeTime s relays < wakeTime s y
        || (wakeTime s relays == wakeTime s y && runFields s y ≤ runFields s relays))))

/-- Places a dispatch (R54, R112, R172 to R175, R293, R299). -/
def placeOn (s : State) (c : Ctx) (x : Dispatch) (relays : List Nat) : State :=
  let cores := coresOf s relays
  let y := { x with relays := relays, cores := cores, phase := .running, lastMove := s.now
                    void := x.void || (x.cls == .sprint && (fieldCores (x.relays.map fieldOfRelay)).any s.coreFenced) }
  let y := giveFrames s y
  let bound := cores.map (boundCore s y)
  let s := mapFootprint (s.setDisp y) y
  let s := (cores.zip bound).foldl (fun s p => clearCore s c p.2 p.1) s
  wakeFields (pinKeys s y (diesOf cores) y.prog.pins) cores

/-- The Starter's policy leaves a placement of a MIDDLE or DISTANCE dispatch standing; those of SPRINT dispatches are the
admission's (R298, R306, R407). -/
def policyMet (s : State) (x : Dispatch) (relays : List Nat) : Bool :=
  x.cls == .sprint || (s.ctx? x.ctx).any (fun c => bestPlacement s c x relays)

/-- The Starter tries a first placement: placed, refused, or not now. -/
def tryPlace (s : State) (x : Dispatch) (relays : List Nat) : Option State :=
  match s.ctx? x.ctx with
  | none => none
  | some c =>
    if !(mayTake s x relays && orderMet s x) then none
    else match verdict s x (coresOf s relays) with
      | .ok => some (placeOn s c x relays)
      | .refuse => some (refuseDispatch s x .admissionDenied)
      | .wait => none

/-- A waiting dispatch whose outcome is open. -/
def waiting? (s : State) (d : DRef) : Option Dispatch :=
  (s.disp? d).filter (fun x => x.phase == .waiting && x.fate.isNone)

/-- DISPATCH_PLACE (R292, R293, R306, R407). -/
def execDispatchPlace (d : DRef) (relays : List Nat) (s : State) : Out :=
  match waiting? s d with
  | none => .next s
  | some x =>
    if !(s.admits && !someoneFirst s x && policyMet s x relays) then .next s else .next ((tryPlace s x relays).getD s)

/-- DISTANCE_YIELD_EXPIRY (R291): a MIDDLE dispatch that has waited DISTANCE_YIELD ticks pre-empts DISTANCE dispatches and
takes their Relays, by the same policy as if none of them were placed (R306). -/
def execDistanceYieldExpiry (d : DRef) (relays : List Nat) (s : State) : Out :=
  match waiting? s d with
  | none => .next s
  | some x =>
    if !(s.admits && x.cls == .middle && due s.now x.waitSince (s.settingN 0x030E 0) && !someoneFirst s x
        && policyMet (preemptOn s (List.range 32) (fun y => y.cls == .distance)) x relays) then .next s
    else .next ((tryPlace (preemptOn s relays (fun y => y.cls == .distance)) x relays).getD s)

/-- DISPATCH_RESUME (R295): the same Relays are free again, every core of the placement in service; where a soft fence had
the dispatch saved (R305), recovery has returned the unit. -/
def execDispatchResume (d : DRef) (s : State) : Out :=
  match s.disp? d with
  | none => .next s
  | some x => match s.ctx? x.ctx with
    | none => .next s
    | some c =>
      if s.isUp && x.phase == .saved && x.fate.isNone && x.relays.all (relayFree s x.id) && coresOf s x.relays == x.cores
      then .next (askGrants (restoreDispatch s c { x with redivide := false }) d)
      else .next s

/-- The Core Store segments of a dispatch fit on new cores. -/
def moveFits (s : State) (x : Dispatch) (cores : List Nat) : Bool :=
  cores.all (fun n => (segsOn s.mem.csMap n).length + (x.prog.foot.filter (·.core)).length
    ≤ 32 - (if reservedField s (fieldOf n) && x.cls != .sprint then s.settingN 0x030C 0 else 0))

/-- Relay r may take the share of Relay q of a dispatch (R304): another, free, with as many cores, whose segments have room,
on the same die where Infield segments are mapped. -/
def mayStandIn (s : State) (x : Dispatch) (r q : Nat) : Bool :=
  !x.relays.contains r && relayFree s x.id r
  && (s.relayCores r).length == (x.cores.filter (fun n => relayOf n == q)).length && moveFits s x (s.relayCores r)
  && (r / 16 == q / 16 || !x.prog.foot.any (fun f => !f.core))

/-- A placement of the same shape on other Relays (R304), for SPRINT on whole free reserved Fields (R39). -/
def sameShape (s : State) (x : Dispatch) (relays : List Nat) : Bool :=
  risingRelays relays && relays.length == x.relays.length && (relays.zip x.relays).all (fun p => mayStandIn s x p.1 p.2)
  && (x.cls != .sprint || wholeFields s relays)

/-- The Relays given, in rising order, can stand in for those listed. -/
def standIns (s : State) (x : Dispatch) : List Nat → List Nat → Bool
  | _, [] => true
  | [], _ :: _ => false
  | r :: rs, q :: qs => if mayStandIn s x r q then standIns s x rs qs else standIns s x rs (q :: qs)

/-- Some placement of a dispatch's shape is free (R304). -/
def shapeFree (s : State) (x : Dispatch) : Bool :=
  if x.cls == .sprint then (rangeFrom 1 255).any (fun m => sameShape s x (relaysOf (maskFields m)))
  else standIns s x (List.range 32) x.relays

/-- Moves a running or saved dispatch to other Relays (R304); its key pins hold on their dies too (R112). -/
def migrateTo (s : State) (c : Ctx) (x : Dispatch) (relays : List Nat) : State :=
  let s := if x.phase == .running then saveDispatch s x else s
  let x := (s.disp? x.id).getD x
  let cores := coresOf s relays
  let (s, y) := replaceCores s x relays cores (x.cores.zip cores)
  let y := { y with migrations := min (y.migrations + 1) 0xFFFF, lastMove := s.now, redivide := false }
  let s := pinKeys s y (diesOf cores) y.prog.pins
  settleFences (releaseFields (askGrants (restoreDispatch s c y) y.id))

/-- Migrates a dispatch where R304 allows it: under a soft fence, or a pre-empted dispatch. -/
def tryMigrate (s : State) (d : DRef) (relays : List Nat) : State :=
  match s.disp? d with
  | none => s
  | some x => match s.ctx? x.ctx with
    | none => s
    | some c =>
      let may := x.redivide || (x.cls != .sprint && x.phase == .saved)
      if s.isUp && (x.phase == .running || x.phase == .saved) && x.fate.isNone && may && sameShape s x relays then
        migrateTo s c x relays
      else s

/-- MIGRATION (R304). -/
def execMigration (d : DRef) (relays : List Nat) (s : State) : Out := .next (tryMigrate s d relays)

/-- The cost table of a dispatch on its placement. -/
def ownTable (s : State) (x : Dispatch) : Option (List StageCost) :=
  (s.ctx? x.ctx).bind (fun c => costTable c x (shapeOfCores x.relays x.cores))

/-- The table's count of the stage that a dispatch runs. -/
def stageCount (s : State) (x : Dispatch) : Nat := (((ownTable s x).bind (fun t => t.find? (·.at_ == x.stageAt))).map (·.ck)).getD 0

/-- The measured rate of a dispatch in percent of its cost table (R306; log entry 60): over the stages that ended in the window,
and the one that runs where it has already run longer than its count; none where nothing tells it. -/
def ratePercent (s : State) (x : Dispatch) : Option Nat :=
  let ran := (x.ck3 - x.stageCk3) / 3
  let late := x.stage != .between && stageCount s x < ran
  let done := x.doneCk + (if late then stageCount s x else 0)
  let run := x.runCk + (if late then ran else 0)
  if run == 0 || (ownTable s x).isNone then none else some (100 * done / run)

/-- What a measurement window that ends leaves of the measures of a dispatch (R306). -/
def measured (s : State) (x : Dispatch) : Dispatch :=
  { x with doneCk := 0, runCk := 0
           slow := match ratePercent s x with
             | none => x.slow
             | some p => if p < s.settingN 0x0310 0 then some (x.slow.getD s.now) else none }

/-- Relays of the list given, in rising order, that can stand in for those of a dispatch (R304). -/
def standInList (s : State) (x : Dispatch) : List Nat → List Nat → List Nat
  | _, [] => []
  | [], _ :: _ => []
  | r :: rs, q :: qs => if mayStandIn s x r q then r :: standInList s x rs qs else standInList s x rs (q :: qs)

/-- A Relay has been free for a time (R306). -/
def longFree (s : State) (n r : Nat) : Bool := nth s.relayBusy r 0 + n ≤ s.now

/-- The placement to which a dispatch is rebalanced (R306; log entry 60): among those of its shape that have been free for
REBAL_HOLD ticks, by sets of Fields, the one of lowest predicted time, if that is at most half the measured one. -/
def rebalanceTo (s : State) (c : Ctx) (x : Dispatch) (percent : Nat) : Option (List Nat) :=
  let hold := s.settingN 0x0311 0
  let time := fun rs => predict s c x rs (coresOf s rs)
  let cands := ((rangeFrom 1 255).map (fun m =>
    standInList s x ((List.range 32).filter (fun r => bit m (fieldOfRelay r) && longFree s hold r)) x.relays)).filter (sameShape s x)
  let best := cands.foldl (fun (b : Option (List Nat)) y => match b with
    | none => some y
    | some z => if within 0 (time z) (time y) then some z else some y) none
  match predict s c x x.relays x.cores, best.bind time with
  | some own, some t => if 2 * percent * t ≤ 100 * own then best else none
  | _, _ => none

/-- The rebalancing of one dispatch at the end of a window (R306): its measured rate has been low for REBAL_HOLD ticks, and it has
not moved in REBAL_HOLD ticks. -/
def rebalance (s : State) (d : DRef) (percent : Option Nat) : State :=
  match s.disp? d with
  | none => s
  | some x => match s.ctx? x.ctx, percent, x.slow with
    | some c, some p, some since =>
      let hold := s.settingN 0x0311 0
      if x.cls == .sprint || x.redivide || x.fate.isSome || since + hold > s.now || x.lastMove + hold > s.now then s
      else match rebalanceTo s c x p with
        | some relays => migrateTo s c x relays
        | none => s
    | _, _, _ => s

/-- The dispatches that a die's window measures: those placed with their lead core there. -/
def measuredOn (s : State) (die : Nat) : List Dispatch := s.disps.filter (fun x => x.phase == .running && dieOf x.lead == die)

/-- PLACE_WINDOW_EXPIRY (R306): a measurement window of a die has ended; rates are taken, and dispatches may be rebalanced. -/
def execPlaceWindowExpiry (die : Nat) (s : State) : Out :=
  let ticks := s.settingN 0x030F 0
  if s.isUp && die < 2 && due s.now (s.meter die).placeSince ticks then
    let xs := measuredOn s die
    let t := s.modMeter die (fun m => { m with placeSince := s.now, keyCur := 0, keyRate := m.keyCur / max 1 (s.now - m.placeSince) })
    let t := { t with disps := t.disps.map (fun x => if xs.any (·.id == x.id) then measured s x else x) }
    .next (xs.foldl (fun t x => rebalance t x.id (ratePercent s x)) t)
  else .next s

/-- Re-division at a stage boundary (R305): the cores that remain in service go on, on the Relays that keep one; with none left
the dispatch is saved and waits to be migrated. RESIDUE_EVENTS stays each core's own (R67). -/
def redivideAt (s : State) (x : Dispatch) : State :=
  let relays := x.relays.filter (fun r => x.cores.any (fun n => relayOf n == r && !s.coreFenced n))
  let cores := x.cores.filter (fun n => !s.coreFenced n)
  if cores.isEmpty then saveDispatch s x
  else
    let lead := cores.foldl min (cores.headD 0)
    let regs := s.core x.lead
    let (s, y) := replaceCores s x relays cores (if lead == x.lead then [] else [(x.lead, lead)])
    let own := (s.core lead).status.toNat / 2 ^ 16 * 2 ^ 16
    let s := s.setCore lead { regs with lastCtx := some x.ctx, ck3 := (s.core lead).ck3
                                        status := BitVec.ofNat 32 (own + regs.status.toNat % 2 ^ 16) }
    let gone := fun (e : SegMap) => e.owner == some x.id && !cores.contains e.unit
    let s := { s with mem := { s.mem with csMap := s.mem.csMap.filter (fun e => !gone e) } }
    settleFences (releaseFields (s.setDisp { y with redivide := false }))

/-- STAGE_END_RETIRE (R199, R231, R248, R305): every stream of the stage has completed, and what no later stage reads is
released. A dispatch that a soft fence concerns is re-divided here where no placement of its shape is free to migrate it
to (R304). -/
def execStageEndRetire (d : DRef) (s : State) : Out :=
  match s.acts d with
  | none => .next s
  | some x =>
    if !(x.stage == .ending && x.streams.isEmpty && x.inflight.isEmpty && x.redo.isEmpty) then .next s
    else
      let x := { x with stage := .between, doneCk := x.doneCk + stageCount s x, runCk := x.runCk + (x.ck3 - x.stageCk3) / 3 }
      let s := releaseDead s x
      if x.redivide && !shapeFree s x then .next (redivideAt (s.setDisp x) x)
      else .next (s.setDisp x)

/-- A wait in which a dispatch is halted: the answer copy of handoff.in is none (R145). -/
def halting (w : Option WaitState) : Bool :=
  match w with
  | none => false
  | some (.answer _) => false
  | some _ => true

/-- A MIDDLE or DISTANCE dispatch that a soft fence concerns and that is halted, in a wait or with a halted stream, is saved
(R305). -/
def saveHaltedAll (s : State) : State :=
  s.disps.foldl (fun s x => match s.disp? x.id with
    | some y =>
      if y.phase == .running && y.redivide && y.cls != .sprint && y.fate.isNone
          && (halting y.wait || y.streams.any (·.state != .running)) then saveDispatch s y else s
    | none => s) s

end Sys2Proof.Machine
end

