-- ==== Sys2Proof/Machine/Mailbox.lean ====
section
/-! DEFINITION. Mailboxes: requests, responses and the general refusals (R323, R324, R326), and DISPATCH_COMMIT, which
answers the ABORT commands that wait for it (R307, R340). -/

namespace Sys2Proof.Machine

/-- DETAIL when no entry of a list is meant (R323). -/
def noDetail : Nat := 0xFFFFFFFF

/-- A mailbox that nothing has used: its slots hold zeros. -/
def Mailbox.idle : Mailbox := ⟨[], none, false, false, false, none, 0, 0, false⟩

/-- A mailbox of the module. -/
def State.mb (s : State) (m : Nat) : Mailbox := (assoc m s.mbs).getD Mailbox.idle

/-- Replaces a mailbox. -/
def State.setMb (s : State) (m : Nat) (b : Mailbox) : State := { s with mbs := assocSet m b s.mbs }

/-- The bytes of a request slot (R323). -/
def reqBytes (op : Nat) (r : MbReq) : Bytes :=
  leBytes 4 (if r.wellFormed then 0x0960A2B0 else 0) ++ leBytes 2 op ++ leBytes 2 r.flags ++ leBytes 8 r.seq
    ++ leBytes 4 r.ctx ++ leBytes 4 r.payload.length ++ leBytes 4 r.txn ++ zeros 36 ++ r.payload

/-- A request as it lies in a slot (R323): OPCODE and the request. -/
def parseReq (b : Bytes) : Nat × MbReq :=
  let n := field b 20 4
  (field b 4 2, { wellFormed := field b 0 4 == 0x0960A2B0 && n ≤ 4032 && allZero b 28 36, flags := field b 6 2
                  seq := field b 8 8, ctx := field b 16 4, txn := field b 24 4, payload := slice b 64 (min n 4032) })

/-- The bytes of a response (R323). -/
def rspBytes (r : MbRsp) : Bytes :=
  leBytes 4 0x0960A2B1 ++ leBytes 2 r.opcode ++ leBytes 1 r.status.code
    ++ leBytes 1 (match r.fault with
        | some f => f.code
        | none => 0)
    ++ leBytes 8 r.seq ++ leBytes 4 r.payload.length ++ leBytes 4 r.detail ++ leBytes 8 r.ticks ++ zeros 32 ++ r.payload

/-- MB_STATUS_m (R320). -/
def mbStatus (b : Mailbox) : Nat := flag b.overrun 2 + flag b.done 1 + flag b.busy 0

/-- What a command answers: STATUS, FAULT, DETAIL and payload. -/
structure Answer where
  status : Status
  fault : Option FaultCode
  detail : Nat
  payload : Bytes
  deriving DecidableEq, Repr

/-- ST_OK with a payload. -/
def Answer.ok (p : Bytes) : Answer := ⟨.ok, none, noDetail, p⟩

/-- ST_DENIED with a fault. -/
def Answer.denied (f : FaultCode) : Answer := ⟨.denied, some f, noDetail, []⟩

/-- ST_DENIED with a fault and the index of the offending entry. -/
def Answer.deniedAt (f : FaultCode) (i : Nat) : Answer := ⟨.denied, some f, i, []⟩

/-- Another status, without a fault. -/
def Answer.plain (st : Status) : Answer := ⟨st, none, noDetail, []⟩

/-- What a command comes to: the state after it, and its answer, or what it waits for. -/
structure Reply where
  state : State
  answer : Except MbWait Answer

/-- A command answers. -/
def reply (s : State) (a : Answer) : Reply := ⟨s, .ok a⟩

/-- A command is refused and has no effect. -/
def deny (s : State) (f : FaultCode) : Reply := ⟨s, .ok (.denied f)⟩

/-- The Marshal writes a response: BUSY clear, DONE set, the interrupt sent if one was asked for (R324). -/
def respond (s : State) (m : Nat) (a : Answer) : State :=
  let b := s.mb m
  let r : MbRsp := { opcode := b.opcode, status := a.status, fault := a.fault, seq := b.seq, detail := a.detail
                     ticks := s.splitCounter 5 0, payload := a.payload }
  let s := s.setMb m { b with rsp := some r, busy := false, done := true, wait := none }
  if b.irq then s.interrupt m else s

/-- The Marshal serves mailboxes: VRSP is up and step 6 of R367 has released it, or the module is in its start fault or in
boot recovery (R368, R394, R401). -/
def marshalUp (s : State) : Bool :=
  match s.pwr.st with
  | .up => true
  | .rest => true
  | .restEntry => true
  | .restWake => true
  | .startFault => true
  | .bootRecovery => true
  | _ => false

/-- Command codes of R326. -/
def opAttestGet : Nat := 0x0050
/-- FW_STAGE. -/
def opFwStage : Nat := 0x0060
/-- FW_ACTIVATE. -/
def opFwActivate : Nat := 0x0061

/-- The size of a payload is one the command table gives (R324, R326). -/
def payloadOk (op : Nat) (p : Bytes) : Bool :=
  let fixed : List (Nat × Nat) :=
    [(0x01, 348), (0x02, 0), (0x03, 5), (0x11, 4), (0x12, 12), (0x18, 12), (0x19, 2), (0x1C, 72), (0x1D, 4), (0x20, 10),
     (0x21, 2), (0x24, 6), (0x28, 24), (0x30, 4), (0x31, 5), (0x32, 8), (0x38, 128), (0x39, 4), (0x3A, 4), (0x40, 0)] ++
    [(0x42, 0), (0x43, 0), (0x44, 8), (0x48, 16), (0x49, 16), (0x4A, 16), (0x59, 0), (0x5A, 9), (0x60, 12), (0x61, 48)]
  match assoc op fixed with
  | some n => p.length == n
  | none =>
    if op == 0x10 then p.length ≥ 16 && p.length == 16 + 8 * field p 4 4
    else if op == 0x41 then p.length ≥ 16 && p.length == 16 + 16 * field p 0 4
    else if op == 0x50 then p.length ≥ 4 && p.length == 4 + field p 0 2
    else if op == 0x58 then p.length ≥ 64 && p.length == 64 + 48 * field p 9 1
    else false

/-- Commands whose CONTEXT_ID is none (R326). -/
def opNoCtx (op : Nat) : Bool := [0x01, 0x40, 0x41, 0x42, 0x43, 0x44, 0x58, 0x59, 0x5A, 0x60, 0x61].contains op

/-- Commands of mailbox class 0 (R326). -/
def opClass0 (op : Nat) : Bool := [0x58, 0x59, 0x5A, 0x60, 0x61].contains op

/-- The general refusals of R324, with R368 and R401; none where the command is to be carried out. -/
def generalRefusal (s : State) (op m : Nat) (r : MbReq) : Option FaultCode :=
  if !(r.wellFormed && r.flags < 2 && payloadOk op r.payload && (r.txn == 0 || [0x41, 0x42, 0x43].contains op)
      && (!opNoCtx op || r.ctx == noCtx)) then some .descInvalid
  else if (s.pwr.st == .startFault || s.pwr.st == .bootRecovery)
      && !(m == 0 && [opAttestGet, opFwStage, opFwActivate].contains op) then some .accessDenied
  else if opClass0 op && m != 0 then some .accessDenied
  else if !opNoCtx op && !(op == opAttestGet && r.ctx == noCtx) && (s.ctx? r.ctx).isNone then some .accessDenied
  else none

/-- Commands that do not wake the module from REST (R402). -/
def opQuiet (op : Nat) : Bool := [0x50, 0x44, 0x40, 0x41, 0x43].contains op

/-- What a request slot holds once a command in it is rung: the bytes the host wrote, or for a command given as a row those of
its request (R319, R323). -/
def slotBytes (b : Bytes) (op : Nat) (r : MbReq) : Bytes := if parseReq b == (op, r) then b else reqBytes op r

/-- A mailbox doorbell that the link holds, with the request slot as it was when the doorbell was written (R317, R324). -/
def heldBell (m : Nat) (slot : Bytes) : Instr := .registerWrite (.aperture (0x10000 + 16 * m)) 4096 (leNat (slice slot 0 4096))

/-- A mailbox command: the doorbell, the general refusals and the command itself (R324). A doorbell waits behind the host window
writes that the link holds (R317, R402). -/
def mbCommand (op m : Nat) (r : MbReq) (h : State → Reply) (s : State) : Out :=
  if !(m < 64 && s.linkUp && marshalUp s) then .next s
  else if bellWaits s then
    let b := slotBytes (s.mb m).req op r
    .next ((s.setMb m { s.mb m with req := b }).holdAtLink (heldBell m b))
  else
    let b := s.mb m
    if b.busy then .next (s.setMb m { b with overrun := true })
    else
      let s := s.setMb m { b with req := slotBytes b.req op r, busy := true, done := false, opcode := op, seq := r.seq
                                  irq := bit r.flags 0 }
      match generalRefusal s op m r with
      | some f => .next (respond s m (.denied f))
      | none =>
        let s := if opQuiet op then s else wakeRest s
        let y := h s
        match y.answer with
        | .ok a => .next (respond y.state m a)
        | .error w => .next (y.state.setMb m { y.state.mb m with wait := some w })

/-- Ends the commands that wait for something, with the answers given. -/
def answerWaits (s : State) (p : MbWait → Option Answer) : State :=
  s.mbs.foldl (fun s b => match b.2.wait.bind p with
    | some a => respond s b.1 a
    | none => s) s

/-- The answer of ABORT once the outcome is committed (R340). -/
def abortAnswer (d : DRef) (outcome flags : Nat) (w : MbWait) : Option Answer :=
  match w with
  | .abort e => if e == d then some (.ok (leBytes 1 outcome ++ leBytes 1 flags)) else none
  | _ => none

/-- DISPATCH_RECORD_READ (R288, R338). -/
def execDispatchRecordRead (q : Nat) (s : State) : Out :=
  match s.queue? q with
  | none => .next s
  | some x => match s.ctx? x.ctx with
    | none => .next s
    | some c =>
      if !(s.admits && recordReady x) then .next s
      else
        let t := readRecord s c x
        let d : DRef := ⟨q, x.consumed + 1⟩
        match t.disp? d with
        | some y => if y.phase == .ended then .next (answerWaits t (abortAnswer d ocRefused 0)) else .next t
        | none => .next t

/-- DISPATCH_COMMIT (R307, R309, R340): the outcome, and the answers of the ABORT commands that name the dispatch. -/
def execDispatchCommit (d : DRef) (s : State) : Out :=
  match s.disp? d with
  | none => .next s
  | some x => match outcomeOf x with
    | none => .next s
    | some o =>
      if x.phase == .ended then .next s
      else
        let s := commitDispatch s x o
        .next (answerWaits s (abortAnswer d o.outcome (flag x.abortLate 0)))

end Sys2Proof.Machine
end

