-- ==== Sys2Proof/Machine/Transactions.lean ====
section
/-! DEFINITION. Configuration transactions: CFG_BEGIN to CFG_GET and expiry (R333 to R337), with the cross-setting limits of
R124, R191, R246, R310, R408 and R418. -/

namespace Sys2Proof.Machine

/-- Both dies, as TARGET names them (R334). -/
def bothDies : Nat := 0xFFFFFFFF

/-- The units a TARGET stands for. -/
def targetUnits (id target : Nat) : List Nat :=
  if 0x0200 ≤ id && id < 0x0300 && target == bothDies then [0, 1] else [target]

/-- A TARGET that a setting of its scope may have (R334). -/
def targetOk (s : State) (id target : Nat) : Bool :=
  match settingRow id with
  | none => false
  | some r => match r.scope with
    | .context => (s.ctx? target).isSome
    | .die => target < 2 || target == bothDies
    | .module => target == 0

/-- A staged entry (R334): ID and TARGET, and the value. -/
abbrev Entry := (Nat × Nat) × Int

/-- Entry i of a CFG_SET payload (R334): the value is signed where the setting is. -/
def cfgEntry (p : Bytes) (i : Nat) : Entry :=
  let o := 16 + 16 * i
  let v := field p (o + 8) 8
  ((field p o 2, field p (o + 4) 4), if field p o 2 == 0x0102 then signed 64 v else (v : Int))

/-- log2 Z that will hold for a context: staged, or decided (R140). -/
def slotLog (s : State) (staged : List Entry) (ctx : Nat) : Nat :=
  ((assoc (0x0105, ctx) staged).getD (s.settingNext 0x0105 ctx)).toNat

/-- The refusal of one entry (R334, R140); none when it may be staged. -/
def entryFault (s : State) (m : Nat) (p : Bytes) (staged : List Entry) (i : Nat) : Option FaultCode :=
  let e := cfgEntry p i
  if !(allZero p (18 + 16 * i) 2 && targetOk s e.1.1 e.1.2 && settingOk e.1.1 e.2) then some .descInvalid
  else if e.1.1 == 0x0103 && e.2.toNat % 2 ^ slotLog s staged e.1.2 != 0 then some .descInvalid
  else if 0x0200 ≤ e.1.1 && m != 0 then some .accessDenied
  else none

/-- An open transaction. -/
def txn? (s : State) (n : Nat) : Option Txn := s.cfg.txns.find? (·.num == n)

/-- Ends a transaction. -/
def dropTxn (s : State) (n : Nat) : State := { s with cfg := { s.cfg with txns := s.cfg.txns.filter (·.num != n) } }

/-- CFG_BEGIN (R334). -/
def cfgBegin (s : State) : Reply :=
  if s.cfg.txns.length ≥ 64 then reply s (.plain .busy)
  else
    let n := s.cfg.lastTxn + 1
    let t : Txn := ⟨n, s.now, s.cfg.order, []⟩
    reply { s with cfg := { s.cfg with txns := s.cfg.txns ++ [t], lastTxn := n } } (.ok (leBytes 4 n))

/-- CFG_SET (R334). -/
def cfgSet (m : Nat) (r : MbReq) (s : State) : Reply :=
  let n := field r.payload 0 4
  if !(1 ≤ n && n ≤ 251 && allZero r.payload 4 12) then deny s .descInvalid
  else match txn? s r.txn with
    | none => deny s .descInvalid
    | some t =>
      let es := (List.range n).map (cfgEntry r.payload)
      let staged := es.foldl (fun l e => assocDel e.1 l ++ [e]) t.staged
      match (List.range n).findSome? (fun i => (entryFault s m r.payload staged i).map (fun f => (f, i))) with
      | some (f, i) => reply s (.deniedAt f i)
      | none => reply { s with cfg := { s.cfg with txns := s.cfg.txns.map (fun y =>
          if y.num == t.num then { y with staged := staged } else y) } } (.ok [])

/-- What a commit would leave: the staged values unit by unit, in the order staged. -/
def afterCommit (es : List Entry) : List Entry :=
  es.foldl (fun l e => (targetUnits e.1.1 e.1.2).foldl (fun l u => assocSet (e.1.1, u) e.2 l) l) []

/-- A value as it would hold after a commit (R335). -/
def viewOf (s : State) (after : List Entry) (id target : Nat) : Int := (assoc (id, target) after).getD (s.settingNext id target)

/-- Bytes of pinned copies on a die (R112). -/
def pinnedBytes (s : State) (die : Nat) : Nat :=
  copyBytes s die (fun k => k.stage != .evicted && !k.loose)

/-- The limits on one die (R124, R191, R310). -/
def dieLimits (s : State) (v : Nat → Nat → Int) (die : Nat) : Bool :=
  let key := (v 0x0200 die).toNat
  let hold := (v 0x0201 die).toNat
  pinnedBytes s die ≤ key * 2 ^ 20 && heldOn s.mem.ifMap die ≤ hold && hold + key ≤ 256
  && (v 0x0204 die).toNat + hold + key ≤ 256 && (v 0x0202 die).toNat + (v 0x0203 die).toNat ≤ 16

/-- The Mark ranges that a context holds or will hold (R246, R429). -/
def markRanges (s : State) (v : Nat → Nat → Int) (ctx : Nat) : List (Nat × Nat) :=
  [((v 0x0106 ctx).toNat, (v 0x0107 ctx).toNat), (s.settingN 0x0106 ctx, s.settingN 0x0107 ctx)]

/-- The limits on the Mark range of a context whose range changes (R246, R429). -/
def markLimits (s : State) (v : Nat → Nat → Int) (ctx : Nat) : Bool :=
  let b := (v 0x0106 ctx).toNat
  let n := (v 0x0107 ctx).toNat
  n == 0 || (b + n ≤ 16384 && s.ctxs.all (fun c => c.num == ctx
    || ((markRanges s v c.num).all (fun r => r.2 == 0 || !meets b n r.1 r.2) && c.oldMarks.all (fun k => !(b ≤ k && k < b + n)))))

/-- The cross-setting limits on the values that would hold after a commit (R335). -/
def limitsOk (s : State) (after : List Entry) : Bool :=
  let v := viewOf s after
  let m := fun id => (v id 0).toNat
  let fields := ((List.range 8).filter (bit (m 0x030A))).length
  let inUse := framesHeld s - 16 * ((List.range 8).filter (reservedField s)).length
  dieLimits s v 0 && dieLimits s v 1
  && (List.range 128).all (fun n => heldOn s.mem.csMap n ≤ m 0x0302)
  && m 0x030C + m 0x0302 ≤ 32
  && (inUse + 16 * fields) * 88 ≤ m 0x030D * 1024
  && !(m 0x0313 == 1 && m 0x030A != 0) && m 0x0315 + 5 ≤ m 0x0316 && m 0x031A ≤ m 0x031B && m 0x0319 < m 0x031E
  && after.all (fun e => !(e.1.1 == 0x0106 || e.1.1 == 0x0107) || markLimits s v e.1.2)

/-- Why a commit fails (R335): the fault and the entry. -/
def commitFault (s : State) (t : Txn) : Option (FaultCode × Nat) :=
  let es := t.staged
  let clash := fun (e : Entry) => (targetUnits e.1.1 e.1.2).any (fun u => match assoc (e.1.1, u) s.cfg.changes with
    | some o => o > t.order
    | none => false)
  match es.findIdx? clash with
  | some i => some (.txnConflict, i)
  | none => match es.findIdx? (fun e => e.1.1 < 0x0200 && (s.ctx? e.1.2).isNone) with
    | some i => some (.accessDenied, i)
    | none => if limitsOk s (afterCommit es) then none else some (.admissionDenied, noDetail)

/-- CFG_COMMIT (R335): decided at once, in effect under R336. -/
def cfgCommit (r : MbReq) (s : State) : Reply :=
  match txn? s r.txn with
  | none => deny s .descInvalid
  | some t =>
    let s := dropTxn s t.num
    match commitFault s t with
    | some (f, i) => reply s (.deniedAt f i)
    | none =>
      let after := afterCommit t.staged
      let o := s.cfg.order + 1
      reply { s with cfg := { s.cfg with order := o
                                         decided := after.foldl (fun l e => assocSet e.1 e.2 l) s.cfg.decided
                                         changes := after.foldl (fun l e => assocSet e.1 o l) s.cfg.changes } } (.ok [])

/-- CFG_ROLLBACK (R337). -/
def cfgRollback (r : MbReq) (s : State) : Reply :=
  match txn? s r.txn with
  | none => deny s .descInvalid
  | some t => reply (dropTxn s t.num) (.ok [])

/-- CFG_GET (R336): the value in force, and the decided one that is pending. -/
def cfgGet (r : MbReq) (s : State) : Reply :=
  let id := field r.payload 0 2
  let t := field r.payload 4 4
  if !(allZero r.payload 2 2 && targetOk s id t) then deny s .descInvalid
  else
    let u := (targetUnits id t).headD 0
    let pend := assoc (id, u) s.cfg.decided
    reply s (.ok (leBytes 8 (unsignedOf 64 (s.setting id u)) ++ leBytes 1 (flag pend.isSome 0) ++ zeros 7
      ++ leBytes 8 (unsignedOf 64 (pend.getD 0))))

/-- CFG_BEGIN. -/
def execCfgBegin (m : Nat) (r : MbReq) (s : State) : Out := mbCommand 0x40 m r cfgBegin s
/-- CFG_SET. -/
def execCfgSet (m : Nat) (r : MbReq) (s : State) : Out := mbCommand 0x41 m r (cfgSet m r) s
/-- CFG_COMMIT. -/
def execCfgCommit (m : Nat) (r : MbReq) (s : State) : Out := mbCommand 0x42 m r (cfgCommit r) s
/-- CFG_ROLLBACK. -/
def execCfgRollback (m : Nat) (r : MbReq) (s : State) : Out := mbCommand 0x43 m r (cfgRollback r) s
/-- CFG_GET. -/
def execCfgGet (m : Nat) (r : MbReq) (s : State) : Out := mbCommand 0x44 m r (cfgGet r) s

/-- CFG_TXN_EXPIRY (R337): rolled back 125,000,000 ticks after its CFG_BEGIN. -/
def execCfgTxnExpiry (txn : Nat) (s : State) : Out :=
  match txn? s txn with
  | none => .next s
  | some t => if due s.now t.tick 125000000 then .next (dropTxn s txn) else .next s

end Sys2Proof.Machine
end

