-- ==== Sys2Proof/Machine/Results.lean ====
section
/-! DEFINITION. What host software manages by mailbox beside contexts: queues (R330, R338), results and ABORT (R339, R340),
scratchpad release (R174), host windows (R316), Marks (R242), the event ring (R325, R356). -/

namespace Sys2Proof.Machine

/-- The queue record of a number that a context holds or last held (R330, R339). -/
def queueOf (s : State) (ctx q : Nat) : Option Queue := s.queues.find? (fun x => x.num == q && x.ctx == ctx)

/-- Queues that a context holds. -/
def queuesOf (s : State) (ctx : Nat) : List Queue := s.queues.filter (fun x => x.alive && x.ctx == ctx)

/-- Bytes of the result stores (R338). -/
def storeBytes (s : State) : Nat := ((s.queues.filter (·.alive)).map (fun x => 128 * 2 ^ x.k)).sum

/-- The class of a CLASS code (R326). -/
def classOf (n : Nat) : Option Class3 :=
  match n with
  | 0 => some .sprint
  | 1 => some .middle
  | 2 => some .distance
  | _ => none

/-- QUEUE_CREATE (R326, R327, R330, R338): the lowest number that no queue holds. -/
def queueCreate (r : MbReq) (s : State) : Reply :=
  let va := field r.payload 0 8
  let k := field r.payload 8 1
  match s.ctx? r.ctx, classOf (field r.payload 9 1) with
  | some c, some cl =>
    if !(va % 4096 == 0 && 4 ≤ k && k ≤ 16) then deny s .descInvalid
    else if (queuesOf s r.ctx).length ≥ c.quotaQueues || storeBytes s + 128 * 2 ^ k > 2 ^ 30 then deny s .admissionDenied
    else match ((List.range (s.queues.length + 1)).find? (fun n => (s.queue? n).isNone)).filter (· < 32768) with
      | none => deny s .admissionDenied
      | some n =>
        let q : Queue := { num := n, ctx := r.ctx, cls := cl, ringVa := va, k := k, prod := 0, consumed := 0, bells := []
                           results := [], alive := true }
        let s := { s with queues := s.queues.filter (·.num != n) ++ [q]
                          disps := s.disps.filter (fun x => !(x.id.queue == n && x.phase == .ended)) }
        reply s (.ok (leBytes 2 n ++ zeros 2 ++ leBytes 4 (0x1000000 + 8 * n)))
  | _, _ => deny s .descInvalid

/-- A queue ceases to exist (R330, R339): its unread records are discarded, and ABORT commands that wait for one of them
are answered as for a released SEQ. -/
def destroyQueue (s : State) (q : Nat) : State :=
  let s := { s with queues := s.queues.map (fun x => if x.num == q then { x with alive := false, results := [] } else x) }
  answerWaits s (fun w => match w with
    | .abort e => if e.queue == q && (s.disp? e).isNone then some (.plain .released) else none
    | _ => none)

/-- QUEUE_DESTROY (R327, R330). A queue that the context does not hold is refused (DEDUCED, log entry 40). -/
def queueDestroy (r : MbReq) (s : State) : Reply :=
  let q := field r.payload 0 2
  if !(queuesOf s r.ctx).any (·.num == q) then deny s .descInvalid
  else if s.disps.any (fun x => x.id.queue == q && x.phase != .ended) then reply s (.plain .busy)
  else reply (destroyQueue s q) (.ok [])

/-- The owner that stands for the collectives of a context in the segment maps: no dispatch has this name. -/
def collOwner : DRef := ⟨0x10000, 0⟩

/-- A collective of a context names an Infield segment of a die (R271, R272). -/
def collNames (s : State) (ctx die seg : Nat) : Bool :=
  s.colls.any (fun k =>
    let touches := fun (o n : Nat) => field k.record o 4 != 0xFFFFFFFF
      && meets (field k.record o 4) n (seg * 2 ^ 20) (2 ^ 20)
    let n := field k.record 32 4
    k.ref.ctx == ctx && field k.record 6 1 == die
    && (touches 36 (4 * n) || touches 40 (if field k.record 51 1 == 2 then 2 * n else 4 * n) || touches 64 64))

/-- SPAD_RELEASE (R174, R327): a dispatch still running keeps the segment until it ends, and a collective that names it
keeps it mapped until COLL_DESTROY (R272). -/
def spadRelease (r : MbReq) (s : State) : Reply :=
  let level := field r.payload 0 1
  let unit := field r.payload 2 2
  let seg := field r.payload 4 2
  let core := level == 1
  let mine := fun (e : SegMap) => e.unit == unit && e.ctx == r.ctx && e.logical == seg && e.held
  let map := if core then s.mem.csMap else s.mem.ifMap
  if !((core || level == 2) && allZero r.payload 1 1 && map.any mine) then deny s .descInvalid
  else
    let users := s.disps.filter (fun x => x.ctx == r.ctx && (x.phase == .running || x.phase == .saved)
      && x.prog.foot.any (fun f => f.core == core && f.held && f.seg == seg)
      && (if core then x.cores.contains unit else (diesOf x.cores).contains unit))
    let kept := if !core && collNames s r.ctx unit seg then [collOwner] else []
    let map := (map.map (fun e =>
      if mine e then (users.map (·.id) ++ kept).map (fun d => { e with owner := some d, held := false }) else [e])).flatten
    reply { s with mem := if core then { s.mem with csMap := map } else { s.mem with ifMap := map } } (.ok [])

/-- HWIN_SET (R316, R326): binds a window to a range of the context, or unbinds it. -/
def hwinSet (r : MbReq) (s : State) : Reply :=
  let w := field r.payload 0 1
  let perm := field r.payload 1 1
  let va := field r.payload 8 8
  let size := field r.payload 16 8
  if !(w < 64 && perm < 4 && allZero r.payload 2 6) then deny s .descInvalid
  else if perm == 0 then reply { s with hwins := assocDel w s.hwins } (.ok [])
  else if va % 65536 == 0 && size % 65536 == 0 && 0 < size && size ≤ 2 ^ 30 && va + size ≤ 2 ^ 48 then
    reply { s with hwins := assocSet w ⟨r.ctx, va, size, bit perm 0, bit perm 1⟩ s.hwins } (.ok [])
  else deny s .descInvalid

/-- MARK_READ (R241, R242). -/
def markRead (r : MbReq) (s : State) : Reply :=
  let first := field r.payload 0 2
  let n := field r.payload 2 2
  if !(1 ≤ n && n ≤ 500) then deny s .descInvalid
  else if first + n > s.settingN 0x0107 r.ctx then deny s .accessDenied
  else reply s (.ok ((rangeFrom (s.settingN 0x0106 r.ctx + first) n).map (fun k => leBytes 8 (s.mark k).word)).flatten)

/-- A byte that clears, sets or keeps a bit (R326). -/
def keepBit (v : Nat) (old : Bool) : Bool := if v == 0xFF then old else v == 1

/-- MARK_SET (R241, R242). A VALUE of 0 ends no wait that was not satisfied before, so no waiter is looked at. -/
def markSet (r : MbReq) (s : State) : Reply :=
  let reset := field r.payload 2 1
  let host := field r.payload 3 1
  let peer := field r.payload 4 1
  let code := fun v => v < 2 || v == 0xFF
  if !(reset < 2 && code host && code peer) then deny s .descInvalid
  else match ctxMark s r.ctx (field r.payload 0 2) with
    | none => deny s .accessDenied
    | some k =>
      let m := s.mark k
      let m := { m with hostSig := keepBit host m.hostSig, peerSig := keepBit peer m.peerSig }
      reply (s.setMark k (if reset == 1 then { m with value := 0, sat := false } else m)) (.ok [])

/-- What RESULT_GET, RESULT_RELEASE and ABORT find of a SEQ (R339). -/
inductive SeqState where
  | answer (a : Answer)
  | notYet
  | written (rec : Bytes)
  deriving DecidableEq, Repr

/-- The state of the SEQ that a request names (R339, R340). -/
def seqState (s : State) (r : MbReq) : SeqState :=
  let q := field r.payload 0 2
  let n := field r.payload 8 8
  if !allZero r.payload 2 6 then .answer (.denied .descInvalid)
  else match queueOf s r.ctx q with
    | none => .answer (.denied .accessDenied)
    | some x =>
      if !x.alive then .answer (.plain .released)
      else if n == 0 || n > x.prod then .answer (.denied .descInvalid)
      else match assoc n x.results with
        | some (.written b) => .written b
        | some .released => .answer (.plain .released)
        | some .pending => .notYet
        | none => .notYet

/-- RESULT_GET (R339). -/
def resultGet (r : MbReq) (s : State) : Reply :=
  match seqState s r with
  | .answer a => reply s a
  | .notYet => reply s (.plain .notReady)
  | .written b => reply s (.ok b)

/-- RESULT_RELEASE (R339). -/
def resultRelease (r : MbReq) (s : State) : Reply :=
  let q := field r.payload 0 2
  match seqState s r with
  | .answer a => reply s a
  | .notYet => reply s (.plain .notReady)
  | .written _ => reply { s with queues := s.queues.map (fun x =>
      if x.num == q then { x with results := assocSet (field r.payload 8 8) .released x.results } else x) } (.ok [])

/-- An ABORT reaches the commit point of a dispatch (R307, R340): it wins unless an outcome has won, and comes late where
completion has. -/
def raceAbort (x : Dispatch) : Dispatch := x.abort 0 1 noInstr

/-- ABORT (R307, R340): the response waits for the outcome; a dispatch whose record is written answers at once. -/
def abortDispatch (r : MbReq) (s : State) : Reply :=
  let d : DRef := ⟨field r.payload 0 2, field r.payload 8 8⟩
  match seqState s r with
  | .answer a => reply s a
  | .written b =>
    let o := field b 14 1
    reply s (.ok (leBytes 1 o ++ leBytes 1 (flag (o == ocCompleted) 0)))
  | .notYet =>
    let s := match s.disp? d with
      | some x => s.setDisp (raceAbort x)
      | none => s
    ⟨s, .error (.abort d)⟩

/-- EVENT_RING (R325, R326, R356): the records held since start-up move to the ring when it is first set. -/
def eventRing (r : MbReq) (s : State) : Reply :=
  let base := field r.payload 0 8
  let k := field r.payload 8 1
  if !(base % 4096 == 0 && 6 ≤ k && k ≤ 16 && base + 64 * 2 ^ k + 4096 ≤ 2 ^ 46) then deny s .descInvalid
  else
    let boot := s.ev.boot
    let first := !s.ev.on
    let s := { s with ev := { s.ev with base := base, log2 := k, on := true, boot := [], mirrorTick :=
      if first then s.now else s.ev.mirrorTick } }
    reply (boot.foldl State.ringPut s) (.ok [])

/-- QUEUE_CREATE. -/
def execQueueCreate (m : Nat) (r : MbReq) (s : State) : Out := mbCommand 0x20 m r (queueCreate r) s
/-- QUEUE_DESTROY. -/
def execQueueDestroy (m : Nat) (r : MbReq) (s : State) : Out := mbCommand 0x21 m r (queueDestroy r) s
/-- SPAD_RELEASE. -/
def execSpadRelease (m : Nat) (r : MbReq) (s : State) : Out := mbCommand 0x24 m r (spadRelease r) s
/-- HWIN_SET. -/
def execHwinSet (m : Nat) (r : MbReq) (s : State) : Out := mbCommand 0x28 m r (hwinSet r) s
/-- MARK_READ. -/
def execMarkRead (m : Nat) (r : MbReq) (s : State) : Out := mbCommand 0x30 m r (markRead r) s
/-- MARK_SET. -/
def execMarkSet (m : Nat) (r : MbReq) (s : State) : Out := mbCommand 0x31 m r (markSet r) s
/-- RESULT_GET. -/
def execResultGet (m : Nat) (r : MbReq) (s : State) : Out := mbCommand 0x48 m r (resultGet r) s
/-- RESULT_RELEASE. -/
def execResultRelease (m : Nat) (r : MbReq) (s : State) : Out := mbCommand 0x49 m r (resultRelease r) s
/-- ABORT. -/
def execAbort (m : Nat) (r : MbReq) (s : State) : Out := mbCommand 0x4A m r (abortDispatch r) s
/-- EVENT_RING. -/
def execEventRing (m : Nat) (r : MbReq) (s : State) : Out := mbCommand 0x5A m r (eventRing r) s

end Sys2Proof.Machine
end

