-- ==== Sys2Proof/Machine/Collectives.lean ====
section
/-! DEFINITION. The collective units (R270 to R284): records, set-up, rounds, departures and re-forming. A unit looks at
TRIGGER_MARK at every always-on tick and at every message of the collective (log entry 50). -/

namespace Sys2Proof.Machine

/-- OP is MULTICAST (R271). -/
def cMulti (r : Bytes) : Bool := field r 4 1 == 2
/-- FORMAT is PLAIN (R271). -/
def cPlain (r : Bytes) : Bool := field r 5 1 == 1
/-- DIE. -/
def cDie (r : Bytes) : Nat := field r 6 1
/-- HOME. -/
def cHome (r : Bytes) : Nat := field r 7 1
/-- MEMBERS. -/
def cMembers (r : Bytes) : Nat := field r 8 8
/-- PARENT, 0xFF at the home. -/
def cParent (r : Bytes) : Nat := field r 16 1
/-- CHILDREN. -/
def cChildren (r : Bytes) : Nat := field r 24 8
/-- COUNT. -/
def cCount (r : Bytes) : Nat := field r 32 4
/-- SRC. -/
def cSrc (r : Bytes) : Nat := field r 36 4
/-- DST. -/
def cDst (r : Bytes) : Nat := field r 40 4
/-- RESULT. -/
def cResult (r : Bytes) : Nat := field r 64 4
/-- A region that is absent (R271). -/
def cAbsent : Nat := 0xFFFFFFFF
/-- Bytes of an element in DST. -/
def cDstE (r : Bytes) : Nat := if field r 51 1 == 2 then 2 else 4

/-- The module numbers of a mask, in ascending order. -/
def maskMods (m : Nat) : List Nat := (List.range 64).filter (bit m)

/-- The tree neighbours of a member: its parent and its children. -/
def neighbours (r : Bytes) : List Nat := (if cParent r == 0xFF then [] else [cParent r]) ++ maskMods (cChildren r)

/-- The hash of a record that SETUP carries (R273). -/
def setupHash (r : Bytes) : Bytes :=
  let r := patch (patch (patch r 6 [0]) 36 (zeros 8)) 56 (zeros 4)
  sha384 (slice r 0 16 ++ slice r 32 32)

/-- A region of a record: its offset, bytes, and alignment. -/
structure Region where
  off : Nat
  len : Nat
  align : Nat
  deriving DecidableEq, Repr

/-- The regions that must be present, and those that must be absent, by the table of R271. -/
def cRegions (r : Bytes) (home : Bool) : List (Region × Bool) :=
  let n := cCount r
  [(⟨cSrc r, 4 * n, 1024⟩, !cMulti r || home), (⟨cDst r, cDstE r * n, 1024⟩, cMulti r != home),
   (⟨cResult r, 64, 64⟩, !cMulti r && home)]

/-- Every field of a record holds a defined value (R271). -/
def recordDefined (r : Bytes) : Bool :=
  let exact := !cPlain r
  let reduce := cPlain r && !cMulti r
  allZero r 17 7 && allZero r 68 60 && field r 0 4 != 0 && (field r 4 1 == 1 || field r 4 1 == 2) && field r 5 1 < 2
  && cDie r < 2 && cHome r < 64 && (cParent r < 64 || cParent r == 0xFF) && 1 ≤ cCount r && cCount r ≤ 2 ^ 24
  && (if exact then isPow2 (field r 44 4) && 1024 ≤ field r 44 4 && field r 44 4 ≤ 131072 else field r 44 4 == 0)
  && (!exact || (1 ≤ field r 49 1 && field r 49 1 ≤ 64))
  && (if reduce then 1 ≤ field r 50 1 && field r 50 1 ≤ 64 else field r 50 1 == 0 && field r 52 4 == 0)
  && (if exact then field r 51 1 == 0 else field r 51 1 == 1 || field r 51 1 == 2)
  && 1 ≤ field r 60 4

/-- The region lies in segments that the context holds on the die (R272). -/
def regionHeld (s : State) (ctx die : Nat) (x : Region) : Bool :=
  (rangeFrom (x.off / 2 ^ 20) ((x.off + x.len - 1) / 2 ^ 20 - x.off / 2 ^ 20 + 1)).all (fun g =>
    s.mem.ifMap.any (fun e => e.unit == die && e.ctx == ctx && e.logical == g && e.held))

/-- The refusal of COLL_CREATE (R272). -/
def collFault (s : State) (c : Ctx) (r : Bytes) : Option FaultCode :=
  let me := s.sys.modNum
  let home := cHome r == me
  let rs := cRegions r home
  if !recordDefined r then some .descInvalid
  else if !(s.sys.joined && bit (cMembers r) me && home == (cParent r == 0xFF)
      && (cParent r == 0xFF || bit (cMembers r) (cParent r)) && (maskMods (cChildren r)).all (bit (cMembers r))) then
    some .descInvalid
  else if !(rs.all (fun x => if x.2 then x.1.off % x.1.align == 0 && x.1.off + x.1.len ≤ 2 ^ 28 else x.1.off == cAbsent)) then
    some .descInvalid
  else if !cPlain r && !(field r 48 1 + field r 49 1 ≤ (ringOf c.param false).qs.length
      && cCount r % field r 44 4 == 0) then some .descInvalid
  else if cPlain r && !cMulti r && cCount r != field r 52 4 * field r 50 1 then some .descInvalid
  else if !(rs.all (fun x => !x.2 || regionHeld s c.num (cDie r) x.1)) then some .accessDenied
  else if (s.colls.filter (fun k => cDie k.record == cDie r)).length ≥ 256
      || s.colls.any (fun k => k.ref == ⟨c.num, field r 0 4⟩) then some .admissionDenied
  else none

/-- A collective at this member. -/
def State.coll? (s : State) (c : CRef) : Option Coll := s.colls.find? (·.ref == c)

/-- Replaces a collective in place. -/
def State.setColl (s : State) (k : Coll) : State :=
  { s with colls := s.colls.map (fun y => if y.ref == k.ref then k else y) }

/-- This member is the home. -/
def atHome (k : Coll) : Bool := cParent k.record == 0xFF

/-- The children that are still members, in ascending order. -/
def kids (k : Coll) : List Nat := (maskMods (cChildren k.record)).filter (bit k.members)

/-- The modules below a child, as CHILDREN at each level name them (R282). -/
def underChild (k : Coll) (m : Nat) : Nat := 2 ^ m ||| (assoc m k.answered).getD 0

/-- The modules below this member. -/
def underHere (k : Coll) : Nat := (maskMods (cChildren k.record)).foldl (fun a m => a ||| underChild k m) 0

/-- A module is a peer (R262). -/
def isPeer (s : State) (m : Nat) : Bool := !(bundle s m).isEmpty

/-- A collective message leaves for a module on the lowest port that leads to it (DESIGN CHOICE, log entry 50), and stays in the
retransmit buffer until it is acknowledged; how much of the buffer has been is a free value (R256, R269). Nothing is sent to a
module that is not a peer (R265). -/
def collSend (s : State) (m : Nat) (msg : Msg) : State :=
  match (lanes s m).head? with
  | none => s
  | some p =>
    let (fr, s) := s.draw
    let mine := (s.retx.filter (fun (e : Nat × Msg) => e.1 == p)).drop (Config.acked fr)
    { s with retx := s.retx.filter (fun (e : Nat × Msg) => e.1 != p) ++ mine ++ [(p, msg)] }.guard p msg

/-- Sends SETUP to a neighbour that is a peer (R273). -/
def sendSetup (s : State) (k : Coll) (m : Nat) : State :=
  collSend s m (.collSetup m k.ref (setupHash k.record) (cParent k.record) (cChildren k.record) (underHere k))

/-- Sends one message to each of some modules. -/
def tell (s : State) (ms : List Nat) (f : Nat → Msg) : State := ms.foldl (fun s m => collSend s m (f m)) s

/-- The round in progress or awaited. -/
def roundNow (k : Coll) : Nat := k.round + 1

/-- A collective without anything of an attempt. -/
def cleared (k : Coll) : Coll :=
  { k with chunks := [], doneChunks := [], sentDown := [], credits := [], acks := [], poisoned := false, lent := false }

/-- Elements of a chunk (R278). -/
def chunkPer (r : Bytes) : Nat := if cPlain r then 32768 else 16384

/-- Chunks of a round. -/
def chunkCount (r : Bytes) : Nat := ceilDiv (cCount r) (chunkPer r)

/-- Elements of chunk i. -/
def chunkLen (r : Bytes) (i : Nat) : Nat := min (chunkPer r) (cCount r - i * chunkPer r)

/-- The spans of n bytes from an offset of the Infield Store, as the collective reaches them. -/
def collSpans (s : State) (k : Coll) (off n : Nat) : List Span :=
  match padSpans s (64 * cDie k.record) k.ref.ctx (some collOwner) 2 0 (n / 1024 + 2) off n with
  | .ok xs => xs
  | .error _ => []

/-- The source words of chunk i, and whether a source block is poisoned (R274). -/
def srcChunk (s : State) (k : Coll) (i : Nat) : List Nat × Bool :=
  let xs := collSpans s k (cSrc k.record + 4 * (i * chunkPer k.record)) (4 * chunkLen k.record i)
  (wordsOf 4 (spansPeek s.mem xs) (chunkLen k.record i), spansMarked s.mem xs)

/-- The prime of element j of an EXACT collective (R271). -/
def elemPrime (c : Ctx) (r : Bytes) (j : Nat) : Nat :=
  nth (ringOf c.param false).qs (field r 48 1 + j / field r 44 4 % field r 49 1) 1

/-- The sum of words at element j (R275, R276): canonical, or FP32 rounded at each addition; `a` is the member's own word
and `bs` those of its children in ascending module number. -/
def addWords (c : Ctx) (r : Bytes) (j a : Nat) (bs : List Nat) : Nat :=
  if cPlain r then bs.foldl (fun x b => (fAdd fbF32 x (bfToF32 b).1).1) a
  else
    let q := elemPrime c r j
    (bs.foldl (fun x b => x + storeM q (loadM q b)) (storeM q (loadM q a))) % q

/-- The partial sum of chunk i at this member: its contribution and the chunks of its children (R275, R276). -/
def partialSum (s : State) (c : Ctx) (k : Coll) (i : Nat) : List Nat × Bool :=
  let own := srcChunk s k i
  let parts := (kids k).filterMap (fun m => k.chunks.find? (fun x => x.from_ == m && x.index == i))
  if parts.isEmpty && !atHome k then own
  else
    (mapIdxFrom (fun j a => addWords c k.record (i * chunkPer k.record + j) a (parts.map (fun x => nth x.words j 0))) 0 own.1,
     own.2 || parts.any (·.marked))

/-- Words as they travel: PLAIN values are narrowed to BF16 (R276). -/
def onWire (r : Bytes) (ws : List Nat) : List Nat := if cPlain r then ws.map (fun w => (f32ToBF w).1) else ws

/-- Writes chunk i to DST, in the words of the destination (R274, R276). -/
def landChunk (s : State) (k : Coll) (i : Nat) (ws : List Nat) (marked : Bool) : State :=
  let e := cDstE k.record
  let xs := collSpans s k (cDst k.record + e * (i * chunkPer k.record)) (e * ws.length)
  s.writeSpans xs (bytesOf e ws) marked

/-- The buffers a neighbour lends, one fewer; none where it lends none. -/
def takeCredit (k : Coll) (m : Nat) : Option Coll :=
  match assoc m k.credits with
  | some (n + 1) => some { k with credits := assocSet m n k.credits }
  | _ => none

/-- Every child has delivered chunk i. -/
def chunkReady (k : Coll) (i : Nat) : Bool := (kids k).all (fun m => k.chunks.any (fun x => x.from_ == m && x.index == i))

/-- A member of a REDUCE works off chunk i, once (R274 to R277). -/
def reduceChunk (s : State) (c : Ctx) (k : Coll) (i : Nat) : State × Coll :=
  if k.doneChunks.contains i || !chunkReady k i then (s, k)
  else
    let (ws, p) := partialSum s c k i
    let k' := { k with doneChunks := insertNat i k.doneChunks, chunks := k.chunks.filter (·.index != i) }
    if atHome k then
      let ws := if cPlain k.record && cDstE k.record == 2 then onWire k.record ws else ws
      (landChunk s k i ws p, { k' with poisoned := k.poisoned || p })
    else match takeCredit k' (cParent k.record) with
      | none => (s, k)
      | some k' =>
        (collSend s (cParent k.record) (.collChunk (cParent k.record) k.ref (roundNow k) k.attempt i (onWire k.record ws) p), k')

/-- A member of a MULTICAST sends chunk i to a child, once (R274). -/
def castChunk (s : State) (k : Coll) (m i : Nat) : State × Coll :=
  let have_ := if atHome k then let x := srcChunk s k i; some (onWire k.record x.1, x.2)
    else (k.chunks.find? (fun x => x.index == i)).map (fun x => (x.words, x.marked))
  match have_, takeCredit k m with
  | some (ws, p), some k' =>
    if k.sentDown.contains (m, i) then (s, k)
    else (collSend s m (.collChunk m k.ref (roundNow k) k.attempt i ws p), { k' with sentDown := (m, i) :: k.sentDown })
  | _, _ => (s, k)

/-- A DONE_MARK signal by 1, in the Mark range in force (R274, R429). -/
def collDone (s : State) (k : Coll) : State :=
  match ctxMark s k.ref.ctx (field k.record 58 2) with
  | some n => s.signal ⟨n, 1, k.ref.ctx, .starter⟩
  | none => s

/-- The result record (R280). -/
def resultRecord (k : Coll) : Bytes :=
  leBytes 4 k.ref.id ++ leBytes 4 (roundNow k) ++ leBytes 1 k.attempt ++ leBytes 1 (flag k.poisoned 0) ++ zeros 6
    ++ leBytes 8 k.members ++ zeros 40

/-- A round has been committed: DONE_MARK, COMMIT down the tree, and the next round is awaited (R274). -/
def endRound (s : State) (k : Coll) : State :=
  let s := collDone s k
  let s := tell s (kids k) (fun m => .collCommit m k.ref (roundNow k) k.attempt)
  s.setColl { cleared k with st := .idle, round := k.round + 1, attempt := 1 }

/-- The home may commit (R274). -/
def mayCommit (k : Coll) : Bool :=
  atHome k && (if cMulti k.record then (maskMods k.members).all (fun m => m == cHome k.record || k.acks.contains m)
    else k.doneChunks.length == chunkCount k.record)

/-- The unit moves what it can of a running round. -/
def pump (s : State) (c : Ctx) (k : Coll) : State :=
  let idx := List.range (chunkCount k.record)
  let (s, k) := if cMulti k.record then
      (kids k).foldl (fun (a : State × Coll) m => idx.foldl (fun a i => castChunk a.1 a.2 m i) a) (s, k)
    else idx.foldl (fun (a : State × Coll) i => reduceChunk a.1 c a.2 i) (s, k)
  let s := s.setColl k
  if mayCommit k then
    let s := if cMulti k.record then s else s.writeSpans (collSpans s k (cResult k.record) 64) (resultRecord k) false
    endRound s k
  else s

/-- Round r is armed at this member (R274). -/
def armed (s : State) (k : Coll) : Bool :=
  match ctxMark s k.ref.ctx (field k.record 56 2) with
  | some n => (s.mark n).value ≥ roundNow k * field k.record 60 4
  | none => false

/-- The attempt begins at a member that is armed: the next round, unless the module is leaving (R264, R274), or the round that
RESTART has it run again (R283). -/
def begins (s : State) (k : Coll) : Bool :=
  armed s k && ((k.st == .idle && s.sys.leaving.isNone) || (k.st == .running && !k.lent))

/-- A collective whose attempt begins lends the buffers of the round to the neighbours that send to it (R274). How many it lends
is the model's choice: a buffer for every chunk (DESIGN CHOICE, log entry 50). -/
def runColl (s : State) (k : Coll) : State :=
  match s.ctx? k.ref.ctx with
  | none => s
  | some c =>
    if begins s k then
      let k := { k with st := .running, lent := true }
      let ends := if cMulti k.record then (if atHome k then [] else [cParent k.record]) else kids k
      let s := tell s ends (fun m => .collCredit m k.ref (roundNow k) k.attempt (chunkCount k.record))
      pump (s.setColl k) c k
    else if k.st == .running && k.lent then pump s c k
    else s

/-- Every collective unit looks at its Marks and moves what it can. -/
def runColls (s : State) : State := s.colls.foldl (fun s k => match s.coll? k.ref with
  | some k => runColl s k
  | none => s) s

/-- Set-up is done once every neighbour is a peer and has answered (R273). -/
def settleSetup (s : State) (k : Coll) : State :=
  if k.st == .setup && (neighbours k.record).all (fun m => isPeer s m && (assoc m k.answered).isSome) then
    s.setColl { k with st := .idle, attempt := 1 }
  else s.setColl k

/-- A collective ends with a fault. -/
def endColl (s : State) (k : Coll) (st : CollSt) (f : FaultCode) : State :=
  s.setColl { cleared k with st := st, fault := some f }

/-- A member becomes ORPHANED and tells its children (R282). -/
def orphan (s : State) (k : Coll) : State :=
  let s := tell s (kids k) (fun m => .collOrphan m k.ref (roundNow k) k.attempt)
  endColl s k .orphaned .linkLost

/-- The collective is set up and has not ended. -/
def lives (k : Coll) : Bool := k.st == .idle || k.st == .running || k.st == .reforming

/-- The home learns that modules have departed (R283): it abandons the attempt and waits, or adds them to a wait in
progress. An attempt that would pass 255 fails the collective. -/
def reform (s : State) (k : Coll) (mask : Nat) : State :=
  let left := k.members - (k.members &&& mask)
  if k.st == .reforming then s.setColl { k with members := left }
  else
    let s := tell s (kids { k with members := left }) (fun m => .collAbandon m k.ref (roundNow k) k.attempt)
    let k : Coll := { cleared k with members := left, st := .reforming, since := s.now }
    if k.attempt ≥ 255 then endColl s k .failed .linkLost else s.setColl k

/-- A tree child has departed (R282, R283). -/
def childGone (s : State) (k : Coll) (m : Nat) : State :=
  if atHome k then reform s k (underChild k m)
  else
    let s := collSend s (cParent k.record) (.collDepart (cParent k.record) k.ref (roundNow k) k.attempt (underChild k m))
    if k.st == .reforming then s
    else
      let s := tell s ((kids k).filter (· != m)) (fun m => .collAbandon m k.ref (roundNow k) k.attempt)
      s.setColl { cleared k with st := .reforming }

/-- What the departure of a module does to one collective (R282). -/
def modGone (s : State) (k : Coll) (m : Nat) : State :=
  if k.st == .setup then s.setColl { k with answered := assocDel m k.answered }
  else if !lives k then s
  else if cParent k.record == m then orphan s k
  else if (kids k).contains m then childGone s k m
  else s

/-- A module has departed (R262, R282). -/
def departColls (s : State) (m : Nat) : State := s.colls.foldl (fun s k => match s.coll? k.ref with
  | some k => modGone s k m
  | none => s) s

/-- A peer has arrived: the set-ups that wait for it go on (R273). -/
def arriveColls (s : State) (m : Nat) : State := s.colls.foldl (fun s k => match s.coll? k.ref with
  | some k => if k.st == .setup && (neighbours k.record).contains m then settleSetup (sendSetup s k m) k else s
  | none => s) s

/-- The module itself leaves (R282): its collectives are ORPHANED, those it is the home of FAILED. -/
def leaveColls (s : State) : State := s.colls.foldl (fun s k => match s.coll? k.ref with
  | some k => if k.st == .failed || k.st == .orphaned then s
      else endColl s k (if atHome k then .failed else .orphaned) .linkLost
  | none => s) s

/-- Segments kept only for collectives of a context that no collective names any more are unmapped (R272). -/
def dropKept (s : State) : State :=
  { s with mem := { s.mem with ifMap := s.mem.ifMap.filter (fun e =>
      e.owner != some collOwner || collNames s e.ctx e.unit e.logical) } }

/-- A collective is removed; while it runs or re-forms its neighbours see a departure (R282, R330). -/
def removeColl (s : State) (k : Coll) : State :=
  let s := if !(k.st == .running || k.st == .reforming) then s
    else
      let s := tell s (kids k) (fun m => .collOrphan m k.ref (roundNow k) k.attempt)
      if atHome k then s
      else collSend s (cParent k.record) (.collDepart (cParent k.record) k.ref (roundNow k) k.attempt (2 ^ s.sys.modNum ||| underHere k))
  dropKept { s with colls := s.colls.filter (·.ref != k.ref) }

/-- COLL_CREATE (R272). -/
def collCreate (r : MbReq) (s : State) : Reply :=
  match s.ctx? r.ctx with
  | none => deny s .accessDenied
  | some c => match collFault s c r.payload with
    | some f => deny s f
    | none =>
      let k : Coll := { ref := ⟨r.ctx, field r.payload 0 4⟩, record := r.payload, st := .setup, fault := none, attempt := 0
                        round := 0, members := cMembers r.payload, answered := [], chunks := [], doneChunks := []
                        sentDown := [], credits := [], acks := [], poisoned := false, lent := false, since := 0 }
      let s := { s with colls := s.colls ++ [k] }
      reply (settleSetup ((neighbours r.payload).foldl (fun s m => sendSetup s k m) s) k) (.ok [])

/-- COLL_DESTROY (R330). -/
def collDestroy (r : MbReq) (s : State) : Reply :=
  match s.coll? ⟨r.ctx, field r.payload 0 4⟩ with
  | none => deny s .descInvalid
  | some k => reply (removeColl s k) (.ok [])

/-- STATE of COLL_STATUS (R279). -/
def collCode : CollSt → Nat
  | .setup => 1
  | .idle => 2
  | .running => 3
  | .reforming => 4
  | .orphaned => 5
  | .failed => 6

/-- COLL_STATUS (R279). -/
def collWord (k : Coll) : Nat :=
  collCode k.st * 2 ^ 60 + (match k.fault with
    | some f => f.code
    | none => 0) * 2 ^ 52 + k.attempt * 2 ^ 44 + k.round % 2 ^ 32

/-- COLL_STATUS as a command. -/
def collStatus (r : MbReq) (s : State) : Reply :=
  match s.coll? ⟨r.ctx, field r.payload 0 4⟩ with
  | none => deny s .descInvalid
  | some k => reply s (.ok (leBytes 8 (collWord k)))

/-- The collective that a message from a peer reaches: up, from a peer, for a context whose binding names the sender's
(R265, R266). -/
def collFor (s : State) (c : CMsg) : Option Coll :=
  if s.isUp && !(lanes s c.fromMod).isEmpty && c.fromMod < 64 && s.settingN (0x0140 + c.fromMod) c.coll.ctx == c.fromCtx then
    s.coll? c.coll
  else none

/-- A message that a unit discards as stale, counted in the die's STALE_PUT_COUNT (R284). -/
def staleColl (s : State) (k : Coll) : State := countStalePut s (.die (cDie k.record))

/-- A message is of the current round and attempt (R284). -/
def current (c : CMsg) (k : Coll) : Bool := c.round == roundNow k && c.attempt == k.attempt

/-- A message is of the attempt in progress: once an attempt is abandoned none is (R283, R284). -/
def inAttempt (c : CMsg) (k : Coll) : Bool := current c k && k.st != .reforming

/-- RESTART is one attempt on (R283). -/
def nextAttempt (c : CMsg) (k : Coll) : Bool := c.round == roundNow k && c.attempt == k.attempt + 1

/-- DEPART is of the current attempt, or of a round that has been committed since, whose removal applies from the next (R283). -/
def departTime (c : CMsg) (k : Coll) : Bool := current c k || c.round + 1 == roundNow k

/-- A chunk or control message of a collective that lives (R266, R284): from a neighbour of the kind named, and in time, or it is
stale; in REST it wakes the module and is held at its port (R402), as the command `i`. -/
def collMsg (i : Instr) (s : State) (c : CMsg) (fromParent : Bool) (inTime : CMsg → Coll → Bool) (f : State → Coll → State) : Out :=
  match collFor s c with
  | none => .next (if (lanes s c.fromMod).isEmpty then s else s.holdAtLink i)
  | some k =>
    let s := s.heardFrom c.fromMod
    if !(lives k && (if fromParent then cParent k.record == c.fromMod else (maskMods (cChildren k.record)).contains c.fromMod))
    then .next s
    else if !inTime c k then .next (staleColl s k)
    else .next (f s k)

/-- COLL_SETUP (R273). -/
def setupFrom (s : State) (c : CMsg) (hash : Bytes) (parent children below : Nat) : State :=
  match s.coll? c.coll with
  | none => s
  | some k =>
    let me := s.sys.modNum
    let m := c.fromMod
    let ours := (neighbours k.record).contains m
    let theirs := parent == me || bit children me
    if k.st != .setup || !(ours || theirs) then s
    else if s.settingN (0x0140 + m) c.coll.ctx != c.fromCtx then endColl s k .failed .accessDenied
    else if hash != setupHash k.record || (parent == me) != bit (cChildren k.record) m
        || bit children me != (cParent k.record == m) then endColl (sendSetup s k m) k .failed .descInvalid
    else
      let first := (assoc m k.answered).isNone
      let old := underHere k
      let k := { k with answered := assocSet m below k.answered }
      let s := if first then sendSetup s k m else s
      let s := if underHere k != old && !atHome k then sendSetup s k (cParent k.record) else s
      settleSetup s k

/-- COLL_SETUP: in REST it wakes the module and is held at its port (R402). -/
def execCollSetup (c : CMsg) (hash : Bytes) (parent children below : Nat) (s : State) : Out :=
  if (lanes s c.fromMod).isEmpty || !(c.fromMod < 64) then .next s
  else if !s.isUp then .next (s.holdAtLink (.collSetup c hash parent children below))
  else .next (setupFrom (s.heardFrom c.fromMod) c hash parent children below)

/-- A chunk arrives at a running member (R274 to R277). -/
def chunkIn (s : State) (k : Coll) (m i : Nat) (ws : List Nat) (marked : Bool) : State :=
  match s.ctx? k.ref.ctx with
  | none => s
  | some c =>
    if k.st != .running || !k.lent || i ≥ chunkCount k.record || ws.length != chunkLen k.record i then s
    else if k.doneChunks.contains i || k.chunks.any (fun x => x.from_ == m && x.index == i) then s
    else
      let k := { k with chunks := k.chunks ++ [⟨m, i, ws, marked⟩] }
      if !cMulti k.record then pump s c k
      else
        let out := if cPlain k.record && cDstE k.record == 4 then ws.map (fun w => (bfToF32 w).1) else ws
        let s := landChunk s k i out marked
        let k := { k with doneChunks := insertNat i k.doneChunks }
        let s := if k.doneChunks.length == chunkCount k.record then
            collSend s (cParent k.record) (.collAck (cParent k.record) k.ref (roundNow k) k.attempt s.sys.modNum)
          else s
        pump s c k

/-- COLL_CHUNK (R274, R275): from a child of a REDUCE, from the parent of a MULTICAST. -/
def execCollChunk (c : CMsg) (i : Nat) (ws : List Nat) (marked : Bool) (s : State) : Out :=
  let down := match s.coll? c.coll with
    | some k => cMulti k.record
    | none => false
  collMsg (.collChunk c i ws marked) s c down inAttempt (fun s k => chunkIn s k c.fromMod i ws marked)

/-- COLL_COMMIT (R274): it reaches a member that has abandoned the attempt too, for the home committed the round before it learned
of the departure (R283). -/
def execCollCommit (c : CMsg) (s : State) : Out :=
  collMsg (.collCommit c) s c true current (fun s k => if k.st == .running || k.st == .reforming then endRound s k else s)

/-- COLL_DEPART (R282, R283): a member passes it on toward the home. After the commit the removal applies from the next round: the
home re-forms that one, since only RESTART tells the members the new set (DEDUCED, log entry 50). -/
def execCollDepart (c : CMsg) (mask : Nat) (s : State) : Out :=
  collMsg (.collDepart c mask) s c false departTime (fun s k =>
    if atHome k then (if k.members &&& mask == 0 then s else reform s k mask)
    else collSend s (cParent k.record) (.collDepart (cParent k.record) k.ref c.round c.attempt mask))

/-- COLL_ORPHAN (R282). -/
def execCollOrphan (c : CMsg) (s : State) : Out := collMsg (.collOrphan c) s c true current (fun s k => orphan s k)

/-- COLL_ABANDON (R283): the chunk buffers are discarded; after attempt 255 the collective has failed. -/
def execCollAbandon (c : CMsg) (s : State) : Out :=
  collMsg (.collAbandon c) s c true current (fun s k =>
    let s := if k.st == .reforming then s else tell s (kids k) (fun m => .collAbandon m k.ref (roundNow k) k.attempt)
    if k.attempt ≥ 255 then endColl s k .failed .linkLost else s.setColl { cleared k with st := .reforming })

/-- RESTART takes effect (R283): RUNNING, the same round again under the new member set, with its buffers lent once the round is
armed here (R274); a child of the set that is no peer any more departs again. -/
def restartWith (s : State) (k : Coll) (members attempt : Nat) : State :=
  let k := { cleared k with st := .running, members := members, attempt := attempt }
  let s := tell (s.setColl k) (kids k) (fun m => .collRestart m k.ref (roundNow k) attempt members)
  let s := runColl s k
  (kids k).foldl (fun s m => match s.coll? k.ref with
    | some k => if isPeer s m || !lives k then s else childGone s k m
    | none => s) s

/-- COLL_RESTART (R283). -/
def execCollRestart (c : CMsg) (members : Nat) (s : State) : Out :=
  collMsg (.collRestart c members) s c true nextAttempt (fun s k => if k.st == .reforming then restartWith s k members c.attempt else s)

/-- REFORM_TIMEOUT (R283): the home's wait on its module split counter ends. -/
def execReformTimeout (c : CRef) (s : State) : Out :=
  match s.coll? c with
  | none => .next s
  | some k =>
    if s.isUp && k.st == .reforming && atHome k && due s.now k.since (s.settingN 0x0309 0) then
      .next (restartWith s k k.members (k.attempt + 1))
    else .next s

/-- COLL_CHUNK_CREDIT (R274): a neighbour lends chunk buffers. -/
def execCollChunkCredit (c : CMsg) (n : Nat) (s : State) : Out :=
  let down := match s.coll? c.coll with
    | some k => !cMulti k.record
    | none => false
  collMsg (.collChunkCredit c n) s c down inAttempt (fun s k =>
    let k := { k with credits := assocSet c.fromMod ((assoc c.fromMod k.credits).getD 0 + n) k.credits }
    runColl (s.setColl k) k)

/-- COLL_CHUNK_ACK (R274): acknowledgements travel up to the home. -/
def execCollChunkAck (c : CMsg) (member : Nat) (s : State) : Out :=
  collMsg (.collChunkAck c member) s c false inAttempt (fun s k =>
    if atHome k then
      let k := { k with acks := insertNat member k.acks }
      runColl (s.setColl k) k
    else collSend s (cParent k.record) (.collAck (cParent k.record) k.ref (roundNow k) k.attempt member))

/-- COLL_CREATE. -/
def execCollCreate (m : Nat) (r : MbReq) (s : State) : Out := mbCommand 0x38 m r (collCreate r) s
/-- COLL_DESTROY. -/
def execCollDestroy (m : Nat) (r : MbReq) (s : State) : Out := mbCommand 0x39 m r (collDestroy r) s
/-- COLL_STATUS. -/
def execCollStatus (m : Nat) (r : MbReq) (s : State) : Out := mbCommand 0x3A m r (collStatus r) s

end Sys2Proof.Machine
end

