-- ==== Sys2Proof/Machine/Ports.lean ====
section
/-! DEFINITION. The Baton ports (R252 to R269): discovery, admission, departure, peer Mark signals, SYSTEM_JOIN and
SYSTEM_LEAVE. -/

namespace Sys2Proof.Machine

/-- VSER is powered (R394, R400): from the end of start-up step 5. -/
def serPowered (s : State) : Bool :=
  s.serves || (match s.pwr.st with
    | .starting n => n ≥ 6
    | _ => false)

/-- PORT_ENABLE lets a port train (R285). -/
def portEnabled (s : State) (p : Nat) : Bool := p < 16 && bit (s.settingN 0x0305 0) p

/-- The port is trained: it carries discovery messages at least (R253). -/
def trained (x : Port) : Bool :=
  match x.st with
  | .ident | .attest | .admitting | .active | .refused | .leaving => true
  | _ => false

/-- STATE of PORT_STATUS (R253). -/
def portCode : PortSt → Nat
  | .disabled => 0
  | .down => 1
  | .training => 2
  | .ident => 3
  | .attest => 4
  | .admitting => 5
  | .active => 6
  | .refused => 7
  | .leaving => 8

/-- PORT_STATUS (R254). -/
def portStatus (x : Port) : Nat :=
  portCode x.st * 2 ^ 60 + (if carries x then x.peer % 64 * 2 ^ 50 + 2 ^ 49 else 0) + x.retry * 2 ^ 16 + x.downs * 2 ^ 8 + x.cause

/-- LAST_CAUSE values of R254. -/
def pcLock : Nat := 1
/-- Retries exhausted. -/
def pcRetry : Nat := 2
/-- Dead timer. -/
def pcDead : Nat := 3
/-- Tag failure. -/
def pcTag : Nat := 4
/-- Attestation failed. -/
def pcAttest : Nat := 5
/-- Admission refused. -/
def pcAdmit : Nat := 6
/-- Leave. -/
def pcLeave : Nat := 7
/-- Disabled. -/
def pcDisabled : Nat := 8

/-- Posts a peer event record (R263). -/
def peerEvent (s : State) (event port peer cause : Nat) (serial : Bytes) : State :=
  s.post 1 (leBytes 1 event ++ leBytes 1 port ++ leBytes 1 peer ++ leBytes 1 cause ++ zeros 4
    ++ leBytes 8 (s.splitCounter 5 0) ++ slice serial 0 16)

/-- The number of a port's peer in a peer event record: 0xFF while it is unknown (R263). -/
def peerNum (x : Port) : Nat := if x.peerJoined then x.peer else 0xFF

/-- Extends a measurement register (R370). -/
def mrExtend (s : State) (i : Nat) (v : Bytes) : State :=
  { s with rsp := { s.rsp with mr := modNth (fun m => sha384 (m ++ v)) i s.rsp.mr } }

/-- LC_STATE as the fuses give it: the highest complete pair (R360). -/
def lcState (s : State) : Nat :=
  let f := s.rsp.fuses
  if f.ret.1 && f.ret.2 then 3 else if f.sec.1 && f.sec.2 then 2 else if f.prov.1 && f.prov.2 then 1 else 0

/-- ID_KEY_HASH of this module (R260, R372). -/
def idKeyHash (s : State) : Bytes := sha384 (Config.devicePub s.rsp.fuses.uds (nth s.rsp.mr 0 []) (lcState s))

/-- The IDENT message of a port (R260). -/
def identMsg (s : State) (p : Nat) : Bytes :=
  let j := s.sys.joined
  leBytes 4 0x0960A2F1 ++ leBytes 1 1 ++ leBytes 1 1 ++ leBytes 1 (flag j 0) ++ leBytes 1 (if j then s.sys.modNum else 0xFF)
    ++ leBytes 8 (if j then s.sys.systemId else 0) ++ slice s.rsp.serial 0 16 ++ slice (idKeyHash s) 0 48 ++ leBytes 2 p ++ zeros 14

/-- The SPDM session of a port ends with its link or its discovery (R257). -/
def dropSession (s : State) (p : Nat) : State :=
  { s with rsp := { s.rsp with sessions := s.rsp.sessions.filter (·.via != .port p), conns := s.rsp.conns.filter (·.via != .port p) } }

/-- The port goes to IDENT and sends its identity (R253, R261). -/
def toIdent (s : State) (p : Nat) : State :=
  let s := (dropSession s p).modPort p (fun x => { x with st := .ident, since := s.now, attested := none, peerAdmits := false, told := false })
  s.emit (.ident p (identMsg s p))

/-- The port goes to REFUSED (R259, R261, R263). -/
def refusePort (s : State) (p cause : Nat) : State :=
  let x := s.port p
  let s := s.modPort p (fun x => { x with st := .refused, cause := cause, since := s.now })
  peerEvent s 3 p (peerNum x) cause x.peerSerial

/-- The grants that a port carries end at their managers with reason LINK (R180, R269); over a port that is still up the far
end is told. -/
def dropGrants (s : State) (p : Nat) (tellFar : Bool) : State :=
  if tellFar then cancelAll s (fun _ g => g.port == some p) .link
  else { s with mgrs := s.mgrs.map (fun m => (m.1, (m.2.grants.filter (·.port == some p)).foldl dropGrant m.2)) }

/-- What the loss of a port does to an s.put (R205, R269): its grant ends, or its unanswered CR_REQ is asked again on the
bundle, unless the peer has departed. -/
def dropStream (s : State) (x : Dispatch) (t : Stream) (tellFar : Bool) : State :=
  if t.grant != 0 then cancelStream (if tellFar then tellCancel s x t .link else s) x t .link
  else
    let t := { t with state := .haltCredit, reqOpen := false, nextReq := x.ck3 }
    match t.tmod with
    | some m => if isPeer s m then s.setDisp (x.setStream t) else s.stop (x.setStream t) .linkLost t.instr
    | none => s

/-- Streams of all dispatches that use a port. -/
def portStreams (s : State) (p : Nat) : List (DRef × Nat) :=
  (s.disps.map (fun x => (x.streams.filter (fun t => t.kind == .put && t.port == some p && (t.grant != 0 || t.reqOpen))).map
    (fun t => (x.id, t.slot)))).flatten

/-- Peer Mark signals of a port that have no acknowledgement are reported as LINK_LOST (R268, R269). -/
def dropSigs (s : State) (p : Nat) : State :=
  let lost := s.sys.peerSigs.filter (·.port == p)
  let s := { s with sys := { s.sys with peerSigs := s.sys.peerSigs.filter (·.port != p) } }
  answerWaits s (fun w => match w with
    | .ack t => if lost.any (·.tag == t) then some (.denied .linkLost) else none
    | _ => none)

/-- The collective messages of a lost port that have no acknowledgement are sent again on another port of the bundle, from the
unit's retransmit buffer; with no other port they are gone (R269). -/
def resendColls (s : State) (p : Nat) : State :=
  let lost := s.retx.filter (fun (e : Nat × Msg) => e.1 == p)
  lost.foldl (fun s e => collSend s (s.port p).peer e.2) { s with retx := s.retx.filter (fun (e : Nat × Msg) => e.1 != p) }

/-- The traffic of a port that has left ACTIVE ends (R269). -/
def dropTraffic (s : State) (p : Nat) (tellFar : Bool) : State :=
  let s := dropGrants s p tellFar
  let s := (portStreams s p).foldl (fun s k => match (s.disp? k.1) with
    | some x => match x.stream? k.2 with
      | some t => dropStream s x t tellFar
      | none => s
    | none => s) s
  let s := dropSigs s p
  if tellFar then { s with retx := s.retx.filter (fun (e : Nat × Msg) => e.1 != p) } else resendColls s p

/-- A port that carried an admitted peer has left: PORT_DOWN, and with the last port of the bundle DEPARTED and the departure
from the collectives (R262, R263, R282). -/
def portLeft (s : State) (p cause : Nat) (x : Port) : State :=
  let s := peerEvent s 4 p (peerNum x) cause x.peerSerial
  if !s.ports.any (fun y => carries y && y.peer == x.peer) then departColls (peerEvent s 2 0xFF x.peer cause x.peerSerial) x.peer else s

/-- A port goes DOWN or to DISABLED (R253, R258, R269); one that carried traffic loses it, and an error record tells it
(R410). LAST_CAUSE tells the exit from ACTIVE, REFUSED and TRAINING, and the failure of the IDENT exchange (R254, R261). -/
def portDown (s : State) (p cause : Nat) (into : PortSt) : State :=
  let x := s.port p
  let kept := match x.st with
    | .training | .active | .refused => cause
    | _ => if cause == pcDead then cause else x.cause
  let s := (dropSession s p).modPort p (fun x =>
    { x with st := into, cause := kept, since := s.now, attested := none, peerAdmits := false, told := false, flitFails := 0,
             downs := if x.st == .active then satInc 8 x.downs else x.downs })
  if !carries x then s
  else
    let s := dropTraffic s p false
    let s := s.plainErr 6 8 ukPort p FaultCode.linkLost.code 0
    portLeft s p cause x

/-- PORT_TRAINING_ATTEMPT (R253): every 10 ms from DOWN. -/
def execPortTrainingAttempt (p : Nat) (s : State) : Out :=
  let x := s.port p
  if serPowered s && portEnabled s p && x.st == .down && due s.now x.since 125000 then
    .next (s.modPort p (fun x => { x with st := .training, since := s.now }))
  else .next s

/-- PORT_TRAINING_COMPLETE (R252, R261): all 16 lanes within 500 ms, or DOWN with cause 0x01. -/
def execPortTrainingComplete (p : Nat) (ok : Bool) (s : State) : Out :=
  let x := s.port p
  if !(serPowered s && p < 16 && x.st == .training) then .next s
  else if ok && !due s.now x.since 6250000 then .next (toIdent s p)
  else .next (portDown s p pcLock .down)

/-- The local half of the admission rule (R259). -/
def admits (s : State) (p : Nat) : Bool :=
  let x := s.port p
  s.sys.joined && x.peerJoined && x.peerSystem == s.sys.systemId && x.peer != s.sys.modNum
  && (match x.attested with
    | some a => a.ok && a.anchor == s.sys.anchor && s.sys.digests.contains a.summary
    | none => false)
  && (bundle s x.peer).all (fun q => (s.port q).peerKey == x.peerKey)

/-- The port becomes ACTIVE; the first of its bundle brings the peer (R262, R263). -/
def activate (s : State) (p : Nat) : State :=
  let x := s.port p
  let first := !isPeer s x.peer
  let s := s.modPort p (fun x => { x with st := .active, since := s.now, lastGood := s.unitTicks 4 (p / 8), flitFails := 0 })
  let s := peerEvent s 5 p x.peer 0 x.peerSerial
  if first then arriveColls (peerEvent s 1 0xFF x.peer 0 x.peerSerial) x.peer else s

/-- Admission at ADMIT (R259, R261): nothing while either end is not joined; this end says whether it admits, and the port is
ACTIVE once both do. -/
def tryAdmit (s : State) (p : Nat) : State :=
  let x := s.port p
  if !(x.st == .admitting && s.sys.joined && x.peerJoined && s.sys.leaving.isNone) then s
  else if !admits s p then refusePort (s.emit (.admission p false)) p pcAdmit
  else
    let s := if x.told then s else (s.modPort p (fun x => { x with told := true })).emit (.admission p true)
    if x.peerAdmits then activate s p else s

/-- An IDENT message that this stepping understands (R260). -/
def identOk (p : Nat) (m : Bytes) : Bool :=
  m.length == 96 && field m 0 4 == 0x0960A2F1 && field m 4 1 == 1 && field m 6 1 ≤ 1 && field m 80 2 == p && allZero m 82 14
  && (if field m 6 1 == 1 then field m 7 1 < 64 else true)

/-- What IDENT says of the peer (R260). -/
def notePeer (x : Port) (m : Bytes) : Port :=
  { x with peerJoined := field m 6 1 == 1, peer := field m 7 1, peerSystem := field m 8 8, peerSerial := slice m 16 16
           peerKey := slice m 32 48 }

/-- IDENT (R260, R261): the exchange leads to ATTEST, where it is done within 1 ms; in REFUSED it tells that the peer's join
policy changed, and beside ATTEST and ADMIT that the peer joined (DEDUCED, log entry 51). -/
def identIn (s : State) (p : Nat) (m : Bytes) : State :=
  let x := s.port p
  match x.st with
  | .ident =>
    if due s.now x.since 12500 then portDown s p pcDead .down
    else if !identOk p m then refusePort s p pcAdmit
    else s.modPort p (fun x => { notePeer x m with st := .attest, since := s.now })
  | .refused =>
    if !identOk p m then s else (toIdent s p).modPort p (fun x => { notePeer x m with st := .attest, since := s.now })
  | .attest => if identOk p m then s.modPort p (fun x => notePeer x m) else s
  | .admitting => if identOk p m then tryAdmit (s.modPort p (fun x => { notePeer x m with since := s.now })) p else s
  | _ => s

/-- IDENT. -/
def execIdent (p : Nat) (m : Bytes) (s : State) : Out :=
  if serPowered s && p < 16 then .next (identIn (s.heardOn p) p m) else .next s

/-- IDENT_TIMEOUT (R261): 1 ms. -/
def execIdentTimeout (p : Nat) (s : State) : Out :=
  let x := s.port p
  if p < 16 && x.st == .ident && due s.now x.since 12500 then .next (portDown s p pcDead .down) else .next s

/-- The session that discovery has set up on a port (R257, R261, R374, R375): the end with the lower SERIAL is the requester. Its
secret is a free value (log entry 1). -/
def portSession (s : State) (p : Nat) : State :=
  if s.rsp.sessions.any (·.via == .port p) then s
  else
    let (fr, s) := s.draw
    let x : Session := { num := s.rsp.nextSession, via := .port p, ctx := none, step := .mixed, lastTick := s.now, lastBeat := s.now
                         key := slice (Config.freeBytes fr 48) 0 48
                         requester := leNat (slice s.rsp.serial 0 16) < leNat (s.port p).peerSerial }
    { s with rsp := { s.rsp with sessions := s.rsp.sessions ++ [x], nextSession := s.rsp.nextSession + 1 } }

/-- PORT_ATTEST_COMPLETE (R261). -/
def execPortAttestComplete (p : Nat) (r : AttestResult) (s : State) : Out :=
  let x := s.port p
  if !(p < 16 && x.st == .attest) then .next s
  else if r.ok && !due s.now x.since (s.settingN 0x0307 0) then
    .next (tryAdmit ((portSession (s.heardOn p) p).modPort p (fun x => { x with st := .admitting, since := s.now, attested := some r })) p)
  else .next (refusePort s p pcAttest)

/-- ATTEST_TIMEOUT (R261). -/
def execAttestTimeout (p : Nat) (s : State) : Out :=
  let x := s.port p
  if p < 16 && x.st == .attest && due s.now x.since (s.settingN 0x0307 0) then .next (refusePort s p pcAttest) else .next s

/-- ADMISSION_MESSAGE (R259): what the other end decided. -/
def execAdmissionMessage (p : Nat) (yes : Bool) (s : State) : Out :=
  let s := if p < 16 then s.heardOn p else s
  match (s.port p).st with
  | .attest => .next (s.modPort p (fun x => { x with peerAdmits := yes }))
  | .admitting =>
    if yes then .next (tryAdmit (s.modPort p (fun x => { x with peerAdmits := true })) p) else .next (refusePort s p pcAdmit)
  | _ => .next s

/-- The bounds of steps 1 and 4 of R261. -/
def portBounds (s : State) : State :=
  (List.range 16).foldl (fun s p =>
    let x := s.port p
    if x.st == .training && due s.now x.since 6250000 then portDown s p pcLock .down
    else if x.st == .admitting && s.sys.joined && x.peerJoined && s.sys.leaving.isNone && due s.now x.since 12500 then
      refusePort s p pcAdmit
    else s) s

/-- LANE_LOSS_OF_LOCK (R252, R258). -/
def execLaneLossOfLock (p : Nat) (s : State) : Out :=
  if p < 16 && trained (s.port p) then .next (portDown s p pcLock .down) else .next s

/-- LINK_DEAD_TIMER (R258): the event itself tells that no flit passed its CRC; the port must have stood so long. -/
def execLinkDeadTimer (p : Nat) (s : State) : Out :=
  let x := s.port p
  if p < 16 && x.st == .active && due (s.unitTicks 4 (p / 8)) x.lastGood (s.settingN 0x0306 0) then
    .next (portDown s p pcDead .down)
  else .next s

/-- IDLE_FLIT_SEND (R258): a trained port that has nothing else to send, so no flit of it is being retried. -/
def execIdleFlitSend (p : Nat) (s : State) : Out :=
  if p < 16 && serPowered s && trained (s.port p) then .next ((s.modPort p (fun x => { x with flitFails := 0 })).emit (.idle p))
  else .next s

/-- GCM_TAG_FAILURE (R257): the payload is discarded, the port goes DOWN, TAMPER is reported. -/
def execGcmTagFailure (p : Nat) (s : State) : Out :=
  let x := s.port p
  if p < 16 && x.st == .active then .next (portDown (peerEvent s 6 p (peerNum x) pcTag x.peerSerial) p pcTag .down) else .next s

/-- PEER_MARK_SIGNAL (R266, R268): the tests, then R243, and the acknowledgement; in REST it wakes the module and is held at its
port (R402). -/
def execPeerMarkSignal (p fromCtx mark amount tag : Nat) (s : State) : Out :=
  let x := s.port p
  if !(p < 16 && carries x) then .next s
  else if !s.isUp then .next (s.holdAtLink (.peerMarkSignal p fromCtx mark amount tag))
  else
    let s := s.heardOn p
    let k := s.mark mark
    if mark < 16384 && k.alloc && k.peerSig && s.settingN (0x0140 + x.peer) k.owner == fromCtx then
      .next ((addMark s mark amount).emit (.peerAck p tag false))
    else .next (s.emit (.peerAck p tag true))

/-- PEER_MARK_ACK (R268). -/
def execPeerMarkAck (p tag : Nat) (denied : Bool) (s : State) : Out :=
  if !s.sys.peerSigs.any (fun g => g.tag == tag && g.port == p) then .next s
  else
    let s := s.heardOn p
    let s := { s with sys := { s.sys with peerSigs := s.sys.peerSigs.filter (·.tag != tag) } }
    .next (answerWaits s (fun w => match w with
      | .ack t => if t == tag then some (if denied then .denied .accessDenied else .ok []) else none
      | _ => none))

/-- MARK_SIGNAL (R245, R268, R326): a local Mark at once, or a peer's, whose acknowledgement the response waits for. -/
def markSignal (m : Nat) (r : MbReq) (s : State) : Reply :=
  let n := field r.payload 0 2
  let far := field r.payload 2 1
  let mod := field r.payload 3 1
  let amount := field r.payload 4 4
  if far > 1 || (far == 1 && mod ≥ 64) then deny s .descInvalid
  else if far == 0 then
    match ctxMark s r.ctx n with
    | none => deny s .accessDenied
    | some k => if markOwned s k r.ctx && (s.mark k).hostSig then reply (addMark s k amount) (.ok []) else deny s .accessDenied
  else match (bundle s mod).head? with
    | none => deny s .linkLost
    | some p =>
      let t := s.sys.nextTag
      let s := { s with sys := { s.sys with nextTag := t + 1, peerSigs := s.sys.peerSigs ++ [({ tag := t, port := p, mailbox := m } : PeerSig)] } }
      ⟨s.emit (.peerMark p n amount r.ctx t), .error (.ack t)⟩

/-- SYSTEM_JOIN (R259, R261, R326 to R328, R359): the policy, MR9, and step 2 again on refused ports; ports further on in
discovery send their identity anew. -/
def systemJoin (r : MbReq) (s : State) : Reply :=
  let id := field r.payload 0 8
  let num := field r.payload 8 1
  let n := field r.payload 9 1
  if !(id != 0 && num < 64 && 1 ≤ n && n ≤ 8 && allZero r.payload 10 6) then deny s .descInvalid
  else if lcState s == 0 || lcState s == 3 then deny s .accessDenied
  else if s.sys.joined && !(s.sys.systemId == id && s.sys.modNum == num) then deny s .admissionDenied
  else
    let new := !s.sys.joined
    let s := { s with sys := { s.sys with joined := true, systemId := id, modNum := num, anchor := slice r.payload 16 48
                                          digests := (List.range n).map (fun i => slice r.payload (64 + 48 * i) 48) } }
    let s := mrExtend s 9 (sha384 r.payload)
    reply ((List.range 16).foldl (fun s p => match (s.port p).st with
      | .refused => toIdent s p
      | .ident | .attest => if new then s.emit (.ident p (identMsg s p)) else s
      | .admitting => if new then
          tryAdmit ((s.modPort p (fun x => { x with since := s.now })).emit (.ident p (identMsg s p))) p
        else s
      | _ => s) s) (.ok [])

/-- No grant is left that a port of the module carries (R264). -/
def drained (s : State) : Bool :=
  s.mgrs.all (fun m => m.2.grants.all (·.port.isNone))
  && s.disps.all (fun x => x.streams.all (fun t => !(t.tmod.isSome && t.grant != 0)))

/-- Steps 3 and 4 of R264: what is left is cancelled, LEAVE goes out on every trained port, the ports go to IDENT, and the
number and SYSTEM_ID are cleared. -/
def finishLeave (s : State) : State :=
  let was := s.ports
  let ps := (List.range 16).filter (fun p => trained (s.port p))
  let gone := ps.filter (fun p => carries (s.port p))
  let s := gone.foldl (fun s p => dropTraffic s p true) s
  let s := ps.foldl (fun s p => s.emit (.leave p)) s
  let s := gone.foldl (fun s p => s.modPort p (fun x => { x with cause := pcLeave })) s
  let s := leaveColls { s with sys := { s.sys with joined := false, systemId := 0, modNum := 0, anchor := [], digests := []
                                                   leaving := none } }
  let s := gone.foldl (fun s p => let x := nth was p Port.reset; peerEvent s 4 p (peerNum x) pcLeave x.peerSerial) s
  let mods := (List.range 64).filter (fun m => gone.any (fun p => (nth was p Port.reset).peer == m))
  let s := mods.foldl (fun s m => match gone.find? (fun p => (nth was p Port.reset).peer == m) with
    | some p => peerEvent s 2 0xFF m pcLeave (nth was p Port.reset).peerSerial
    | none => s) s
  let s := mrExtend s 9 (zeros 48)
  let s := ps.foldl toIdent s
  answerWaits s (fun w => if w == .leave then some (.ok []) else none)

/-- A module that is leaving and has drained leaves (R264). -/
def settleLeave (s : State) : State := if s.sys.leaving.isSome && drained s then finishLeave s else s

/-- Step 1 of R264: the ports leave ACTIVE, with cause 0x07 (R254). -/
def beginLeave (s : State) : State :=
  { s with sys := { s.sys with leaving := some s.now }
           ports := s.ports.map (fun x => if x.st == .active then { x with st := .leaving, cause := pcLeave, since := s.now } else x) }

/-- SYSTEM_LEAVE (R264). -/
def systemLeave (s : State) : Reply :=
  let s := beginLeave s
  if drained s then reply (finishLeave s) (.ok []) else ⟨s, .error .leave⟩

/-- LEAVE_DRAIN_EXPIRY (R264): LEAVE_DRAIN ticks on the module split counter. -/
def execLeaveDrainExpiry (s : State) : Out :=
  match s.sys.leaving with
  | none => .next s
  | some t => if due s.now t (s.settingN 0x0308 0) then .next (finishLeave s) else .next s

/-- LEAVE (R264): the sender has departed at once; a port that leads to it goes to IDENT. -/
def leaveIn (s : State) (p : Nat) : State :=
  let x := s.port p
  if carries x then
    let ps := (List.range 16).filter (fun q => carries (s.port q) && (s.port q).peer == x.peer)
    let was := s.ports
    let s := ps.foldl (fun s q => s.modPort q (fun x => { x with st := .ident, cause := pcLeave, since := s.now })) s
    let s := ps.foldl (fun s q => dropTraffic s q false) s
    let s := ps.foldl (fun s q => let x := nth was q Port.reset; peerEvent s 4 q (peerNum x) pcLeave x.peerSerial) s
    let s := departColls (peerEvent s 2 0xFF x.peer pcLeave x.peerSerial) x.peer
    ps.foldl (fun s q => toIdent (s.modPort q (fun x => { x with peerJoined := false })) q) s
  else match x.st with
    | .attest | .admitting | .refused => toIdent (s.modPort p (fun x => { x with peerJoined := false })) p
    | _ => s

/-- LEAVE. -/
def execLeave (p : Nat) (s : State) : Out := if p < 16 && serPowered s then .next (leaveIn (s.heardOn p) p) else .next s

/-- MARK_SIGNAL. -/
def execMarkSignal (m : Nat) (r : MbReq) (s : State) : Out := mbCommand 0x32 m r (markSignal m r) s
/-- SYSTEM_JOIN. -/
def execSystemJoin (m : Nat) (r : MbReq) (s : State) : Out := mbCommand 0x58 m r (systemJoin r) s
/-- SYSTEM_LEAVE. -/
def execSystemLeave (m : Nat) (r : MbReq) (s : State) : Out := mbCommand 0x59 m r systemLeave s

/-- A change of PORT_ENABLE (R253, R285). -/
def portsEnable (s : State) : State :=
  (List.range 16).foldl (fun s p =>
    let x := s.port p
    if portEnabled s p then
      (if x.st == .disabled then s.modPort p (fun x => { x with st := .down, since := s.now }) else s)
    else if x.st == .disabled then s else portDown s p pcDisabled .disabled) s

end Sys2Proof.Machine
end

