-- ==== Sys2Proof/Machine/Vault.lean ====
section
/-! DEFINITION. The Vault and gate routines that a program calls: R125 to R128, R131 to R138. -/

namespace Sys2Proof.Machine

/-- Registers after a routine (R126): S0 is 0, S1 to S15 hold free values, S16 to S31 and L0 to L3 are kept, every vector
register and tile is released; what their storage holds is a free value (log entry 1). -/
def vaultRegs (fr : Nat) (r : CoreRegs) : CoreRegs :=
  let sb := slice (Config.freeBytes fr 120) 0 120
  let vb := slice (Config.freeBytes fr 65536) 0 65536
  let ab := slice (Config.freeBytes fr 18432) 0 18432
  let r := (List.range 15).foldl (fun r k => r.sput (k + 1) (BitVec.ofNat 64 (field sb (8 * k) 8)) false) (r.sput 0 0 false)
  { r with v := (List.range 64).map (fun n => (n, (wordsOf 4 (slice vb (1024 * n) 1024) 256).map (BitVec.ofNat 32)))
           a := (List.range 4).map (fun n => (n, ⟨(wordsOf 9 (slice ab (4608 * n) 4608) 512).map (BitVec.ofNat 72),
                                                 List.replicate 512 0, .none⟩))
           useV := [], useA := [], poisV := [], poisA := [] }

/-- What every call of a routine uses: the placement as a whole (R125): every register, tile and low scalar. -/
def vaultUse (rd wr : List Span) : Use :=
  { Use.none with wv := List.range 64, wt := List.range 4, ws := List.range 16, rd := rd, wr := wr }

/-- S1 to S5 must be clean (R76), and those that a routine leaves unused are 0 (R126, R131; DEDUCED, log entry 18). -/
def vaultArgs (x : Dispatch) (r : CoreRegs) (unused : List Nat) : Except Halt Unit := do
  if (rangeFrom 1 5).any (fun n => r.poisS.contains n) then fail x.poisonCode
  need (unused.all (fun n => r.sget n == 0)) .descInvalid

/-- Every key of a routine's Vault key list is loaded (R127). -/
def vaultKeysOk (c : Ctx) (keyset routine slots : Nat) : Except Halt Unit :=
  need (vaultKeysHeld c keyset routine slots) .keyMismatch

/-- An input of a CKKS routine (R125, R127): a CKKS ciphertext of two components in evaluation form. -/
def vaultIn (s : State) (x : Dispatch) (c : Ctx) (r : CoreRegs) (n : Nat) : Except Halt Obj := do
  let o ← objSrc s x c r (.reg n)
  need (o.h.kind == kindRlwe && o.h.scheme == 0 && o.h.comps == 2 && o.h.pPresent == 0 && o.h.repr == 1) .descInvalid
  pure o

/-- The header of a routine's CKKS output (R128): the input's scale, noise nsum(n_in, n_vault) with the one n_vault of the
parameter set and slot count, BUDGET_SPENT where its own budget passes the floor. -/
def vaultHdr (x : Dispatch) (p : Bytes) (h : Hdr) (level : Nat) : Hdr :=
  let noise := nsum (noiseOf p h) (Config.vaultNoise 5 p h.slots : Nat)
  let b := hScale h - noise
  { h with comps := 2, level := level, repr := 1, pPresent := 0, budget := clampBudget b
           flags := hdrFlags false false (decide (b < x.set 0x0101)) }

/-- One output of a routine: its destination and the value it takes. -/
structure VOut where
  dst : ObjDst
  h : Hdr
  body : Bytes
  deriving DecidableEq, Repr

/-- A call whose operands have passed every check: the state with the free values it took, its inputs, what else it reads and
whether that is poisoned, and its outputs. -/
structure VCall where
  state : State
  srcs : List Obj
  extra : List Span
  pois : Bool
  outs : List VOut
  deriving DecidableEq, Repr

/-- What a call writes: the bodies and headers of its outputs. -/
def VCall.writes (v : VCall) : List Span := (v.outs.map (fun o => o.dst.body ++ o.dst.hdrAt)).flatten

/-- What a call uses. -/
def VCall.use (v : VCall) (x : Dispatch) : Use :=
  vaultUse ((v.srcs.map (fun o => o.body ++ o.hdrAt)).flatten ++ v.extra) (v.writes ++ ownBuffers x)

/-- A call takes effect: registers and buffers as R126 leaves them, the outputs written, the call in flight. -/
def vaultDone (v : VCall) (x : Dispatch) (c : Ctx) (n : Nat) : State :=
  let (fr, s) := v.state.draw
  let s := fillBuffers (s.setCore x.lead (vaultRegs fr (s.core x.lead))) x
  let s := touchReads s v.extra
  let go := fun (acc : State × Nat) (o : VOut) =>
    let y := (acc.1.disp? x.id).getD x
    (finishObj acc.1 y c acc.2 6 v.srcs (vaultUse v.extra (ownBuffers x)) v.pois o.dst o.h o.body, 0)
  (v.outs.foldl go (s.setDisp x, n)).1

/-- Ends a call once nothing in flight stands in the way. -/
def vaultEnd (call : State → Dispatch → Ctx → Except Halt VCall) (s : State) (x : Dispatch) (c : Ctx) (n : Nat) :
    Except Halt State := do
  let v ← call s x c
  free x (v.use x)
  need (!inWindow s v.writes) .accessDenied
  pure (vaultDone v x c n)

/-- What the output words of a call depend on beside its inputs: a fresh number (log entry 1). -/
def vaultPre (s : State) : Bytes × State :=
  let (fr, s) := s.draw
  (leBytes 8 fr, s)

/-- What the output words of a call depend on: the inputs and a fresh number (log entry 1). -/
def vaultSeed (s : State) (srcs : List Obj) : Bytes × State :=
  let (pre, s) := vaultPre s
  (pre ++ (srcs.map (fun o => spansPeek s.mem o.hdrAt ++ spansPeek s.mem o.body)).flatten, s)

/-- The template of a CKKS Vault context: P16-BOOT or P17-BOOT (R127). -/
def vaultCtx (c : Ctx) : Bool := pScheme c.param == 0 && (pTemplate c.param == 3 || pTemplate c.param == 4)

/-- The CKKS routines 0x01 to 0x05 (R125 to R128). -/
def vaultCkks (routine : Nat) (s : State) (x : Dispatch) (c : Ctx) : Except Halt VCall := do
  let r := s.core x.lead
  let p := c.param
  need (vaultCtx c) .paramRefused
  if r.poisS.contains 1 then fail x.poisonCode
  let a ← vaultIn s x c r 1
  let full := a.h.slots == 2 ^ pLogN p / 2
  let inB := full && (routine == 3 || routine == 4)
  let outB := full && (routine == 2 || routine == 3)
  vaultArgs x r ((if inB then [] else [2]) ++ (if outB then [] else [4]) ++ [5])
  let srcs ← (if inB then do
      let b ← vaultIn s x c r 2
      need (b.h.level == a.h.level && b.h.keyset == a.h.keyset && b.h.slots == a.h.slots) .descInvalid
      pure [a, b]
    else pure [a] : Except Halt (List Obj))
  vaultKeysOk c a.h.keyset 5 a.h.slots
  let use := if routine == 2 || routine == 4 then 3 else if routine == 3 then 7 else 0
  need (use < a.h.level) .levelUnderflow
  let level := if routine == 1 then pL p else if routine == 5 then pL p - 13 else a.h.level - use
  let (pre, s) := vaultPre s
  let vals := if routine == 5 then bootVals p pre (valOf s p a)
    else vaultStage routine level p pre (srcs.map (valOf s p)) (if outB then 2 else 1)
  let out := fun (k reg : Nat) (o : Obj) => (do
    let h := vaultHdr x p o.h level
    let d ← resolve x c r (.reg reg) true true
    let dd ← objDst s x c d h
    pure (⟨dd, h, ((vals[k]?).map Val.bytes).getD []⟩ : VOut) : Except Halt VOut)
  let oa ← out 0 3 a
  let outs ← (if outB then do
      let ob ← out 1 4 (srcs.getLastD a)
      pure [oa, ob]
    else pure [oa] : Except Halt (List VOut))
  pure ⟨s, srcs, [], false, outs⟩

/-- The checks of R106 in their order on the 64 bytes of a gate key's header, check 5 and check 6 as R134 replaces them. -/
def gateCheck (hdr : Bytes) (src : Hdr) (kind galois : Nat) : Option FaultCode :=
  if !(field hdr 0 4 == 0x0960A2CB && field hdr 4 1 == 1 && keyKindOk (field hdr 5 1)) then some .descInvalid
  else if !(field hdr 8 4 == src.keyset && slice hdr 16 16 == src.psh && field hdr 5 1 == kind && field hdr 12 4 == galois
      && src.level == 1) then some .keyMismatch
  else none

/-- The key of a kind and Galois element that a gate routine uses for a source of a header: one loaded under the source's
KEYSET_ID, its header in HBM checked (R106, R134; log entry 56). -/
def gateKey (s : State) (c : Ctx) (src : Hdr) (kind galois : Nat) : Except Halt KeyObj :=
  match c.keysets.find? (·.id == src.keyset) with
  | none => fail .accessDenied
  | some ks => match ks.keys.find? (fun k => k.kind == kind && k.galois == galois) with
    | none => fail .keyMismatch
    | some k => match gateCheck (spansPeek s.mem (keySpans k 0 64)) src kind galois with
      | some e => fail e
      | none => pure k

/-- The header of an LWE batch of M ciphertexts under a key set (R16, R25, R119). -/
def lweHdr (c : Ctx) (keyset m : Nat) : Hdr :=
  { kind := kindLwe, scheme := 3, logN := pBrLogN c.param, paramId := pId c.param, keyset := keyset, ctx := c.num, epoch := 0
    comps := 0, level := 1, pPresent := 0, repr := 0, flags := 0, budget := 0xFFFF, scale := 0, slots := 0, plainT := 0
    factor := 0, lweN := pLweN c.param, lweCount := m, psh := c.psh }

/-- Body of an LWE batch from its ciphertexts (R25). -/
def lweBody (cts : List (List Nat × Nat)) : Bytes :=
  let b := bytesOf 4 (cts.map (·.2))
  (cts.map (fun y => bytesOf 4 y.1)).flatten ++ slice b 0 (ceilDiv b.length 1024 * 1024)

/-- LWE ciphertext of position p of an RLWE ciphertext in coefficient form under q (R132). -/
def extractAt (n q : Nat) (c0 c1 : List Nat) (p : Nat) : List Nat × Nat :=
  ((List.range n).map (fun j => if j ≤ p then negMod q (nth c1 (p - j) 0) else nth c1 (n + p - j) 0 % q), nth c0 p 0 % q)

/-- Base-128 digits of a word (R134). -/
def digits7 (d x : Nat) : List Nat := (List.range d).map (fun j => x / 2 ^ (7 * j) % 128)

/-- d_ks: ⌈b_LWE / 7⌉ (R133). -/
def ksDigits (q : Nat) : Nat := ceilDiv (Nat.log2 q + 1) 7

/-- The a vector of row (i, j) of an LWE key (R107, R133). -/
def lweRow (q n logSrc : Nat) (seed : Bytes) (i j : Nat) : List Nat :=
  expand (expandMsg seed (i % 65536) (j + 256 * (i / 65536)) logSrc 0x11) q n

/-- LWE key switching to dimension n modulo q (R134). `bw` gives the b word of a row. -/
def lweSwitch (q n logSrc d : Nat) (seed : Bytes) (bw : Nat → Nat → Nat) (ct : List Nat × Nat) : List Nat × Nat :=
  let rows := (mapIdxFrom (fun i x => mapIdxFrom (fun j y => (i, j, y)) 0 (digits7 d x)) 0 ct.1).flatten
  let sub := fun (acc : List Nat × Nat) (e : Nat × Nat × Nat) =>
    if e.2.2 == 0 then acc else
    (zipMod (fun u v => subMod q u (e.2.2 * v)) acc.1 (lweRow q n logSrc seed e.1 e.2.1),
      subMod q acc.2 (e.2.2 * bw e.1 e.2.1))
  rows.foldl sub (List.replicate n 0, ct.2 % q)

/-- The b word of a row of a loaded LWE key (R133). -/
def lweB (body : Bytes) (d i j : Nat) : Nat := field body (4 * (i * d + j)) 4

/-- VLT_EXTRACT (R132 to R134). An input of three components or with P_PRESENT 1 raises DESC_INVALID (log entry 56). -/
def vaultExtract (s : State) (x : Dispatch) (c : Ctx) : Except Halt VCall := do
  let r := s.core x.lead
  let p := c.param
  need (hasGate p && !gateOnly p) .paramRefused
  vaultArgs x r [2, 4]
  let o ← objSrc s x c r (.reg 1)
  let w := (r.sget 5).toNat
  let nn := 2 ^ pLogN p
  let m := bits w 49 34 + 1
  let ps := (List.range m).map (fun k => (bits w 16 0 + k * bits w 33 17) % nn)
  need (bits w 63 50 == 0 && o.h.kind == kindRlwe && o.h.comps == 2 && o.h.pPresent == 0) .descInvalid
  need (o.h.scheme == 0 || o.h.level == 1) .descInvalid
  need (decide ps.Nodup) .descInvalid
  let k ← gateKey s c { o.h with level := 1 } 0x11 nn
  let q0 := pPrime p 0
  let q := pLweQ p
  let limb := fun e =>
    let ws := limbWordsOf s p o e 0
    if o.h.repr == 1 then nttInv q0 (pLogN p) ws else ws.map (· % q0)
  let c0 := limb 0
  let c1 := limb 1
  let d := ksDigits q
  let kb := keySpans k 1024 (4 * nn * d)
  let body := spansPeek s.mem kb
  let ct := fun pos =>
    let y := extractAt nn q0 c0 c1 pos
    lweSwitch q (pLweN p) (pLogN p) d (slice k.header 32 32) (lweB body d) (y.1.map (switchMod q q0), switchMod q q0 y.2)
  let h := lweHdr c o.h.keyset m
  let dd ← objDst s x c (← resolve x c r (.reg 3) true true) h
  pure ⟨s, [o], kb, (spansMarked s.mem kb), [⟨dd, h, lweBody (ps.map ct)⟩]⟩

/-- f(v) of a table tensor (R135). -/
def tableAt (q n : Nat) (t : List Nat) (v : Nat) : Nat := if v < n then nth t v 0 % q else negMod q (nth t (v - n) 0)

/-- The accumulator that blind rotation starts from: component 0 is 0, component 1 holds f turned by b (R135). -/
def pbsStart (q n : Nat) (t : List Nat) (b : Nat) : List Nat × List Nat :=
  (List.replicate n 0, (List.range n).map (fun i => tableAt q n t ((i + b) % (2 * n))))

/-- The rows of the RGSW ciphertext of LWE coefficient k of a blind-rotation key: the a half that the Expander makes and the b
half that the body holds (R27, R107). -/
def rgswRows (p : Bytes) (seed body : Bytes) (k : Nat) : List (List Nat × List Nat) :=
  let n := 2 ^ pBrLogN p
  let m := 2 * pBrDg p
  (List.range m).map (fun i => (expand (expandMsg seed k i (pBrLogN p) 0x10) (pBrQ p) n,
    wordsOf 4 (slice body ((k * m + i) * n * 4) (n * 4)) n))

/-- Blind rotation (R135): one CMux step for each LWE coefficient in turn. What a step writes the manual states up to noise: free
words, of what the step reads (log entry 1). -/
def blindRotate (p : Bytes) (rows : Nat → List (List Nat × List Nat)) : Nat → List Nat → List Nat × List Nat → List Nat × List Nat
  | _, [], acc => acc
  | k, a :: t, acc =>
    let w := fun comp => canonWords (pBrQ p) (2 ^ pBrLogN p) (Config.cmuxWords p (rows k) a acc comp)
    blindRotate p rows (k + 1) t (w 0, w 1)

/-- VLT_PBS on one LWE ciphertext (R135): the switch to 2N_br, blind rotation, extraction of the constant coefficient, the switch
to q_LWE, and LWE key switching. -/
def pbsOne (p : Bytes) (t : List Nat) (rows : Nat → List (List Nat × List Nat)) (seed : Bytes) (bw : Nat → Nat → Nat)
    (ct : List Nat × Nat) : List Nat × Nat :=
  let n := 2 ^ pBrLogN p
  let qb := pBrQ p
  let q := pLweQ p
  let acc := blindRotate p rows 0 (ct.1.map (switchMod (2 * n) q)) (pbsStart qb n t (switchMod (2 * n) q ct.2))
  let y := extractAt n qb acc.2 acc.1 0
  lweSwitch q (pLweN p) (pBrLogN p) (ksDigits q) seed bw (y.1.map (switchMod q qb), switchMod q qb y.2)

/-- The LWE ciphertexts of a batch (R25). -/
def lweCts (p body : Bytes) (m : Nat) : List (List Nat × Nat) :=
  let n := pLweN p
  (List.range m).map (fun i => (wordsOf 4 (slice body (4 * n * i) (4 * n)) n, field body (4 * n * m + 4 * i) 4))

/-- VLT_PBS (R134, R135). A table tensor of another element type, count or space raises DESC_INVALID (log entry 56). -/
def vaultPbs (s : State) (x : Dispatch) (c : Ctx) : Except Halt VCall := do
  let r := s.core x.lead
  let p := c.param
  need (hasGate p) .paramRefused
  vaultArgs x r [4, 5]
  let o ← objSrc s x c r (.reg 1)
  let t ← resolve x c r (.reg 2) false false
  let nn := 2 ^ pBrLogN p
  need (o.h.kind == kindLwe && dElem t.raw == 0 && dSpace t.raw != 4 && dCount t.raw == nn) .descInvalid
  let ta ← lift (tensorSpans s x c .read t.raw nn)
  let kb ← gateKey s c o.h 0x10 0
  let ks ← gateKey s c o.h 0x11 nn
  let brAt := keySpans kb 1024 kb.bodyLen
  let lweAt := keySpans ks 1024 ks.bodyLen
  let table := wordsOf 4 (spansPeek s.mem ta) nn
  let rows := rgswRows p (slice kb.header 32 32) (spansPeek s.mem brAt)
  let bw := lweB (spansPeek s.mem lweAt) (ksDigits (pLweQ p))
  let cts := (lweCts p (spansPeek s.mem o.body) o.h.lweCount).map (pbsOne p table rows (slice ks.header 32 32) bw)
  let h := lweHdr c o.h.keyset o.h.lweCount
  let dd ← objDst s x c (← resolve x c r (.reg 3) true true) h
  let extra := ta ++ brAt ++ lweAt
  pure ⟨s, [o], extra, spansMarked s.mem extra, [⟨dd, h, lweBody cts⟩]⟩

/-- VLT_REPACK (R137): a CKKS ciphertext of S slots at level L - 10, scale and noise the firmware's figures. M above S, S no power
of two or above N/2, and a secret ciphertext of another key set raise DESC_INVALID (log entry 56). -/
def vaultRepack (s : State) (x : Dispatch) (c : Ctx) : Except Halt VCall := do
  let r := s.core x.lead
  let p := c.param
  need (vaultCtx c && hasGate p) .paramRefused
  vaultArgs x r [4]
  let o ← objSrc s x c r (.reg 1)
  let sec ← vaultIn s x c r 2
  let w := (r.sget 5).toNat
  let slots := w % 2 ^ 32
  need (w < 2 ^ 32 && o.h.kind == kindLwe && sec.h.keyset == o.h.keyset && isPow2 slots && slots ≤ 2 ^ pLogN p / 2
    && o.h.lweCount ≤ slots) .descInvalid
  vaultKeysOk c o.h.keyset 0x12 slots
  need (10 < pL p) .levelUnderflow
  let scale := Config.vaultScale 0x12 p slots % 2 ^ 32
  let b := ((scale / 4096 : Nat) : Int) - (Config.vaultNoise 0x12 p slots : Nat)
  let h := { sec.h with comps := 2, level := pL p - 10, repr := 1, pPresent := 0, scale := scale, slots := slots
                        budget := clampBudget b, flags := hdrFlags false false (decide (b < x.set 0x0101)) }
  let (seed, s) := vaultSeed s [o, sec]
  let dd ← objDst s x c (← resolve x c r (.reg 3) true true) h
  pure ⟨s, [o, sec], [], false, [⟨dd, h, (vaultVal 0x12 0 p seed h).bytes⟩]⟩

/-- VLT_BOOT_EXACT (R138). An input of three components or with P_PRESENT 1 is any other input and raises PARAM_REFUSED, and
the output keeps the input's REPR (log entry 56). -/
def vaultBootExact (s : State) (x : Dispatch) (c : Ctx) : Except Halt VCall := do
  let r := s.core x.lead
  let p := c.param
  need (hasGate p && (pScheme p == 1 || pScheme p == 2)) .paramRefused
  vaultArgs x r [2, 4, 5]
  let o ← objSrc s x c r (.reg 1)
  need (o.h.kind == kindRlwe && o.h.comps == 2 && o.h.pPresent == 0 && o.h.slots == 0 && pT p ≤ 2 ^ pBrLogN p / 4)
    .paramRefused
  vaultKeysOk c o.h.keyset 0x13 0
  let b := cLevel p (pL p) - (Config.vaultNoise 0x13 p 0 : Nat)
  let h := { o.h with level := pL p, factor := if pScheme p == 2 then 1 else 0, budget := clampBudget b
                      flags := hdrFlags false false (decide (b < x.set 0x0101)) }
  let (seed, s) := vaultSeed s [o]
  let dd ← objDst s x c (← resolve x c r (.reg 3) true true) h
  pure ⟨s, [o], [], false, [⟨dd, h, (vaultVal 0x13 0 p seed h).bytes⟩]⟩

/-- VLT_MODRAISE (R125). -/
def execVltModraise (d : DRef) (s : State) : Out := issue s d (.vltModraise d) 1 (vaultEnd (vaultCkks 1) s)
/-- VLT_CTS (R125). -/
def execVltCts (d : DRef) (s : State) : Out := issue s d (.vltCts d) 1 (vaultEnd (vaultCkks 2) s)
/-- VLT_EVALMOD (R125). -/
def execVltEvalmod (d : DRef) (s : State) : Out := issue s d (.vltEvalmod d) 1 (vaultEnd (vaultCkks 3) s)
/-- VLT_STC (R125). -/
def execVltStc (d : DRef) (s : State) : Out := issue s d (.vltStc d) 1 (vaultEnd (vaultCkks 4) s)
/-- VLT_BOOT (R125). -/
def execVltBoot (d : DRef) (s : State) : Out := issue s d (.vltBoot d) 1 (vaultEnd (vaultCkks 5) s)
/-- VLT_EXTRACT (R132). -/
def execVltExtract (d : DRef) (s : State) : Out := issue s d (.vltExtract d) 1 (vaultEnd vaultExtract s)
/-- VLT_PBS (R135). -/
def execVltPbs (d : DRef) (s : State) : Out := issue s d (.vltPbs d) 1 (vaultEnd vaultPbs s)
/-- VLT_REPACK (R137). -/
def execVltRepack (d : DRef) (s : State) : Out := issue s d (.vltRepack d) 1 (vaultEnd vaultRepack s)
/-- VLT_BOOT_EXACT (R138). -/
def execVltBootExact (d : DRef) (s : State) : Out := issue s d (.vltBootExact d) 1 (vaultEnd vaultBootExact s)

end Sys2Proof.Machine
end

