-- ==== Sys2Proof/Machine/Keys.lean ====
section
/-! DEFINITION. Key sets (R104, R110 to R113, R327, R328, R332, R376), descriptors (R148 to R157) and CTX_INFO (R331). -/

namespace Sys2Proof.Machine

/-- Bytes of the body of a key (R26, R27, R133). -/
def keyBodyLen (p hdr : Bytes) : Nat :=
  let kind := field hdr 5 1
  if kind == 0x10 then pLweN p * (2 * pBrDg p) * 2 ^ pBrLogN p * 4
  else if kind == 0x11 then ceilDiv (field hdr 12 4 * ksDigits (pLweQ p) * 4) 1024 * 1024
  else pDnum p * (pL p + pK p) * 2 ^ pLogN p * 4

/-- Spans that a command may read of a key: in HBM, no byte sealed (R327, R381). -/
def keyPlace (s : State) (xs : List Span) : Bool := xs.all (fun x => inHbm x.addr x.len && !s.sealedAny x.addr x.len)

/-- What the load of a key gives: the key, and H_i of R328. -/
abbrev Loaded := KeyObj × Bytes

/-- Reads one key of a load and checks it (R327, R328, R348, R352). -/
def loadKey (s : State) (c : Ctx) (id : Nat) (done : List Loaded) (va : Nat) : State × Except FaultCode Loaded :=
  match readerRead s c cmdReader va 64 with
  | (s, .error (f, l)) => (readerRec s c cmdReader f 4 va l, .error f)
  | (s, .ok (_, hdr, bad)) =>
    let kind := field hdr 5 1
    let galois := field hdr 12 4
    if bad then (s, .error .eccUncorrectable)
    else if !(field hdr 0 4 == 0x0960A2CB && field hdr 4 1 == 1 && keyKindOk kind)
        || done.any (fun d => d.1.kind == kind && d.1.galois == galois) then (s, .error .descInvalid)
    else if field hdr 8 4 != id || slice hdr 16 16 != c.psh then (s, .error .keyMismatch)
    else
      let n := keyBodyLen c.param hdr
      match readerRead s c cmdReader va (1024 + n) with
      | (s, .error (f, l)) => (readerRec s c cmdReader f 4 va l, .error f)
      | (s, .ok (xs, b, bad)) =>
        if bad then (s, .error .eccUncorrectable)
        else if !keyPlace s xs then (s, .error .accessDenied)
        else (s, .ok (⟨kind, galois, va, hdr, n, xs.map (fun x => x.addr / 65536)⟩, hdr ++ sha384 (b.drop 1024)))

/-- Reads the keys of a load in turn, up to the first failing one, whose index it tells (R327). -/
def loadKeys (s : State) (c : Ctx) (id : Nat) : List Loaded → Nat → List Nat → State × Except (FaultCode × Nat) (List Loaded)
  | done, _, [] => (s, .ok done)
  | done, i, va :: t =>
    match loadKey s c id done va with
    | (s, .error f) => (s, .error (f, i))
    | (s, .ok k) => loadKeys s c id (done ++ [k]) (i + 1) t

/-- Key-object bytes loaded, rounded up to MiB (R331). -/
def keyMib (c : Ctx) (extra : Nat) : Nat :=
  ceilDiv (((c.keysets.map (fun k => (k.keys.map (fun o => 1024 + o.bodyLen)).sum)).sum) + extra) (2 ^ 20)

/-- The measurement chain after a load (R332), with its log entry (R376). -/
def extendChain (s : State) (c : Ctx) (e : LoadEntry) : Ctx :=
  { c with measChain := sha384 (c.measChain ++ leBytes 1 e.kind ++ e.meas), measCount := c.measCount + 1
           log := c.log ++ [{ e with ticks := s.splitCounter 5 0 }] }

/-- KEYSET_LOAD (R327, R328, R376). -/
def keysetLoad (r : MbReq) (s : State) : Reply :=
  let id := field r.payload 0 4
  let n := field r.payload 4 4
  match s.ctx? r.ctx with
  | none => deny s .accessDenied
  | some c =>
    if !(1 ≤ n && n ≤ 500 && allZero r.payload 8 8) || c.keysets.any (·.id == id) then deny s .descInvalid
    else match loadKeys s c id [] 0 ((List.range n).map (fun i => field r.payload (16 + 8 * i) 8)) with
      | (s, .error (f, i)) => reply s (.deniedAt f i)
      | (s, .ok ks) =>
        let total := (ks.map (fun k => k.1.bodyLen)).sum
        if keyMib c (total + 1024 * n) > c.quotaKeyMib || c.measCount ≥ 512 then deny s .admissionDenied
        else
          let meas := sha384 (leBytes 4 id ++ (ks.map (·.2)).flatten)
          let c := extendChain s c ⟨2, 0, id, meas, zeros 48, 0⟩
          reply (s.setCtx { c with keysets := c.keysets ++ [⟨id, ks.map (·.1), meas⟩] }) (.ok (meas ++ leBytes 8 total))

/-- Drops the resident copies of keys that pass a test, with the transfers that make them and their scores (R110). -/
def dropCopies (s : State) (p : Nat → KeyName → Bool) : State :=
  let s := { s with keyCopies := s.keyCopies.filter (fun k => !p k.ctx k.key)
                    keyScores := s.keyScores.filter (fun k => !p k.ctx k.key) }
  let gone := s.dma.filter (fun b => match b.job with
    | .keyCopy ctx k => p ctx k
    | .fill _ _ => false)
  settleCopies (gone.foldl (fun s b => endDma s (· == b)) s)

/-- The key that a KEY_PIN payload names. -/
def pinKey (p : Bytes) : KeyName := ⟨field p 0 4, field p 4 1, field p 8 4⟩

/-- The dies of a KEY_PIN payload. -/
def pinDies (p : Bytes) : List Nat := [0, 1].filter (bit (field p 5 1))

/-- A loaded key of a context by name. -/
def loadedKey (c : Ctx) (k : KeyName) : Option KeyObj :=
  (c.keysets.find? (·.id == k.keyset)).bind (fun t => t.keys.find? (fun o => o.kind == k.kind && o.galois == k.galois))

/-- Answers the KEY_PIN commands whose copies are complete, or whose key is gone (R112, R326). -/
def settlePins (s : State) : State :=
  s.mbs.foldl (fun s b =>
    if b.2.wait != some .keyCopy then s else
    let r := (parseReq b.2.req).2
    match s.ctx? r.ctx with
    | none => respond s b.1 (.denied .accessDenied)
    | some c =>
      if (loadedKey c (pinKey r.payload)).isNone then respond s b.1 (.denied .keyMismatch)
      else if s.keyCopies.any (fun k => k.ctx == r.ctx && k.key == pinKey r.payload
          && (pinDies r.payload).contains k.die && k.stage != .evicted && !k.complete) then s
      else respond s b.1 (.ok [])) s

/-- KEYSET_UNLOAD (R110, R327). Any admitted, uncommitted dispatch of the context is taken to use its key sets, and a key
set that is not loaded is refused (DEDUCED, log entry 40). -/
def keysetUnload (r : MbReq) (s : State) : Reply :=
  let id := field r.payload 0 4
  match s.ctx? r.ctx with
  | none => deny s .accessDenied
  | some c =>
    if !c.keysets.any (·.id == id) then deny s .descInvalid
    else if s.disps.any (fun x => x.ctx == r.ctx && x.phase != .ended) then reply s (.plain .busy)
    else
      let s := dropCopies s (fun ctx k => ctx == r.ctx && k.keyset == id)
      reply (settlePins (s.setCtx { c with keysets := c.keysets.filter (·.id != id) })) (.ok [])

/-- Pins a key on a die (R112): the copy it has, or one to be made. None where the pinned total would pass KEY_RES_MIB. -/
def pinOn (s : State) (ctx : Nat) (k : KeyName) (bytes die : Nat) : Option State :=
  let cap := s.settingN 0x0200 die * 2 ^ 20
  match copyOn s ctx k die with
  | some e =>
    if e.loose && pinnedBytes s die + e.bytes > cap then none
    else some { s with keyCopies := s.keyCopies.map (fun y => if y == e then { y with pinned := true } else y) }
  | none =>
    if pinnedBytes s die + bytes > cap then none
    else (makeRoom s die bytes (fun _ => true)).map (fun t => startCopy t die ctx k bytes true)

/-- KEY_PIN (R112, R326, R327): a pin answers when its copies are complete. -/
def keyPin (r : MbReq) (s : State) : Reply :=
  let p := r.payload
  let pin := field p 6 1
  if !(field p 5 1 < 4 && pin < 2 && allZero p 7 1) then deny s .descInvalid
  else match (s.ctx? r.ctx).bind (fun c => loadedKey c (pinKey p)) with
    | none => deny s .keyMismatch
    | some o =>
      if pin == 0 then
        reply { s with keyCopies := s.keyCopies.map (fun e =>
          if e.ctx == r.ctx && e.key == pinKey p && (pinDies p).contains e.die then { e with pinned := false } else e) } (.ok [])
      else match (pinDies p).foldl (fun (t : Option State) die =>
          t.bind (fun t => pinOn t r.ctx (pinKey p) (1024 + o.bodyLen) die)) (some s) with
        | none => deny s .admissionDenied
        | some t =>
          if (pinDies p).all (fun die => match copyOn t r.ctx (pinKey p) die with
            | some e => e.complete
            | none => true) then reply t (.ok [])
          else ⟨t, .error .keyCopy⟩

/-- What a copy of a loaded key holds: its header and whole body, with a mark of poison (R110). -/
def copyData (s : State) (ctx : Nat) (k : KeyName) : Bytes × Bool :=
  match (s.ctx? ctx).bind (fun c => loadedKey c k) with
  | some o => (spansPeek s.mem (keySpans o 0 (1024 + o.bodyLen)), spansMarked s.mem (keySpans o 0 (1024 + o.bodyLen)))
  | none => ([], false)

/-- KEY_COPY_COMPLETE (R113): a transfer that an engine carries ends, and from then on the copy serves ks.ip. -/
def execKeyCopyComplete (die ctx keyset kind galois : Nat) (s : State) : Out :=
  let k : KeyName := ⟨keyset, kind, galois⟩
  let job := fun (b : DmaBusy) => b.die == die && b.job == .keyCopy ctx k
  if !s.dma.any (fun b => job b && b.engine.isSome) then .next s
  else
    let (data, marked) := copyData s ctx k
    let s := { s with keyCopies := s.keyCopies.map (fun e =>
      if e.die == die && e.ctx == ctx && e.key == k && e.stage == .copying
      then { e with stage := .ready, data := data, marked := marked } else e) }
    .next (settlePins (endDma s job))

/-- RES_WINDOW_EXPIRY (R111): a window of RES_WINDOW ticks of a die has ended and becomes the last complete one. -/
def execResWindowExpiry (die : Nat) (s : State) : Out :=
  if s.isUp && die < 2 && due s.now (s.meter die).resSince (s.settingN 0x0300 0) then
    let s := s.modMeter die (fun m => { m with resSince := s.now })
    .next { s with keyScores := s.keyScores.map (fun e => if e.die == die then { e with last := e.cur, cur := 0 } else e) }
  else .next s

/-- The generation after one (R150): 255 is followed by 1. -/
def genNext (g : Nat) : Nat := if g ≥ 255 then 1 else g + 1

/-- Stores a checked descriptor (R150): VALID, generation advanced. -/
def Ctx.putDesc (c : Ctx) (i : Nat) (raw : Bytes) : Ctx :=
  { c with descs := assocSet i ⟨true, genNext (c.desc i).gen, raw⟩ c.descs }

/-- The handle of an entry (R148). -/
def handleOf (i gen : Nat) : Nat := gen * 2 ^ 24 + i

/-- DESC_SET (R150, R157). -/
def descSet (r : MbReq) (s : State) : Reply :=
  let i := field r.payload 0 4
  let raw := slice r.payload 8 64
  match s.ctx? r.ctx with
  | none => deny s .accessDenied
  | some c =>
    if !(allZero r.payload 4 4 && 1 ≤ i && i < c.descEntries) then deny s .descInvalid
    else match descCheck raw with
      | some f => deny s f
      | none =>
        let c := c.putDesc i raw
        reply (s.setCtx c) (.ok (leBytes 4 (handleOf i (c.desc i).gen)))

/-- DESC_FREE (R150). -/
def descFree (r : MbReq) (s : State) : Reply :=
  let h := field r.payload 0 4
  let i := h % 2 ^ 24
  match s.ctx? r.ctx with
  | none => deny s .accessDenied
  | some c =>
    let e := c.desc i
    if h == 0 || i ≥ c.descEntries then deny s .descInvalid
    else if !(e.valid && e.gen == h / 2 ^ 24) then deny s .handleStale
    else reply (s.setCtx { c with descs := assocSet i ⟨false, genNext e.gen, []⟩ c.descs }) (.ok [])

/-- The context entry (R331), with INTERNAL zero. -/
def ctxEntry (s : State) (c : Ctx) : Bytes :=
  let n := fun id => s.setting id c.num
  let b := leBytes 4 c.num ++ leBytes 1 1 ++ leBytes 1 c.secClass
    ++ leBytes 1 (n 0x0100).toNat ++ leBytes 1 (pScheme c.param) ++ leBytes 4 c.tenant ++ leBytes 4 (pId c.param)
    ++ slice c.psh 0 16 ++ leBytes 8 c.ptRoot ++ leBytes 4 c.descEntries ++ leBytes 2 (n 0x0106).toNat
    ++ leBytes 2 (n 0x0107).toNat ++ leBytes 2 (n 0x0101).toNat ++ leBytes 2 (unsignedOf 16 (n 0x0102))
    ++ leBytes 2 c.quotaQueues ++ leBytes 2 c.quotaPrograms ++ leBytes 4 c.quotaKeyMib ++ leBytes 4 (keyMib c 0)
    ++ leBytes 8 (n 0x0103).toNat ++ leBytes 2 (n 0x0104).toNat ++ leBytes 1 (n 0x0105).toNat
    ++ leBytes 1 (flag c.heldLost 0) ++ leBytes 2 (queuesOf s c.num).length ++ leBytes 2 c.programs.length
    ++ leBytes 4 c.keysets.length ++ leBytes 4 c.measCount ++ slice c.measChain 0 48 ++ leBytes 4 c.heldLostCount
    ++ zeros 84 ++ zeros 28
  b ++ leBytes 4 (crc32c b)

/-- LEVEL_OUT of a routine (R125, R137, R138); none where the record cannot run it. -/
def levelOut (p : Bytes) (routine : Nat) : Option Nat :=
  let boot := pScheme p == 0 && (pTemplate p == 3 || pTemplate p == 4)
  match routine with
  | 0x05 => if boot then some (pL p - 13) else none
  | 0x12 => if boot then some (pL p - 10) else none
  | 0x13 => if hasGate p && (pScheme p == 1 || pScheme p == 2) then some (pL p) else none
  | _ => none

/-- CTX_INFO (R127, R137, R138, R331): the entry, and the firmware figures of a routine (log entry 1). -/
def ctxInfo (r : MbReq) (s : State) : Reply :=
  let slots := field r.payload 0 4
  let routine := field r.payload 4 1
  match s.ctx? r.ctx with
  | none => deny s .accessDenied
  | some c =>
    if !(routine == 0x05 || routine == 0x12 || routine == 0x13) then deny s .descInvalid
    else
      let (fr, s) := s.draw
      let keys := (vaultList c.param routine slots).take 470
      let level := (levelOut c.param routine).getD ((Config.freeWord fr).toNat % 256)
      let b := ctxEntry s c ++ leBytes 2 (Config.vaultNoise routine c.param slots) ++ leBytes 2 keys.length
        ++ leBytes 1 level ++ zeros 3 ++ leBytes 4 (Config.vaultScale routine c.param slots) ++ zeros 4
        ++ (keys.map (fun k => leBytes 1 k.1 ++ zeros 3 ++ leBytes 4 k.2)).flatten
      reply (s.setCtx { c with heldLost := false }) (.ok b)

/-- KEYSET_LOAD. -/
def execKeysetLoad (m : Nat) (r : MbReq) (s : State) : Out := mbCommand 0x10 m r (keysetLoad r) s
/-- KEYSET_UNLOAD. -/
def execKeysetUnload (m : Nat) (r : MbReq) (s : State) : Out := mbCommand 0x11 m r (keysetUnload r) s
/-- KEY_PIN. -/
def execKeyPin (m : Nat) (r : MbReq) (s : State) : Out := mbCommand 0x12 m r (keyPin r) s
/-- DESC_SET. -/
def execDescSet (m : Nat) (r : MbReq) (s : State) : Out := mbCommand 0x1C m r (descSet r) s
/-- DESC_FREE. -/
def execDescFree (m : Nat) (r : MbReq) (s : State) : Out := mbCommand 0x1D m r (descFree r) s
/-- CTX_INFO. -/
def execCtxInfo (m : Nat) (r : MbReq) (s : State) : Out := mbCommand 0x03 m r (ctxInfo r) s

end Sys2Proof.Machine
end

