-- ==== Sys2Proof/Machine/Programs.lean ====
section
/-! DEFINITION. PROG_LOAD and PROG_UNLOAD: the image (R212, R213), the checks of R215, measurement (R214, R332, R376), literal
handles (R216) and the translation cache (R247, R249). -/

namespace Sys2Proof.Machine

/-- A section entry of an image (R213). -/
structure Section where
  type : Nat
  off : Nat
  size : Nat
  count : Nat
  deriving DecidableEq, Repr

/-- Entry i of the section table. -/
def sectionAt (img : Bytes) (i : Nat) : Section :=
  let o := 32 + 16 * i
  ⟨field img o 1, field img (o + 4) 4, field img (o + 8) 4, field img (o + 12) 4⟩

/-- Entry size of a section type; none for a type that is not defined (R213). -/
def entrySize (type : Nat) : Option Nat :=
  match type with
  | 1 => some 8
  | 2 => some 72
  | 3 => some 4
  | 4 => some 16
  | 5 => some 1
  | _ => none

/-- The sections in use. -/
def sectionsOf (img : Bytes) : List Section := (List.range (field img 16 1)).map (sectionAt img)

/-- The rules of R213 on one section. -/
def sectionOk (img : Bytes) (i : Nat) : Bool :=
  let x := sectionAt img i
  allZero img (33 + 16 * i) 3 && x.off % 64 == 0 && 256 ≤ x.off && x.off + x.size ≤ field img 8 4
  && (match entrySize x.type with
    | some n => x.size == n * x.count
    | none => false)

/-- How many sections of a type an image has. -/
def sectionCount (img : Bytes) (type : Nat) : Nat := ((sectionsOf img).filter (·.type == type)).length

/-- Check 1 of R215: the header and the section table (R212, R213). -/
def imageOk (img : Bytes) (size : Nat) : Bool :=
  let n := field img 16 1
  field img 0 4 == 0x0960A2E1 && field img 4 1 == 1 && field img 5 1 < 2 && field img 8 4 == size && size % 64 == 0
  && 256 ≤ size && size ≤ 67108864 && 1 ≤ n && n ≤ 8 && allZero img 17 15 && allZero img 160 96
  && allZero img (32 + 16 * n) (16 * (8 - n)) && (List.range n).all (sectionOk img)
  && (List.range n).all (fun i => (List.range i).all (fun j => !meets (sectionAt img i).off (sectionAt img i).size
      (sectionAt img j).off (sectionAt img j).size))
  && sectionCount img 1 == 1 && [2, 3, 4].all (fun t => sectionCount img t ≤ 1)

/-- The entries of the section of a type, as byte strings. -/
def entriesOf (img : Bytes) (type : Nat) : List Bytes :=
  match (sectionsOf img).find? (·.type == type), entrySize type with
  | some x, some n => (List.range x.count).map (fun i => slice img (x.off + n * i) n)
  | _, _ => []

/-- The words of the code section. -/
def imageWords (img : Bytes) : List DWord := (entriesOf img 1).map (fun b => BitVec.ofNat 64 (leNat b))

/-- The descriptor entries: INDEX and descriptor. -/
def imageDescs (img : Bytes) : List (Nat × Bytes) := (entriesOf img 2).map (fun b => (field b 0 4, slice b 8 64))

/-- Check 3 of R215: the first failing entry's fault and position. -/
def descFault (c : Ctx) (img : Bytes) : Option (FaultCode × Nat) :=
  let es := entriesOf img 2
  (List.range es.length).findSome? (fun i =>
    let b := nth es i []
    let idx := field b 0 4
    if !(allZero b 4 4 && 1 ≤ idx && idx < min c.descEntries (2 ^ 20) && !(es.take i).any (fun e => field e 0 4 == idx)) then
      some (.descInvalid, i)
    else (descCheck (slice b 8 64)).map (fun f => (f, i)))

/-- The footprint (R213). -/
def imageFoot (img : Bytes) : List FootSeg :=
  (entriesOf img 3).map (fun b => ⟨field b 0 2, field b 2 1 == 1, field b 3 1 == 1⟩)

/-- The key-pin list (R213). -/
def imagePins (img : Bytes) : List KeyName := (entriesOf img 4).map (fun b => ⟨field b 0 4, field b 4 1, field b 8 4⟩)

/-- Check 5 of R215. -/
def footOk (img : Bytes) : Bool :=
  let es := entriesOf img 3
  es.all (fun b => (field b 2 1 == 1 && field b 0 2 < 32 || field b 2 1 == 2 && field b 0 2 < 256) && field b 3 1 < 2)
  && (es.map (fun b => field b 0 3)).Nodup
  && (entriesOf img 4).all (fun b => keyKindOk (field b 4 1) && allZero b 5 3 && allZero b 12 4)

/-- The descriptor that a literal index names once the image is loaded (R216): the section's, or a VALID entry's. -/
def literalDesc (c : Ctx) (img : Bytes) (i : Nat) : Option Bytes :=
  match assoc i (imageDescs img) with
  | some d => some d
  | none => if (c.desc i).valid then some (c.desc i).raw else none

/-- The checks of R215 in their order: the fault and DETAIL of the first that fails. -/
def imageFault (c : Ctx) (img : Bytes) (size : Nat) : Option (FaultCode × Nat) :=
  if !imageOk img size then some (.descInvalid, noDetail)
  else
    let (code, whole) := codeOf (imageWords img)
    let tmpl := field img 7 1
    if !(field img 6 1 == pScheme c.param && (tmpl == 0xFF || tmpl == pTemplate c.param)
        && (hasGate c.param || !code.any (fun x => usesGate x.ins))) then some (.paramRefused, noDetail)
    else match descFault c img with
      | some f => some f
      | none =>
        if !(whole && codeOk c.param (field img 6 1) (field img 12 4) (literalDesc c img) code) then some (.descInvalid, noDetail)
        else if !footOk img then some (.descInvalid, noDetail)
        else none

/-- The translation key of a program (R247). -/
def transKey (c : Ctx) (meas translator : Bytes) : Bytes := meas ++ c.psh ++ translator

/-- A loaded program uses a translation. -/
def transUsed (s : State) (k : Bytes) : Bool := s.ctxs.any (fun c => c.programs.any (fun p => transKey c p.meas p.translator == k))

/-- Discards the least recently loaded unused entries until some bytes fit in the translation cache (R249). The first
argument bounds the number of discards. -/
def makeTrans (s : State) (bytes : Nat) : Nat → List Bytes → Option (List Bytes)
  | 0, _ => none
  | fuel + 1, l =>
    if (l.map Config.translationSize).sum + bytes ≤ s.settingN 0x0304 0 * 2 ^ 20 then some l
    else match l.reverse.find? (fun k => !transUsed s k) with
      | some k => makeTrans s bytes fuel (l.erase k)
      | none => none

/-- The translation cache after a load of a key (R249): whether it hit. -/
def loadTrans (s : State) (k : Bytes) : Bool × State :=
  if s.trans.contains k then (true, { s with trans := k :: s.trans.erase k })
  else match makeTrans s (Config.translationSize k) (s.trans.length + 1) s.trans with
    | some l => (false, { s with trans := k :: l })
    | none => (false, s)

/-- The lowest program number, from 1, that no loaded program of a context has (DESIGN CHOICE, log entry 41). -/
def freeProgram (c : Ctx) : Option Nat := ((rangeFrom 1 (c.programs.length + 1)).find? (fun n => !c.programs.any (·.num == n))).filter (· < 65536)

/-- The active bank of an image class, counted from 0 (R364, R367). -/
def activeBank (s : State) (i : Nat) : Option Bank :=
  (s.rsp.images[i]?).bind (fun c => if c.activeB then c.bankB else c.bankA)

/-- The image measurement of a bank: the hash of its signed part (R365). -/
def imageMeas (b : Bank) : Bytes := sha384 (slice b.head 0 256)

/-- The image measurement of the active image of a class, counted from 0 (R370). -/
def activeMeas (s : State) (i : Nat) : Bytes := match activeBank s i with
  | some b => imageMeas b
  | none => zeros 48

/-- The measurement of the translator in force, UBPIREX (R247, R376). -/
def translatorMeas (s : State) : Bytes := activeMeas s 3

/-- A load that has passed every check (R214, R216, R247, R332). -/
def installProgram (s : State) (c : Ctx) (img : Bytes) (n : Nat) : Reply :=
  let meas := sha384 img
  let tr := translatorMeas s
  let c := (imageDescs img).foldl (fun c e => c.putDesc e.1 e.2) c
  let words := imageWords img
  let p : Program := { num := n, code := words, entry := field img 12 4
                       binds := (literals (codeOf words).1).map (fun i => (i, (c.desc i).gen)), foot := imageFoot img
                       pins := imagePins img, autoVault := bit (field img 5 1) 0, meas := meas, translator := tr }
  let (hit, s) := loadTrans s (transKey c meas tr)
  let c := extendChain s { c with programs := c.programs ++ [p] } ⟨1, n, 0, meas, tr, 0⟩
  reply (s.setCtx c) (.ok (leBytes 2 n ++ leBytes 1 (flag hit 0) ++ zeros 13 ++ meas ++ tr))

/-- PROG_LOAD (R215, R327, R352, R376, R381). -/
def progLoad (r : MbReq) (s : State) : Reply :=
  let va := field r.payload 0 8
  let size := field r.payload 8 4
  match s.ctx? r.ctx with
  | none => deny s .accessDenied
  | some c =>
    if c.weightsUsed then deny s .accessDenied
    else if !(256 ≤ size && size ≤ 67108864) then deny s .descInvalid
    else match readerRead s c cmdReader va size with
      | (s, .error (f, l)) => deny (readerRec s c cmdReader f 4 va l) f
      | (s, .ok (xs, img, bad)) =>
        if bad then deny s .eccUncorrectable
        else if xs.any (fun x => s.sealedAny x.addr x.len) then deny s .accessDenied
        else match imageFault c img size with
          | some (f, i) => reply s (.deniedAt f i)
          | none =>
            if c.programs.length ≥ c.quotaPrograms || c.measCount ≥ 512 then deny s .admissionDenied
            else match freeProgram c with
              | none => deny s .admissionDenied
              | some n => installProgram s c img n

/-- PROG_UNLOAD (R327, R332). A program that is not loaded is refused (DEDUCED, log entry 40). -/
def progUnload (r : MbReq) (s : State) : Reply :=
  let n := field r.payload 0 2
  match s.ctx? r.ctx with
  | none => deny s .accessDenied
  | some c =>
    if !c.programs.any (·.num == n) then deny s .descInvalid
    else if s.disps.any (fun x => x.ctx == r.ctx && x.phase != .ended && x.prog.num == n) then reply s (.plain .busy)
    else reply (s.setCtx { c with programs := c.programs.filter (·.num != n) }) (.ok [])

/-- PROG_LOAD. -/
def execProgLoad (m : Nat) (r : MbReq) (s : State) : Out := mbCommand 0x18 m r (progLoad r) s
/-- PROG_UNLOAD. -/
def execProgUnload (m : Nat) (r : MbReq) (s : State) : Out := mbCommand 0x19 m r (progUnload r) s

end Sys2Proof.Machine
end

