-- ==== Sys2Proof/Machine/Contexts.lean ====
section
/-! DEFINITION. Contexts: CTX_CREATE (R34, R35, R327, R341, R359, R379) and CTX_DESTROY (R329, R354, R381); and
SETTING_TAKE_EFFECT (R336). -/

namespace Sys2Proof.Machine

/-- PSH of a record (R29). -/
def pshOf (p : Bytes) : Bytes := slice (sha384 p) 0 16

/-- PT_ROOT is well formed (R341): root in HBM or the companion window, in HBM where PINNED is set. -/
def ptRootOk (v : Nat) : Bool :=
  let a := bits v 47 12 * 4096
  bits v 63 48 == 0 && bits v 11 1 == 0 && (inHbm a 4096 || (inComp a 4096 && !bit v 0))

/-- The tables of an address space as they stand, from the table of a level (R342): address and bytes of each, and whether
every table and present leaf lies in HBM outside the reserved map (R379). -/
def gather (s : State) : Nat → Nat → Nat → List (Nat × Bytes) × Bool
  | 0, _, _ => ([], true)
  | fuel + 1, l, table =>
    let n := tableSize l
    if !(inHbm table n && !s.isReserved table n) then ([], false)
    else
      let t := devPeek s.mem table n
      (List.range (n / 8)).foldl (fun (acc : List (Nat × Bytes) × Bool) i =>
        let e := field t (8 * i) 8
        let a := bits e 47 8 * 256
        if !(bit e 0 && entryWellFormed l e) then acc
        else if bit e 2 then
          (acc.1, acc.2 && inHbm a (2 ^ levelShift l) && !s.isReserved a (2 ^ levelShift l))
        else
          let r := gather s fuel (l + 1) a
          (acc.1 ++ r.1.filter (fun y => !acc.1.contains y), acc.2 && r.2)) ([(table, t)], true)

/-- The frozen copy of the tables under a root (R379), the larger tables first; none where R379 refuses them. -/
def freeze (s : State) (root : Nat) : Option (List (Nat × Bytes)) :=
  let (ts, ok) := gather s 4 0 (bits root 47 12 * 4096)
  let big := ts.filter (fun t => t.2.length == 4096)
  let small := ts.filter (fun t => t.2.length != 4096 && !big.any (·.1 == t.1))
  if bit root 0 && ok && ((ts.map (·.2.length)).sum ≤ 2 ^ 24) then some (big ++ small) else none

/-- A new context (R149, R331, R332). -/
def newCtx (n : Nat) (p : Bytes) (frozen : List (Nat × Bytes)) : Ctx :=
  { num := n, secClass := field p 336 1, tenant := field p 324 4, param := slice p 0 320, psh := pshOf (slice p 0 320)
    ptRoot := field p 328 8, descEntries := field p 320 4, descs := [], quotaQueues := field p 340 2
    quotaPrograms := field p 342 2, quotaKeyMib := field p 344 4, heldLost := false, heldLostCount := 0, measCount := 0
    measChain := zeros 48, log := [], keysets := [], programs := [], handoffSeq := 0, weightsKeys := [], weightsUsed := false
    frozen := frozen, sealed := [], oldMarks := [], vaultScratch := [] }

/-- CTX_CREATE (R34, R35, R327, R341, R359, R379): the lowest number that no live context has. -/
def ctxCreate (r : MbReq) (s : State) : Reply :=
  let p := r.payload
  let rec_ := slice p 0 320
  let lc := lcState s
  if !allZero p 337 3 then deny s .descInvalid
  else if lc == 0 || lc == 3 then deny s .accessDenied
  else if !paramOk rec_ || s.ctxs.any (fun c => pId c.param == pId rec_ && c.psh != pshOf rec_) then deny s .paramRefused
  else if !(2 ≤ field p 320 4 && field p 320 4 ≤ 2 ^ 24 && field p 336 1 < 2 && ptRootOk (field p 328 8)) then
    deny s .descInvalid
  else
    let frozen := if field p 336 1 == 0 then some []
      else if lc == 2 && !s.rsp.debugSeen then freeze s (field p 328 8) else none
    match frozen with
    | none => deny s .accessDenied
    | some f => match ((List.range (s.ctxs.length + 1)).find? (fun n => (s.ctx? n).isNone)).filter (· < 2 ^ 20) with
      | none => deny s .admissionDenied
      | some n => reply { s with ctxs := s.ctxs ++ [newCtx n p f] } (.ok (leBytes 4 n ++ zeros 12 ++ pshOf rec_))

/-- Fills in progress for a context are abandoned (R354): the frame's contents are undefined, a free value. -/
def abandonFills (s : State) (ctx : Nat) : State :=
  let s := (s.pageWaits.filter (fun w => w.ctx == ctx && w.fill && w.started)).foldl (fun s w =>
    let (fr, s) := s.draw
    let s := if frameOk s ctx w.entry then s.devWr (fillFrame w.entry) (slice (Config.freeBytes fr 65536) 0 65536) else s
    endDma (dropWait s w) (fun b => b.job == .fill w.ctx w.page)) s
  { s with pageWaits := s.pageWaits.filter (·.ctx != ctx) }

/-- CTX_DESTROY or a stop reaches one dispatch (R307, R329): it commits at once; whether it was aborted. -/
def destroyDispatch (s : State) (d : DRef) : State × Nat :=
  match s.disp? d with
  | none => (s, 0)
  | some x =>
    if x.phase == .ended then (s, 0)
    else
      let y := if x.fate.isNone && x.finished then { x with abortLate := true } else x.abort 0 4 noInstr
      match outcomeOf y with
      | none => (s, 0)
      | some o =>
        let s := commitDispatch (s.setDisp y) y o
        (answerWaits s (abortAnswer d o.outcome (flag y.abortLate 0)), if o.cause == 4 then 1 else 0)

/-- The settings of a context that no longer exists: entries staged for it name no context any more (R335). -/
def dropSettings (c : CfgState) (ctx : Nat) : CfgState :=
  let gone := fun (k : Nat × Nat) => k.1 < 0x0200 && k.2 == ctx
  { c with values := c.values.filter (fun e => !gone e.1), decided := c.decided.filter (fun e => !gone e.1)
           changes := c.changes.filter (fun e => !gone e.1)
           txns := c.txns.map (fun t => { t with staged := t.staged.map (fun e =>
             if gone e.1 then ((e.1.1, 2 ^ 32 + ctx), e.2) else e) }) }

/-- What belongs to a context goes (R329), in its order. -/
def dropContext (s : State) (c : Ctx) : State :=
  let n := c.num
  let s := (queuesOf s n).foldl (fun s q => destroyQueue s q.num) s
  let s := (s.colls.filter (fun k => k.ref.ctx == n)).foldl removeColl s
  let s := s.mgrs.foldl (fun s m => (m.2.windows.filter (·.ctx == n)).foldl (fun s w => closeWindow s m.1 w.num) s) s
  let s := dropCopies s (fun ctx _ => ctx == n)
  let s := { s with mem := { s.mem with csMap := s.mem.csMap.filter (·.ctx != n), ifMap := s.mem.ifMap.filter (·.ctx != n)
                                        xlate := s.mem.xlate.filter (·.ctx != n) }
                    hwins := s.hwins.filter (·.2.ctx != n), marks := s.marks.filter (fun m => m.2.owner != n || !m.2.alloc)
                    disps := s.disps.filter (·.ctx != n), ctxs := s.ctxs.filter (·.num != n)
                    cfg := dropSettings s.cfg n
                    rsp := { s.rsp with sessions := s.rsp.sessions.filter (·.ctx != some n)
                                        zeroing := if c.sealed.isEmpty && c.frozen.isEmpty then s.rsp.zeroing
                                          else s.rsp.zeroing ++ [(n, c.sealed)] } }
  let s := answerWaits s (fun w => match w with
    | .spdm (some k) _ => if k == n then some (.denied .accessDenied) else none
    | _ => none)
  settlePins s

/-- Destroys a context (R329): the number of dispatches aborted. -/
def destroyContext (s : State) (c : Ctx) : State × Nat :=
  let s := abandonFills s c.num
  let (s, n) := (s.disps.filter (·.ctx == c.num)).foldl (fun (acc : State × Nat) x =>
    let r := destroyDispatch acc.1 x.id
    (r.1, acc.2 + r.2)) (s, 0)
  match s.ctx? c.num with
  | some c => (dropContext s c, n)
  | none => (s, n)

/-- Destroys every context (R362, R401). -/
def destroyAll (s : State) : State := s.ctxs.foldl (fun s c => match s.ctx? c.num with
  | some c => (destroyContext s c).1
  | none => s) s

/-- CTX_DESTROY (R329). -/
def ctxDestroy (r : MbReq) (s : State) : Reply :=
  match s.ctx? r.ctx with
  | none => deny s .accessDenied
  | some c => let (s, n) := destroyContext s c; reply s (.ok (leBytes 4 n))

/-- CTX_CREATE. -/
def execCtxCreate (m : Nat) (r : MbReq) (s : State) : Out := mbCommand 0x01 m r (ctxCreate r) s
/-- CTX_DESTROY. -/
def execCtxDestroy (m : Nat) (r : MbReq) (s : State) : Out := mbCommand 0x02 m r (ctxDestroy r) s

/-- A change of SPRINT_FIELDS waits until no SPRINT dispatch holds a Field that it removes (R310). -/
def mayChange (s : State) (id : Nat) (v : Int) : Bool :=
  id != 0x030A || (List.range 8).all (fun f => bit v.toNat f || !(reservedField s f && sprintHolds s f))

/-- Evicts loose key copies until KEY_RES_MIB holds (R111, R124). -/
def shrinkKeys (s : State) (die : Nat) : State := (makeRoom s die 0 (fun _ => true)).getD s

/-- Newly reserved Fields that sleep or are off are woken (R296, R403). -/
def wakeReserved (s : State) : State :=
  { s with fields := mapIdxFrom (fun f g =>
      if reservedField s f && !s.fence.fields.any (·.unit == f)
          && (g.st == .off || g.st == .sleep || g.entering == some .off || g.entering == some .sleep)
      then { g with waking := true } else g) 0 s.fields }

/-- What a setting does as it takes effect beside its value (R249, R285, R296, R402). -/
def effectOf (s : State) (id target : Nat) : State :=
  if id == 0x0200 then shrinkKeys s target
  else if id == 0x0304 then { s with trans := (makeTrans s 0 (s.trans.length + 1) s.trans).getD s.trans }
  else if id == 0x0305 then portsEnable s
  else if id == 0x030A then wakeReserved s
  else if id == 0x0313 && s.setting id target == 0 then wakeRest s
  else s

/-- SETTING_TAKE_EFFECT (R336): a decided die or module setting, at the quiet point. -/
def execSettingTakeEffect (id target : Nat) (s : State) : Out :=
  match assoc (id, target) s.cfg.decided with
  | none => .next s
  | some v =>
    if id < 0x0200 || !mayChange s id v then .next s
    else .next (effectOf { s with cfg := { s.cfg with values := assocSet (id, target) v s.cfg.values
                                                      decided := assocDel (id, target) s.cfg.decided } } id target)

end Sys2Proof.Machine
end

