-- ==== Sys2Proof/Machine/Rsp.lean ====
section
/-! DEFINITION. The RSP's own operations: fuses (R360, R361), the firmware summary (R371), identity keys (R372, R373), the
checks of images and tokens (R363 to R366), the CTR_DRBG (R383), and the Hammer (R384 to R387). -/

namespace Sys2Proof.Machine

/-- The Bool of a complete fuse pair (R361). -/
def pairDone (p : Bool × Bool) : Bool := p.1 && p.2

/-- FUSE_STATE (R360). -/
def fuseWord (s : State) : Nat :=
  let f := s.rsp.fuses
  f.minSvn * 2 ^ 32 + f.imgRevoke % 16 * 2 ^ 28 + f.tokenRevoke % 16 * 2 ^ 24 + flag (!f.ownerDebug.isEmpty) 7 + flag f.udsLock 6
    + flag f.debugDisable 5 + flag (pairDone f.ret) 4 + flag (pairDone f.sec) 3 + flag (pairDone f.prov) 2 + lcState s

/-- FUSE_STATE is read from the fuses and MR1 is extended with it (R360, R370). -/
def readFuses (s : State) : State :=
  let w := fuseWord s
  mrExtend { s with rsp := { s.rsp with fuseState := BitVec.ofNat 64 w } } 1 (leBytes 8 w)

/-- A change of the fuses (R360, R370). -/
def blow (s : State) (f : Fuses → Fuses) : State := readFuses { s with rsp := { s.rsp with fuses := f s.rsp.fuses } }

/-- The firmware measurement summary (R371). -/
def summary (s : State) : Bytes :=
  sha384 (leBytes 1 (lcState s) ++ leBytes 1 (flag s.rsp.debugSeen 0) ++ leBytes 1 s.rsp.fuses.minSvn
    ++ ((List.range 5).map (activeMeas s)).flatten)

/-- The module has an identity: neither BLANK nor RETIRED (R359). -/
def hasIdentity (s : State) : Bool := lcState s == 1 || lcState s == 2

/-- A new Alias key and certificate from the summary (R367, R372, R373). -/
def deriveAlias (s : State) : State :=
  if hasIdentity s then
    { s with rsp := { s.rsp with keysPresent := true
                                 aliasCert := some (Config.aliasCert s.rsp.fuses.uds (nth s.rsp.mr 0 []) (lcState s)
                                   (summary s) s.rsp.fuses.minSvn) } }
  else { s with rsp := { s.rsp with keysPresent := false, aliasCert := none } }

/-- The key hash of a signature block whose RSA_N lies at offset 256 (R365, R366). -/
def keyHash (b : Bytes) : Bytes := sha384 (slice b 256 436)

/-- Both signatures verify over the 256-byte signed part (R365, R366). -/
def signed2 (b : Bytes) : Bool :=
  Config.rsaPss (slice b 256 388) (slice b 0 256) (slice b 692 384)
  && Config.slhDsa (slice b 644 48) (slice b 0 256) (slice b 1076 16224)

/-- The key sets of images in a lifecycle state (R359, R366). -/
def imageKeyOk (s : State) (set : Nat) : Bool :=
  (set < 4 && !bit s.rsp.fuses.imgRevoke set) || (set == 0x10 && lcState s < 2)

/-- The checks of R366 on an image: the fault of the first that fails. -/
def fwFault (s : State) (b : Bank) (marked : Bool) : Option FaultCode :=
  let h := b.head
  let set := field h 6 1
  if !(field h 0 4 == 0x0960A291 && field h 4 1 == 1 && 1 ≤ field h 5 1 && field h 5 1 ≤ 5 && field h 7 1 < 2
      && allZero h 25 7 && allZero h 96 160 && allZero h 17300 108 && field h 8 4 ≤ 64
      && field h 12 4 % 64 == 0 && field h 12 4 ≤ 2 ^ 24 && b.body.length == field h 12 4) then some .descInvalid
  else if !(bit (field h 24 1) (lcState s) && (allZero h 80 16 || slice h 80 16 == slice s.rsp.serial 0 16)) then
    some .accessDenied
  else if !(imageKeyOk s set && keyHash h == Config.imageKeyHash set) then some .accessDenied
  else if !signed2 h then some .accessDenied
  else if marked || slice h 32 48 != sha384 b.body then some .accessDenied
  else if field h 8 4 < s.rsp.fuses.minSvn then some .accessDenied
  else none

/-- Ticks for which a nonce stays valid (R363). -/
def nonceTicks : Nat := 750000

/-- A nonce issued within the last 750,000 ticks and not yet consumed (R363). -/
def nonceLive (s : State) (n : Bytes) : Bool := s.rsp.nonces.any (fun x => x.1 == n && s.now ≤ x.2 + nonceTicks)

/-- The checks of R366 on a token, but for its nonce's consumption: the fault of the first that fails. -/
def tokenFault (s : State) (t : Bytes) : Option FaultCode :=
  let kind := field t 5 1
  let set := field t 6 1
  let cert := kind == 4
  let certLen := field t 104 4
  if !(field t 0 4 == 0x0960A292 && field t 4 1 == 1 && [1, 2, 3, 4, 0x10].contains kind && allZero t 7 1 && allZero t 156 100
      && allZero t 17300 108 && (set != 0x20 || kind == 0x10) && (cert || (certLen == 0 && allZero t 108 48)) && certLen ≤ 4096
      && (kind == 2 || allZero t 56 48)) then some .descInvalid
  else if !(slice t 8 16 == slice s.rsp.serial 0 16 && nonceLive s (slice t 24 32)) then some .accessDenied
  else if !(if set == 0x20 then !s.rsp.fuses.ownerDebug.isEmpty && keyHash t == s.rsp.fuses.ownerDebug
      else set < 4 && !bit s.rsp.fuses.tokenRevoke set && keyHash t == Config.tokenKeyHash set) then some .accessDenied
  else if !signed2 t then some .accessDenied
  else if cert && slice t 108 48 != sha384 (slice t 17408 certLen) then some .accessDenied
  else none

/-- A token is consumed, accepted or not (R363). -/
def consumeNonce (s : State) (t : Bytes) : State :=
  { s with rsp := { s.rsp with nonces := s.rsp.nonces.filter (·.1 != slice t 24 32) } }

/-- The CTR_DRBG answers (R383): its output is not stopped, and neither 2^16 requests nor one second have passed since it was
seeded. -/
def drbgReady (s : State) : Bool :=
  s.rsp.drbgOk && decide (s.rsp.drbgReqs < 65536) && decide (s.now ≤ s.rsp.drbgTick + 12500000)

/-- One generate request of the CTR_DRBG (R383): none while its output is stopped or a reseed is due. -/
def drbg (s : State) : Option (Nat × State) :=
  if drbgReady s then
    let (fr, s) := s.draw
    some (fr, { s with rsp := { s.rsp with drbgReqs := s.rsp.drbgReqs + 1 } })
  else none

/-- n fresh bytes of a free value. -/
def freshBytes (fr n : Nat) : Bytes := slice (Config.freeBytes fr n) 0 n

/-- Issues a 32-byte nonce (R363, R378). -/
def issueNonce (s : State) : Option (Bytes × State) :=
  (drbg s).map (fun p =>
    let n := freshBytes p.1 32
    (n, { p.2 with rsp := { p.2.rsp with nonces := (n, s.now) :: p.2.rsp.nonces.filter (fun x => s.now ≤ x.2 + nonceTicks) } }))

/-- The CTR_DRBG reseeds (R383): output goes on. -/
def execDrbgReseed (s : State) : Out :=
  if !(s.serves || s.pwr.st == .startFault || s.pwr.st == .bootRecovery) then .next s
  else .next { s with rsp := { s.rsp with drbgReqs := 0, drbgTick := s.now, drbgOk := true
                                          tagPools := s.rsp.tagPools.map (fun _ => 4096) } }

/-- ENTROPY_HEALTH_FAIL (R383): output stops while the source restarts. -/
def execEntropyHealthFail (s : State) : Out :=
  if s.rsp.drbgOk then .next { s with rsp := { s.rsp with drbgOk := false, drbgFailTick := s.now } } else .next s

/-- ENTROPY_RESEED_TIMEOUT (R383): no reseed for 100 ms and an empty TAG pool: the module fault state. -/
def execEntropyReseedTimeout (s : State) : Out :=
  if !s.rsp.drbgOk && due s.now s.rsp.drbgFailTick 1250000 && s.rsp.tagPools.any (· == 0) && s.serves then
    let s := s.plainErr 0x0D 8 ukModule 0 0 0
    let s := s.plainErr 0x0E 6 ukModule 0 0 0
    .next { s with fence := { s.fence with moduleFault := true } }
  else .next s

/-- The RSP's domain is powered (R394, R400): in REST, READY and RUN, in the start fault and boot recovery, and in a start-up
past step 1. -/
def rspPowered (s : State) : Bool :=
  s.serves || (match s.pwr.st with
    | .starting n => n ≥ 2
    | .startFault => true
    | .bootRecovery => true
    | _ => false)

/-- A slot entry (R384). -/
def hslot (h : Hammer) (n : Nat) : Nat := ((assoc n h.slots).getD 0).toNat
/-- VALID. -/
def hValid (e : Nat) : Bool := bit e 31
/-- SEALED. -/
def hSealed (e : Nat) : Bool := bit e 30
/-- First word of a slot. -/
def hBase (e : Nat) : Nat := bits e 15 5
/-- Words of a slot. -/
def hLen (e : Nat) : Nat := bits e 3 0 + 1

/-- A word of the slot memory. -/
def hword (h : Hammer) (w : Nat) : BitVec 256 := (assoc w h.words).getD 0

/-- Replaces a word of the slot memory; words past its end do not exist. -/
def hput (h : Hammer) (w : Nat) (v : BitVec 256) : Hammer := if w < 2048 then { h with words := assocSet w v h.words } else h

/-- A word belongs to a sealed slot. -/
def wordSealed (h : Hammer) (w : Nat) : Bool :=
  (List.range 128).any (fun n => let e := hslot h n; hValid e && hSealed e && hBase e ≤ w && w < hBase e + hLen e)

/-- A read of a word: a sealed one reads zero by every path (R385). -/
def hammerRead (h : Hammer) (w : Nat) : BitVec 256 := if wordSealed h w then 0 else hword h w

/-- Writes zero to the words of every sealed slot (R362, R391, R393). -/
def zeroSealed (s : State) : State := { s with ham := { s.ham with words := s.ham.words.filter (fun w => !wordSealed s.ham w.1) } }

/-- HSLOT_WRITE (R384): ignored with CFG_ERR where the entry is sealed or two valid slots would overlap. SEALED is read only,
reserved bits keep 0. -/
def execHslotWrite (n : Nat) (v : Word) (s : State) : Out :=
  if !(n < 128 && rspPowered s) then .next s
  else
    let h := s.ham
    let e := v.toNat
    let clash := hValid e && (List.range 128).any (fun k => k != n && hValid (hslot h k)
      && meets (hBase e) (hLen e) (hBase (hslot h k)) (hLen (hslot h k)))
    if hSealed (hslot h n) || clash then .next { s with ham := { h with cfgErr := true } }
    else
      let keep := flag (hValid e) 31 + hBase e * 32 + bits e 3 0
      .next { s with ham := { h with slots := assocSet n (BitVec.ofNat 32 keep) h.slots } }

/-- HSLOT_RELEASE (R385): an entry that is not valid describes no slot, so none of its words is zeroed. -/
def execHslotRelease (n : Nat) (s : State) : Out :=
  if !(n < 128 && rspPowered s) then .next s
  else
    let h := s.ham
    let e := hslot h n
    let h := (List.range (if hValid e then hLen e else 0)).foldl (fun h i => hput h (hBase e + i) 0) h
    .next { s with ham := { h with slots := assocSet n (BitVec.ofNat 32 (e % 2 ^ 30)) h.slots } }

/-- KEY_LOAD (R385): the key store writes a secret into a valid slot, which becomes sealed. -/
def execKeyLoad (n : Nat) (words : List (BitVec 256)) (s : State) : Out :=
  let h := s.ham
  let e := hslot h n
  if !(n < 128 && rspPowered s && hValid e && words.length ≤ hLen e) then .next s
  else
    let h := (List.range words.length).foldl (fun h i => hput h (hBase e + i) (nth words i 0)) h
    .next { s with ham := { h with slots := assocSet n (BitVec.ofNat 32 (e % 2 ^ 30 + 2 ^ 31 + 2 ^ 30)) h.slots } }

/-- The word that an operand of HAMMER_CMD names: slot in bits [10:4], word in bits [3:0] (R386). -/
def hoperand (h : Hammer) (f : Nat) : Option Nat :=
  let e := hslot h (bits f 10 4)
  if hValid e && bits f 3 0 < hLen e && hBase e + bits f 3 0 < 2048 then some (hBase e + bits f 3 0) else none

/-- HAMMER_MAC (R386): a write to HAMMER_CMD. Operands that the command does not use are not looked at. -/
def execHammerMac (cmd : DWord) (s : State) : Out :=
  if !rspPowered s then .next s
  else
    let h := s.ham
    let c := cmd.toNat
    let bad := Host.Outcome.next { s with ham := { h with cmdErr := true } }
    let addc := bit c 58
    let out := bit c 57
    if bits c 63 60 != 1 then bad
    else match hoperand h (bits c 55 45), hoperand h (bits c 44 34), hoperand h (bits c 33 23), hoperand h (bits c 22 12) with
      | some a, some b, cc, d =>
        if (addc && cc.isNone) || (out && d.isNone) then bad
        else
          let acc := (if bit c 59 then 0 else h.acc.toNat) + (hword h a).toNat * (hword h b).toNat
            + (if addc then (hword h (cc.getD 0)).toNat else 0)
          let acc : BitVec 576 := BitVec.ofNat 576 acc
          let h := { h with cmds := (h.cmds + 1) % 2 ^ 32 }
          if out then
            .next { s with ham := { (hput h (d.getD 0) (BitVec.ofNat 256 acc.toNat)) with acc := acc >>> 256 } }
          else .next { s with ham := { h with acc := acc } }
      | _, _, _, _ => bad

/-- HAMMER_STATUS (R387). -/
def hammerStatus (h : Hammer) : Nat :=
  h.faultCount * 2 ^ 40 + flag h.privLock 39 + flag h.cfgErr 33 + flag h.cmdErr 32 + h.cmds % 2 ^ 32

/-- HAMMER_PRIVATE_KEY_OP (R387): a mismatch releases nothing and is counted; the eighth sets PRIV_LOCK and is recorded. -/
def execHammerPrivateKeyOp (_op : PrivOp) (agree : Bool) (s : State) : Out :=
  if !rspPowered s || agree || s.ham.privLock then .next s
  else
    let n := min (s.ham.faultCount + 1) 0xFF
    let s := { s with ham := { s.ham with faultCount := n, privLock := n ≥ 8 } }
    .next (if n ≥ 8 then s.plainErr 0x0B 8 ukModule 0 0 0 else s)

end Sys2Proof.Machine
end

