-- ==== Sys2Proof/Machine/Power.lean ====
section
/-! DEFINITION. Power, clocks and pins: MODULE_PWR and FIELD_PWR (R399), FENCE_STATUS (R413), start-up (R400, R401, R367), EN
(R421), trips (R395, R404), the reference (R396), the thermal emergency (R405), the Pacer (R397, R406), the Field states (R403)
and REST (R402). -/

namespace Sys2Proof.Machine

/-- STATE of MODULE_PWR (R399). States that the register does not code read as the state they leave (DEDUCED, log entry 52). -/
def modCode (s : State) : Nat :=
  match s.pwr.st with
  | .rest => 2
  | .restWake => 2
  | .up => if s.isRun then 4 else 3
  | .restEntry => 3
  | _ => 1

/-- The highest die, Field or HBM temperature (R399). -/
def maxTj (s : State) : Nat := (s.pwr.dieT ++ s.pwr.hbmT ++ s.fields.map (·.tj)).foldl max 0

/-- MODULE_PWR (R399, R423). -/
def modulePwr (s : State) : Nat :=
  let p := s.pwr
  if p.st == .standby || p.st == .off then modCode s * 2 ^ 60 + p.tripCause % 256
  else modCode s * 2 ^ 60 + flag p.emerg 59 + flag p.startFault 58 + min p.inputW 0xFFFF * 2 ^ 32 + min p.inputMv 0xFFFF * 2 ^ 16
    + min (maxTj s) 255 * 256 + p.tripCause % 256

/-- STATE of FIELD_PWR_f (R399). -/
def FieldSt.code : FieldSt → Nat
  | .off => 0
  | .sleep => 1
  | .warm => 2
  | .run => 3

/-- Mapped Core Store segments keep the Field at F-SLEEP or above (R403). -/
def segHold (s : State) (f : Nat) : Bool := s.mem.csMap.any (fun e => fieldOf e.unit == f)

/-- The Field or a unit in it is fenced (R399). -/
def fieldFenced (s : State) (f : Nat) : Bool :=
  s.fence.fields.any (·.unit == f) || s.fence.relays.any (fun x => fieldOfRelay x.unit == f)
  || s.fence.cores.any (fun x => fieldOf x.unit == f)

/-- FIELD_PWR_f (R399, R423). -/
def fieldPwr (s : State) (f : Nat) : Nat :=
  if s.pwr.st == .standby || s.pwr.st == .off then 0
  else
    let g := s.field f
    g.st.code * 2 ^ 60 + g.step % 16 * 2 ^ 56 + flag (reservedField s f) 55 + flag (segHold s f) 54 + flag (fieldFenced s f) 53
      + min g.powerW 0xFFFF * 2 ^ 32 + min g.tj 0xFF * 2 ^ 24 + min g.util 0xFF * 2 ^ 16 + min (ceCount s f) 0xFFFF

/-- Fenced cores, counting those of fenced Relays and Fields (R413). -/
def fencedCores (s : State) : List Nat := (List.range 128).filter s.coreFenced

/-- Bit n of a mask is set for each unit fenced. -/
def fenceMask (l : List Fence) (n : Nat) : Nat := ((List.range n).map (fun i => flag (l.any (·.unit == i)) i)).sum

/-- FENCE_STATUS (R413, R423). -/
def fenceStatus (s : State) : Nat :=
  if s.pwr.st == .standby || s.pwr.st == .off then 0
  else min s.fence.recoveries 0xFF * 2 ^ 56 + flag s.fence.moduleFault 55 + fenceMask s.fence.fields 8 * 2 ^ 40
    + fenceMask s.fence.relays 32 * 2 ^ 8 + (fencedCores s).length

/-- PWR_GOOD is released (R420, R421). -/
def pwrGood (s : State) : Bool := s.isUp

/-- SMB_ALERT_N is driven low (R420). -/
def smbAlert (s : State) : Bool := modulePwr s != s.pwr.smbSeen

/-- What outlives every rail: fuses, boot flash, the serial number, companion memory, pins, and the model's own fields. -/
def lastingState (s : State) : State :=
  let z := State.reset
  let r : Rsp := { z.rsp with fuses := s.rsp.fuses, serial := s.rsp.serial, devCert := s.rsp.devCert, images := s.rsp.images
                              fuseState := BitVec.ofNat 64 (fuseWord s) }
  let m : MemState := { z.mem with comp := s.mem.comp }
  let p : Power := { z.pwr with en := s.pwr.en, refOk := s.pwr.refOk }
  { z with pending := s.pending, freeCtr := s.freeCtr, sent := s.sent, rsp := r, mem := m, pwr := p }

/-- Every rail except VAON is removed (R398, R401, R404, R421): the always-on domain keeps its own, the Infield Stores are
retained. -/
def toStandby (s : State) : State :=
  let z := lastingState s
  let q := s.pwr
  let p : Power := { z.pwr with ticks := q.ticks, st := .standby, tripCause := q.tripCause, inputMv := q.inputMv
                                enTick := q.enTick, enLowTick := q.enLowTick, standbyTick := some q.ticks
                                thermTripN := q.thermTripN, smbSeen := q.smbSeen, noAdmit := q.noAdmit }
  { z with pwr := p, mem := { z.mem with inf := s.mem.inf }, rsp := { z.rsp with tap := s.rsp.tap, tapPins := s.rsp.tapPins } }

/-- A start-up begins (R400): THERM_TRIP_N is released, START_FAULT cleared. -/
def beginStart (s : State) : State :=
  { s with pwr := { s.pwr with st := .starting 1, thermTripN := true, startFault := false } }

/-- A restart from step 1 of R367, which is step 2 of R400 (R362, R369): no domain but VAON keeps its contents, and the answers
already written stay in their slots. -/
def restart (s : State) : State :=
  let z := toStandby s
  { z with pwr := { z.pwr with st := .starting 2, thermTripN := true, standbyTick := s.pwr.standbyTick }
           mbs := s.mbs.filter (fun b => !b.2.busy) }

/-- The orderly stop (R401). -/
def orderlyStop (s : State) : State :=
  let s := destroyAll s
  let s := if s.sys.joined then finishLeave (beginLeave s) else s
  toStandby (zeroSealed s)

/-- VAON_RISE (R398, R400): STANDBY, with the split counters at 0 (R46); EN already high starts the module. -/
def execVaonRise (s : State) : Out :=
  if s.pwr.st == .off then .next (if s.pwr.en then beginStart { s with pwr := { s.pwr with st := .standby } }
    else { s with pwr := { s.pwr with st := .standby } })
  else .next s

/-- A rising edge of EN is accepted (R421): at the first STANDBY, or after EN was low for 10 ms since the return. -/
def enAccepted (s : State) : Bool :=
  match s.pwr.standbyTick with
  | none => true
  | some t => due s.now (max t s.pwr.enLowTick) 125000

/-- EN_RISE (R400, R421). -/
def execEnRise (s : State) : Out :=
  if s.pwr.en then .next s
  else
    let t := { s with pwr := { s.pwr with en := true, enTick := s.now } }
    .next (if s.pwr.st == .standby && enAccepted s then beginStart t else t)

/-- EN_FALL (R401, R421): a start-up is abandoned, or the orderly stop begins; the start fault and boot recovery are left in the
same way (DEDUCED, log entry 52). -/
def execEnFall (s : State) : Out :=
  if !s.pwr.en then .next s
  else
    let s := { s with pwr := { s.pwr with en := false, enLowTick := s.now } }
    match s.pwr.st with
    | .off => .next s
    | .standby => .next s
    | .starting _ => .next (toStandby s)
    | _ => .next (orderlyStop s)

/-- A start-up that cannot reach READY (R401): START_FAULT and the failing unit's record. -/
def failStart (s : State) (kind unit : Nat) : State :=
  ({ s with pwr := { s.pwr with st := .startFault, startFault := true } }).plainErr
    (Config.startFaultClass kind % 256) (Config.startFaultAction kind % 256) kind unit 0 0

/-- The start-up goes on to a step of R400. -/
def toStep (s : State) (n : Nat) : State := { s with pwr := { s.pwr with st := .starting n } }

/-- Steps 1 and 2 of R367: RSP RAM, key RAM and Hammer slot memory hold zeros, every measurement register is zero; the fuses are
read, MR0 and MR1 extended, the CTR_DRBG instantiated. -/
def bootRom (s : State) : State :=
  let r := s.rsp
  let r : Rsp := { r with rspRam := [], sessions := [], conns := [], nonces := [], keysPresent := false, aliasCert := none
                          mr := List.replicate 32 (zeros 48), debugAuth := false, debugSeen := false, drbgReqs := 0
                          drbgTick := s.now, drbgOk := true, bootStep := 2 }
  readFuses (mrExtend { s with rsp := r, ham := State.reset.ham } 0 Config.romDigest)

/-- The bank that is not active. -/
def otherBank (c : ImageClass) : Option Bank := if c.activeB then c.bankA else c.bankB

/-- A class falls back to its other bank (R367): MR8 is extended with the class code. -/
def fallBack (s : State) (i : Nat) : State :=
  mrExtend { s with rsp := { s.rsp with images := modNth (fun c => { c with activeB := !c.activeB }) i s.rsp.images } } 8
    (leBytes 1 (i + 1))

/-- Verification of the classes in order (R367): none where one fails in both banks. -/
def verifyFrom (bad both : List Nat) : List Nat → State → Option State
  | [], s => some s
  | i :: is, s =>
    let other := ((s.rsp.images[i]?).bind otherBank).isSome
    if both.contains (i + 1) || (bad.contains (i + 1) && !other) then none
    else
      let s := if bad.contains (i + 1) then fallBack s i else s
      verifyFrom bad both is (mrExtend s (i + 2) (activeMeas s i))

/-- Steps 3 to 5 of R367; a class that fails in both banks leads to boot recovery (R368). -/
def verifyImages (s : State) (bad both : List Nat) : State :=
  match verifyFrom bad both (List.range 5) s with
  | some s =>
    let s := deriveAlias s
    { s with rsp := { s.rsp with bootStep := 5 }, pwr := { s.pwr with st := .starting 4 } }
  | none => { s with pwr := { s.pwr with st := .bootRecovery } }

/-- Step 8 of R400: the reserved map, the TAG pools; the start windows are closed; READY. -/
def reachReady (s : State) : State :=
  { s with mem := { s.mem with reserved := Config.reservedMap }
           rsp := { s.rsp with windows := [], tagPools := [4096, 4096] }
           pwr := { s.pwr with st := .up, startFault := false, quietSince := s.now } }

/-- A start-up step ends in order (R400). -/
def stepDone (s : State) (n : Nat) : State :=
  match n with
  | 1 => toStep { s with pwr := { s.pwr with refOk := true } } 2
  | 2 => toStep (bootRom s) 3
  | 3 => verifyImages s [] []
  | 4 => toStep { s with rsp := { s.rsp with bootStep := 6, windows := Config.startWindows.take 16 } } 5
  | 5 => toStep { s with ports := s.ports.map (fun x => { x with since := s.now }) } 6
  | 6 => toStep s 7
  | 7 => toStep { s with mem := { s.mem with hbm := [], hbmMarked := [], cache := [] } } 8
  | _ => reachReady s

/-- Every byte of a start-up DMA lies in start windows of its requester that grant the access (R356). -/
def inWindows (s : State) (t : StartDma) : Bool :=
  s.rsp.windows.any (fun (b, n, perm, r) =>
    r == t.requester && bit perm (if t.write then 1 else 0) && b ≤ t.addr && t.addr + t.len ≤ b + n)

/-- The record that a start-up DMA leaves (R350, R356): refused whole outside its windows, OUTCOME FINAL; an uncorrectable
error, OUTCOME REPORTED (DEDUCED, log entry 62). -/
def startDmaRec (s : State) (t : StartDma) : State :=
  let r := fun (f : FaultCode) (outcome : Nat) =>
    s.faultRec { ctx := 0xFFFFFFFF, fault := f, access := if t.write then 2 else 1, requester := 8, outcome := outcome
                 addr := t.addr, dispatch := none, unit := 0x100 + t.die * 4 + t.engine, level := 0xFF }
  if !inWindows s t then r .accessDenied 4 else if t.ue then r .eccUncorrectable 5 else s

/-- STARTUP_STEP_COMPLETE (R400, R401, R367, R382). -/
def execStartupStepComplete (r : StepResult) (s : State) : Out :=
  match s.pwr.st with
  | .starting n =>
    .next (match r with
      | .ok => stepDone s n
      | .dma ts => stepDone (ts.foldl startDmaRec s) n
      | .unitFails kind unit => failStart s kind unit
      | .images bad both => if n == 3 then verifyImages s bad both else stepDone s n)
  | _ => .next s

/-- The rails that a trip removes are up (R404). -/
def railsUp (s : State) : Bool := s.pwr.st != .off && s.pwr.st != .standby

/-- A trip (R404): no completion record, no context; TRIP_CAUSE and THERM_TRIP_N. -/
def trip (s : State) (cause : Nat) : State := toStandby { s with pwr := { s.pwr with tripCause := cause, thermTripN := false } }

/-- INPUT_TRIP (R395, R404, R424): the input in mV that has stood for 50 µs below 29.0 V, or for 10 µs above 42.0 V. -/
def execInputTrip (mv : Int) (s : State) : Out :=
  if mv < -500 || mv > 60000 then .fault .ratingsExceeded
  else
    let t := { s with pwr := { s.pwr with inputMv := mv.toNat } }
    if s.pwr.st == .off then .next s
    else if !railsUp s then .next t
    else if mv < 29000 then .next (trip t 2)
    else if mv > 42000 then .next (trip t 3)
    else .next t

/-- VAON_LOSS (R395, R398): OFF, all lost. -/
def execVaonLoss (s : State) : Out :=
  let z := lastingState s
  .next { z with pwr := { z.pwr with st := .off } }

/-- A sensor reads a temperature (R404, R405). -/
def noteTemp (s : State) (x : Sensor) (t : Nat) : State :=
  match x with
  | .die n => { s with pwr := { s.pwr with dieT := modNth (fun _ => t) n s.pwr.dieT } }
  | .field n => s.modField n (fun g => { g with tj := t })
  | .hbm n => { s with pwr := { s.pwr with hbmT := modNth (fun _ => t) n s.pwr.hbmT } }

/-- The sensor exists. -/
def sensorOk : Sensor → Bool
  | .die n => n < 2
  | .field n => n < 8
  | .hbm n => n < 12

/-- THERMAL_TRIP (R404): a sensor reaches 115 °C. -/
def execThermalTrip (x : Sensor) (t : Nat) (s : State) : Out :=
  if sensorOk x && t ≥ 115 && railsUp s then .next (trip s 1) else .next s

/-- REFCLK_LOSS (R396): the internal oscillator drives the always-on clock, and the module fault state is set. -/
def execRefclkLoss (s : State) : Out :=
  if s.pwr.st == .off || !s.pwr.refOk then .next s
  else
    let s := { s with pwr := { s.pwr with refOk := false } }
    if !railsUp s then .next s
    else .next (({ s with fence := { s.fence with moduleFault := true } }).plainErr 0x0E 6 ukModule 0 0 0)

/-- UNIT_KIND and UNIT of a sensor (R411). -/
def sensorUnit : Sensor → Nat × Nat
  | .die n => (ukDie, n)
  | .field n => (ukField, n)
  | .hbm n => (ukStack, n)

/-- The temperature at which a sensor starts the thermal emergency (R405). -/
def emergLimit (s : State) : Sensor → Nat
  | .hbm _ => 105
  | _ => s.settingN 0x0316 0

/-- The sensor reading keeps the thermal emergency (R405). -/
def keepsHot (s : State) (t : Nat) : Bool := t + 10 ≥ s.settingN 0x0316 0

/-- The Sprint guarantee of every uncommitted SPRINT dispatch is void (R301). -/
def voidSprints (s : State) : State :=
  { s with disps := s.disps.map (fun x => if x.cls == .sprint && x.phase != .ended then { x with void := true } else x) }

/-- THERMAL_EMERGENCY_ENTRY (R405, R301): every Field at step 15. -/
def execThermalEmergencyEntry (x : Sensor) (t : Nat) (s : State) : Out :=
  if !(sensorOk x && rspPowered s && t ≥ emergLimit s x) then .next s
  else
    let s := noteTemp s x t
    if s.pwr.emerg then .next { s with pwr := { s.pwr with coolSince := some s.now } }
    else
      let s := { s with pwr := { s.pwr with emerg := true, coolSince := some s.now }
                        fields := s.fields.map (fun g => { g with step := 15, toStep := none }) }
      .next ((voidSprints s).plainErr 0x0C 8 (sensorUnit x).1 (sensorUnit x).2 0 0)

/-- A reading that the exit shows to have fallen is a free value below T_EMERG − 10 °C (log entry 1). -/
def coolReading (limit fr i t : Nat) : Nat :=
  if t + 10 ≥ limit then (Config.freeWord (fr + i)).toNat % (limit - 10) else t

/-- THERMAL_EMERGENCY_EXIT (R405). -/
def execThermalEmergencyExit (s : State) : Out :=
  match s.pwr.coolSince with
  | none => .next s
  | some t =>
    if !(s.pwr.emerg && due s.now t 12500) then .next s
    else
      let lim := s.settingN 0x0316 0
      let fr := s.freeCtr
      let s := { s with freeCtr := fr + 22
                        pwr := { s.pwr with emerg := false, coolSince := none
                                            dieT := mapIdxFrom (fun i t => coolReading lim fr i t) 0 s.pwr.dieT
                                            hbmT := mapIdxFrom (fun i t => coolReading lim fr i t) 2 s.pwr.hbmT }
                        fields := mapIdxFrom (fun i (g : FieldState) => { g with tj := coolReading lim fr i g.tj }) 14 s.fields }
      .next (s.plainErr 0x0C 8 ukModule 0 0 0)

/-- HBM_DOUBLED_REFRESH (R405): at 95 °C or above the doubled rate, below it the normal one. -/
def execHbmDoubledRefresh (stack temp : Nat) (s : State) : Out :=
  if !(stack < 12 && rspPowered s) then .next s
  else .next { s with pwr := { s.pwr with hbmT := modNth (fun _ => temp) stack s.pwr.hbmT
                                          doubled := modNth (fun _ => temp ≥ 95) stack s.pwr.doubled
                                          coolSince := if keepsHot s temp then s.pwr.coolSince.map (fun _ => s.now)
                                            else s.pwr.coolSince } }

/-- A SPRINT dispatch runs on a Field (R296, R406). -/
def runsSprint (s : State) (f : Nat) : Bool :=
  s.disps.any (fun x => x.cls == .sprint && x.phase == .running && x.cores.any (fun n => fieldOf n == f))

/-- The step a Field has or is changing to. -/
def goalStep (g : FieldState) : Nat := g.toStep.getD g.step

/-- Of two Fields the one that the power cap steps first: lowest UTIL, then highest number (R406). -/
def cappedFirst (s : State) (a f : Nat) : Nat := if (s.field f).util ≤ (s.field a).util then f else a

/-- The Field that the power cap steps at this sample (R406): none where every Field that is not running SPRINT is at step 15. -/
def cappedField (s : State) : Option Nat :=
  match (List.range 8).filter (fun f => !runsSprint s f && goalStep (s.field f) < 15) with
  | [] => none
  | f :: fs => some (fs.foldl (cappedFirst s) f)

/-- The step that the procedure of R406 sets for a Field. -/
def pacedStep (s : State) (f : Nat) : Nat :=
  let g := s.field f
  let k := goalStep g
  let locked := runsSprint s f
  let low := if ceCount s f ≥ s.settingN 0x0319 0 then 2 else 0
  let thr := s.settingN 0x0315 0
  let cap := s.settingN 0x0314 0
  let k := if g.tj ≥ thr && !locked then min (k + 1) 15
    else if s.pwr.inputW > cap then (if cappedField s == some f then min (k + 1) 15 else k)
    else if g.tj + 5 ≤ thr && s.pwr.inputW + 50 ≤ cap then max (k - 1) low
    else k
  if locked then 0 else k

/-- PACER_SAMPLE (R399, R406): every PACE_PERIOD ticks; the step stays at 15 in the thermal emergency (R405). -/
def execPacerSample (f : Nat) (x : PaceSample) (s : State) : Out :=
  if !(f < 8 && s.isUp && s.now ≥ (s.field f).sampledAt + s.settingN 0x0317 0) then .next s
  else
    let s := s.modField f (fun g => { g with powerW := x.powerW, tj := x.tj, util := min x.util 100, sampledAt := s.now })
    let s := { s with pwr := { s.pwr with inputW := x.inputW
                                          coolSince := if keepsHot s x.tj then s.pwr.coolSince.map (fun _ => s.now)
                                            else s.pwr.coolSince } }
    let s := fieldCe s f x.ce
    if s.pwr.emerg then .next s
    else
      let k := pacedStep s f
      .next (s.modField f (fun g => { g with toStep := if k == g.step then none else some k }))

/-- CLOCK_STEP_CHANGE (R397): rail and frequency have reached the step. -/
def execClockStepChange (f : Nat) (s : State) : Out :=
  match (s.field f).toStep with
  | none => .next s
  | some k => .next (s.modField f (fun g => { g with step := k, toStep := none }))

/-- An idle Field may be taken to a deeper state (R403). -/
def mayDeepen (s : State) (f : Nat) : Bool :=
  let g := s.field f
  f < 8 && s.isUp && g.entering.isNone && !g.waking && !fieldBusy s f && !reservedField s f && g.phase == .service

/-- FIELD_IDLE_SLEEP (R406). -/
def execFieldIdleSleep (f : Nat) (s : State) : Out :=
  if mayDeepen s f && (s.field f).st == .warm && due s.now (s.field f).idleSince (s.settingN 0x031A 0) then
    .next (s.modField f (fun g => { g with entering := some .sleep }))
  else .next s

/-- FIELD_IDLE_OFF (R406). -/
def execFieldIdleOff (f : Nat) (s : State) : Out :=
  if mayDeepen s f && ((s.field f).st == .warm || (s.field f).st == .sleep) && !segHold s f
      && due s.now (s.field f).idleSince (s.settingN 0x031B 0) then
    .next (s.modField f (fun g => { g with entering := some .off }))
  else .next s

/-- What a core keeps in F-SLEEP: vector registers and tiles in use (R403). -/
def sleepRegs (r : CoreRegs) : CoreRegs :=
  { r with v := r.v.filter (fun e => r.useV.contains e.1), a := r.a.filter (fun e => r.useA.contains e.1)
           poisV := r.poisV.filter (r.useV.contains ·), poisA := r.poisA.filter (r.useA.contains ·) }

/-- A Field reaches the state it enters (R176, R403). -/
def enterField (s : State) (f : Nat) (into : FieldSt) : State :=
  let s := s.modField f (fun g => { g with st := into, entering := none })
  match into with
  | .off => (rangeFrom (16 * f) 16).foldl resetCore s
  | .sleep => { s with cores := s.cores.map (fun c => if fieldOf c.1 == f then (c.1, sleepRegs c.2) else c) }
  | _ => s

/-- FIELD_ENTRY_COMPLETE (R403). F-OFF is only for a Field that holds no Core Store segments (R176, R403): one on which a
placement has mapped some meanwhile enters F-SLEEP. -/
def execFieldEntryComplete (f : Nat) (s : State) : Out :=
  match (s.field f).entering with
  | none => .next s
  | some t => .next (enterField s f (if t == .off && segHold s f then .sleep else t))

/-- FIELD_WAKE_COMPLETE (R403): F-RUN, or F-WARM at once where nothing is resident. -/
def execFieldWakeComplete (f : Nat) (s : State) : Out :=
  let g := s.field f
  if !(f < 8 && s.isUp && g.waking && g.entering.isNone) then .next s
  else .next (releaseFields (s.modField f (fun g => { g with st := .run, waking := false })))

/-- The module is quiet (R402). -/
def quiet (s : State) : Bool :=
  s.disps.all (·.phase == .ended) && s.colls.all (fun c => c.st != .running && c.st != .reforming) && s.dma.isEmpty
  && s.pageWaits.all (fun w => !w.started)

/-- REST_ENTRY (R402): quiet for IDLE_SLEEP ticks with POWER_TARGET REST. -/
def execRestEntry (s : State) : Out :=
  if s.isUp && s.settingN 0x0313 0 == 1 && quiet s && due s.now s.pwr.quietSince (s.settingN 0x031A 0) then
    .next { s with pwr := { s.pwr with st := .restEntry, wakeHeld := false } }
  else .next s

/-- REST_ENTRY_COMPLETE (R402): Fields in F-OFF, caches written back and emptied (R187), HBM in self-refresh, VFAB removed. -/
def execRestEntryComplete (s : State) : Out :=
  if s.pwr.st != .restEntry then .next s
  else
    let s := (List.range 8).foldl (fun s f => enterField (s.modField f (fun g => { g with waking := false })) f .off) s
    let s := { s with mem := { cacheFlush s.mem with xlate := [] } }
    .next { s with pwr := { s.pwr with st := if s.pwr.wakeHeld then .restWake else .rest, wakeHeld := false } }

/-- WAKE_EVENT (R402). -/
def execWakeEvent (_w : Wake) (s : State) : Out := .next (wakeRest s)

end Sys2Proof.Machine
end

