-- ==== Sys2Proof/Machine/Firmware.lean ====
section
/-! DEFINITION. Firmware images (FW_STAGE, FW_ACTIVATE, FW_LIVE_SWAP: R249, R364 to R369), lifecycle tokens (R361 to R363),
debug (R390, R391, R393), the test access port (R392, R427) and the management bus (R423). -/

namespace Sys2Proof.Machine

/-- A restart that a command has begun follows once its answer is written (R362, R369). -/
def settleRestart (o : Out) : Out :=
  match o with
  | .next s => .next (if s.rsp.restartDue then restart s else s)
  | o => o

/-- The bank that an image at the start of some bytes fills (R365). -/
def bankOf (b : Bytes) : Bank := ⟨slice b 0 17408, b.drop 17408⟩

/-- Writes the inactive bank of a class, counted from 0 (R369). -/
def putInactive (s : State) (i : Nat) (b : Bank) : State :=
  let f := fun (c : ImageClass) => if c.activeB then { c with bankA := some b } else { c with bankB := some b }
  { s with rsp := { s.rsp with images := modNth f i s.rsp.images } }

/-- FW_STAGE (R356, R366, R369): the image in companion memory is read and verified; one that passes fills the inactive bank. -/
def fwStage (r : MbReq) (s : State) : Reply :=
  let a := compBase + field r.payload 0 8
  let n := field r.payload 8 4
  if !(inComp a n && 17408 ≤ n && n ≤ 17408 + 2 ^ 24) then deny s .descInvalid
  else
    let (bs, m) := devRead s.mem s.ways hintNormal a n
    let s := { s with mem := m }
    let b := bankOf bs
    match fwFault s b false with
    | some f => deny s f
    | none => reply (putInactive s (field b.head 5 1 - 1) b) (.ok (imageMeas b))

/-- The class, counted from 0, whose inactive bank has an image measurement (R369). -/
def stagedClass (s : State) (meas : Bytes) : Option (Nat × Bank) :=
  (List.range 5).findSome? (fun i => (((s.rsp.images[i]?).bind otherBank).filter (fun b => imageMeas b == meas)).map (fun b => (i, b)))

/-- The banks of a class are swapped (R369). -/
def swapBanks (s : State) (i : Nat) : State :=
  { s with rsp := { s.rsp with images := modNth (fun c => { c with activeB := !c.activeB }) i s.rsp.images } }

/-- COMMIT_SVN raises MIN_SVN (R369). -/
def commitSvn (s : State) (b : Bank) : State :=
  let n := field b.head 8 4
  if bit (field b.head 7 1) 0 && n > s.rsp.fuses.minSvn then blow s (fun f => { f with minSvn := n }) else s

/-- FW_ACTIVATE (R369). -/
def fwActivate (r : MbReq) (s : State) : Reply :=
  match stagedClass s (slice r.payload 0 48) with
  | none => deny s .descInvalid
  | some (i, b) => match fwFault s b false with
    | some f => deny s f
    | none =>
      if i ≥ 2 then ⟨s, .error (.fwSwap (i + 1))⟩
      else if !s.ctxs.isEmpty || s.sys.joined then deny s .admissionDenied
      else
        let s := commitSvn (swapBanks s i) b
        reply { s with rsp := { s.rsp with restartDue := true } } (.ok [])

/-- FW_STAGE. -/
def execFwStage (m : Nat) (r : MbReq) (s : State) : Out := mbCommand 0x60 m r (fwStage r) s
/-- FW_ACTIVATE. -/
def execFwActivate (m : Nat) (r : MbReq) (s : State) : Out := settleRestart (mbCommand 0x61 m r (fwActivate r) s)

/-- A live activation at the quiet point (R249, R369, R370): banks, class MR, MIN_SVN, Alias key and certificate. -/
def liveSwap (s : State) (i : Nat) (b : Bank) : State :=
  let s := deriveAlias (commitSvn (mrExtend (swapBanks s i) (i + 2) (imageMeas b)) b)
  if i == 3 then { s with trans := [] } else s

/-- FW_LIVE_SWAP (R369): the swap that a FW_ACTIVATE waits for. -/
def execFwLiveSwap (cls : Nat) (s : State) : Out :=
  if !s.mbs.any (fun b => b.2.wait == some (.fwSwap cls)) then .next s
  else match (s.rsp.images[cls - 1]?).bind otherBank with
    | none => .next s
    | some b => .next (answerWaits (liveSwap s (cls - 1) b) (fun w => if w == .fwSwap cls then some (.ok []) else none))

/-- What a token comes to: the state, and its fault or what it returns. -/
structure TokenOut where
  state : State
  answer : Except FaultCode Bytes

/-- The key RAM is zeroed: sessions, session keys and identity keys go (R362, R372). -/
def zeroKeys (s : State) : State :=
  { s with rsp := { s.rsp with sessions := [], conns := [], keysPresent := false, aliasCert := none }
           ctxs := s.ctxs.map (fun c => { c with weightsKeys := [] }) }

/-- LC_PROVISION in BLANK (R361, R362); none while the CTR_DRBG is stopped. -/
def lcProvision (s : State) : Option TokenOut :=
  let f := s.rsp.fuses
  let done := fun (s : State) =>
    let s := blow s (fun f => { f with udsLock := true, prov := (true, true) })
    TokenOut.mk s (.ok (Config.devicePub s.rsp.fuses.uds (nth s.rsp.mr 0 []) (lcState s)))
  if f.udsLock && f.udsOk then some (done s)
  else if f.udsLock then some ⟨blow s (fun f => { f with ret := (true, true) }), .error .accessDenied⟩
  else (drbg s).map (fun p => done { p.2 with rsp := { p.2.rsp with fuses :=
    { p.2.rsp.fuses with uds := freshBytes p.1 32, udsOk := true } } })

/-- LC_CERT (R362). -/
def lcCert (s : State) (t : Bytes) : TokenOut :=
  if lcState s == 1 && s.rsp.devCert.isNone then
    ⟨{ s with rsp := { s.rsp with devCert := some (slice t 17408 (field t 104 4)) } }, .ok []⟩
  else ⟨s, .error .accessDenied⟩

/-- LC_SECURE (R362). -/
def lcSecure (s : State) (t : Bytes) : TokenOut :=
  if lcState s == 1 && s.rsp.devCert.isSome && s.ctxs.isEmpty && !s.sys.joined then
    let hash := slice t 56 48
    let s := blow s (fun f => { f with sec := (true, true), ownerDebug := if allZero t 56 48 then f.ownerDebug else hash })
    ⟨{ s with rsp := { s.rsp with restartDue := true } }, .ok []⟩
  else ⟨s, .error .accessDenied⟩

/-- LC_RETIRE (R362). -/
def lcRetire (s : State) : TokenOut :=
  if lcState s == 3 then ⟨s, .error .accessDenied⟩
  else
    let s := destroyAll s
    let s := if s.sys.joined then finishLeave (beginLeave s) else s
    let s := zeroKeys (zeroSealed s)
    let s := blow { s with rsp := { s.rsp with devCert := none } } (fun f => { f with ret := (true, true) })
    ⟨{ s with rsp := { s.rsp with restartDue := true } }, .ok []⟩

/-- A lifecycle token (R362, R363, R366): none while the CTR_DRBG that it needs is stopped. `port` tells the debug mailbox from
LC_TOKEN on mailbox 0, which carries LC_SECURE and LC_RETIRE only. -/
def lcTokenOut (s : State) (t : Bytes) (port : Bool) : Option TokenOut :=
  let kind := field t 5 1
  let u := consumeNonce s t
  match tokenFault s t with
  | some f => some ⟨u, .error f⟩
  | none =>
    if kind == 2 then some (lcSecure u t)
    else if kind == 3 then some (lcRetire u)
    else if kind == 1 && port && lcState s == 0 then lcProvision u
    else if kind == 4 && port then some (lcCert u t)
    else some ⟨u, .error .accessDenied⟩

/-- DEBUG_CLOSE (R362, R370, R392): the fault, or the fuse blown. -/
def debugClose (s : State) : TokenOut :=
  if lcState s < 2 then ⟨s, .error .accessDenied⟩
  else if s.rsp.fuses.debugDisable then ⟨s, .ok []⟩
  else
    let s := blow s (fun f => { f with debugDisable := true })
    ⟨mrExtend { s with rsp := { s.rsp with debugAuth := false } } 7 (leBytes 1 2), .ok []⟩

/-- Reach levels (R390, R393). -/
inductive Reach where
  | opened | authorised | locked | closed
  deriving DecidableEq, Repr

/-- The reach of the debug access port (R390, R392, R393): none outside REST, READY and RUN. -/
def debugReach (s : State) : Reach :=
  if !s.serves || s.rsp.fuses.debugDisable then .closed
  else if s.rsp.debugAuth then .authorised
  else if lcState s == 0 || lcState s == 3 then .opened
  else .locked

/-- A debug answer. -/
def dbgOk (s : State) (data : Bytes) : Out := .next (s.emit (.debug .ok none data))
/-- A debug refusal. -/
def dbgDeny (s : State) (f : FaultCode) : Out := .next (s.emit (.debug .denied (some f) []))

/-- The answer to a token on the debug mailbox. -/
def dbgAnswer (o : TokenOut) : Out :=
  match o.answer with
  | .ok d => dbgOk o.state d
  | .error f => dbgDeny o.state f

/-- DBG_STATUS (R390): what the status holds the manual does not say, a free value (log entry 1). -/
def execDbgStatus (s : State) : Out :=
  if debugReach s == .closed then .next s else
  let (fr, s) := s.draw
  dbgOk s (Config.freeBytes fr 8)

/-- DBG_CHALLENGE (R363): a nonce; while the CTR_DRBG is stopped its consumers wait. -/
def execDbgChallenge (s : State) : Out :=
  if debugReach s == .closed then .next s
  else match issueNonce s with
    | some (n, s) => dbgOk s n
    | none => .next s

/-- DBG_RESPONSE (R391): a DEBUG_AUTH token. -/
def execDbgResponse (t : Bytes) (s : State) : Out :=
  if debugReach s == .closed then .next s
  else
    let u := consumeNonce s t
    match tokenFault s t with
    | some f => dbgDeny u f
    | none =>
      if field t 5 1 == 0x10 && hasIdentity s && s.ctxs.isEmpty && !s.sys.joined then
        let u := mrExtend (zeroSealed u) 7 (leBytes 1 1)
        dbgOk (deriveAlias { u with rsp := { u.rsp with debugAuth := true, debugSeen := true } }) []
      else dbgDeny u .accessDenied

/-- A Field's logic and scratchpads are powered and run (R394, R403). -/
def fieldOn (s : State) (f : Nat) : Bool := s.isUp && ((s.field f).st == .warm || (s.field f).st == .run)

/-- Debug reaches a target (R390, R393). -/
def dbgReaches (s : State) (t : DbgTarget) : Bool :=
  let l := debugReach s
  (l == .opened || l == .authorised) && (match t with
    | .hbm a => s.isUp && inHbm a 8 && !s.sealedAny a 8
        && (l == .opened || !Config.rspRegions.any (fun r => meets a 8 r.1 r.2))
    | .coreStore c off => c < 128 && off + 8 ≤ 2 ^ 21 && fieldOn s (fieldOf c)
    | .scalar c n => c < 128 && n < 32 && fieldOn s (fieldOf c)
    | .vector c v w => c < 128 && v < 64 && w < 256 && fieldOn s (fieldOf c)
    | .loop c l => c < 128 && l < 4 && fieldOn s (fieldOf c)
    | .arith c => c < 128 && fieldOn s (fieldOf c)
    | .infield d off => d < 2 && off + 8 ≤ 2 ^ 28 && s.isUp
    | .opBuf c b off => c < 128 && b < 4 && off + 8 ≤ 2 ^ 16 && fieldOn s (fieldOf c)
    | .rspRam _ => l == .opened
    | .hammerWord w => l == .opened && w < 2048 && !wordSealed s.ham w
    | .keyRam _ => false
    | .udsFuses => false)

/-- DBG_READ (R390): 8 bytes of a memory or a register, or a word of the Hammer. -/
def execDbgRead (t : DbgTarget) (s : State) : Out :=
  if debugReach s == .closed then .next s
  else if !dbgReaches s t then dbgDeny s .accessDenied
  else match t with
    | .hbm a => dbgOk s (devPeek s.mem a 8)
    | .coreStore c off => dbgOk s (scratchRead s.mem.cs (c * 2 ^ 21 + off) 8)
    | .scalar c n => dbgOk s (leBytes 8 ((s.core c).sget n).toNat)
    | .vector c v w => dbgOk s (slice ((s.core c).vStored v) (4 * w) 4)
    | .loop c l => dbgOk s (leBytes 4 ((s.core c).lget l))
    | .arith c => dbgOk s (leBytes 4 (s.core c).status.toNat)
    | .infield d off => dbgOk s (scratchRead s.mem.inf (d * 2 ^ 28 + off) 8)
    | .opBuf c b off => dbgOk s (scratchRead s.mem.ob ((4 * c + b) * 2 ^ 16 + off) 8)
    | .rspRam off => dbgOk s (memRead s.rsp.rspRam off 8)
    | .hammerWord w => dbgOk s (leBytes 32 (hammerRead s.ham w).toNat)
    | .keyRam _ => dbgDeny s .accessDenied
    | .udsFuses => dbgDeny s .accessDenied

/-- DBG_WRITE (R390); to ARITH_STATUS a write of 1 clears a flag (R4, R67). -/
def execDbgWrite (t : DbgTarget) (v : Nat) (s : State) : Out :=
  if debugReach s == .closed then .next s
  else if !dbgReaches s t then dbgDeny s .accessDenied
  else match t with
    | .hbm a => dbgOk (s.devWr a (leBytes 8 v)) []
    | .coreStore c off =>
      dbgOk { s with mem := { s.mem with cs := scratchWrite s.mem.cs (c * 2 ^ 21 + off) (leBytes 8 v) false } } []
    | .scalar c n => dbgOk (s.setCore c ((s.core c).sput n (BitVec.ofNat 64 v) false)) []
    | .vector c n w => dbgOk (s.setCore c ((s.core c).vStore n
        (slice ((s.core c).vStored n) 0 (4 * w) ++ leBytes 4 v ++ ((s.core c).vStored n).drop (4 * w + 4)))) []
    | .loop c l => dbgOk (s.setCore c ((s.core c).lput l v)) []
    | .arith c => dbgOk (s.setCore c ((s.core c).clearStatus (v % 32))) []
    | .infield d off =>
      dbgOk { s with mem := { s.mem with inf := scratchWrite s.mem.inf (d * 2 ^ 28 + off) (leBytes 8 v) false } } []
    | .opBuf c b off =>
      dbgOk { s with mem := { s.mem with ob := scratchWrite s.mem.ob ((4 * c + b) * 2 ^ 16 + off) (leBytes 8 v) false } } []
    | .rspRam off => dbgOk { s with rsp := { s.rsp with rspRam := memPut s.rsp.rspRam off (leBytes 8 v) } } []
    | .hammerWord w => dbgOk { s with ham := hput s.ham w (BitVec.ofNat 256 v) } []
    | .keyRam _ => dbgDeny s .accessDenied
    | .udsFuses => dbgDeny s .accessDenied

/-- Debug may halt or resume a unit (R390, R393). -/
def dbgHalts (s : State) (u : DbgUnit) : Bool :=
  (debugReach s == .opened || debugReach s == .authorised) && (match u with
    | .core c => c < 128 && fieldOn s (fieldOf c)
    | .marshal _ => true)

/-- DBG_HALT (R390): a halted core issues nothing. -/
def execDbgHalt (u : DbgUnit) (s : State) : Out :=
  if debugReach s == .closed then .next s
  else if !dbgHalts s u then dbgDeny s .accessDenied
  else dbgOk { s with rsp := { s.rsp with halted := if s.rsp.halted.contains u then s.rsp.halted else u :: s.rsp.halted } } []

/-- DBG_RESUME (R390). -/
def execDbgResume (u : DbgUnit) (s : State) : Out :=
  if debugReach s == .closed then .next s
  else if !dbgHalts s u then dbgDeny s .accessDenied
  else dbgOk { s with rsp := { s.rsp with halted := s.rsp.halted.filter (· != u) } } []

/-- LC_TOKEN of the debug mailbox (R362). -/
def execDbgLcToken (t : Bytes) (s : State) : Out :=
  if debugReach s == .closed then .next s
  else match lcTokenOut s t true with
    | some o => settleRestart (dbgAnswer o)
    | none => .next s

/-- DEBUG_CLOSE of the debug mailbox (R362): the mailbox closes at once. -/
def execDbgDebugClose (s : State) : Out :=
  if debugReach s == .closed then .next s else dbgAnswer (debugClose s)

/-- The IDCODE (R427). -/
def idcodeWord : Nat := 0x109609CB

/-- The test access port answers in every state with power (R392, R420). -/
def tapOn (s : State) : Bool := s.pwr.st != .off

/-- IDCODE (R392, R427). -/
def execIdcode (s : State) : Out :=
  if tapOn s then .next ({ s with rsp := { s.rsp with tap := 0 } }.emit (.tdo idcodeWord)) else .next s

/-- BYPASS (R392): the bypass register, which captures 0. -/
def execBypass (s : State) : Out :=
  if tapOn s then .next ({ s with rsp := { s.rsp with tap := 1 } }.emit (.tdo 0)) else .next s

/-- SAMPLE/PRELOAD (R392): the pins as they stand go out, a free value; the cells hold what was shifted in. -/
def execSamplePreload (pins : Nat) (s : State) : Out :=
  if tapOn s then
    let (fr, s) := s.draw
    .next ({ s with rsp := { s.rsp with tap := 2, tapPins := pins } }.emit (.tdo (Config.freeWord fr).toNat))
  else .next s

/-- EXTEST (R392): in STANDBY it drives the pins; in every other state it acts as BYPASS. -/
def execExtest (pins : Nat) (s : State) : Out :=
  if s.pwr.st == .standby then
    let (fr, s) := s.draw
    .next ({ s with rsp := { s.rsp with tap := 3, tapPins := pins } }.emit (.tdo (Config.freeWord fr).toNat))
  else if tapOn s then .next ({ s with rsp := { s.rsp with tap := 1 } }.emit (.tdo 0))
  else .next s

/-- The management bus answers in every state except OFF (R423). -/
def smbAnswer (s : State) (data : Bytes) : Out := if s.pwr.st == .off then .next s else .next (s.emit (.smb data))

/-- MODULE_PWR over the management bus: clears the change condition of SMB_ALERT_N (R423). -/
def execSmbModulePwr (s : State) : Out :=
  if s.pwr.st == .off then .next s
  else .next ({ s with pwr := { s.pwr with smbSeen := modulePwr s } }.emit (.smb (leBytes 8 (modulePwr s))))

/-- FENCE_STATUS over the management bus (R423). -/
def execSmbFenceStatus (s : State) : Out := smbAnswer s (leBytes 8 (fenceStatus s))

/-- FIELD_PWR_f over the management bus (R423); a number past 7 is no command code. -/
def execSmbFieldPwr (f : Nat) (s : State) : Out :=
  if f < 8 then smbAnswer s (leBytes 8 (fieldPwr s f))
  else if s.pwr.st == .off then .next s else .next (s.emit .smbNack)

/-- SERIAL over the management bus (R423). -/
def execSmbSerial (s : State) : Out := smbAnswer s (slice s.rsp.serial 0 16)

/-- IDCODE over the management bus (R423). -/
def execSmbIdcode (s : State) : Out := smbAnswer s (leBytes 4 idcodeWord)

/-- LC_STATE over the management bus (R423). -/
def execSmbLcState (s : State) : Out := smbAnswer s (leBytes 1 (bits s.rsp.fuseState.toNat 1 0))

/-- A write, or a read of an unknown code: NACK, and nothing changes (R423). -/
def execSmbWrite (_code : Nat) (s : State) : Out := if s.pwr.st == .off then .next s else .next (s.emit .smbNack)

end Sys2Proof.Machine
end

