-- ==== Sys2Proof/Machine/Spdm.lean ====
section
/-! DEFINITION. The SPDM responder (R372 to R381, R389): ATTEST_GET, the requests of the subset, the vendor requests, sealed
frames, and the session timers. The messages are structured; their byte form is the standard's (log entry 53). -/

namespace Sys2Proof.Machine

/-- ATTEST_GET (R374, R375): the message waits in the mailbox for the responder. -/
def attestGet (r : MbReq) (s : State) : Reply :=
  if field r.payload 2 2 != 0 then deny s .descInvalid
  else ⟨s, .error (.spdm (if r.ctx == noCtx then none else some r.ctx) (r.payload.drop 4))⟩

/-- ATTEST_GET. -/
def execAttestGet (m : Nat) (r : MbReq) (s : State) : Out := mbCommand 0x50 m r (attestGet r) s

/-- The scope of the message that a carrier holds (R375): none where it holds none; a Baton port is of module scope. -/
def spdmScope (s : State) (v : SpdmVia) : Option (Option Nat) :=
  match v with
  | .mailbox m => match (s.mb m).wait with
    | some (.spdm c _) => some c
    | _ => none
  | .port p => if p < 16 && serPowered s && trained (s.port p) then some none else none

/-- A connection that nothing has been said on. -/
def SpdmConn.new (v : SpdmVia) : SpdmConn := ⟨v, .start, [], none⟩

/-- The connection of a carrier. -/
def State.conn (s : State) (v : SpdmVia) : SpdmConn := (s.rsp.conns.find? (·.via == v)).getD (SpdmConn.new v)

/-- Replaces the connection of a carrier. -/
def State.setConn (s : State) (c : SpdmConn) : State :=
  { s with rsp := { s.rsp with conns := c :: s.rsp.conns.filter (·.via != c.via) } }

/-- ERROR codes of SPDM. -/
def spInvalid : Nat := 0x01
/-- UnexpectedRequest. -/
def spUnexpected : Nat := 0x04
/-- Unspecified. -/
def spUnspecified : Nat := 0x05
/-- DecryptError. -/
def spDecrypt : Nat := 0x06
/-- SessionLimitExceeded. -/
def spSessions : Nat := 0x0A
/-- LargeResponse. -/
def spLarge : Nat := 0x0F

/-- DataTransferSize (R374). -/
def transferSize : Nat := 4028
/-- MaxSPDMmsgSize (R374). -/
def maxMessage : Nat := 65536

/-- The bytes that the data of a response takes. -/
def rspSize : SpdmRsp → Nat
  | .certificate p _ => p.length
  | .measurements bs o sig => (bs.map (fun b => 7 + b.2.2.length)).sum + o.length + sig.length
  | .vendor _ _ d => d.length
  | _ => 0

/-- The responder answers: a response larger than DataTransferSize is kept for CHUNK_GET, and ERROR LargeResponse goes in its
place. On a mailbox the bytes of the message are a free value (log entry 1). -/
def spdmSend (s : State) (v : SpdmVia) (r : SpdmRsp) : State :=
  let big := rspSize r > transferSize
  let s := if big then s.setConn { s.conn v with deferred := some r } else s
  let s := s.emit (.spdmRsp v (if big then .error spLarge else r))
  match v with
  | .mailbox m =>
    let (fr, s) := s.draw
    let b := (Config.freeBytes fr transferSize).take transferSize
    respond s m (.ok (leBytes 2 b.length ++ zeros 2 ++ b))
  | .port _ => s

/-- A request on a carrier, in a connection step that admits it; a handler answers none while the CTR_DRBG is stopped, and the
request waits (R383). -/
def spdmOn (v : SpdmVia) (need : SpdmStep → Bool) (h : Option Nat → State → Option (State × SpdmRsp)) (s : State) : Out :=
  match spdmScope s v with
  | none => .next s
  | some sc =>
    if !need (s.conn v).step then .next (spdmSend s v (.error spUnexpected))
    else match h sc s with
      | none => .next s
      | some (t, r) => .next (spdmSend t v r)

/-- Any step. -/
def anyStep (_ : SpdmStep) : Bool := true
/-- The algorithms are negotiated. -/
def agreed (x : SpdmStep) : Bool := x == .algs

/-- An answer that changes nothing. -/
def say (s : State) (r : SpdmRsp) : Option (State × SpdmRsp) := some (s, r)

/-- Moves the connection on. -/
def stepTo (s : State) (v : SpdmVia) (x : SpdmStep) : State := s.setConn { s.conn v with step := x }

/-- GET_VERSION (R374): a new connection. -/
def execGetVersion (v : SpdmVia) (s : State) : Out :=
  spdmOn v anyStep (fun _ s => say (s.setConn { SpdmConn.new v with step := .version }) .version) s

/-- GET_CAPABILITIES (R374). -/
def execGetCapabilities (v : SpdmVia) (s : State) : Out :=
  spdmOn v (· == .version) (fun _ s => say (stepTo s v .caps) .capabilities) s

/-- NEGOTIATE_ALGORITHMS (R374): other algorithms receive an ERROR. -/
def execNegotiateAlgorithms (v : SpdmVia) (ours : Bool) (s : State) : Out :=
  spdmOn v (· == .caps) (fun _ s => if ours then say (stepTo s v .algs) .algorithms else say s (.error spInvalid)) s

/-- The chain of slot 0 (R373): none in BLANK and RETIRED, without a DeviceID certificate, or before the Alias key. -/
def chain (s : State) : Option Bytes :=
  match s.rsp.devCert, s.rsp.aliasCert with
  | some d, some a => if hasIdentity s then some (Config.caChain ++ d ++ a) else none
  | _, _ => none

/-- GET_DIGESTS (R359, R373). -/
def execGetDigests (v : SpdmVia) (s : State) : Out :=
  spdmOn v agreed (fun _ s => match chain s with
    | some c => say s (.digests (sha384 c))
    | none => say s (.error spUnspecified)) s

/-- GET_CERTIFICATE (R359, R373): a portion of the chain of slot 0. -/
def execGetCertificate (v : SpdmVia) (slot off len : Nat) (s : State) : Out :=
  spdmOn v agreed (fun _ s => match chain s with
    | some c =>
      if slot != 0 || off ≥ c.length then say s (.error spInvalid)
      else
        let n := min len (c.length - off)
        say s (.certificate (slice c off n) (c.length - off - n))
    | none => say s (.error spUnspecified)) s

/-- The Alias key can sign (R372, R373, R387). -/
def canSign (s : State) : Bool := s.rsp.keysPresent && (chain s).isSome && !s.ham.privLock

/-- A signature with the Alias key: a free value, drawn with a nonce of the CTR_DRBG (R383). -/
def sign (s : State) : Option (Bytes × State) := (drbg s).map (fun p => (freshBytes p.1 96, p.2))

/-- CHALLENGE (R373, R374, R387). -/
def execChallenge (v : SpdmVia) (slot : Nat) (_nonce : Bytes) (s : State) : Out :=
  spdmOn v agreed (fun _ s =>
    if slot != 0 then say s (.error spInvalid)
    else if !canSign s then say s (.error spUnspecified)
    else (sign s).map (fun p => (p.2, .challengeAuth p.1))) s

/-- Value type of index i + 1, MR i (R376). -/
def mrType (i : Nat) : Nat := if i == 0 then 0 else if i == 1 then 2 else if i < 7 then 1 else if i == 7 then 5 else 3

/-- The context block of index 0x40 (R376). -/
def ctxBlock (s : State) (c : Ctx) : Bytes :=
  leBytes 4 c.num ++ leBytes 4 c.tenant ++ leBytes 1 c.secClass ++ leBytes 1 (s.settingN 0x0100 c.num) ++ zeros 2
    ++ leBytes 4 (pId c.param) ++ slice c.psh 0 16 ++ leBytes 4 c.measCount ++ zeros 12 ++ slice c.measChain 0 48

/-- An entry of the load log (R376). -/
def logEntry (e : LoadEntry) : Bytes :=
  leBytes 1 e.kind ++ zeros 1 ++ leBytes 2 e.program ++ leBytes 4 e.keyset ++ slice e.meas 0 48 ++ slice e.translator 0 48
    ++ leBytes 8 e.ticks

/-- The load log of index 0x41 (R376). -/
def loadLog (c : Ctx) : Bytes := leBytes 4 c.measCount ++ zeros 4 ++ (c.log.map logEntry).flatten

/-- The measurement blocks of a scope: index, type and value (R376). -/
def measBlocks (s : State) (sc : Option Nat) : List (Nat × Nat × Bytes) :=
  (List.range 32).map (fun i => (i + 1, mrType i, nth s.rsp.mr i [])) ++ [(0x30, 3, summary s)]
    ++ (match sc.bind s.ctx? with
      | some c => [(0x40, 0x84, ctxBlock s c), (0x41, 0x84, loadLog c)]
      | none => [])

/-- The OpaqueData of a scope (R375). -/
def opaqueData (s : State) (sc : Option Nat) : Bytes :=
  match sc.bind s.ctx? with
  | some c => leBytes 4 c.num ++ leBytes 4 c.tenant
  | none => []

/-- GET_MEASUREMENTS (R375, R376). -/
def execGetMeasurements (v : SpdmVia) (index : Nat) (signed : Bool) (_nonce : Bytes) (s : State) : Out :=
  spdmOn v agreed (fun sc s =>
    let all := measBlocks s sc
    let bs := if index == 0xFF then all else all.filter (·.1 == index)
    let o := opaqueData s sc
    let answer := fun (sig : Bytes) => if index == 0 then SpdmRsp.measCount all.length o sig else .measurements bs o sig
    if index != 0 && bs.isEmpty then say s (.error spInvalid)
    else if !signed then say s (answer [])
    else if !canSign s then say s (.error spUnspecified)
    else (sign s).map (fun p => (p.2, answer p.1))) s

/-- The prime of P-384. -/
def p384 : Nat := 2 ^ 384 - 2 ^ 128 - 2 ^ 96 + 2 ^ 32 - 1

/-- The coefficient b of P-384. -/
def p384b : Nat := 0xb3312fa7e23ee7e4988e056be3f82d19181d9c6efe8141120314088f5013875ac656398d8a2ed19d2a85c8edd3ec2aef

/-- A public share is a point of P-384, its coordinates below p (R389). -/
def onCurve (share : Bytes) : Bool :=
  let x := beNat (slice share 0 48)
  let y := beNat (slice share 48 48)
  share.length == 96 && x < p384 && y < p384 && y * y % p384 == (x * x * x + (p384 - 3) * x + p384b) % p384

/-- True for a mailbox. -/
def viaMailbox : SpdmVia → Bool
  | .mailbox _ => true
  | .port _ => false

/-- Sessions are left: 16 on the mailbox transport, one per Baton port (R374). -/
def sessionLeft (s : State) (v : SpdmVia) : Bool :=
  match v with
  | .mailbox _ => (s.rsp.sessions.filter (fun x => viaMailbox x.via)).length < 16
  | .port p => !s.rsp.sessions.any (·.via == .port p)

/-- KEY_EXCHANGE (R374, R375, R389): a session of the carrier's scope; its secret is a free value (log entry 1). -/
def execKeyExchange (v : SpdmVia) (share : Bytes) (s : State) : Out :=
  spdmOn v agreed (fun sc s =>
    if !onCurve share then say s (.error spInvalid)
    else if !sessionLeft s v then say s (.error spSessions)
    else if !canSign s then say s (.error spUnspecified)
    else (sign s).map (fun p =>
      let t := p.2
      let (fr, t) := t.draw
      let (gr, t) := t.draw
      let n := t.rsp.nextSession
      let x : Session := { num := n, via := v, ctx := sc, step := .session, lastTick := t.now, lastBeat := t.now
                           key := freshBytes fr 48, requester := false }
      ({ t with rsp := { t.rsp with sessions := t.rsp.sessions ++ [x], nextSession := n + 1 } },
        .keyExchangeRsp n (freshBytes gr 96) (opaqueData t sc) p.1))) s

/-- A session that a carrier's message may belong to: of the same transport and scope (R375). -/
def session? (s : State) (v : SpdmVia) (sc : Option Nat) (n : Nat) : Option Session :=
  s.rsp.sessions.find? (fun x => x.num == n && x.ctx == sc && (x.via == v || (viaMailbox x.via && viaMailbox v)))

/-- Replaces a session. -/
def setSession (s : State) (x : Session) : State :=
  { s with rsp := { s.rsp with sessions := s.rsp.sessions.map (fun y => if y.num == x.num then x else y) } }

/-- Ends a session. -/
def dropSess (s : State) (n : Nat) : State := { s with rsp := { s.rsp with sessions := s.rsp.sessions.filter (·.num != n) } }

/-- A message in a session, in a session step that admits it; it restarts the idle time (R374). -/
def inSession (v : SpdmVia) (n : Nat) (need : SpdmStep → Bool) (h : Session → State → Option (State × SpdmRsp)) (s : State) : Out :=
  spdmOn v anyStep (fun sc s => match session? s v sc n with
    | none => say s (.error spInvalid)
    | some x =>
      let x := { x with lastTick := s.now }
      if !need x.step then say (setSession s x) (.error spUnexpected) else h x (setSession s x)) s

/-- The handshake is finished. -/
def established (x : SpdmStep) : Bool := x == .finished || x == .mixed

/-- FINISH (R374): wrong verification data ends the session. -/
def execFinish (v : SpdmVia) (n : Nat) (mac : Bytes) (s : State) : Out :=
  inSession v n (· == .session) (fun x s =>
    if mac == Config.finishMac x.key then say (setSession s { x with step := .finished }) .finishRsp
    else say (dropSess s n) (.error spDecrypt)) s

/-- HEARTBEAT (R374). -/
def execHeartbeat (v : SpdmVia) (n : Nat) (s : State) : Out :=
  inSession v n established (fun x s => say (setSession s { x with lastBeat := s.now }) .heartbeatAck) s

/-- KEY_UPDATE (R374). -/
def execKeyUpdate (v : SpdmVia) (n : Nat) (s : State) : Out :=
  inSession v n established (fun x s => say (setSession s { x with key := Config.keyUpdate x.key }) .keyUpdateAck) s

/-- END_SESSION (R374). -/
def execEndSession (v : SpdmVia) (n : Nat) (s : State) : Out :=
  inSession v n established (fun _ s => say (dropSess s n) .endSessionAck) s

/-- CHUNK_SEND (R374): a part of a large request. The last part ends the transfer: the request it completes is the carrier's next
one, and its response answers the part. -/
def execChunkSend (v : SpdmVia) (last : Bool) (data : Bytes) (s : State) : Out :=
  match spdmScope s v with
  | none => .next s
  | some _ =>
    let c := s.conn v
    if c.chunk.length + data.length > maxMessage || data.length > transferSize then
      .next (spdmSend (s.setConn { c with chunk := [] }) v (.error spInvalid))
    else if last then .next (s.setConn { c with chunk := [] })
    else .next (spdmSend (s.setConn { c with chunk := c.chunk ++ data }) v .chunkSendAck)

/-- The parts of a deferred response. -/
def partCount (r : SpdmRsp) : Nat := ceilDiv (rspSize r) transferSize

/-- CHUNK_GET (R374): part n of the response kept; with the last part the response is complete. -/
def execChunkGet (v : SpdmVia) (n : Nat) (s : State) : Out :=
  spdmOn v anyStep (fun _ s => match (s.conn v).deferred with
    | none => say s (.error spUnexpected)
    | some r =>
      if n ≥ partCount r then say s (.error spInvalid)
      else
        let last := n + 1 == partCount r
        let (fr, s) := s.draw
        let s := if last then (s.setConn { s.conn v with deferred := none }).emit (.spdmRsp v r) else s
        say s (.chunkRsp (freshBytes fr (min transferSize (rspSize r - n * transferSize))) last)) s

/-- RESPOND_IF_READY (R374): the responder defers no response, so none is asked for. -/
def execRespondIfReady (v : SpdmVia) (s : State) : Out := spdmOn v anyStep (fun _ s => say s (.error spUnexpected)) s

/-- SPDM_SESSION_IDLE_TIMEOUT (R374): no message for 120 s. -/
def execSpdmSessionIdleTimeout (n : Nat) (s : State) : Out :=
  match s.rsp.sessions.find? (·.num == n) with
  | none => .next s
  | some x => if due s.now x.lastTick 1500000000 then .next (dropSess s n) else .next s

/-- HEARTBEAT_PERIOD_EXPIRY (R374): the requester's 60 s. -/
def execHeartbeatPeriodExpiry (n : Nat) (s : State) : Out :=
  match s.rsp.sessions.find? (·.num == n) with
  | none => .next s
  | some x =>
    if x.requester && s.now ≥ x.lastBeat + 750000000 then
      .next ((setSession s { x with lastBeat := s.now, lastTick := s.now }).emit (.spdmHeartbeat n))
    else .next s

/-- A vendor response with status (R378). -/
def vend (s : State) (code : Nat) (f : Option FaultCode) (data : Bytes) : Option (State × SpdmRsp) :=
  some (s, .vendor code (match f with
    | some f => f.code
    | none => 0) data)

/-- KEM_MIX (R377): a ciphertext that fails decapsulation ends the session. -/
def execKemMix (v : SpdmVia) (n : Nat) (ct : Bytes) (s : State) : Out :=
  inSession v n (· == .finished) (fun x s =>
    match (if ct.length == 1568 then Config.kemDecaps s.rsp.fuses.uds (summary s) ct else none) with
    | some ss => vend (setSession s { x with key := Config.kemSecret x.key ss, step := .mixed }) 1 none []
    | none => vend (dropSess s n) 1 (some .accessDenied) []) s

/-- A vendor request after KEM_MIX (R377). -/
def mixed (x : SpdmStep) : Bool := x == .mixed

/-- Module scope on mailbox 0 (R378). -/
def moduleMail (v : SpdmVia) (x : Session) : Bool := v == .mailbox 0 && x.ctx.isNone

/-- NONCE_GET (R363, R378). -/
def execNonceGet (v : SpdmVia) (n : Nat) (s : State) : Out :=
  inSession v n mixed (fun x s =>
    if !moduleMail v x then vend s 2 (some .accessDenied) []
    else (issueNonce s).bind (fun p => vend p.2 2 none p.1)) s

/-- The status and data of a token's outcome. -/
def vendToken (o : TokenOut) (code : Nat) : Option (State × SpdmRsp) :=
  match o.answer with
  | .ok d => vend o.state code none d
  | .error f => vend o.state code (some f) []

/-- LC_TOKEN (R362, R378): a restart follows the answer. -/
def execLcToken (v : SpdmVia) (n : Nat) (t : Bytes) (s : State) : Out :=
  settleRestart (inSession v n mixed (fun x s =>
    if !moduleMail v x then vend s 3 (some .accessDenied) []
    else (lcTokenOut s t false).bind (fun o => vendToken o 3)) s)

/-- DEBUG_CLOSE (R362, R378). -/
def execDebugClose (v : SpdmVia) (n : Nat) (s : State) : Out :=
  inSession v n mixed (fun x s =>
    if !moduleMail v x then vend s 4 (some .accessDenied) [] else vendToken (debugClose s) 4) s

/-- The WEIGHTS context of a session (R359, R378). -/
def weightsCtx (s : State) (x : Session) : Option Ctx := (x.ctx.bind s.ctx?).filter (fun c => c.secClass == 1 && lcState s == 2)

/-- WEIGHTS_KEY (R378, R381). -/
def execWeightsKey (v : SpdmVia) (n keyNo : Nat) (key : Bytes) (s : State) : Out :=
  inSession v n mixed (fun x s => match weightsCtx s x with
    | none => vend s 0x10 (some .accessDenied) []
    | some c =>
      if !(keyNo < 4 && key.length == 32) then vend s 0x10 (some .descInvalid) []
      else vend (s.setCtx { c with weightsKeys := assocSet keyNo key c.weightsKeys, weightsUsed := true }) 0x10 none []) s

/-- Every cached translation of every other context is removed (R380). -/
def dropOthersXlate (s : State) (ctx : Nat) : State := { s with mem := { s.mem with xlate := s.mem.xlate.filter (·.ctx == ctx) } }

/-- Seals the frame at a device physical address to a context (R380). -/
def sealFrame (s : State) (ctx a : Nat) : State :=
  match s.ctx? ctx with
  | none => s
  | some c => if c.sealed.contains (a / 65536) then s else s.setCtx { c with sealed := c.sealed ++ [a / 65536] }

/-- IV and AAD of a record (R380). -/
def wrapIv (blobId r : Nat) : Bytes := leBytes 4 blobId ++ leBytes 8 r
/-- The AAD. -/
def wrapAad (ctx blobId r : Nat) : Bytes := leBytes 4 ctx ++ leBytes 4 blobId ++ leBytes 8 r

/-- One record of WEIGHTS_UNWRAP (R380, R381): the state after it, or the fault. -/
def unwrapRecord (s : State) (c : Ctx) (key : Bytes) (blobId src dst r : Nat) : State × Option FaultCode :=
  match readerRead s c cmdReader (src + 65552 * r) 65552 with
  | (s, .error (f, _)) => (s, some f)
  | (s, .ok (xs, bs, marked)) =>
    if xs.any (fun x => s.sealedAny x.addr x.len) then (s, some .accessDenied)
    else if marked then (s, some .eccUncorrectable)
    else match xlate s c (dst + 65536 * r) .write with
      | .error e => (s, some (readerFault s c e).1)
      | .ok a =>
        if !(inHbm a 65536 && !s.isReserved a 65536) then (s, some .accessDenied)
        else match Config.gcmOpen key (wrapIv blobId r) (wrapAad c.num blobId r) (slice bs 0 65536) (slice bs 65536 16) with
          | none => (s, some .accessDenied)
          | some pt => ((sealFrame s c.num a).devWr a (slice pt 0 65536), none)

/-- The records of WEIGHTS_UNWRAP from one on (R380): the first argument is how many are left. -/
def unwrapFrom (key : Bytes) (ctx blobId src dst : Nat) : Nat → Nat → State → State × Option (FaultCode × Nat)
  | 0, _, s => (s, none)
  | k + 1, r, s => match s.ctx? ctx with
    | none => (s, some (.accessDenied, r))
    | some c => match unwrapRecord s c key blobId src dst r with
      | (s, some f) => (s, some (f, r))
      | (s, none) => unwrapFrom key ctx blobId src dst k (r + 1) s

/-- WEIGHTS_UNWRAP (R380, R381). -/
def execWeightsUnwrap (v : SpdmVia) (n keyNo blobId src dst records : Nat) (s : State) : Out :=
  inSession v n mixed (fun x s => match weightsCtx s x with
    | none => vend s 0x11 (some .accessDenied) []
    | some c =>
      if !(keyNo < 4 && src % 65536 == 0 && dst % 65536 == 0 && 1 ≤ records && records ≤ 8192) then vend s 0x11 (some .descInvalid) []
      else match assoc keyNo c.weightsKeys with
        | none => vend s 0x11 (some .descInvalid) []
        | some key => match unwrapFrom key c.num blobId src dst records 0 (dropOthersXlate s c.num) with
          | (s, none) => vend s 0x11 none []
          | (s, some (f, r)) => vend s 0x11 (some f) (leBytes 4 r)) s

/-- Zero in every byte of a frame, its lines dropped from the caches and its marks cleared (R381). -/
def zeroFrame (m : MemState) (f : Nat) : MemState :=
  { m with hbm := m.hbm.filter (fun c => c.1 / 65536 != f), hbmMarked := m.hbmMarked.filter (fun b => b / 64 != f)
           cache := m.cache.filter (fun l => l.line / 1024 != f) }

/-- SEALED_FRAME_ZEROED (R381): the sealed frames and frozen tables of a destroyed context hold zeros and leave the reserved
map. -/
def execSealedFrameZeroed (ctx : Nat) (s : State) : Out :=
  match s.rsp.zeroing.find? (·.1 == ctx) with
  | none => .next s
  | some z => .next { s with mem := z.2.foldl zeroFrame s.mem, rsp := { s.rsp with zeroing := s.rsp.zeroing.erase z } }

end Sys2Proof.Machine
end

