-- ==== Sys2Proof/Machine/Host.lean ====
section
/-! DEFINITION. The host interface: host windows (R316), the register aperture (R319 to R323), companion snoops (R314), and the
Welone Link (R256, R311, R318). -/

namespace Sys2Proof.Machine

/-- A good flit has passed over the Welone Link: no flit of it is being retried (R311). -/
def linkHeard (s : State) : State := { s with linkRetry := 0 }

/-- A refused host window access is recorded in HWIN_STATUS_w (R316, R320). -/
def hwinRefused (s : State) (w : Nat) (f : FaultCode) : State :=
  let x := (assoc w s.hwinStatus).getD ⟨0, 0⟩
  { s with hwinStatus := assocSet w ⟨f.code, satInc 32 x.refused⟩ s.hwinStatus }

/-- The fault of an access that cannot be translated (R316, R345). -/
def hwinFault (e : Stop) : FaultCode :=
  match e with
  | .fault f => f
  | .page f _ _ _ => f
  | .absent _ _ _ _ => .pageNotPresent

/-- The spans that a host window access reaches, or the refusal (R316, R381). -/
def hwinSpans (s : State) (w off n : Nat) (rd wr : Bool) : Except FaultCode (List Span) :=
  match assoc w s.hwins with
  | none => .error .accessDenied
  | some h => match s.ctx? h.ctx with
    | none => .error .accessDenied
    | some c =>
      if off + n > h.size || (rd && !h.rd) || (wr && !h.wr) then .error .accessDenied
      else match vaRange s c (if wr then .write else .read) hintNormal (h.va + off) n with
        | .error e => .error (hwinFault e)
        | .ok xs => if xs.any (fun x => x.sp == 0 && s.sealedAny x.addr x.len) then .error .accessDenied else .ok xs

/-- The walks of a host window access (R345), which die 0 makes (log entry 11). -/
def hwinWalk (s : State) (w : Nat) (acc : Access) (xs : List Span) : State :=
  match (assoc w s.hwins).bind (fun h => s.ctx? h.ctx) with
  | some c => walkSpans s (.die 0) c acc xs
  | none => s

/-- 1 to 64 bytes within one line: the link carries no other host window access (R312). -/
def oneLine (off n : Nat) : Bool := 1 ≤ n && off % 64 + n ≤ 64

/-- Bytes of a host window access. -/
def hwBytes (a : HwAccess) : Nat :=
  match a with
  | .read n => n
  | .write data => data.length

/-- HOST_WINDOW_ACCESS (R312, R315, R316, R320, R381); in REST it wakes the module and is held at the link until READY (R402). -/
def execHostWindowAccess (w off : Nat) (a : HwAccess) (s : State) : Out :=
  if !(s.linkUp && w < 64 && oneLine off (hwBytes a)) then .next s
  else if s.serves && !s.isUp then .next (s.holdAtLink (.hostWindowAccess w off a))
  else
    let s := linkHeard s
    match a with
    | .read n => match hwinSpans s w off n true false with
      | .error f => .next ((hwinRefused s w f).emit (.hostRead (List.replicate n 0xFF)))
      | .ok xs => .next ((touchReads (hwinWalk s w .read xs) xs).emit (.hostRead (spansPeek s.mem xs)))
    | .write data => match hwinSpans s w off data.length false true with
      | .error f => .next (hwinRefused s w f)
      | .ok xs => .next ((hwinWalk s w .write xs).writeSpans xs data false)

/-- HOST_WINDOW_CAS (R185, R316): 1, 4 or 8 naturally aligned bytes in a memory-side cache; companion memory takes none
(DEDUCED, log entry 54). -/
def execHostWindowCas (w off size expect new : Nat) (s : State) : Out :=
  if !(s.linkUp && w < 64) then .next s
  else if s.serves && !s.isUp then .next (s.holdAtLink (.hostWindowCas w off size expect new))
  else
    let s := linkHeard s
    let no := fun (f : FaultCode) => Host.Outcome.next ((hwinRefused s w f).emit (.casOld (2 ^ (8 * size) - 1)))
    if !((size == 1 || size == 4 || size == 8) && off % size == 0) then no .descInvalid
    else match hwinSpans s w off size true true with
      | .error f => no f
      | .ok xs =>
        if xs.any (fun x => inComp x.addr x.len) then no .accessDenied
        else
          let old := leNat (spansPeek s.mem xs)
          let s := touchReads (hwinWalk s w .write xs) xs
          let s := if old == expect % 2 ^ (8 * size) then s.writeSpans xs (leBytes size new) false else s
          .next (s.emit (.casOld old))

/-- The mailbox command of an OPCODE (R326); an OPCODE of no command is refused with DESC_INVALID (R324). -/
def runMailbox (op m : Nat) (r : MbReq) (s : State) : Out :=
  if op == 0x01 then execCtxCreate m r s
  else if op == 0x02 then execCtxDestroy m r s
  else if op == 0x03 then execCtxInfo m r s
  else if op == 0x10 then execKeysetLoad m r s
  else if op == 0x11 then execKeysetUnload m r s
  else if op == 0x12 then execKeyPin m r s
  else if op == 0x18 then execProgLoad m r s
  else if op == 0x19 then execProgUnload m r s
  else if op == 0x1C then execDescSet m r s
  else if op == 0x1D then execDescFree m r s
  else if op == 0x20 then execQueueCreate m r s
  else if op == 0x21 then execQueueDestroy m r s
  else if op == 0x24 then execSpadRelease m r s
  else if op == 0x28 then execHwinSet m r s
  else if op == 0x30 then execMarkRead m r s
  else if op == 0x31 then execMarkSet m r s
  else if op == 0x32 then execMarkSignal m r s
  else if op == 0x38 then execCollCreate m r s
  else if op == 0x39 then execCollDestroy m r s
  else if op == 0x3A then execCollStatus m r s
  else if op == 0x40 then execCfgBegin m r s
  else if op == 0x41 then execCfgSet m r s
  else if op == 0x42 then execCfgCommit m r s
  else if op == 0x43 then execCfgRollback m r s
  else if op == 0x44 then execCfgGet m r s
  else if op == 0x48 then execResultGet m r s
  else if op == 0x49 then execResultRelease m r s
  else if op == 0x4A then execAbort m r s
  else if op == 0x50 then execAttestGet m r s
  else if op == 0x58 then execSystemJoin m r s
  else if op == 0x59 then execSystemLeave m r s
  else if op == 0x5A then execEventRing m r s
  else if op == 0x60 then execFwStage m r s
  else if op == 0x61 then execFwActivate m r s
  else mbCommand op m r (fun s => deny s .descInvalid) s

/-- A bound write to a request slot (R319, R323). -/
def putRequest (s : State) (m off : Nat) (bs : Bytes) : State :=
  let b := s.mb m
  s.setMb m { b with req := patch (slice b.req 0 4096) off bs }

/-- The mailbox of a register in a table of strides, where the offset is one of its 64. -/
def regIndex (off base stride : Nat) : Option Nat :=
  if base ≤ off && (off - base) % stride == 0 && (off - base) / stride < 64 then some ((off - base) / stride) else none

/-- A write of 1 to any bit of REFUSED clears it (R320). -/
def clearRefused (x : RefStatus) (v : Nat) : RefStatus := if v % 2 ^ 32 == 0 then x else { x with refused := 0 }

/-- A register access that the link carries: 4, 8 or 16 bytes, naturally aligned (R312). -/
def regAccess (off size : Nat) : Bool := (size == 4 || size == 8 || size == 16) && off % size == 0

/-- A register write that reaches the module (R319 to R323). -/
def writeRegister (off size value : Nat) (s : State) : Out :=
  if !regAccess off size then .next s
  else if off == 0x8 && size == 8 then .next { s with hostSig := clearRefused s.hostSig value }
  else if off == 0x10 && size == 16 then execHostMarkSig (leBytes 16 value) s
  else if off == 0x24 && size == 4 then .next { s with ev := { s.ev with cons := value % 2 ^ 32 } }
  else if off == 0x28 && size == 4 then .next { s with ev := { s.ev with lost := 0 } }
  else if 0x1000000 ≤ off && off < 0x1040000 then
    if off % 8 == 0 && (size == 4 || size == 8) then execQueueDoorbell ((off - 0x1000000) / 8) (value % 2 ^ 32) s else .next s
  else if 0x100000 ≤ off && off < 0x180000 then
    let m := (off - 0x100000) / 0x2000
    let o := (off - 0x100000) % 0x2000
    if o + size ≤ 4096 then .next (putRequest s m o (leBytes size value)) else .next s
  else if size != 8 then .next s
  else match regIndex off 0x100 8, regIndex off 0x10000 16, regIndex off 0x10008 16 with
    | some w, _, _ => .next (match assoc w s.hwinStatus with
      | some x => { s with hwinStatus := assocSet w (clearRefused x value) s.hwinStatus }
      | none => s)
    | none, some m, _ => let q := parseReq (s.mb m).req; runMailbox q.1 m q.2 s
    | none, none, some m => if bit value 2 then .next (s.setMb m { s.mb m with overrun := false }) else .next s
    | none, none, none => .next s

/-- COMPANION_SNOOP_INVALIDATE (R314): the line leaves every cache; companion memory holds its new contents. -/
def execCompanionSnoopInvalidate (line : Nat) (data : Bytes) (s : State) : Out :=
  if !(isCompLine line && line * 64 + 64 ≤ compEnd && data.length == 64) then .next s
  else
    let m := dropXlate (cacheDrop s.mem line false) line
    .next { s with mem := { m with comp := memPut m.comp (line * 64 - compBase) data } }

/-- The Welone Link goes down (R318): companion lines leave the caches, fills and walks that reach companion memory end. -/
def linkFalls (s : State) : State :=
  let ls := (s.mem.cache.filter (fun c => isCompLine c.line)).map (·.line)
  let s := { s with mem := ls.foldl (fun m l => cacheDrop m l false) s.mem, linkUp := false, linkRetry := 0, linkTick := s.now }
  let s := { s with mem := { s.mem with xlate := s.mem.xlate.filter (fun x => !x.lines.any isCompLine) } }
  (linkDownWaits s).plainErr 6 8 8 0 FaultCode.linkLost.code 0

/-- WELONE_LINK_DOWN (R318). -/
def execWeloneLinkDown (s : State) : Out := if s.linkUp then .next (linkFalls s) else .next s

/-- The Welone Link trains: what was held goes out (R318). -/
def linkRises (s : State) : State :=
  let irqs := s.ev.heldIrq
  let es := s.ev.held
  let s := { s with linkUp := true, linkRetry := 0, ev := { s.ev with heldIrq := [], held := [] } }
  let s := irqs.foldl State.interrupt s
  es.foldl State.ringPut s

/-- The link has power (R394, R401). -/
def linkPowered (s : State) : Bool := serPowered s || s.pwr.st == .startFault || s.pwr.st == .bootRecovery

/-- WELONE_LINK_RETRAIN (R311, R318, R400): every 10 ms; all 32 lanes, or the link stays down. -/
def execWeloneLinkRetrain (ok : Bool) (s : State) : Out :=
  if s.linkUp || !linkPowered s || !(s.linkTick == 0 || due s.now s.linkTick 125000) then .next s
  else .next (if ok then linkRises s else { s with linkTick := s.now })

/-- FLIT_CRC_ERROR (R254, R256, R311): the flit is asked for again; the ninth failure of one flit takes the link down. -/
def execFlitCrcError (p : Option Nat) (s : State) : Out :=
  match p with
  | none =>
    if !s.linkUp then .next s
    else if s.linkRetry ≥ 8 then .next (linkFalls s)
    else .next ({ s with linkRetry := s.linkRetry + 1 }.emit (.flitAgain none))
  | some p =>
    let x := s.port p
    if !(p < 16 && serPowered s && trained x) then .next s
    else if x.flitFails ≥ 8 then .next (portDown s p pcRetry .down)
    else .next ((s.modPort p (fun x => { x with flitFails := x.flitFails + 1, retry := satInc 16 x.retry })).emit (.flitAgain (some p)))

end Sys2Proof.Machine
end

