-- ==== Sys2Proof/Machine/Reliability.lean ====
section
/-! DEFINITION. Errors that no instruction meets (R410, R414, R415), Field recovery (R355 to R358, R417), the status mirror
(R412), and unavailability (R409). -/

namespace Sys2Proof.Machine

/-- The fault code of an uncorrectable error. -/
def ueCode : Nat := FaultCode.eccUncorrectable.code

/-- A core's Field has its logic on. -/
def coreOn (s : State) (n : Nat) : Bool := n < 128 && s.isUp && (s.field (fieldOf n)).st != .off

/-- FABRIC_RETRY (R410): the n-th failure of one transfer; the ninth fences the Relay. -/
def execFabricRetry (relay n : Nat) (s : State) : Out :=
  if !(relay < 32 && s.isUp && 1 ≤ n && n ≤ 9) then .next s
  else if n ≤ 8 then .next (s.corrected 7 3 ukRelay relay 0)
  else .next (decideFence (s.plainErr 7 4 ukRelay relay 0 0) ukRelay relay false 0)

/-- CONTROL_UE (R410, R415): a hard fence of the core. -/
def execControlUe (core : Nat) (s : State) : Out :=
  if coreOn s core then .next (decideFence (s.plainErr 8 5 ukCore core ueCode 0) ukCore core true ueCode) else .next s

/-- RELAY_CONTROL_UE (R415): a hard fence of the Relay. -/
def execRelayControlUe (relay : Nat) (s : State) : Out :=
  if relay < 32 && coreOn s (4 * relay) then .next (decideFence (s.plainErr 8 5 ukRelay relay ueCode 0) ukRelay relay true ueCode)
  else .next s

/-- CONTEXT_UE (R329, R331, R410): the dispatches of the context abort with ECC_UNCORRECTABLE, CAUSE 0x02, and it is destroyed. -/
def execContextUe (ctx : Nat) (s : State) : Out :=
  match s.ctx? ctx with
  | none => .next s
  | some c =>
    if !s.serves then .next s
    else
      let s := s.errRec { cls := 9, action := 8, kind := ukModule, fault := ueCode, unit := 0, addr := 0, count := 1, ctx := ctx
                          dispatch := none, tick := s.now }
      let s := { s with disps := s.disps.map (fun x => if x.ctx == ctx then x.abort ueCode causeFault noInstr else x) }
      .next (destroyContext s c).1

/-- FIELD_PLL_LOSS (R44, R410, R415): a hard fence of the Field. -/
def execFieldPllLoss (f : Nat) (s : State) : Out :=
  if f < 8 && s.isUp && (s.field f).st != .off then .next (decideFence (s.plainErr 0x0A 5 ukField f 0 0) ukField f true 0) else .next s

/-- MODULE_FAULT (R43, R410): admission stops on the whole module. -/
def execModuleFault (kind unit : Nat) (s : State) : Out :=
  if rspPowered s then .next (({ s with fence := { s.fence with moduleFault := true } }).plainErr 0x0E 6 kind unit 0 0) else .next s

/-- The Marshal may recover a Field (R417): no dispatch runs on it or is placed there, and no Core Store segment of it is
HELD, or mapped by a saved dispatch, which R403 keeps from F-OFF. -/
def mayRecover (s : State) (f : Nat) : Bool :=
  f < 8 && s.isUp && (s.field f).phase == .service && fieldFenced s f && !fieldBusy s f && !segHold s f
  && (s.field f).recoveries < 3 && !(s.field f).failedTest

/-- A stream of this module that writes into a Field, or reads from it, over the credits of one of its cores (R358). -/
def touchesField (f : Nat) (t : Stream) : Bool :=
  (t.kind == .put || t.kind == .get) && t.tmod.isNone && (match putMgr t with
    | .core n => fieldOf n == f
    | .die _ => false)

/-- What touches a Field that is reset ends with TARGET_RESET and CREDIT_VIOLATION (R358). -/
def resetTargets (s : State) (f : Nat) : State :=
  s.disps.foldl (fun s x => match x.streams.find? (touchesField f) with
    | some t =>
      if x.phase == .ended || x.fate.isSome then s
      else
        let s := s.faultRec { ctx := x.ctx, fault := .creditViolation, access := if t.kind == .put then 2 else 1, requester := 1
                              outcome := 6, addr := 0, dispatch := some x, unit := x.lead, level := 0xFF }
        s.stop x .creditViolation t.instr
    | none => s) s

/-- FIELD_RECOVERY (R355, R357, R358, R417): steps 1 and 2, and the self-test begins. -/
def execFieldRecovery (f : Nat) (s : State) : Out :=
  if !mayRecover s f then .next s
  else
    let s := s.modField f (fun g => { g with phase := .recovery, recoveries := g.recoveries + 1 })
    let s := { s with fence := { s.fence with recoveries := satInc 8 s.fence.recoveries } }
    let cs := rangeFrom (16 * f) 16
    let s := cancelAll s (fun m g => (match m with
      | .core n => cs.contains n
      | .die _ => false) || grantFrom cs g) .fence
    let s := cs.foldl resetCore (resetTargets s f)
    .next (s.modField f (fun g => { g with phase := .test, st := .warm, entering := none, waking := false, idleSince := s.now }))

/-- The fences of a Field and of its units are cleared (R417). -/
def clearFences (s : State) (f : Nat) : State :=
  let n := s.fence
  { s with fence := { n with cores := n.cores.filter (fun x => fieldOf x.unit != f)
                             relays := n.relays.filter (fun x => fieldOfRelay x.unit != f)
                             fields := n.fields.filter (·.unit != f) } }

/-- SELF_TEST_COMPLETE (R417): pass returns the units, fail leaves the Field fenced until the next start-up. -/
def execSelfTestComplete (f : Nat) (pass : Bool) (s : State) : Out :=
  if !(f < 8 && s.isUp && (s.field f).phase == .test) then .next s
  else
    let s := s.modField f (fun g => { g with phase := .service, idleSince := s.now, failedTest := g.failedTest || !pass })
    if pass then .next ((clearFences s f).plainErr 0x10 7 ukField f 0 0)
    else .next ((enterField s f .off).plainErr 0x10 8 ukField f 0 0)

/-- Marks one block of a scratchpad (R74, R410). -/
def markOne (sc : Scratch) (b : Nat) : Scratch := { sc with marked := markBlocks sc.marked (1024 * b) 1 true }

/-- PATROL_SCRUB of a block of a core's storage; `block` names it among the storage of all cores. -/
def scrubCore (s : State) (core block : Nat) (err : MemErr) (mark : State → State) : State :=
  match err with
  | .sramCe => sramCe s core
  | .sramUe => sramUe (mark s) core block
  | _ => s

/-- PATROL_SCRUB (R410, R414): what a scrub finds is corrected, or the block is marked; nothing else is written. -/
def execPatrolScrub (t : ScrubTarget) (err : MemErr) (s : State) : Out :=
  match t with
  | .hbm b =>
    if !(s.isUp && inHbm (1024 * b) 1024) then .next s
    else match err with
      | .hbmCe => .next (hbmCe s (1024 * b))
      | .hbmUe => .next (({ s with mem := { s.mem with hbmMarked := markBlocks s.mem.hbmMarked (1024 * b) 1 true } }).plainErr 4 2
          ukStack (1024 * b / 2 ^ 34) ueCode (1024 * b))
      | _ => .next s
  | .coreStore core b =>
    if !(coreOn s core && b < 2048) then .next s
    else
      let at_ := core * 2048 + b
      .next (scrubCore s core (2 ^ 32 + at_) err (fun s => { s with mem := { s.mem with cs := markOne s.mem.cs at_ } }))
  | .opBuf core buf b =>
    if !(coreOn s core && buf < 4 && b < 64) then .next s
    else
      let at_ := (4 * core + buf) * 64 + b
      .next (scrubCore s core (2 * 2 ^ 32 + at_) err (fun s => { s with mem := { s.mem with ob := markOne s.mem.ob at_ } }))
  | .infield die b =>
    if !(die < 2 && s.isUp && b < 2 ^ 18) then .next s
    else match err with
      | .sramCe => .next (infieldCe s die)
      | .sramUe => .next (infieldUe { s with mem := { s.mem with inf := markOne s.mem.inf (die * 2 ^ 18 + b) } } die)
      | _ => .next s

/-- CRM_STATS of a credit manager (R181). -/
def crmStats (m : Manager) : Nat := m.cancelCount * 2 ^ 48 + m.staleCount * 2 ^ 32 + m.grants.length

/-- The register of R303. -/
def staleReg (s : State) : Nat := s.staleDiscards * 2 ^ 32 + s.epochNow % 2 ^ 32

/-- FENCED_CORES of the status mirror (R412). -/
def fencedMask (s : State) : Nat := ((fencedCores s).map (fun n => 2 ^ n)).sum

/-- The bytes of the status mirror after a rewrite, CLEAR_REQ zero (R412). -/
def mirrorBytes (s : State) (seq : Nat) : Bytes :=
  leBytes 4 0x0960A2A5 ++ leBytes 4 seq ++ leBytes 8 (s.splitCounter 5 0) ++ leBytes 8 (modulePwr s) ++ leBytes 8 (staleReg s)
    ++ leBytes 8 (fenceStatus s) ++ leBytes 16 (fencedMask s) ++ leBytes 8 (s.pwr.noAdmit.getD 0)
    ++ ((List.range 8).map (fun f => leBytes 8 (fieldPwr s f))).flatten
    ++ ((List.range 16).map (fun p => leBytes 8 (portStatus (s.port p)))).flatten
    ++ ((List.range 2).map (fun d => leBytes 8 (crmStats (s.mgr (.die d))))).flatten ++ zeros 240
    ++ ((List.range 128).map (fun n => leBytes 8 (crmStats (s.mgr (.core n))))).flatten
    ++ ((List.range 128).map (fun n => leBytes 4 (s.core n).status.toNat)).flatten ++ zeros 2048

/-- A write to CRM_STATS: a 1 in a counter's bits clears the counter (R4, R181). -/
def clearCrm (m : Manager) (v : Nat) : Manager :=
  { m with cancelCount := if bits v 63 48 == 0 then m.cancelCount else 0, staleCount := if bits v 47 32 == 0 then m.staleCount else 0 }

/-- A write to PORT_STATUS (R4, R254). -/
def clearPort (x : Port) (v : Nat) : Port :=
  { x with retry := if bits v 31 16 == 0 then x.retry else 0, downs := if bits v 15 8 == 0 then x.downs else 0 }

/-- A write to the stale register (R4, R303). -/
def clearStale (s : State) (v : Nat) : State := if bits v 63 32 == 0 then s else { s with staleDiscards := 0 }

/-- A write to HAMMER_STATUS (R4, R387). -/
def clearHammer (h : Hammer) (v : Nat) : Hammer := { h with cfgErr := h.cfgErr && !bit v 33, cmdErr := h.cmdErr && !bit v 32 }

/-- A write of 1 to every bit of a register. -/
def allOnes : Nat := 2 ^ 64 - 1

/-- The host's CLEAR_REQ is carried out (R412). -/
def carryClears (s : State) (v : Nat) : State :=
  let s := if bit v 0 then { s with mgrs := s.mgrs.map (fun m => (m.1, clearCrm m.2 allOnes)) } else s
  let s := if bit v 1 then { s with ports := s.ports.map (fun x => clearPort x allOnes) } else s
  let s := if bit v 2 then clearStale s allOnes else s
  if bit v 3 then { s with pwr := { s.pwr with noAdmit := some 0 } } else s

/-- STATUS_MIRROR_REWRITE (R412): once EVENT_RING is set, over a link that is up. -/
def execStatusMirrorRewrite (s : State) : Out :=
  if !(s.ev.on && s.linkUp && s.serves) then .next s
  else
    let base := compBase + s.ev.base + 64 * 2 ^ s.ev.log2
    let s := { s with pwr := { s.pwr with noAdmit := some (s.pwr.noAdmit.getD 0) } }
    let s := carryClears s (leNat (devPeek s.mem (base + 2048) 8))
    let seq := (s.ev.mirrorSeq + 2) % 2 ^ 32
    let s := s.devWr base (mirrorBytes s seq)
    .next { s with ev := { s.ev with mirrorSeq := seq, mirrorTick := s.now } }

/-- The module is unavailable (R409), outside a start-up. -/
def unavailable (s : State) : Bool :=
  match s.pwr.st with
  | .startFault => true
  | .bootRecovery => true
  | .standby => !s.pwr.thermTripN
  | .off => false
  | .starting _ => false
  | _ => s.fence.moduleFault || (List.range 8).all (fun f => s.fence.fields.any (·.unit == f))

end Sys2Proof.Machine
end

