-- ==== Sys2Proof/Machine/Clock.lean ====
section
/-! DEFINITION. One tick of the always-on clock, which the module makes when no command waits (log entry 2): counters (R45, R67),
and what the module does by itself. -/

namespace Sys2Proof.Machine

/-- Cycles of a Field's arithmetic clock in one tick of 80 ns, in thirds of a ck: 1.75 GHz × (30 − k) / 30 (R397). -/
def ckThirds (step : Nat) : Nat := 14 * (30 - step)

/-- The ck counters of the cores of running Fields advance (R46, R397); a core that a debug halt holds is stopped (R390). -/
def tickCores (s : State) : State :=
  let run := (List.range 128).filter (fun n => s.fieldRuns (fieldOf n) && !s.rsp.halted.contains (.core n))
  run.foldl (fun s n => let c := s.core n; s.setCore n { c with ck3 := c.ck3 + ckThirds (s.field (fieldOf n)).step }) s

/-- The ck of a dispatch advance from its first issue on with its lead core's counter (R46, R229, R289). -/
def tickDispatch (s : State) (x : Dispatch) : Dispatch :=
  if x.phase == .running && x.tStart.isSome && s.fieldRuns (fieldOf x.lead) && !s.rsp.halted.contains (.core x.lead) then
    { x with ck3 := x.ck3 + ckThirds (s.field (fieldOf x.lead)).step }
  else x

/-- The counters of the always-on domain advance (R45, R402, R409); the RSP refills the TAG pools (R383). -/
def tickPower (s : State) : State :=
  let p := s.pwr
  let p : Power := { p with ticks := (p.ticks + 1) % 2 ^ 56
                            noAdmit := if unavailable s then p.noAdmit.map (· + 1) else p.noAdmit }
  let r := if s.rsp.drbgOk then { s.rsp with tagPools := s.rsp.tagPools.map (fun _ => 4096) } else s.rsp
  { s with pwr := p, rsp := r }

/-- The module is not quiet: the time of R402 starts anew. -/
def tickQuiet (s : State) : State := if quiet s then s else { s with pwr := { s.pwr with quietSince := s.now } }

/-- What the module does by itself between commands, each part where its domain has power: merged records whose period has
ended (R410); dispatches to be saved (R305) and collectives (R274); the bounds of discovery (R261) and a departure that has
drained (R264). -/
def housekeep (s : State) : State :=
  let s := if rspPowered s then s.flushMerges else s
  let s := if s.isUp then runColls (saveHaltedAll s) else s
  if serPowered s then settleLeave (portBounds s) else s

/-- One tick (R41, R45); without VAON nothing happens (R398). -/
def tick (s : State) : State :=
  if s.pwr.st == .off then s
  else
    let s := { s with disps := s.disps.map (tickDispatch s) }
    let s := tickQuiet (housekeep (tickPower (tickCores s)))
    { s with relayBusy := relaysSeen s }

end Sys2Proof.Machine
end

