-- ==== Sys2Proof/Machine/Atomics.lean ====
section
/-! DEFINITION. The atomic forms: R188 to R190, R222. -/

namespace Sys2Proof.Machine

/-- The four atomic forms (R188). -/
inductive AtOp where
  | addM | addI | addF | cas
  deriving DecidableEq, Repr

/-- Bytes of an atomic element (R222). -/
def atBytes (f : AForm) : Nat := if f.w64 then 8 else 4

/-- ELEM_TYPE suits a form (R151, R188): MOD32 for at.add.m, FP32 for at.add.f, any 4-byte type for the integer forms
(DEDUCED, log entry 16). -/
def atElemOk (op : AtOp) (d : Bytes) : Bool :=
  match op with
  | .addM => dElem d == 0
  | .addF => dElem d == 1
  | _ => dE d == 4

/-- The address of element j: a 64-bit element takes two elements of the descriptor that follow one another. -/
def atAddr (f : AForm) (d : Bytes) (j : Nat) : Nat := dAddr d (if f.w64 then 2 * j else j)

/-- Alignment and extent of the elements an atomic names (R151, R190). -/
def atElemsOk (f : AForm) (d : Bytes) : Bool :=
  let per := if f.w64 then 2 else 1
  f.cnt * per ≤ dCount d && (!f.w64 || f.cnt ≤ 2048)
  && (List.range f.cnt).all (fun j => atAddr f d j % atBytes f == 0 && (!f.w64 || dAddr d (2 * j + 1) == dAddr d (2 * j) + 4))

/-- The physical addresses of the elements. -/
def atPlaces (s : State) (c : Ctx) (f : AForm) (d : Bytes) : List Nat → Except Stop (List Nat)
  | [] => .ok []
  | j :: t => match xlate s c (atAddr f d j) .atomic with
    | .error e => .error e
    | .ok a => if !inHbm a (atBytes f) then .error (.fault .accessDenied) else match atPlaces s c f d t with
      | .error e => .error e
      | .ok l => .ok (a :: l)

/-- What memory becomes, the fetched value and the status bits for an element m, an operand v and a compare value
(R188). -/
def atResult (op : AtOp) (q e m v cmp : Nat) : Nat × Nat × Nat :=
  match op with
  | .addM => ((m + v) % q, m % q, 0)
  | .addI => ((m + v) % 2 ^ (8 * e), m, 0)
  | .addF => let y := fAdd fbF32 m v; (y.1, m, y.2)
  | .cas => (if m == cmp then v else m, m, 0)

/-- One element after another: the state, the fetched values, the status bits, and whether a block met was marked. -/
def atRun (op : AtOp) (q e : Nat) (vPois : Bool) : List (Nat × Nat × Nat) → State → State × List Nat × Nat × Bool
  | [], s => (s, [], 0, false)
  | (a, v, cmp) :: t, s =>
    let m := leNat (devPeek s.mem a e)
    let mk := anyMarked s.mem.hbmMarked a e
    let (w, old, fl) := atResult op q e m v cmp
    let s := { s with mem := devWrite s.mem s.ways hintNormal a (leBytes e w) (vPois || mk) }
    let (s, olds, fls, mks) := atRun op q e vPois t s
    (s, old :: olds, fl ||| fls, mk || mks)

/-- An atomic instruction (R188 to R190). -/
def atForm (op : AtOp) (s : State) (f : AForm) (x : Dispatch) (c : Ctx) (n : Nat) : Except Halt State := do
  let r := s.core x.lead
  let o ← resolve x c r f.rm true false
  let ring := activeRing x c s
  need (dSpace o.raw == 0 && atElemOk op o.raw && atElemsOk f o.raw) .descInvalid
  need (op != .addM || f.mod < ring.qs.length) .descInvalid
  let at_ ← lift (atPlaces s c f o.raw (List.range f.cnt))
  let e := atBytes f
  let rv := groupRegs f.vs e f.cnt ++ (if op == .cas then groupRegs f.vc e f.cnt else [])
  let wv := if f.fetch then groupRegs f.vf e f.cnt else []
  let u : Use := { Use.none with rv := rv, wv := wv, rs := hrefRegs f.rm
                                 wr := (at_.zip (List.range f.cnt)).map (fun a => ⟨0, a.1, e, 3, some (atAddr f o.raw a.2)⟩) }
  free x u
  if !x.engineFree 5 then .error .busy
  let vs := r.groupRead f.vs e f.cnt
  let cs := if op == .cas then r.groupRead f.vc e f.cnt else vs
  let vPois := r.vPois rv
  let (s, olds, fl, mk) := atRun op (nth ring.qs f.mod 1) e vPois (at_.zip (vs.zip cs)) s
  let r := if f.fetch then (r.groupWrite f.vf e olds (vPois || mk)).raise fl else r
  let fl := s.flight x 5 u [] [] 0 0
  pure ((s.setCore x.lead r).flown x n fl (vPois || mk))

/-- AT_ADD_M (R188). -/
def execAtAddM (d : DRef) (f : AForm) (s : State) : Out := issue s d (.atAddM d f) 3 (atForm .addM s f)
/-- AT_ADD_I (R188). -/
def execAtAddI (d : DRef) (f : AForm) (s : State) : Out := issue s d (.atAddI d f) 3 (atForm .addI s f)
/-- AT_ADD_F (R188). -/
def execAtAddF (d : DRef) (f : AForm) (s : State) : Out := issue s d (.atAddF d f) 3 (atForm .addF s f)
/-- AT_CAS (R188). -/
def execAtCas (d : DRef) (f : AForm) (s : State) : Out := issue s d (.atCas d f) 3 (atForm .cas s f)

end Sys2Proof.Machine
end

