-- ==== Sys2Proof/Machine/Registers.lean ====
section
/-! DEFINITION. Registers as they are read and written (R4, R181, R254, R303, R319 to R321, R387), and what the links hold in REST
(R317, R402). -/

namespace Sys2Proof.Machine

/-- HOST_SIG_STATUS and HWIN_STATUS_w (R320). -/
def refWord (x : RefStatus) : Nat := x.lastFault % 256 * 2 ^ 56 + x.refused % 2 ^ 32

/-- The doorbell of a queue as it reads: the consumer and the producer count (R321). -/
def bellWord (s : State) (q : Nat) : Nat :=
  match s.queue? q with
  | some x => x.consumed % 2 ^ 32 * 2 ^ 32 + x.prod % 2 ^ 32
  | none => 0

/-- What a read of the register aperture returns (R4, R319 to R321): the value of the register, zero for a register that is only
written, for another size, and where there is no register. -/
def apertureRead (s : State) (off size : Nat) : Nat :=
  if !regAccess off size then 0
  else if off == 0 && size == 8 then s.splitCounter 5 0
  else if off == 0x8 && size == 8 then refWord s.hostSig
  else if off == 0x20 && size == 4 then s.ev.prod % 2 ^ 32
  else if off == 0x24 && size == 4 then s.ev.cons % 2 ^ 32
  else if off == 0x28 && size == 4 then s.ev.lost
  else if 0x1000000 ≤ off && off < 0x1040000 then (if off % 8 == 0 && size == 8 then bellWord s ((off - 0x1000000) / 8) else 0)
  else if 0x100000 ≤ off && off < 0x180000 then
    let b := s.mb ((off - 0x100000) / 0x2000)
    let o := (off - 0x100000) % 0x2000
    if o < 4096 then leNat (slice b.req o size)
    else match b.rsp with
      | some r => leNat (slice (rspBytes r) (o - 4096) size)
      | none => 0
  else if size != 8 then 0
  else match regIndex off 0x100 8, regIndex off 0x10008 16 with
    | some w, _ => refWord ((assoc w s.hwinStatus).getD ⟨0, 0⟩)
    | none, some m => mbStatus (s.mb m)
    | none, none => 0

/-- What a register reads as (R4). -/
def readRegister (s : State) (p : RegPlace) (size : Nat) : Nat :=
  match p with
  | .aperture off => apertureRead s off size
  | .manager m => if size == 8 then crmStats (s.mgr m) else 0
  | .port p => if size == 8 && p < 16 then portStatus (s.port p) else 0
  | .stale => if size == 8 then staleReg s else 0
  | .hammer => if size == 8 then hammerStatus s.ham else 0

/-- REGISTER_WRITE (R4, R312, R319): over the Welone Link into the aperture, or by the Marshal and the RSP to the registers that
they alone reach (R387, R412). -/
def execRegisterWrite (p : RegPlace) (size value : Nat) (s : State) : Out :=
  match p with
  | .aperture off => if s.linkUp && marshalUp s then writeRegister off size value (linkHeard s) else .next s
  | .manager m => if marshalUp s && size == 8 then .next (s.setMgr m (clearCrm (s.mgr m) value)) else .next s
  | .port p => if marshalUp s && size == 8 && p < 16 then .next (s.modPort p (fun x => clearPort x value)) else .next s
  | .stale => if marshalUp s && size == 8 then .next (clearStale s value) else .next s
  | .hammer => if rspPowered s && size == 8 then .next { s with ham := clearHammer s.ham value } else .next s

/-- A mailbox doorbell that the link has held is served with the request it was written for; what the host has written to the
slot since stays there (R317, R324). -/
def ringHeld (s : State) (m slot : Nat) : Out :=
  let b := leBytes 4096 slot
  let q := parseReq b
  match runMailbox q.1 m q.2 (s.setMb m { s.mb m with req := b }) with
  | .next t => .next (t.setMb m { t.mb m with req := (s.mb m).req })
  | o => o

/-- A command that a link has held is served (R402). -/
def serveHeld (s : State) (i : Instr) : State :=
  let o : Out := match i with
    | .hostWindowAccess w off a => execHostWindowAccess w off a s
    | .hostWindowCas w off size expect new => execHostWindowCas w off size expect new s
    | .queueDoorbell q v => execQueueDoorbell q v s
    | .registerWrite (.aperture off) _ slot => ringHeld s ((off - 0x10000) / 16) slot
    | .crReq mgr x win want => execCrReq mgr x win want s
    | .put mgr y grant block payload marked => execPut mgr y grant block payload marked s
    | .peerMarkSignal p fromCtx mark amount tag => execPeerMarkSignal p fromCtx mark amount tag s
    | .collSetup c hash parent children below => execCollSetup c hash parent children below s
    | .collChunk c i ws marked => execCollChunk c i ws marked s
    | .collCommit c => execCollCommit c s
    | .collDepart c mask => execCollDepart c mask s
    | .collOrphan c => execCollOrphan c s
    | .collAbandon c => execCollAbandon c s
    | .collRestart c members => execCollRestart c members s
    | .collChunkCredit c n => execCollChunkCredit c n s
    | .collChunkAck c member => execCollChunkAck c member s
    | _ => .next s
  match o with
  | .next t => t
  | _ => s

/-- REST_WAKE_COMPLETE (R402): READY, and what the links have held is served in the order it arrived. -/
def execRestWakeComplete (s : State) : Out :=
  if s.pwr.st != .restWake then .next s
  else .next (s.atLink.foldl serveHeld { s with pwr := { s.pwr with st := .up, quietSince := s.now }, atLink := [] })

end Sys2Proof.Machine
end

