-- ==== Sys2Proof/Machine/Dispatch.lean ====
section
/-! DEFINITION. Which meaning each command has: one arm for each constructor of Instr. -/

namespace Sys2Proof.Machine

def exec (i : Instr) (s : State) : Host.Outcome State Fault Refusal :=
  match i with
  | .nttF d rd ra rb i0 nl => Sys2Proof.Machine.execNttF d rd ra rb i0 nl s
  | .nttI d rd ra rb i0 nl => Sys2Proof.Machine.execNttI d rd ra rb i0 nl s
  | .auto d rd ra i0 nl ev g => Sys2Proof.Machine.execAuto d rd ra i0 nl ev g s
  | .cvtUp d rd ra i0 ns t0 nt => Sys2Proof.Machine.execCvtUp d rd ra i0 ns t0 nt s
  | .cvtDown d rd ra i0 ns t0 nt => Sys2Proof.Machine.execCvtDown d rd ra i0 ns t0 nt s
  | .cvtRescale d rd ra => Sys2Proof.Machine.execCvtRescale d rd ra s
  | .cvtMm d f => Sys2Proof.Machine.execCvtMm d f s
  | .cvtDrain d rdr ta narrow => Sys2Proof.Machine.execCvtDrain d rdr ta narrow s
  | .ksPrep d rd ra j => Sys2Proof.Machine.execKsPrep d rd ra j s
  | .ksIp d rd ra rb rc g => Sys2Proof.Machine.execKsIp d rd ra rb rc g s
  | .ksFin d rd ra rb g rescale => Sys2Proof.Machine.execKsFin d rd ra rb g rescale s
  | .vAdd d f => Sys2Proof.Machine.execVAdd d f s
  | .vSub d f => Sys2Proof.Machine.execVSub d f s
  | .vMul d f => Sys2Proof.Machine.execVMul d f s
  | .vMac d f => Sys2Proof.Machine.execVMac d f s
  | .vRed d f => Sys2Proof.Machine.execVRed d f s
  | .vCvtBf d f => Sys2Proof.Machine.execVCvtBf d f s
  | .vCvtF d f => Sys2Proof.Machine.execVCvtF d f s
  | .vAddObj d rd ra rb => Sys2Proof.Machine.execVAddObj d rd ra rb s
  | .vSubObj d rd ra rb => Sys2Proof.Machine.execVSubObj d rd ra rb s
  | .vMulObj d rd ra rb => Sys2Proof.Machine.execVMulObj d rd ra rb s
  | .xpose d rd ra perm => Sys2Proof.Machine.execXpose d rd ra perm s
  | .sLd d f => Sys2Proof.Machine.execSLd d f s
  | .sSt d f => Sys2Proof.Machine.execSSt d f s
  | .sPut d f => Sys2Proof.Machine.execSPut d f s
  | .sGet d f => Sys2Proof.Machine.execSGet d f s
  | .winOpen d f => Sys2Proof.Machine.execWinOpen d f s
  | .winClose d rm window => Sys2Proof.Machine.execWinClose d rm window s
  | .atAddM d f => Sys2Proof.Machine.execAtAddM d f s
  | .atAddI d f => Sys2Proof.Machine.execAtAddI d f s
  | .atAddF d f => Sys2Proof.Machine.execAtAddF d f s
  | .atCas d f => Sys2Proof.Machine.execAtCas d f s
  | .scLi d sd v long => Sys2Proof.Machine.execScLi d sd v long s
  | .scAdd d sd sa b => Sys2Proof.Machine.execScAdd d sd sa b s
  | .scSub d sd sa b => Sys2Proof.Machine.execScSub d sd sa b s
  | .scMul d sd sa b => Sys2Proof.Machine.execScMul d sd sa b s
  | .scAnd d sd sa b => Sys2Proof.Machine.execScAnd d sd sa b s
  | .scOr d sd sa b => Sys2Proof.Machine.execScOr d sd sa b s
  | .scXor d sd sa b => Sys2Proof.Machine.execScXor d sd sa b s
  | .scShl d sd sa b => Sys2Proof.Machine.execScShl d sd sa b s
  | .scShr d sd sa b => Sys2Proof.Machine.execScShr d sd sa b s
  | .scLd d sd h imm sa => Sys2Proof.Machine.execScLd d sd h imm sa s
  | .scSt d sd h imm sa => Sys2Proof.Machine.execScSt d sd h imm sa s
  | .scHdr d sd h sub => Sys2Proof.Machine.execScHdr d sd h sub s
  | .scArg d sd n => Sys2Proof.Machine.execScArg d sd n s
  | .scCtr d sd sub => Sys2Proof.Machine.execScCtr d sd sub s
  | .scStat d sd clr => Sys2Proof.Machine.execScStat d sd clr s
  | .scLrd d sd ln => Sys2Proof.Machine.execScLrd d sd ln s
  | .scLwr d ln sa => Sys2Proof.Machine.execScLwr d ln sa s
  | .hdrW d rd ra budgetS levelS => Sys2Proof.Machine.execHdrW d rd ra budgetS levelS s
  | .br d c sa b off => Sys2Proof.Machine.execBr d c sa b off s
  | .lap d ln count off => Sys2Proof.Machine.execLap d ln count off s
  | .lapIterationEnd d => Sys2Proof.Machine.execLapIterationEnd d s
  | .call d off => Sys2Proof.Machine.execCall d off s
  | .ret d => Sys2Proof.Machine.execRet d s
  | .ring d gate => Sys2Proof.Machine.execRing d gate s
  | .ringConfigEffect d => Sys2Proof.Machine.execRingConfigEffect d s
  | .markSig d mark amount => Sys2Proof.Machine.execMarkSig d mark amount s
  | .markWait d sd mark f => Sys2Proof.Machine.execMarkWait d sd mark f s
  | .handoffOut d src slot notify answer => Sys2Proof.Machine.execHandoffOut d src slot notify answer s
  | .handoffIn d dst slot timeout => Sys2Proof.Machine.execHandoffIn d dst slot timeout s
  | .handoffTimeout d => Sys2Proof.Machine.execHandoffTimeout d s
  | .stageBegin d => Sys2Proof.Machine.execStageBegin d s
  | .stageEnd d => Sys2Proof.Machine.execStageEnd d s
  | .stageEndRetire d => Sys2Proof.Machine.execStageEndRetire d s
  | .rel d vfirst vcount tmask => Sys2Proof.Machine.execRel d vfirst vcount tmask s
  | .vltModraise d => Sys2Proof.Machine.execVltModraise d s
  | .vltCts d => Sys2Proof.Machine.execVltCts d s
  | .vltEvalmod d => Sys2Proof.Machine.execVltEvalmod d s
  | .vltStc d => Sys2Proof.Machine.execVltStc d s
  | .vltBoot d => Sys2Proof.Machine.execVltBoot d s
  | .vltExtract d => Sys2Proof.Machine.execVltExtract d s
  | .vltPbs d => Sys2Proof.Machine.execVltPbs d s
  | .vltRepack d => Sys2Proof.Machine.execVltRepack d s
  | .vltBootExact d => Sys2Proof.Machine.execVltBootExact d s
  | .instructionRetire d n fail => Sys2Proof.Machine.execInstructionRetire d n fail s
  | .streamUnitCommit d slot err => Sys2Proof.Machine.execStreamUnitCommit d slot err s
  | .pageWalk u ctx va acc => Sys2Proof.Machine.execPageWalk u ctx va acc s
  | .streamCreditRetry d slot => Sys2Proof.Machine.execStreamCreditRetry d slot s
  | .streamEmptyResume d slot => Sys2Proof.Machine.execStreamEmptyResume d slot s
  | .crReq mgr from_ window want => Sys2Proof.Machine.execCrReq mgr from_ window want s
  | .crGrant d slot epoch grant first count st => Sys2Proof.Machine.execCrGrant d slot epoch grant first count st s
  | .put mgr from_ grant block payload marked => Sys2Proof.Machine.execPut mgr from_ grant block payload marked s
  | .crReturn d slot epoch grant count => Sys2Proof.Machine.execCrReturn d slot epoch grant count s
  | .crCancel e grant reason => Sys2Proof.Machine.execCrCancel e grant reason s
  | .creditTimeout mgr grant => Sys2Proof.Machine.execCreditTimeout mgr grant s
  | .queueDoorbell q v => Sys2Proof.Machine.execQueueDoorbell q v s
  | .dispatchRecordRead q => Sys2Proof.Machine.execDispatchRecordRead q s
  | .dispatchPlace d relays => Sys2Proof.Machine.execDispatchPlace d relays s
  | .distanceYieldExpiry d relays => Sys2Proof.Machine.execDistanceYieldExpiry d relays s
  | .dispatchResume d => Sys2Proof.Machine.execDispatchResume d s
  | .migration d relays => Sys2Proof.Machine.execMigration d relays s
  | .placeWindowExpiry die => Sys2Proof.Machine.execPlaceWindowExpiry die s
  | .dispatchCommit d => Sys2Proof.Machine.execDispatchCommit d s
  | .markSignalArrival n => Sys2Proof.Machine.execMarkSignalArrival n s
  | .markWaitTimeout d => Sys2Proof.Machine.execMarkWaitTimeout d s
  | .hostMarkSig data => Sys2Proof.Machine.execHostMarkSig data s
  | .peerMarkSignal port fromCtx mark amount tag => Sys2Proof.Machine.execPeerMarkSignal port fromCtx mark amount tag s
  | .peerMarkAck port tag denied => Sys2Proof.Machine.execPeerMarkAck port tag denied s
  | .ctxCreate m r => Sys2Proof.Machine.execCtxCreate m r s
  | .ctxDestroy m r => Sys2Proof.Machine.execCtxDestroy m r s
  | .ctxInfo m r => Sys2Proof.Machine.execCtxInfo m r s
  | .keysetLoad m r => Sys2Proof.Machine.execKeysetLoad m r s
  | .keysetUnload m r => Sys2Proof.Machine.execKeysetUnload m r s
  | .keyPin m r => Sys2Proof.Machine.execKeyPin m r s
  | .keyCopyComplete die ctx keyset kind galois => Sys2Proof.Machine.execKeyCopyComplete die ctx keyset kind galois s
  | .resWindowExpiry die => Sys2Proof.Machine.execResWindowExpiry die s
  | .progLoad m r => Sys2Proof.Machine.execProgLoad m r s
  | .progUnload m r => Sys2Proof.Machine.execProgUnload m r s
  | .descSet m r => Sys2Proof.Machine.execDescSet m r s
  | .descFree m r => Sys2Proof.Machine.execDescFree m r s
  | .queueCreate m r => Sys2Proof.Machine.execQueueCreate m r s
  | .queueDestroy m r => Sys2Proof.Machine.execQueueDestroy m r s
  | .spadRelease m r => Sys2Proof.Machine.execSpadRelease m r s
  | .hwinSet m r => Sys2Proof.Machine.execHwinSet m r s
  | .markRead m r => Sys2Proof.Machine.execMarkRead m r s
  | .markSet m r => Sys2Proof.Machine.execMarkSet m r s
  | .markSignal m r => Sys2Proof.Machine.execMarkSignal m r s
  | .collCreate m r => Sys2Proof.Machine.execCollCreate m r s
  | .collDestroy m r => Sys2Proof.Machine.execCollDestroy m r s
  | .collStatus m r => Sys2Proof.Machine.execCollStatus m r s
  | .cfgBegin m r => Sys2Proof.Machine.execCfgBegin m r s
  | .cfgSet m r => Sys2Proof.Machine.execCfgSet m r s
  | .cfgCommit m r => Sys2Proof.Machine.execCfgCommit m r s
  | .cfgRollback m r => Sys2Proof.Machine.execCfgRollback m r s
  | .cfgGet m r => Sys2Proof.Machine.execCfgGet m r s
  | .cfgTxnExpiry txn => Sys2Proof.Machine.execCfgTxnExpiry txn s
  | .settingTakeEffect id target => Sys2Proof.Machine.execSettingTakeEffect id target s
  | .resultGet m r => Sys2Proof.Machine.execResultGet m r s
  | .resultRelease m r => Sys2Proof.Machine.execResultRelease m r s
  | .abort m r => Sys2Proof.Machine.execAbort m r s
  | .attestGet m r => Sys2Proof.Machine.execAttestGet m r s
  | .systemJoin m r => Sys2Proof.Machine.execSystemJoin m r s
  | .systemLeave m r => Sys2Proof.Machine.execSystemLeave m r s
  | .leaveDrainExpiry => Sys2Proof.Machine.execLeaveDrainExpiry s
  | .eventRing m r => Sys2Proof.Machine.execEventRing m r s
  | .fwStage m r => Sys2Proof.Machine.execFwStage m r s
  | .fwActivate m r => Sys2Proof.Machine.execFwActivate m r s
  | .fwLiveSwap cls => Sys2Proof.Machine.execFwLiveSwap cls s
  | .registerWrite p size value => Sys2Proof.Machine.execRegisterWrite p size value s
  | .hostWindowAccess w off a => Sys2Proof.Machine.execHostWindowAccess w off a s
  | .hostWindowCas w off size expect new => Sys2Proof.Machine.execHostWindowCas w off size expect new s
  | .companionSnoopInvalidate line data => Sys2Proof.Machine.execCompanionSnoopInvalidate line data s
  | .weloneLinkDown => Sys2Proof.Machine.execWeloneLinkDown s
  | .weloneLinkRetrain ok => Sys2Proof.Machine.execWeloneLinkRetrain ok s
  | .portTrainingAttempt p => Sys2Proof.Machine.execPortTrainingAttempt p s
  | .portTrainingComplete p ok => Sys2Proof.Machine.execPortTrainingComplete p ok s
  | .ident p msg => Sys2Proof.Machine.execIdent p msg s
  | .identTimeout p => Sys2Proof.Machine.execIdentTimeout p s
  | .portAttestComplete p r => Sys2Proof.Machine.execPortAttestComplete p r s
  | .attestTimeout p => Sys2Proof.Machine.execAttestTimeout p s
  | .flitCrcError p => Sys2Proof.Machine.execFlitCrcError p s
  | .laneLossOfLock p => Sys2Proof.Machine.execLaneLossOfLock p s
  | .linkDeadTimer p => Sys2Proof.Machine.execLinkDeadTimer p s
  | .idleFlitSend p => Sys2Proof.Machine.execIdleFlitSend p s
  | .gcmTagFailure p => Sys2Proof.Machine.execGcmTagFailure p s
  | .leave p => Sys2Proof.Machine.execLeave p s
  | .collSetup c hash parent children below => Sys2Proof.Machine.execCollSetup c hash parent children below s
  | .collChunk c index words marked => Sys2Proof.Machine.execCollChunk c index words marked s
  | .collCommit c => Sys2Proof.Machine.execCollCommit c s
  | .collDepart c mask => Sys2Proof.Machine.execCollDepart c mask s
  | .collOrphan c => Sys2Proof.Machine.execCollOrphan c s
  | .collAbandon c => Sys2Proof.Machine.execCollAbandon c s
  | .collRestart c members => Sys2Proof.Machine.execCollRestart c members s
  | .reformTimeout c => Sys2Proof.Machine.execReformTimeout c s
  | .marshalFaultService ctx va => Sys2Proof.Machine.execMarshalFaultService ctx va s
  | .pageFillComplete ctx va ue => Sys2Proof.Machine.execPageFillComplete ctx va ue s
  | .pageRewalk ctx va => Sys2Proof.Machine.execPageRewalk ctx va s
  | .faultWaitExpiry ctx va => Sys2Proof.Machine.execFaultWaitExpiry ctx va s
  | .dmaTransferComplete die engine => Sys2Proof.Machine.execDmaTransferComplete die engine s
  | .vaonRise => Sys2Proof.Machine.execVaonRise s
  | .enRise => Sys2Proof.Machine.execEnRise s
  | .enFall => Sys2Proof.Machine.execEnFall s
  | .startupStepComplete r => Sys2Proof.Machine.execStartupStepComplete r s
  | .inputTrip mv => Sys2Proof.Machine.execInputTrip mv s
  | .vaonLoss => Sys2Proof.Machine.execVaonLoss s
  | .thermalTrip sensor temp => Sys2Proof.Machine.execThermalTrip sensor temp s
  | .refclkLoss => Sys2Proof.Machine.execRefclkLoss s
  | .thermalEmergencyEntry sensor temp => Sys2Proof.Machine.execThermalEmergencyEntry sensor temp s
  | .thermalEmergencyExit => Sys2Proof.Machine.execThermalEmergencyExit s
  | .pacerSample f x => Sys2Proof.Machine.execPacerSample f x s
  | .clockStepChange f => Sys2Proof.Machine.execClockStepChange f s
  | .fieldIdleSleep f => Sys2Proof.Machine.execFieldIdleSleep f s
  | .fieldIdleOff f => Sys2Proof.Machine.execFieldIdleOff f s
  | .fieldWakeComplete f => Sys2Proof.Machine.execFieldWakeComplete f s
  | .restEntry => Sys2Proof.Machine.execRestEntry s
  | .wakeEvent w => Sys2Proof.Machine.execWakeEvent w s
  | .dbgStatus => Sys2Proof.Machine.execDbgStatus s
  | .dbgChallenge => Sys2Proof.Machine.execDbgChallenge s
  | .dbgResponse t => Sys2Proof.Machine.execDbgResponse t s
  | .dbgRead t => Sys2Proof.Machine.execDbgRead t s
  | .dbgWrite t v => Sys2Proof.Machine.execDbgWrite t v s
  | .dbgHalt u => Sys2Proof.Machine.execDbgHalt u s
  | .dbgResume u => Sys2Proof.Machine.execDbgResume u s
  | .dbgLcToken t => Sys2Proof.Machine.execDbgLcToken t s
  | .dbgDebugClose => Sys2Proof.Machine.execDbgDebugClose s
  | .getVersion v => Sys2Proof.Machine.execGetVersion v s
  | .getCapabilities v => Sys2Proof.Machine.execGetCapabilities v s
  | .negotiateAlgorithms v offersOurs => Sys2Proof.Machine.execNegotiateAlgorithms v offersOurs s
  | .getDigests v => Sys2Proof.Machine.execGetDigests v s
  | .getCertificate v slot off len => Sys2Proof.Machine.execGetCertificate v slot off len s
  | .challenge v slot nonce => Sys2Proof.Machine.execChallenge v slot nonce s
  | .getMeasurements v index signed nonce => Sys2Proof.Machine.execGetMeasurements v index signed nonce s
  | .keyExchange v share => Sys2Proof.Machine.execKeyExchange v share s
  | .finish v sess mac => Sys2Proof.Machine.execFinish v sess mac s
  | .heartbeat v sess => Sys2Proof.Machine.execHeartbeat v sess s
  | .keyUpdate v sess => Sys2Proof.Machine.execKeyUpdate v sess s
  | .endSession v sess => Sys2Proof.Machine.execEndSession v sess s
  | .chunkSend v last data => Sys2Proof.Machine.execChunkSend v last data s
  | .chunkGet v n => Sys2Proof.Machine.execChunkGet v n s
  | .respondIfReady v => Sys2Proof.Machine.execRespondIfReady v s
  | .spdmSessionIdleTimeout sess => Sys2Proof.Machine.execSpdmSessionIdleTimeout sess s
  | .kemMix v sess ct => Sys2Proof.Machine.execKemMix v sess ct s
  | .nonceGet v sess => Sys2Proof.Machine.execNonceGet v sess s
  | .lcToken v sess t => Sys2Proof.Machine.execLcToken v sess t s
  | .debugClose v sess => Sys2Proof.Machine.execDebugClose v sess s
  | .weightsKey v sess keyNo key => Sys2Proof.Machine.execWeightsKey v sess keyNo key s
  | .weightsUnwrap v sess keyNo blobId srcVa dstVa records => Sys2Proof.Machine.execWeightsUnwrap v sess keyNo blobId srcVa dstVa records s
  | .drbgReseed => Sys2Proof.Machine.execDrbgReseed s
  | .entropyHealthFail => Sys2Proof.Machine.execEntropyHealthFail s
  | .entropyReseedTimeout => Sys2Proof.Machine.execEntropyReseedTimeout s
  | .hammerMac cmd => Sys2Proof.Machine.execHammerMac cmd s
  | .hslotWrite n v => Sys2Proof.Machine.execHslotWrite n v s
  | .hslotRelease n => Sys2Proof.Machine.execHslotRelease n s
  | .keyLoad n words => Sys2Proof.Machine.execKeyLoad n words s
  | .hammerPrivateKeyOp op agree => Sys2Proof.Machine.execHammerPrivateKeyOp op agree s
  | .idcode => Sys2Proof.Machine.execIdcode s
  | .bypass => Sys2Proof.Machine.execBypass s
  | .samplePreload pins => Sys2Proof.Machine.execSamplePreload pins s
  | .extest pins => Sys2Proof.Machine.execExtest pins s
  | .smbModulePwr => Sys2Proof.Machine.execSmbModulePwr s
  | .smbFenceStatus => Sys2Proof.Machine.execSmbFenceStatus s
  | .smbFieldPwr f => Sys2Proof.Machine.execSmbFieldPwr f s
  | .smbSerial => Sys2Proof.Machine.execSmbSerial s
  | .smbIdcode => Sys2Proof.Machine.execSmbIdcode s
  | .smbLcState => Sys2Proof.Machine.execSmbLcState s
  | .smbWrite code => Sys2Proof.Machine.execSmbWrite code s
  | .fabricRetry relay n => Sys2Proof.Machine.execFabricRetry relay n s
  | .controlUe core => Sys2Proof.Machine.execControlUe core s
  | .contextUe ctx => Sys2Proof.Machine.execContextUe ctx s
  | .fieldPllLoss f => Sys2Proof.Machine.execFieldPllLoss f s
  | .moduleFault kind unit => Sys2Proof.Machine.execModuleFault kind unit s
  | .fieldRecovery f => Sys2Proof.Machine.execFieldRecovery f s
  | .selfTestComplete f pass => Sys2Proof.Machine.execSelfTestComplete f pass s
  | .patrolScrub t err => Sys2Proof.Machine.execPatrolScrub t err s
  | .statusMirrorRewrite => Sys2Proof.Machine.execStatusMirrorRewrite s
  | .admissionMessage p admits => Sys2Proof.Machine.execAdmissionMessage p admits s
  | .collChunkCredit c n => Sys2Proof.Machine.execCollChunkCredit c n s
  | .collChunkAck c member => Sys2Proof.Machine.execCollChunkAck c member s
  | .hbmDoubledRefresh stack temp => Sys2Proof.Machine.execHbmDoubledRefresh stack temp s
  | .sealedFrameZeroed ctx => Sys2Proof.Machine.execSealedFrameZeroed ctx s
  | .relayControlUe relay => Sys2Proof.Machine.execRelayControlUe relay s
  | .restEntryComplete => Sys2Proof.Machine.execRestEntryComplete s
  | .restWakeComplete => Sys2Proof.Machine.execRestWakeComplete s
  | .fieldEntryComplete f => Sys2Proof.Machine.execFieldEntryComplete f s
  | .heartbeatPeriodExpiry sess => Sys2Proof.Machine.execHeartbeatPeriodExpiry sess s

end Sys2Proof.Machine
end

