-- ==== Sys2Proof/WellFormed.lean ====
section
/-! DEFINITION. Which operands a command can carry: the ranges of register numbers, instruction fields (R217 to R225), unit
numbers (R36, R37) and message fields. A command outside them is no command of the module. -/

namespace Sys2Proof

/-- A dispatch: queue below 32,768, sequence number from 1 (R286, R289). -/
def okD (d : DRef) : Bool := d.queue < 32768 && 1 ≤ d.seq && d.seq < 2 ^ 64

/-- A handle reference (R217): a literal index is not 0. -/
def okH : HRef → Bool
  | .lit i => 1 ≤ i && i < 2 ^ 20
  | .reg s => s < 32
  | .null => true

/-- A 64-bit operand (R223). -/
def okS : SVal → Bool
  | .reg s => s < 32
  | .imm _ => true

/-- A Galois element (R219). -/
def okG : GSrc → Bool
  | .imm g => g < 2 ^ 18
  | .reg s => s < 32

/-- An optional number below a bound. -/
def okOpt (n : Option Nat) (bound : Nat) : Bool :=
  match n with
  | some k => k < bound
  | none => true

/-- A signed 32-bit word offset (R225). -/
def okOff (off : Int) : Bool := -(2 ^ 31) ≤ off && off < 2 ^ 31

/-- cvt.mm (R220). -/
def okMm (f : MmForm) : Bool :=
  okH f.rdr && f.ta < 4 && f.tb < 4 && f.mod < 64 && 1 ≤ f.k && f.k < 4097 && 1 ≤ f.g && f.g < 257 && f.xoff < 2 ^ 16 && f.woff < 2 ^ 16

/-- Format V (R218). -/
def okV (f : VForm) : Bool :=
  f.vd < 64 && f.va < 64 && f.vb < 64 && f.vc < 64 && f.mod < 64 && okOpt f.ml 4 && 1 ≤ f.cnt && f.cnt < 4097 && f.subop < 8
  && f.ob3 < 2 ^ 16

/-- The other side of a stream (R221). -/
def okOther : SOther → Bool
  | .vr v => v < 64
  | .rn h => okH h

/-- Format S of a stream (R221). -/
def okStream (f : SForm) : Bool :=
  okH f.rm && okOther f.other && f.count < 2 ^ 24 && f.window < 4096 && f.tcore < 128 && f.tmod < 64 && f.mod < 64

/-- win.open (R221). -/
def okW (f : WForm) : Bool :=
  okH f.rm && f.window < 4096 && f.scoreLo < 128 && f.scoreHi < 128 && f.smod < 64 && f.arriveMark < 16384

/-- Format A (R222). -/
def okA (f : AForm) : Bool :=
  okH f.rm && f.vs < 64 && f.vf < 64 && f.mod < 64 && 1 ≤ f.cnt && f.cnt < 4097 && f.vc < 64

/-- mark.wait (R244). -/
def okWait : WaitForm → Bool
  | .short sa => sa < 32
  | .long t lim => t < 2 ^ 32 && lim < 2 ^ 32

/-- A unit with a translation cache (R346). -/
def okUnit : XUnit → Bool
  | .core n => n < 128
  | .die n => n < 2

/-- A credit manager (R177). -/
def okMgr : Mgr → Bool
  | .core n => n < 128
  | .die n => n < 2

/-- A sender (R178). -/
def okSender (x : Sender) : Bool := okOpt x.module 64 && x.core < 128 && x.ctx < 2 ^ 20 && x.epoch < 2 ^ 32

/-- An end of a grant. -/
def okEnd : GrantEnd → Bool
  | .stream d slot => okD d && slot < 16
  | .manager m x => okMgr m && okSender x

/-- A request slot (R323). -/
def okReq (r : MbReq) : Bool :=
  r.flags < 2 ^ 16 && r.seq < 2 ^ 64 && r.ctx < 2 ^ 32 && r.txn < 2 ^ 32 && r.payload.length < 4033

/-- A host window access of 1 byte at least. -/
def okAccess : HwAccess → Bool
  | .read n => 1 ≤ n
  | .write data => 1 ≤ data.length

/-- A collective at a module (R271). -/
def okCRef (c : CRef) : Bool := c.ctx < 2 ^ 20 && c.id < 2 ^ 32

/-- A collective message (R284). -/
def okC (c : CMsg) : Bool := c.fromMod < 64 && c.fromCtx < 2 ^ 20 && okCRef c.coll && c.round < 2 ^ 32 && c.attempt < 256

/-- A temperature sensor (R404). -/
def okSensor : Sensor → Bool
  | .die n => n < 2
  | .field n => n < 8
  | .hbm n => n < 12

/-- A debug target (R390). -/
def okTarget : DbgTarget → Bool
  | .hbm pa => pa < 2 ^ 48
  | .coreStore c off => c < 128 && off < 2 ^ 21
  | .scalar c n => c < 128 && n < 32
  | .vector c v w => c < 128 && v < 64 && w < 256
  | .loop c l => c < 128 && l < 4
  | .arith c => c < 128
  | .infield d off => d < 2 && off < 2 ^ 28
  | .opBuf c b off => c < 128 && b < 4 && off < 2 ^ 16
  | .rspRam _ => true
  | .keyRam _ => true
  | .hammerWord w => w < 2048
  | .udsFuses => true

/-- A unit that debug may halt (R390). -/
def okDbg : DbgUnit → Bool
  | .core n => n < 128
  | .marshal _ => true

/-- A carrier of SPDM messages (R374). -/
def okVia : SpdmVia → Bool
  | .mailbox m => m < 64
  | .port p => p < 16

/-- What a patrol reads (R414). -/
def okScrub : ScrubTarget → Bool
  | .hbm b => b < 201326592
  | .coreStore c b => c < 128 && b < 2048
  | .infield d b => d < 2 && b < 262144
  | .opBuf c buf b => c < 128 && buf < 4 && b < 64

/-- How a start-up step ended (R367, R401): image classes are 1 to 5. -/
def okStep : StepResult → Bool
  | .ok => true
  | .dma ts => ts.all (fun t => 1 ≤ t.requester && t.die < 2 && t.engine < 4 && t.addr + t.len ≤ 2 ^ 48 && 1 ≤ t.len)
  | .unitFails kind unit => kind < 256 && unit < 2 ^ 16
  | .images a b => (a ++ b).all (fun c => 1 ≤ c && c < 6)

/-- What an attestation found (R259). -/
def okAttest (r : AttestResult) : Bool := r.anchor.length == 48 && r.summary.length == 48

/-- Relays in rising order. -/
def okRelays (rs : List Nat) : Bool := rs.all (· < 32) && (rs.zip rs.tail).all (fun p => p.1 < p.2)

/-- The operands of a command lie in their ranges. -/
def wellFormed (i : Instr) : Bool :=
  match i with
  | .nttF d rd ra rb i0 nl => okD d && okH rd && okH ra && okH rb && i0 < 64 && nl < 128
  | .nttI d rd ra rb i0 nl => okD d && okH rd && okH ra && okH rb && i0 < 64 && nl < 128
  | .auto d rd ra i0 nl _ g => okD d && okH rd && okH ra && i0 < 64 && nl < 128 && okG g
  | .cvtUp d rd ra i0 ns t0 nt => okD d && okH rd && okH ra && i0 < 64 && ns < 128 && t0 < 64 && nt < 128
  | .cvtDown d rd ra i0 ns t0 nt => okD d && okH rd && okH ra && i0 < 64 && ns < 128 && t0 < 64 && nt < 128
  | .cvtRescale d rd ra => okD d && okH rd && okH ra
  | .cvtMm d f => okD d && okMm f
  | .cvtDrain d rdr ta _ => okD d && okH rdr && ta < 4
  | .ksPrep d rd ra j => okD d && okH rd && okH ra && j < 4
  | .ksIp d rd ra rb rc g => okD d && okH rd && okH ra && okH rb && okH rc && okG g
  | .ksFin d rd ra rb g _ => okD d && okH rd && okH ra && okH rb && okG g
  | .vAdd d f => okD d && okV f
  | .vSub d f => okD d && okV f
  | .vMul d f => okD d && okV f
  | .vMac d f => okD d && okV f
  | .vRed d f => okD d && okV f
  | .vCvtBf d f => okD d && okV f
  | .vCvtF d f => okD d && okV f
  | .vAddObj d rd ra rb => okD d && okH rd && okH ra && okH rb
  | .vSubObj d rd ra rb => okD d && okH rd && okH ra && okH rb
  | .vMulObj d rd ra rb => okD d && okH rd && okH ra && okH rb
  | .xpose d rd ra perm => okD d && okH rd && okH ra && perm.length == 5 && perm.all (· < 8)
  | .sLd d f => okD d && okStream f
  | .sSt d f => okD d && okStream f
  | .sPut d f => okD d && okStream f
  | .sGet d f => okD d && okStream f
  | .winOpen d f => okD d && okW f
  | .winClose d rm window => okD d && okH rm && window < 4096
  | .atAddM d f => okD d && okA f
  | .atAddI d f => okD d && okA f
  | .atAddF d f => okD d && okA f
  | .atCas d f => okD d && okA f
  | .scLi d sd _ _ => okD d && sd < 32
  | .scAdd d sd sa b => okD d && sd < 32 && sa < 32 && okS b
  | .scSub d sd sa b => okD d && sd < 32 && sa < 32 && okS b
  | .scMul d sd sa b => okD d && sd < 32 && sa < 32 && okS b
  | .scAnd d sd sa b => okD d && sd < 32 && sa < 32 && okS b
  | .scOr d sd sa b => okD d && sd < 32 && sa < 32 && okS b
  | .scXor d sd sa b => okD d && sd < 32 && sa < 32 && okS b
  | .scShl d sd sa b => okD d && sd < 32 && sa < 32 && okS b
  | .scShr d sd sa b => okD d && sd < 32 && sa < 32 && okS b
  | .scLd d sd h imm sa => okD d && sd < 32 && okH h && imm < 2 ^ 32 && okOpt sa 32
  | .scSt d sd h imm sa => okD d && sd < 32 && okH h && imm < 2 ^ 32 && okOpt sa 32
  | .scHdr d sd h sub => okD d && sd < 32 && okH h && sub < 9
  | .scArg d sd n => okD d && sd < 32 && n < 4
  | .scCtr d sd sub => okD d && sd < 32 && sub < 6
  | .scStat d sd clr => okD d && sd < 32 && okOpt clr 32
  | .scLrd d sd ln => okD d && sd < 32 && ln < 4
  | .scLwr d ln sa => okD d && ln < 4 && sa < 32
  | .hdrW d rd ra budgetS levelS => okD d && okH rd && okH ra && budgetS < 32 && levelS < 32
  | .br d _ sa b off => okD d && sa < 32 && okS b && okOff off
  | .lap d ln count off => okD d && ln < 4 && okS count && okOff off
  | .lapIterationEnd d => okD d
  | .call d off => okD d && okOff off
  | .ret d => okD d
  | .ring d _ => okD d
  | .ringConfigEffect d => okD d
  | .markSig d mark amount => okD d && mark < 2 ^ 14 && okS amount
  | .markWait d sd mark f => okD d && sd < 32 && mark < 2 ^ 14 && okWait f
  | .handoffOut d src slot notify answer => okD d && okH src && slot < 256 && notify < 2 ^ 14 && answer < 2 ^ 14
  | .handoffIn d dst slot timeout => okD d && okH dst && slot < 256 && okS timeout
  | .handoffTimeout d => okD d
  | .stageBegin d => okD d
  | .stageEnd d => okD d
  | .stageEndRetire d => okD d
  | .rel d vfirst vcount tmask => okD d && vfirst < 65 && vfirst + vcount < 65 && tmask < 16
  | .vltModraise d => okD d
  | .vltCts d => okD d
  | .vltEvalmod d => okD d
  | .vltStc d => okD d
  | .vltBoot d => okD d
  | .vltExtract d => okD d
  | .vltPbs d => okD d
  | .vltRepack d => okD d
  | .vltBootExact d => okD d
  | .instructionRetire d _ _ => okD d
  | .streamUnitCommit d slot _ => okD d && slot < 256
  | .pageWalk u ctx va _ => okUnit u && ctx < 2 ^ 20 && va < 2 ^ 48
  | .streamCreditRetry d slot => okD d && slot < 256
  | .streamEmptyResume d slot => okD d && slot < 256
  | .crReq mgr from_ window want => okMgr mgr && okSender from_ && window < 4096 && want < 1025
  | .crGrant d slot epoch grant first count _ => okD d && slot < 256 && epoch < 2 ^ 32 && grant < 2 ^ 32 && first < 262144 && count < 257
  | .put mgr from_ grant block payload _ => okMgr mgr && okSender from_ && grant < 2 ^ 32 && block < 262144 && payload.length == 1024
  | .crReturn d slot epoch grant count => okD d && slot < 256 && epoch < 2 ^ 32 && grant < 2 ^ 32 && 1 ≤ count && count < 1025
  | .crCancel e grant _ => okEnd e && grant < 2 ^ 32
  | .creditTimeout mgr grant => okMgr mgr && grant < 2 ^ 32
  | .queueDoorbell q v => q < 32768 && v < 2 ^ 64
  | .dispatchRecordRead q => q < 32768
  | .dispatchPlace d relays => okD d && okRelays relays
  | .distanceYieldExpiry d relays => okD d && okRelays relays
  | .dispatchResume d => okD d
  | .migration d relays => okD d && okRelays relays
  | .placeWindowExpiry die => die < 2
  | .dispatchCommit d => okD d
  | .markSignalArrival _ => true
  | .markWaitTimeout d => okD d
  | .hostMarkSig data => data.length == 16
  | .peerMarkSignal port fromCtx mark amount tag => port < 16 && fromCtx < 2 ^ 20 && mark < 2 ^ 14 && amount < 2 ^ 32 && tag < 2 ^ 32
  | .peerMarkAck port tag _ => port < 16 && tag < 2 ^ 32
  | .ctxCreate m r => m < 64 && okReq r
  | .ctxDestroy m r => m < 64 && okReq r
  | .ctxInfo m r => m < 64 && okReq r
  | .keysetLoad m r => m < 64 && okReq r
  | .keysetUnload m r => m < 64 && okReq r
  | .keyPin m r => m < 64 && okReq r
  | .keyCopyComplete die ctx keyset kind galois => die < 2 && ctx < 2 ^ 20 && keyset < 2 ^ 32 && kind < 256 && galois < 2 ^ 32
  | .resWindowExpiry die => die < 2
  | .progLoad m r => m < 64 && okReq r
  | .progUnload m r => m < 64 && okReq r
  | .descSet m r => m < 64 && okReq r
  | .descFree m r => m < 64 && okReq r
  | .queueCreate m r => m < 64 && okReq r
  | .queueDestroy m r => m < 64 && okReq r
  | .spadRelease m r => m < 64 && okReq r
  | .hwinSet m r => m < 64 && okReq r
  | .markRead m r => m < 64 && okReq r
  | .markSet m r => m < 64 && okReq r
  | .markSignal m r => m < 64 && okReq r
  | .collCreate m r => m < 64 && okReq r
  | .collDestroy m r => m < 64 && okReq r
  | .collStatus m r => m < 64 && okReq r
  | .cfgBegin m r => m < 64 && okReq r
  | .cfgSet m r => m < 64 && okReq r
  | .cfgCommit m r => m < 64 && okReq r
  | .cfgRollback m r => m < 64 && okReq r
  | .cfgGet m r => m < 64 && okReq r
  | .cfgTxnExpiry txn => txn < 2 ^ 32
  | .settingTakeEffect _ _ => true
  | .resultGet m r => m < 64 && okReq r
  | .resultRelease m r => m < 64 && okReq r
  | .abort m r => m < 64 && okReq r
  | .attestGet m r => m < 64 && okReq r
  | .systemJoin m r => m < 64 && okReq r
  | .systemLeave m r => m < 64 && okReq r
  | .leaveDrainExpiry => true
  | .eventRing m r => m < 64 && okReq r
  | .fwStage m r => m < 64 && okReq r
  | .fwActivate m r => m < 64 && okReq r
  | .fwLiveSwap cls => 3 ≤ cls && cls < 6
  | .registerWrite p size _ => (size == 4 || size == 8 || size == 16) && (match p with
      | .aperture off => off < 2 ^ 26 && off % size == 0
      | .manager (.core n) => n < 128
      | .manager (.die n) => n < 2
      | .port p => p < 16
      | .stale => true
      | .hammer => true)
  | .hostWindowAccess w off a => w < 64 && off < 2 ^ 30 && okAccess a
  | .hostWindowCas w off size _ _ => w < 64 && off < 2 ^ 30 && (size == 1 || size == 4 || size == 8)
  | .companionSnoopInvalidate line data => line < 2 ^ 42 && data.length == 64
  | .weloneLinkDown => true
  | .weloneLinkRetrain _ => true
  | .portTrainingAttempt p => p < 16
  | .portTrainingComplete p _ => p < 16
  | .ident p msg => p < 16 && msg.length == 96
  | .identTimeout p => p < 16
  | .portAttestComplete p r => p < 16 && okAttest r
  | .attestTimeout p => p < 16
  | .flitCrcError p => okOpt p 16
  | .laneLossOfLock p => p < 16
  | .linkDeadTimer p => p < 16
  | .idleFlitSend p => p < 16
  | .gcmTagFailure p => p < 16
  | .leave p => p < 16
  | .collSetup c hash parent children below => okC c && hash.length == 48 && parent < 256 && children < 2 ^ 64 && below < 2 ^ 64
  | .collChunk c _ _ _ => okC c
  | .collCommit c => okC c
  | .collDepart c mask => okC c && mask < 2 ^ 64
  | .collOrphan c => okC c
  | .collAbandon c => okC c
  | .collRestart c members => okC c && members < 2 ^ 64
  | .reformTimeout c => okCRef c
  | .marshalFaultService ctx va => ctx < 2 ^ 20 && va < 2 ^ 48
  | .pageFillComplete ctx va ue => ctx < 2 ^ 20 && va < 2 ^ 48 && ue.all (· < 64)
  | .pageRewalk ctx va => ctx < 2 ^ 20 && va < 2 ^ 48
  | .faultWaitExpiry ctx va => ctx < 2 ^ 20 && va < 2 ^ 48
  | .dmaTransferComplete die engine => die < 2 && engine < 4
  | .vaonRise => true
  | .enRise => true
  | .enFall => true
  | .startupStepComplete r => okStep r
  | .inputTrip _ => true
  | .vaonLoss => true
  | .thermalTrip sensor temp => okSensor sensor && temp < 2 ^ 16
  | .refclkLoss => true
  | .thermalEmergencyEntry sensor temp => okSensor sensor && temp < 2 ^ 16
  | .thermalEmergencyExit => true
  | .pacerSample f _ => f < 8
  | .clockStepChange f => f < 8
  | .fieldIdleSleep f => f < 8
  | .fieldIdleOff f => f < 8
  | .fieldWakeComplete f => f < 8
  | .restEntry => true
  | .wakeEvent _ => true
  | .dbgStatus => true
  | .dbgChallenge => true
  | .dbgResponse _ => true
  | .dbgRead t => okTarget t
  | .dbgWrite t _ => okTarget t
  | .dbgHalt u => okDbg u
  | .dbgResume u => okDbg u
  | .dbgLcToken _ => true
  | .dbgDebugClose => true
  | .getVersion v => okVia v
  | .getCapabilities v => okVia v
  | .negotiateAlgorithms v _ => okVia v
  | .getDigests v => okVia v
  | .getCertificate v slot _ _ => okVia v && slot < 8
  | .challenge v slot nonce => okVia v && slot < 8 && nonce.length == 32
  | .getMeasurements v index _ nonce => okVia v && index < 256 && nonce.length == 32
  | .keyExchange v share => okVia v && share.length == 96
  | .finish v sess mac => okVia v && sess < 2 ^ 32 && mac.length == 48
  | .heartbeat v sess => okVia v && sess < 2 ^ 32
  | .keyUpdate v sess => okVia v && sess < 2 ^ 32
  | .endSession v sess => okVia v && sess < 2 ^ 32
  | .chunkSend v _ data => okVia v && data.length < 4029
  | .chunkGet v _ => okVia v
  | .respondIfReady v => okVia v
  | .spdmSessionIdleTimeout sess => sess < 2 ^ 32
  | .kemMix v sess ct => okVia v && sess < 2 ^ 32 && ct.length == 1568
  | .nonceGet v sess => okVia v && sess < 2 ^ 32
  | .lcToken v sess _ => okVia v && sess < 2 ^ 32
  | .debugClose v sess => okVia v && sess < 2 ^ 32
  | .weightsKey v sess keyNo key => okVia v && sess < 2 ^ 32 && keyNo < 256 && key.length == 32
  | .weightsUnwrap v sess keyNo blobId srcVa dstVa records =>
      okVia v && sess < 2 ^ 32 && keyNo < 256 && blobId < 2 ^ 32 && srcVa < 2 ^ 64 && dstVa < 2 ^ 64 && records < 2 ^ 32
  | .drbgReseed => true
  | .entropyHealthFail => true
  | .entropyReseedTimeout => true
  | .hammerMac _ => true
  | .hslotWrite n _ => n < 128
  | .hslotRelease n => n < 128
  | .keyLoad n words => n < 128 && words.length < 17
  | .hammerPrivateKeyOp _ _ => true
  | .idcode => true
  | .bypass => true
  | .samplePreload _ => true
  | .extest _ => true
  | .smbModulePwr => true
  | .smbFenceStatus => true
  | .smbFieldPwr f => f < 8
  | .smbSerial => true
  | .smbIdcode => true
  | .smbLcState => true
  | .smbWrite code => code < 256
  | .fabricRetry relay n => relay < 32 && 1 ≤ n && n < 10
  | .controlUe core => core < 128
  | .contextUe ctx => ctx < 2 ^ 20
  | .fieldPllLoss f => f < 8
  | .moduleFault kind unit => kind < 256 && unit < 2 ^ 16
  | .fieldRecovery f => f < 8
  | .selfTestComplete f _ => f < 8
  | .patrolScrub t _ => okScrub t
  | .statusMirrorRewrite => true
  | .admissionMessage p _ => p < 16
  | .collChunkCredit c _ => okC c
  | .collChunkAck c member => okC c && member < 64
  | .hbmDoubledRefresh stack temp => stack < 12 && temp < 2 ^ 16
  | .sealedFrameZeroed ctx => ctx < 2 ^ 20
  | .relayControlUe relay => relay < 32
  | .restEntryComplete => true
  | .restWakeComplete => true
  | .fieldEntryComplete f => f < 8
  | .heartbeatPeriodExpiry sess => sess < 2 ^ 32

end Sys2Proof
end

