-- ==== Sys2Proof/Safety.lean ====
section
/-! DEFINITION. The terms in which claims are stated: what it is to stand at an instruction, what an instruction leaves as it was,
and what a safe module keeps. -/

namespace Sys2Proof.Machine

/-- A dispatch stands at an instruction and may issue it (R77, R208, R211): `x` is the dispatch at the index of that instruction,
with what its streams use brought up to date, `c` its context, `n` the instruction's length in words, and nothing the dispatch
has in flight meets what the instruction reads and writes. -/
def Stands (s : State) (d : DRef) (i : Instr) (u : Use) (x : Dispatch) (c : Ctx) (n : Nat) : Prop :=
  (∃ y, s.ready d i = some (y, c, n) ∧ x = refreshUses s { y with pc := y.next } c) ∧ x.blocked u = false

/-- An instruction takes effect: the step answers `t`, after the notes that an issue leaves (the pages of an instruction in
flight translated, R345; what a stop had left taken off the dispatch's list, R208), with T_START and START_MARK where it is the
first (R287, R289). -/
def Issues (i : Instr) (d : DRef) (s t : State) : Prop :=
  ∃ y c n, s.ready d i = some (y, c, n) ∧ exec i s = .next (began (issued y c t) d)

/-- Only the registers of cores and the dispatches differ. -/
def OnlyCoresAndDispatches (s t : State) : Prop := t = { s with cores := t.cores, disps := t.disps }

/-- Only one dispatch differs: it is `x` now. -/
def OnlyDispatch (s t : State) (d : DRef) (x : Dispatch) : Prop :=
  t = { s with disps := t.disps } ∧ t.disp? d = some x ∧ ∀ e, e ≠ d → t.disp? e = s.disp? e

/-- One dispatch is `x` now and one core holds `r`; every other dispatch, every other core and everything else is as it was. -/
def OnlyCoreAndDispatch (s t : State) (core : Nat) (r : CoreRegs) (d : DRef) (x : Dispatch) : Prop :=
  OnlyCoresAndDispatches s t ∧ t.core core = r ∧ (∀ k, k ≠ core → t.core k = s.core k)
    ∧ t.disp? d = some x ∧ ∀ e, e ≠ d → t.disp? e = s.disp? e

/-- The registers after one scalar register takes a value: every other register and every flag as before, but for the poison of
that register and POISON_SEEN (R50, R67, R74, R75). -/
def ScalarWritten (r r' : CoreRegs) (sd : Nat) (v : DWord) (pois : Bool) : Prop :=
  r'.sget sd = v ∧ (∀ k, k ≠ sd → r'.sget k = r.sget k)
    ∧ (r'.poisS.contains sd = pois) ∧ (∀ k, k ≠ sd → r'.poisS.contains k = r.poisS.contains k)
    ∧ r'.status = (if pois then r.status ||| 0x10 else r.status)
    ∧ r'.v = r.v ∧ r'.l = r.l ∧ r'.a = r.a ∧ r'.useV = r.useV ∧ r'.useA = r.useA ∧ r'.poisV = r.poisV ∧ r'.poisA = r.poisA
    ∧ r'.gate = r.gate ∧ r'.ck3 = r.ck3 ∧ r'.lastCtx = r.lastCtx

/-- The registers after one loop register takes a value. -/
def LoopWritten (r r' : CoreRegs) (ln v : Nat) : Prop :=
  r'.lget ln = v ∧ (∀ k, k ≠ ln → r'.lget k = r.lget k) ∧ r' = { r with l := r'.l }

/-- The command of a scalar operation of opcode 0x41 (R229). -/
def ScOp.instr (op : ScOp) (d : DRef) (sd sa : Nat) (b : SVal) : Instr :=
  match op with
  | .add => .scAdd d sd sa b
  | .sub => .scSub d sd sa b
  | .mul => .scMul d sd sa b
  | .and => .scAnd d sd sa b
  | .or => .scOr d sd sa b
  | .xor => .scXor d sd sa b
  | .shl => .scShl d sd sa b
  | .shr => .scShr d sd sa b

/-- The result R229 gives a scalar operation, as a number: sums, differences and products modulo 2^64, shifts by bits [5:0]. -/
def ScOp.result (op : ScOp) (a b : Nat) : Nat :=
  match op with
  | .add => (a + b) % 2 ^ 64
  | .sub => (a + 2 ^ 64 - b) % 2 ^ 64
  | .mul => a * b % 2 ^ 64
  | .and => a &&& b
  | .or => a ||| b
  | .xor => a ^^^ b
  | .shl => a * 2 ^ (b % 64) % 2 ^ 64
  | .shr => a / 2 ^ (b % 64)

/-- The command of an element-wise vector operation (R58, R218). -/
def VOp.instr (op : VOp) (d : DRef) (f : VForm) : Instr :=
  match op with
  | .add => .vAdd d f
  | .sub => .vSub d f
  | .mul => .vMul d f
  | .mac => .vMac d f

/-- Only vector registers of a list, their flags and ARITH_STATUS differ. -/
def OnlyVectors (r r' : CoreRegs) (vs : List Nat) : Prop :=
  r' = { r with v := r'.v, useV := r'.useV, poisV := r'.poisV, status := r'.status }
    ∧ ∀ k, k ∉ vs → r'.vStored k = r.vStored k ∧ r'.useV.contains k = r.useV.contains k ∧ r'.poisV.contains k = r.poisV.contains k

/-- A dispatch after an instruction has gone to an engine (R77): the first poisoning fault kept where a source is poisoned (R73),
AVIS_PC past the instruction, and the instruction last in flight. -/
def launched (x : Dispatch) (n : Nat) (f : InFlight) (pois : Bool) : Dispatch :=
  (if pois then x.poison .eccUncorrectable x.pc else x).launch n f

/-- The command of a sum, difference or product of objects (R226). -/
def OOp.instr (op : OOp) (d : DRef) (rd ra rb : HRef) : Instr :=
  match op with
  | .add => .vAddObj d rd ra rb
  | .sub => .vSubObj d rd ra rb
  | .mul => .vMulObj d rd ra rb

/-- The command of an atomic (R188). -/
def AtOp.instr (op : AtOp) (d : DRef) (f : AForm) : Instr :=
  match op with
  | .addM => .atAddM d f
  | .addI => .atAddI d f
  | .addF => .atAddF d f
  | .cas => .atCas d f

/-- A Mark with an amount added (R243): VALUE stops at 0xFFFF_FFFF and SAT is set when the sum is above it. -/
def raised (m : Mark) (amount : Nat) : Mark :=
  { m with value := min (m.value + amount) 0xFFFFFFFF, sat := m.sat || decide (0xFFFFFFFF < m.value + amount) }

/-- A Mark has been raised and its waiters have seen it (R243 to R245): unless a hand-off waits, the Mark alone has its new value;
with no dispatch waiting nothing else differs; and the one dispatch that waits for the Mark, once its threshold is reached, has 1
in its register and waits no more. -/
def MarkRaised (s t : State) (k amount : Nat) : Prop :=
  t = addMark s k amount
    ∧ ((∀ y ∈ s.disps, ∀ a b c e, y.wait ≠ some (.handoff a b c e)) →
        t.mark k = raised (s.mark k) amount ∧ ∀ j, j ≠ k → t.mark j = s.mark j)
    ∧ ((∀ y ∈ s.disps, y.wait = none) → t = { s with marks := t.marks })
    ∧ ∀ (d : DRef) (y : Dispatch) (sd th start : Nat) (left : Option Nat), s.disp? d = some y →
        y.wait = some (.mark sd k th start left) → y.phase = .running → y.fate = none → (∀ z ∈ s.disps, z.id ≠ d → z.wait = none) →
        th ≤ (raised (s.mark k) amount).value →
        OnlyCoreAndDispatch { s with marks := t.marks } t y.lead ((s.core y.lead).sput sd 1 false) d { y with wait := none }

/-- A credit message of the module's own fabric arrives (R42, R178): it is the oldest that passes a test, the messages before it
on the same way are ones that no one waits for, and those are discarded and counted (R303). -/
def Arrives (s : State) (p : Msg → Prop) (m : Msg) (u : State) : Prop :=
  ∃ a b, s.net = a ++ m :: b ∧ p m ∧ (∀ y ∈ a, ¬ p y) ∧ (∀ y ∈ a, y.path = m.path → awaited s y = false)
    ∧ u = { s with net := a.filter (fun y => !(y.path == m.path)) ++ b
                   staleDiscards := min (s.staleDiscards + (a.filter (fun y => y.path == m.path)).length) 0xFFFFFFFF }

/-- A command from another module finds ports that lead there, or one of this module is the message that arrives (R42, R265). -/
def Reaches (s : State) (far : Option Nat) (p : Msg → Prop) (u : State) : Prop :=
  match far with
  | none => ∃ m, Arrives s p m u
  | some k => lanes s k ≠ [] ∧ u = s.heardFrom k

/-- A credit message leaves for a stream of this module or of another (R42, R178). -/
def told (s : State) (far : Bool) (m : Msg) : State :=
  if far then { s with sent := m :: s.sent } else { s with net := s.net ++ [m] }

/-- Only one credit manager differs: it is `x` now. -/
def OnlyManager (s t : State) (m : Mgr) (x : Manager) : Prop :=
  t = { s with mgrs := t.mgrs } ∧ t.mgr m = x ∧ ∀ k, k ≠ m → t.mgr k = s.mgr k

/-- A grant has ended at its manager (R180): no grant bears its number, the cancel is counted, and the blocks of its window that it
still lent are EMPTY while every other block is as it was. -/
def GrantEnded (m x : Manager) (g : Grant) : Prop :=
  x = { m with windows := x.windows, grants := m.grants.filter (fun y => y.num != g.num), cancelCount := min (m.cancelCount + 1) 65535 }
    ∧ ∀ w, m.windows.find? (fun w => w.num == g.window) = some w →
        ∃ w', x.windows.find? (fun w => w.num == g.window) = some w' ∧ w' = { w with blocks := w'.blocks }
          ∧ (∀ b, g.first + g.returned ≤ b → b < g.first + g.count → b < w.blocks.length → w'.blocks[b]? = some .empty)
          ∧ ∀ b, (b < g.first + g.returned ∨ g.first + g.count ≤ b) → w'.blocks[b]? = w.blocks[b]?

/-- The stream in a slot of a dispatch that a message for a local or a remote manager concerns, and the state once it has arrived:
from another module it has passed on the stream's port. -/
def ReachesStream (s : State) (t : Stream) (p : Msg → Prop) (u : State) : Prop :=
  (t.tmod = none ∧ ∃ m, Arrives s p m u)
    ∨ (t.tmod ≠ none ∧ u = match t.port with
        | some k => s.heardOn k
        | none => s)

/-- The bytes of words of 4 bytes each, limb after limb of each component (R23). -/
def bodyOf (comps limbs : Nat) (f : Nat → Nat → List Nat) : Bytes :=
  ((List.range comps).map (fun k => ((List.range limbs).map (fun t => bytesOf 4 (f k t))).flatten)).flatten

/-- Everything that a limb-wise region form asks of its operands: for an NTT exactly NL limbs each, 1 KiB aligned (R80), for an
automorphism NL limbs at least (R93); no overlap, every index in the configuration, no open receive window. -/
def RegionOperands (s : State) (x : Dispatch) (c : Ctx) (rd ra stage : HRef) (i0 nl : Nat) (psi : Bool)
    (sa da ga : List Span) : Prop :=
  ∃ src dst, resolve x c (s.core x.lead) ra false false = .ok src ∧ resolve x c (s.core x.lead) rd true false = .ok dst
    ∧ (if psi then dCount src.raw = nl * 2 ^ (activeRing x c s).logN ∧ dCount dst.raw = nl * 2 ^ (activeRing x c s).logN
          ∧ dBase src.raw % 1024 = 0 ∧ dBase dst.raw % 1024 = 0
        else nl * 2 ^ (activeRing x c s).logN ≤ dCount src.raw ∧ nl * 2 ^ (activeRing x c s).logN ≤ dCount dst.raw)
    ∧ regionSpans s x c .read src.raw (nl * 2 ^ (activeRing x c s).logN * 4) = .ok sa
    ∧ regionSpans s x c .write dst.raw (nl * 2 ^ (activeRing x c s).logN * 4) = .ok da
    ∧ stagingSpans s x c (s.core x.lead) stage (2 ^ (activeRing x c s).logN) = .ok ga
    ∧ spansMeet sa da = false ∧ spansMeet sa ga = false ∧ spansMeet da ga = false
    ∧ (∀ k, k < nl → if psi then transformIdx (activeRing x c s) (s.core x.lead).gate (i0 + k) = true
        else i0 + k < (activeRing x c s).qs.length)
    ∧ inWindow s (da ++ ga) = false

/-- Everything that a limb-wise object form asks of its destination and staging region (R19, R80, R93, R121). -/
def ObjectOperands (s : State) (x : Dispatch) (c : Ctx) (rd stage : HRef) (o : Obj) (repr : Nat) (f : Funded) (dd : ObjDst)
    (h : Hdr) (ga : List Span) : Prop :=
  ∃ d, resolve x c (s.core x.lead) rd true true = .ok d ∧ o.h.spent = false
    ∧ fundKeep x c (valOf s c.param o) = .ok f
    ∧ h = { f.a.h with repr := repr, flags := hdrFlags false false f.spent,
                       budget := if o.h.kind == kindRlwe then clampBudget f.budget else o.h.budget }
    ∧ objDst s x c d h = .ok dd ∧ stagingSpans s x c (s.core x.lead) stage (2 ^ h.logN) = .ok ga
    ∧ spansMeet o.body dd.body = false ∧ spansMeet o.body ga = false ∧ spansMeet dd.body ga = false
    ∧ inWindow s (dd.body ++ dd.hdrAt ++ ga) = false

/-- What a limb-wise region form leaves: the destination's limbs, the staging region, the caches as the read leaves them, the
instruction in flight. -/
def regionDone (s : State) (x : Dispatch) (c : Ctx) (n engine : Nat) (u : Use) (sa da ga : List Span) (i0 nl : Nat)
    (g : Nat → List Nat → List Nat) : State :=
  let nn := 2 ^ (activeRing x c s).logN
  let out := ((List.range nl).map (fun k => bytesOf 4 (g (i0 + k) (regionLimb s sa nn k)))).flatten
  (writeStaging ((touchReads s sa).writeSpans da out (spansMarked s.mem sa)) ga nn).flown x n
    (s.flight x engine u [da] [] (nn * 4) nl) (spansMarked s.mem sa)

/-- The state in which a mailbox command is carried out: the request in its slot, BUSY set (R324); the module wakes from REST
unless the command is one that lets it rest (R402). -/
def taken (s : State) (op m : Nat) (r : MbReq) : State :=
  let t := s.setMb m { s.mb m with req := slotBytes (s.mb m).req op r, busy := true, done := false, opcode := op, seq := r.seq
                                   irq := bit r.flags 0 }
  if opQuiet op then t else wakeRest t

/-- A mailbox command is carried out: the mailbox is there and free, the Marshal serves it, no host-window write waits at the
link before it, and none of the general refusals applies (R317, R324, R326). -/
def Carried (s : State) (op m : Nat) (r : MbReq) : Prop :=
  m < 64 ∧ s.linkUp = true ∧ marshalUp s = true ∧ bellWaits s = false ∧ (s.mb m).busy = false ∧ generalRefusal s op m r = none

/-- The row of a mailbox OPCODE (R326). -/
def mailboxRow (op m : Nat) (r : MbReq) : Option Instr :=
  assoc op ([(0x01, .ctxCreate m r), (0x02, .ctxDestroy m r), (0x03, .ctxInfo m r), (0x10, .keysetLoad m r),
      (0x11, .keysetUnload m r), (0x12, .keyPin m r), (0x18, .progLoad m r), (0x19, .progUnload m r), (0x1C, .descSet m r),
      (0x1D, .descFree m r), (0x20, .queueCreate m r), (0x21, .queueDestroy m r), (0x24, .spadRelease m r)] ++
    [(0x28, .hwinSet m r), (0x30, .markRead m r), (0x31, .markSet m r), (0x32, .markSignal m r), (0x38, .collCreate m r),
      (0x39, .collDestroy m r), (0x3A, .collStatus m r), (0x40, .cfgBegin m r), (0x41, .cfgSet m r), (0x42, .cfgCommit m r),
      (0x43, .cfgRollback m r), (0x44, .cfgGet m r), (0x48, .resultGet m r), (0x49, .resultRelease m r)] ++
    [(0x4A, .abort m r), (0x50, .attestGet m r), (0x58, .systemJoin m r), (0x59, .systemLeave m r), (0x5A, .eventRing m r),
      (0x60, .fwStage m r), (0x61, .fwActivate m r)])

/-- A chunk or control message of a collective is taken by the unit (R266, R274, R284): bound, from a peer that is a neighbour of
the kind named, and in time. -/
def CollTaken (s : State) (c : CMsg) (k : Coll) (fromParent : Bool) (inTime : CMsg → Coll → Bool) : Prop :=
  collFor s c = some k ∧ lives k = true
    ∧ (if fromParent then cParent k.record = c.fromMod else (maskMods (cChildren k.record)).contains c.fromMod = true)
    ∧ inTime c k = true

/-- A collective message has left for a module where it is a peer (R265): on the lowest port that leads to it, under the session
key of that port (R257). -/
def SentToPeer (s t : State) (m : Nat) (msg : Msg) : Prop :=
  ∀ p l, lanes s m = p :: l → Msg.guarded p (portKey s p) msg ∈ t.sent

/-- The requesters of a page go on (R349): no wait is left for it, and a dispatch that waited for it waits no more. -/
def PageResumed (s t : State) (ctx va : Nat) (w : PageWait) : Prop :=
  pageWait? t ctx va = none
    ∧ ∀ (d : DRef) (x : Dispatch) (i : Nat), s.disp? d = some x → x.phase = .running → x.ctx = ctx →
        x.wait = some (.page i w.page) → (t.disp? d).map (·.wait) = some none

/-- The requesters of a page end with a fault (R203, R349): no wait is left for it, and a dispatch that waited for it has that
outcome. -/
def PageEnded (s t : State) (ctx va : Nat) (w : PageWait) (f : FaultCode) : Prop :=
  pageWait? t ctx va = none
    ∧ ∀ (d : DRef) (x : Dispatch) (i : Nat), s.disp? d = some x → x.phase = .running → x.fate = none → x.fin = false →
        x.ctx = ctx → x.wait = some (.page i w.page) → (t.disp? d).map (·.fate) = some (some ⟨2, f.code, 2, i⟩)

/-- The fuses of a module have only moved forward (R359 to R362): nothing blown is unblown, no version or mask falls back. -/
def FusesForward (a b : Fuses) : Prop :=
  (a.prov.1 = true → b.prov.1 = true) ∧ (a.prov.2 = true → b.prov.2 = true) ∧ (a.sec.1 = true → b.sec.1 = true)
    ∧ (a.sec.2 = true → b.sec.2 = true) ∧ (a.ret.1 = true → b.ret.1 = true) ∧ (a.ret.2 = true → b.ret.2 = true)
    ∧ (a.udsLock = true → b.udsLock = true ∧ b.uds = a.uds) ∧ (a.debugDisable = true → b.debugDisable = true)
    ∧ a.minSvn ≤ b.minSvn ∧ b.imgRevoke = a.imgRevoke ∧ b.tokenRevoke = a.tokenRevoke

/-- A prime of the size R7 gives, as far as the arithmetic of words needs it: odd, between 2^23 and 2^31. -/
def WordPrime (q : Nat) : Prop := 2 ^ 23 < q ∧ q < 2 ^ 31 ∧ q % 2 = 1

end Sys2Proof.Machine
end

