-- ==== Sys2Proof/Certificates/Slice0/Obligations.lean ====
section
/-! DEFINITION. The statements for the provers. -/

open Sys2Proof Sys2Proof.Machine

/-- A step runs the command at the front of the queue on the rest of the state -/
def Obligations.StepRunsTheCommandInFront : Prop :=
  ∀ (c : Instr) (rest : List Instr) (s : State),
    step { s with pending := c :: rest } = exec c { s with pending := rest }

/-- With an empty queue a step is one tick of the always-on clock, and nothing at all without VAON (the model's choice, log entry 2) -/
def Obligations.IdleStepIsOneTick : Prop :=
  ∀ s : State, s.pending = [] →
    step s = .next (tick s) ∧ (s.pwr.st = .off → step s = .next s)

/-- The state after reset: STANDBY, power registers, Fields, measurement registers and Marks at the values the rules give -/
def Obligations.ResetIsStandby : Prop :=
  State.reset.pwr.st = .standby ∧ State.reset.pwr.startFault = false ∧ State.reset.pwr.emerg = false
    ∧ State.reset.fence.moduleFault = false ∧ State.reset.pwr.tripCause = 0 ∧ State.reset.pwr.inputMv = 0
    ∧ State.reset.pwr.inputW = 0 ∧ State.reset.fence.recoveries = 0
    ∧ (∀ f, f < 8 → (State.reset.field f).st = .off ∧ (State.reset.field f).step = 0 ∧ (State.reset.field f).powerW = 0
        ∧ (State.reset.field f).tj = 0 ∧ (State.reset.field f).util = 0 ∧ (State.reset.field f).ce = 0)
    ∧ (∀ i, i < 32 → State.reset.rsp.mr[i]? = some (zeros 48))
    ∧ (∀ k, State.reset.mark k = Mark.free) ∧ State.reset.pending = []
    ∧ MemState.ok State.reset.mem = true ∧ State.reset.rsp.restartDue = false

/-- Every command answers a next state in every state, except an input voltage beyond the absolute maximum ratings -/
def Obligations.OnlyRatingsStopTheModel : Prop :=
  (∀ (c : Instr) (s : State), (∀ mv, c = .inputTrip mv → -500 ≤ mv ∧ mv ≤ 60000) → ∃ t, exec c s = .next t)
    ∧ ∀ (mv : Int) (s : State), (mv < -500 ∨ 60000 < mv) → exec (.inputTrip mv) s = .fault .ratingsExceeded

/-- sc.add, sc.sub, sc.mul, sc.and, sc.or, sc.xor, sc.shl, sc.shr and sc.li complete and write their destination only -/
def Obligations.ScalarArithmeticWritesItsResult : Prop :=
  (∀ (op : ScOp) (s : State) (d : DRef) (sd sa : Nat) (b : SVal) (x : Dispatch) (c : Ctx) (n : Nat),
    Stands s d (op.instr d sd sa b) { Use.none with rs := sa :: svalRegs b, ws := [sd] } x c n →
    ∃ t r v, Issues (op.instr d sd sa b) d s t ∧ OnlyCoreAndDispatch s t x.lead r d { x with pc := x.pc + n }
      ∧ ScalarWritten (s.core x.lead) r sd v
          ((s.core x.lead).poisS.contains sa || (s.core x.lead).svalPois b)
      ∧ v.toNat = op.result ((s.core x.lead).sget sa).toNat ((s.core x.lead).sval b).toNat)
  ∧ (∀ (s : State) (d : DRef) (sd : Nat) (v : DWord) (long : Bool) (x : Dispatch) (c : Ctx) (n : Nat),
    Stands s d (.scLi d sd v long) { Use.none with ws := [sd] } x c n →
    ∃ t r, Issues (.scLi d sd v long) d s t ∧ OnlyCoreAndDispatch s t x.lead r d { x with pc := x.pc + n }
      ∧ ScalarWritten (s.core x.lead) r sd v false)

/-- sc.ld reads 8 Core Store bytes into SD; sc.st writes SD to 8 Core Store bytes and changes no other byte -/
def Obligations.ScalarLoadStoreMovesEightBytes : Prop :=
  (∀ (s : State) (d : DRef) (sd : Nat) (h : HRef) (imm : Nat) (sa : Option Nat) (x : Dispatch) (c : Ctx) (n : Nat)
      (o : Opnd) (a k : Nat),
    Stands s d (.scLd d sd h imm sa) { Use.none with rd := [⟨1, a, 8, k, none⟩], rs := hrefRegs h ++ sa.toList, ws := [sd] } x c n →
    resolve x c (s.core x.lead) h false false = .ok o →
    scAddress s x c (s.core x.lead) .read o imm sa = .ok [⟨1, a, 8, k, none⟩] →
    ∃ t r y, Issues (.scLd d sd h imm sa) d s t ∧ OnlyCoreAndDispatch s t x.lead r d y
      ∧ y = (if scratchMarked s.mem.cs a 8 then x.poison .eccUncorrectable x.pc else x).adv n
      ∧ ScalarWritten (s.core x.lead) r sd (BitVec.ofNat 64 (leNat (scratchRead s.mem.cs a 8))) (scratchMarked s.mem.cs a 8))
  ∧ (∀ (s : State) (d : DRef) (sd : Nat) (h : HRef) (imm : Nat) (sa : Option Nat) (x : Dispatch) (c : Ctx) (n : Nat)
      (o : Opnd) (a k : Nat),
    Stands s d (.scSt d sd h imm sa) { Use.none with wr := [⟨1, a, 8, k, none⟩], rs := sd :: hrefRegs h ++ sa.toList } x c n →
    resolve x c (s.core x.lead) h true false = .ok o →
    scAddress s x c (s.core x.lead) .write o imm sa = .ok [⟨1, a, 8, k, none⟩] →
    inWindow s [⟨1, a, 8, k, none⟩] = false →
    ∃ t, Issues (.scSt d sd h imm sa) d s t
      ∧ t = { s with mem := { s.mem with cs := t.mem.cs }, cores := t.cores, disps := t.disps }
      ∧ scratchRead t.mem.cs a 8 = leBytes 8 ((s.core x.lead).sget sd).toNat
      ∧ (∀ b, (b < a ∨ a + 8 ≤ b) → scratchRead t.mem.cs b 1 = scratchRead s.mem.cs b 1)
      ∧ t.core x.lead = (if (s.core x.lead).poisS.contains sd then (s.core x.lead).raise stPoisonSeen else s.core x.lead)
      ∧ (∀ k, k ≠ x.lead → t.core k = s.core k)
      ∧ t.disp? d = some (x.adv n) ∧ ∀ e, e ≠ d → t.disp? e = s.disp? e)

/-- sc.hdr, sc.arg, sc.ctr, sc.stat, sc.lrd and sc.lwr complete with the value each rule gives -/
def Obligations.ScalarReadsOfTheMachine : Prop :=
  (∀ (s : State) (d : DRef) (sd : Nat) (h : HRef) (sub : Nat) (x : Dispatch) (c : Ctx) (n : Nat) (o : Obj),
    Stands s d (.scHdr d sd h sub) { Use.none with rd := o.hdrAt, rs := hrefRegs h, ws := [sd] } x c n →
    hdrSrc s x c (s.core x.lead) h = .ok o →
    ∃ t r, Issues (.scHdr d sd h sub) d s t
      ∧ OnlyCoreAndDispatch (touchReads s o.hdrAt) t x.lead r d ((if o.poisoned then x.poison .eccUncorrectable x.pc else x).adv n)
      ∧ ScalarWritten (s.core x.lead) r sd (BitVec.ofNat 64 (hdrField o.h sub)) o.poisoned)
  ∧ (∀ (s : State) (d : DRef) (sd k : Nat) (x : Dispatch) (c : Ctx) (n : Nat),
    Stands s d (.scArg d sd k) { Use.none with ws := [sd] } x c n →
    ∃ t r, Issues (.scArg d sd k) d s t ∧ OnlyCoreAndDispatch s t x.lead r d (x.adv n)
      ∧ ScalarWritten (s.core x.lead) r sd (BitVec.ofNat 64 (field x.record (24 + 8 * k) 8)) false)
  ∧ (∀ (s : State) (d : DRef) (sd sub : Nat) (x : Dispatch) (c : Ctx) (n : Nat),
    Stands s d (.scCtr d sd sub) { Use.none with ws := [sd] } x c n →
    ∃ t r v, Issues (.scCtr d sd sub) d s t ∧ OnlyCoreAndDispatch s t x.lead r d (x.adv n)
      ∧ ScalarWritten (s.core x.lead) r sd (BitVec.ofNat 64 v) false
      ∧ (sub = 0 → v = s.splitCounter 1 x.lead) ∧ (sub = 1 → v = s.splitCounter 2 (x.lead / 4))
      ∧ (sub = 2 → v = s.splitCounter 3 (x.lead / 16)) ∧ (sub = 3 → v = s.splitCounter 4 (x.lead / 64))
      ∧ (sub = 4 → v = s.splitCounter 5 0) ∧ (5 ≤ sub → v = x.ck3 / 3))
  ∧ (∀ (s : State) (d : DRef) (sd : Nat) (clr : Option Nat) (x : Dispatch) (c : Ctx) (n : Nat),
    Stands s d (.scStat d sd clr) { Use.none with ws := [sd] } x c n → x.inflight = [] →
    ∃ t r u, Issues (.scStat d sd clr) d s t ∧ OnlyCoreAndDispatch s t x.lead r d (x.adv n)
      ∧ u = { s.core x.lead with status := u.status }
      ∧ (clr = none → u.status = (s.core x.lead).status)
      ∧ (∀ m, clr = some m → u.status = (s.core x.lead).status &&& ~~~ BitVec.ofNat 32 (m % 32))
      ∧ ScalarWritten u r sd (BitVec.ofNat 64 (s.core x.lead).status.toNat) false)
  ∧ (∀ (s : State) (d : DRef) (sd ln : Nat) (x : Dispatch) (c : Ctx) (n : Nat),
    Stands s d (.scLrd d sd ln) { Use.none with ws := [sd] } x c n →
    ∃ t r, Issues (.scLrd d sd ln) d s t ∧ OnlyCoreAndDispatch s t x.lead r d (x.adv n)
      ∧ ScalarWritten (s.core x.lead) r sd (BitVec.ofNat 64 ((s.core x.lead).lget ln)) false)
  ∧ (∀ (s : State) (d : DRef) (ln sa : Nat) (x : Dispatch) (c : Ctx) (n : Nat),
    Stands s d (.scLwr d ln sa) { Use.none with rs := [sa] } x c n → (s.core x.lead).poisS.contains sa = false →
    (x.laps.any (fun l => l.ln == ln) = true ∨ x.readsLoop ln = false) →
    ∃ t, Issues (.scLwr d ln sa) d s t
      ∧ (x.laps.all (fun l => l.ln != ln) = true → ∃ r, OnlyCoreAndDispatch s t x.lead r d (x.adv n)
          ∧ LoopWritten (s.core x.lead) r ln (((s.core x.lead).sget sa).toNat % 2 ^ 32))
      ∧ (x.laps.any (fun l => l.ln == ln) = true → OnlyDispatch s t d
          { x.adv n with laps := x.laps.map (fun l => if l.ln == ln then
              { l with pendingVal := some (((s.core x.lead).sget sa).toNat % 2 ^ 32) } else l) }))

/-- br, lap, LAP_ITERATION_END, call and ret complete and move AVIS_PC, laps and the call stack as the rules say -/
def Obligations.ControlFlowMovesThePc : Prop :=
  (∀ (s : State) (d : DRef) (cd : Cond) (sa : Nat) (b : SVal) (off : Int) (x : Dispatch) (c : Ctx) (n : Nat),
    Stands s d (.br d cd sa b off) { Use.none with rs := if cd == .always then [] else sa :: svalRegs b } x c n →
    (cd ≠ .always → (s.core x.lead).poisS.contains sa = false ∧ (s.core x.lead).svalPois b = false) →
    (condHolds cd ((s.core x.lead).sget sa) ((s.core x.lead).sval b) = true → lapsHeld x (leavesLap x (jumpTo x.pc off)) = false) →
    ∃ t, Issues (.br d cd sa b off) d s t
      ∧ (condHolds cd ((s.core x.lead).sget sa) ((s.core x.lead).sval b) = false → OnlyDispatch s t d (x.adv n))
      ∧ (condHolds cd ((s.core x.lead).sget sa) ((s.core x.lead).sval b) = true →
          OnlyCoreAndDispatch s t x.lead
            ((x.laps.filter (leavesLap x (jumpTo x.pc off))).foldl endLap (s.core x.lead)) d
            { x with pc := jumpTo x.pc off, laps := x.laps.filter (fun l => !leavesLap x (jumpTo x.pc off) l) }))
  ∧ (∀ (s : State) (d : DRef) (ln : Nat) (cnt : SVal) (off : Int) (x : Dispatch) (c : Ctx) (n : Nat),
    Stands s d (.lap d ln cnt off) { Use.none with rs := svalRegs cnt } x c n →
    (s.core x.lead).svalPois cnt = false → ((s.core x.lead).sval cnt).toNat ≤ 0xFFFFFFFF →
    x.laps.length < 4 → x.laps.all (fun l => l.ln != ln) = true → x.readsLoop ln = false →
    ∃ t r, Issues (.lap d ln cnt off) d s t ∧ LoopWritten (s.core x.lead) r ln 0
      ∧ (((s.core x.lead).sval cnt).toNat = 0 → OnlyCoreAndDispatch s t x.lead r d { x with pc := jumpTo x.pc off })
      ∧ (((s.core x.lead).sval cnt).toNat ≠ 0 → OnlyCoreAndDispatch s t x.lead r d
          { x.adv n with laps := { ln := ln, count := ((s.core x.lead).sval cnt).toNat, start := x.pc + n,
                                   target := jumpTo x.pc off, pendingVal := none, depth := x.calls.length } :: x.laps }))
  ∧ (∀ (s : State) (d : DRef) (x : Dispatch) (l : LapState), s.acts d = some x → x.atLapEnd = some l →
    x.readsLoop l.ln = false →
    ∃ t r k, exec (.lapIterationEnd d) s = .next t ∧ LoopWritten (s.core x.lead) r l.ln k
      ∧ ((s.core x.lead).lget l.ln + 1 ≠ l.count →
          k = ((s.core x.lead).lget l.ln + 1) % 2 ^ 32 ∧ OnlyCoreAndDispatch s t x.lead r d { x with pc := l.start })
      ∧ ((s.core x.lead).lget l.ln + 1 = l.count →
          k = (l.pendingVal.getD l.count) % 2 ^ 32
            ∧ OnlyCoreAndDispatch s t x.lead r d { x with pc := l.target, laps := x.laps.tail }))
  ∧ (∀ (s : State) (d : DRef) (off : Int) (x : Dispatch) (c : Ctx) (n : Nat),
    Stands s d (.call d off) Use.none x c n → x.calls.length < 16 →
    ∃ t, Issues (.call d off) d s t
      ∧ OnlyDispatch s t d { x with pc := jumpTo x.pc off, calls := (x.pc + n) :: x.calls })
  ∧ (∀ (s : State) (d : DRef) (x : Dispatch) (c : Ctx) (n : Nat),
    Stands s d (.ret d) Use.none x c n → lapsHeld x (fun l => l.depth == x.calls.length) = false →
    ∃ t y, Issues (.ret d) d s t
      ∧ OnlyCoreAndDispatch s t x.lead
          ((x.laps.filter (fun l => l.depth == x.calls.length)).foldl endLap (s.core x.lead)) d y
      ∧ (x.calls = [] → y = { x with laps := x.laps.filter (fun l => !(l.depth == x.calls.length)), fin := true })
      ∧ (∀ p rest, x.calls = p :: rest →
          y = { x with laps := x.laps.filter (fun l => !(l.depth == x.calls.length)), pc := p, calls := rest }))

/-- ring, RING_CONFIG_EFFECT, stage.begin, stage.end, STAGE_END_RETIRE and rel complete with their effect and no other -/
def Obligations.RingStageAndRelTakeEffect : Prop :=
  (∀ (s : State) (d : DRef) (g : Bool) (x : Dispatch) (c : Ctx) (n : Nat),
    Stands s d (.ring d g) Use.none x c n → (if g then hasGate c.param else !gateOnly c.param) = true →
    ∃ t, Issues (.ring d g) d s t ∧ OnlyDispatch s t d { x.adv n with ringPend := some g })
  ∧ (∀ (s : State) (d : DRef) (g : Bool) (x : Dispatch),
    s.acts d = some x → x.ringPend = some g → x.inflight = [] → x.streams = [] →
    ∃ t, exec (.ringConfigEffect d) s = .next t
      ∧ OnlyCoreAndDispatch s t x.lead { s.core x.lead with gate := g } d { x with ringPend := none })
  ∧ (∀ (s : State) (d : DRef) (x : Dispatch) (c : Ctx) (n : Nat), Stands s d (.stageBegin d) Use.none x c n →
    ∃ t, Issues (.stageBegin d) d s t ∧ OnlyDispatch s t d { x.adv n with
      stage := .inStage, stageNum := x.stageNum + 1, stageAt := x.pc, stageCk3 := x.ck3 })
  ∧ (∀ (s : State) (d : DRef) (x : Dispatch) (c : Ctx) (n : Nat), Stands s d (.stageEnd d) Use.none x c n →
    ∃ t, Issues (.stageEnd d) d s t ∧ OnlyDispatch s t d { x.adv n with stage := .ending })
  ∧ (∀ (s : State) (d : DRef) (x : Dispatch),
    s.acts d = some x → x.stage = .ending → x.streams = [] → x.inflight = [] →
    ∃ u r y, OnlyCoreAndDispatch s u x.lead r d y
      ∧ y = { x with stage := .between, doneCk := x.doneCk + stageCount s x, runCk := x.runCk + (x.ck3 - x.stageCk3) / 3 }
      ∧ r = { s.core x.lead with useV := r.useV, poisV := r.poisV, useA := r.useA, poisA := r.poisA }
      ∧ (∀ k, r.useV.contains k = ((s.core x.lead).useV.contains k && y.reads (asks k RegUse.rv RegUse.kv)))
      ∧ (∀ k, r.useA.contains k = ((s.core x.lead).useA.contains k && y.reads (asks k RegUse.rt RegUse.kt)))
      ∧ ((x.redivide = false ∨ shapeFree u y = true) → exec (.stageEndRetire d) s = .next u)
      ∧ (x.redivide = true → shapeFree u y = false → exec (.stageEndRetire d) s = .next (redivideAt u y)))
  ∧ (∀ (s : State) (d : DRef) (vf vc tm : Nat) (x : Dispatch) (c : Ctx) (n : Nat),
    Stands s d (.rel d vf vc tm) { Use.none with wv := rangeFrom vf vc, wt := (List.range 4).filter (bit tm) } x c n →
    ∃ t r, Issues (.rel d vf vc tm) d s t ∧ OnlyCoreAndDispatch s t x.lead r d (x.adv n)
      ∧ r = { s.core x.lead with useV := r.useV, poisV := r.poisV, useA := r.useA, poisA := r.poisA }
      ∧ (∀ k, r.useV.contains k = ((s.core x.lead).useV.contains k && !(decide (vf ≤ k) && decide (k < vf + vc))))
      ∧ (∀ k, r.poisV.contains k = ((s.core x.lead).poisV.contains k && !(decide (vf ≤ k) && decide (k < vf + vc))))
      ∧ (∀ k, r.useA.contains k = ((s.core x.lead).useA.contains k && !(decide (k < 4) && bit tm k)))
      ∧ (∀ k, r.poisA.contains k = ((s.core x.lead).poisA.contains k && !(decide (k < 4) && bit tm k))))

/-- v.add, v.sub, v.mul and v.mac compute every element by the lane rule and touch no register outside their destination -/
def Obligations.VectorFormsComputeLaneByLane : Prop :=
  ∀ (op : VOp) (s : State) (d : DRef) (f : VForm) (x : Dispatch) (c : Ctx) (n : Nat),
    let r := s.core x.lead
    let e := etBytes f.ety
    let u := vUse x f (groupRegs f.vd e f.cnt) (op == .mac)
    let qs := (activeRing x c s).qs
    let pois := vPoisoned s r u
    Stands s d (op.instr d f) u x c n → x.engineFree 3 = true → vCheck x c s r f = .ok () →
    ∃ t r' vals flags, Issues (op.instr d f) d s t
      ∧ OnlyCoreAndDispatch s t x.lead r' d (launched x n (s.flight x 3 u [] [] 0 0) pois)
      ∧ vals.length = f.cnt
      ∧ (∀ j, j < f.cnt → vals[j]? = some (lane op f.ety (nth qs (vIndex r f + vStep f j) 1)
          (nth (vSrcA r qs (vIndex r f) f e) j (0, 0)).1 (nth (vSrcB s x r qs (vIndex r f) f e) j 0)
          (if op == .mac then nth (r.groupRead f.vc e f.cnt) j 0 else 0)).1)
      ∧ r' = (r.groupWrite f.vd e vals pois).raise (flags ||| if pois then stPoisonSeen else 0)
      ∧ OnlyVectors r r' (groupRegs f.vd e f.cnt)

/-- v.red writes one scalar by the fixed tree; v.cvt.bf and v.cvt.f convert every element -/
def Obligations.VectorReductionAndConversion : Prop :=
  (∀ (s : State) (d : DRef) (f : VForm) (x : Dispatch) (c : Ctx) (n : Nat),
    let r := s.core x.lead
    let g : VForm := { f with subop := 0 }
    let u : Use := { Use.none with rv := if f.tileA then [] else groupRegs f.va (etBytes f.ety) f.cnt,
                                   rt := if f.tileA then [f.va] else [], ws := [f.vd], rl := vLoops f }
    let qs := (activeRing x c s).qs
    let pois := vPoisoned s r u
    let y := redValue f (nth qs (vIndex r f) 1) (vSrcA r qs (vIndex r f) g (etBytes f.ety))
    Stands s d (.vRed d f) u x c n → x.engineFree 3 = true → vCheck x c s r g = .ok () →
    ∃ t r', Issues (.vRed d f) d s t ∧ OnlyCoreAndDispatch s t x.lead r' d (launched x n (s.flight x 3 u [] [] 0 0) pois)
      ∧ r' = (r.sput f.vd (BitVec.ofNat 64 y.1) pois).raise (y.2 ||| if pois then stPoisonSeen else 0))
  ∧ (∀ (s : State) (d : DRef) (f : VForm) (narrow : Bool) (x : Dispatch) (c : Ctx) (n : Nat),
    let r := s.core x.lead
    let g : VForm := { f with subop := 0 }
    let es := if narrow then 4 else 2
    let ed := if narrow then 2 else 4
    let u : Use := { Use.none with rv := if f.tileA then [] else groupRegs f.va es f.cnt,
                                   wv := groupRegs f.vd ed f.cnt, rt := if f.tileA then [f.va] else [], rl := vLoops f }
    let pois := vPoisoned s r u
    let conv := fun (p : Nat × Nat) => if narrow then f32ToBF p.1 else bfToF32 p.1
    let i := if narrow then Instr.vCvtBf d f else Instr.vCvtF d f
    Stands s d i u x c n → x.engineFree 3 = true → (f.tileA = true → narrow = true) → vCheck x c s r g = .ok () →
    ∃ t r' flags, Issues i d s t ∧ OnlyCoreAndDispatch s t x.lead r' d (launched x n (s.flight x 3 u [] [] 0 0) pois)
      ∧ r' = (r.groupWrite f.vd ed ((vSrcA r [] 0 g es).map (fun p => (conv p).1)) pois).raise
          (flags ||| if pois then stPoisonSeen else 0))

/-- v.add.m, v.sub.m, v.mul.m on objects, hdr.w and xpose complete with the body and header the rules give -/
def Obligations.ObjectFormsWriteBodyAndHeader : Prop :=
  (∀ (op : OOp) (s : State) (d : DRef) (rd ra rb : HRef) (x : Dispatch) (c : Ctx) (n : Nat) (od : Opnd) (oa ob : Obj)
      (f : Funded) (dd : ObjDst),
    let r := s.core x.lead
    let a := valOf s c.param oa
    let b := valOf s c.param ob
    let s' := { s with freeCtr := s.freeCtr + 3 }
    let h := objOpHdr op s.freeCtr c.param f
    let u : Use := { Use.none with rs := hrefRegs rd ++ hrefRegs ra ++ hrefRegs rb }
    Stands s d (op.instr d rd ra rb) { Use.none with rd := oa.body ++ oa.hdrAt ++ ob.body ++ ob.hdrAt, wr := dd.body ++ dd.hdrAt,
                                                     rs := hrefRegs rd ++ hrefRegs ra ++ hrefRegs rb } x c n →
    resolve x c r rd true true = .ok od → objSrc s x c r ra = .ok oa → objSrc s x c r rb = .ok ob →
    objOpOk op a b = true → a.h.spent = false → b.h.spent = false → fund x c a b (objOpBudget op x c.param) = .ok f →
    objDst s' x c od h = .ok dd → x.engineFree 3 = true → inWindow s (dd.body ++ dd.hdrAt) = false →
    Issues (op.instr d rd ra rb) d s (finishObj (s'.keepCopies c f) (x.countVault c f) c n 3 [oa, ob] u false dd h
      (bodyOf h.comps h.level (objOpLimb op c.param f.a f.b))))
  ∧ (∀ (s : State) (d : DRef) (rd ra : HRef) (bs ls : Nat) (x : Dispatch) (c : Ctx) (n : Nat) (od : Opnd) (t : Obj)
      (dd : ObjDst),
    let r := s.core x.lead
    let level := (r.sget ls).toNat % 256
    let h : Hdr := { t.h with level := level, budget := (r.sget bs).toNat % 65536 }
    let pois := t.poisoned || spansMarked s.mem dd.body || (r.poisS.contains bs || r.poisS.contains ls)
    let u : Use := { Use.none with rd := t.hdrAt ++ dd.body, wr := dd.hdrAt, rs := hrefRegs rd ++ hrefRegs ra ++ [bs, ls] }
    Stands s d (.hdrW d rd ra bs ls) u x c n →
    resolve x c r rd true true = .ok od → hdrSrc s x c r ra = .ok t → 1 ≤ level → level ≤ pL c.param →
    objDst s x c od h = .ok dd → inWindow s dd.hdrAt = false →
    Issues (.hdrW d rd ra bs ls) d s
      (((touchReads s t.hdrAt).writeSpans dd.hdrAt
          (hdrBytes (resultHdr x c { h with flags := hdrFlags false false t.h.spent } pois)) false).flown x n
        (s.flight x 5 u [] [(od.raw, dd.hdrAt)] 0 0) pois))
  ∧ (∀ (s : State) (d : DRef) (rd ra : HRef) (perm : List Nat) (x : Dispatch) (c : Ctx) (n : Nat) (src dst od : Opnd) (o : Obj)
      (f : Funded) (h : Hdr) (dd : ObjDst),
    let r := s.core x.lead
    let u : Use := { Use.none with rs := hrefRegs rd ++ hrefRegs ra }
    Stands s d (.xpose d rd ra perm) { u with rd := o.body ++ o.hdrAt, wr := dd.body ++ dd.hdrAt } x c n →
    resolveAny x c r ra false = .ok src → resolveAny x c r rd true = .ok dst → dObj src.raw = true → dObj dst.raw = true →
    objSrc s x c r ra = .ok o → resolve x c r rd true true = .ok od → permOk 1 perm = true →
    dSize od.raw 0 = dSize o.raw 0 → extentsMeet o.raw od.raw = false →
    bodyReach s x c o.raw od.raw (bodyLen c.param o.h) (bodyLen c.param o.h / stagedTile + 2) 0 = (bodyLen c.param o.h, none) →
    copyVal x c (valOf s c.param o) = .ok (f, h) → objDst s x c od h = .ok dd →
    spansMeet o.body dd.body = false → spansMeet o.body dd.hdrAt = false → spansMeet o.hdrAt dd.body = false →
    inWindow s (dd.body ++ dd.hdrAt) = false → x.inflight.any (fun g => g.engine == 4) = false →
    Issues (.xpose d rd ra perm) d s (finishObj (s.keepCopies c f) (x.countVault c f) c n 4 [o] u false dd h
      (if f.copies.isEmpty then spansPeek s.mem o.body else f.a.bytes)))
  ∧ (∀ (s : State) (d : DRef) (rd ra : HRef) (perm : List Nat) (x : Dispatch) (c : Ctx) (n : Nat) (src dst : Opnd)
      (sa da : List Span),
    let r := s.core x.lead
    let u : Use := { Use.none with rd := sa, wr := da, rs := hrefRegs rd ++ hrefRegs ra }
    let k := dCount dst.raw
    Stands s d (.xpose d rd ra perm) u x c n →
    resolveAny x c r ra false = .ok src → resolveAny x c r rd true = .ok dst → dObj src.raw = false → dObj dst.raw = false →
    dRank src.raw = dRank dst.raw → dElem src.raw = dElem dst.raw → dSpace src.raw ≠ 4 → dSpace dst.raw ≠ 4 →
    permOk (dRank src.raw) perm = true →
    (∀ i, i < dRank src.raw → dSize dst.raw i = dSize src.raw (nth perm i 0)) →
    xposeReach s x c src.raw dst.raw perm (stagedTile / dE dst.raw) (k + 1) 0 = (k, none) →
    elemSpans s x c .write dst.raw (List.range k) = .ok da →
    elemSpans s x c .read src.raw ((List.range k).map (permSrc src.raw dst.raw perm)) = .ok sa →
    extentsMeet src.raw dst.raw = false → inWindow s da = false → x.inflight.any (fun g => g.engine == 4) = false →
    Issues (.xpose d rd ra perm) d s
      (((touchReads s sa).writeSpans da (slice (spansPeek s.mem sa) 0 (k * dE dst.raw)) (spansMarked s.mem sa)).flown x n
        (s.flight x 4 u [da] [] stagedTile (ceilDiv (k * dE dst.raw) stagedTile)) (spansMarked s.mem sa)))

/-- ntt.f, ntt.i and auto map every limb of a region or an object by the transform of its prime -/
def Obligations.TransformsAndAutomorphismsMapLimbs : Prop :=
  (∀ (inv : Bool) (s : State) (d : DRef) (rd ra rb : HRef) (i0 nl : Nat) (x : Dispatch) (c : Ctx) (n : Nat)
      (sa da ga : List Span),
    let i := if inv then Instr.nttI d rd ra rb i0 nl else Instr.nttF d rd ra rb i0 nl
    let ring := activeRing x c s
    let u : Use := { Use.none with rd := sa, wr := da ++ ga, rs := hrefRegs rd ++ hrefRegs ra ++ hrefRegs rb ++ [] }
    Stands s d i u x c n → nl ≠ 0 → RegionOperands s x c rd ra rb i0 nl true sa da ga → x.engineFree 0 = true →
    Issues i d s (regionDone s x c n 0 u sa da ga i0 nl (fun k w =>
      if inv then nttInv (nth ring.qs k 1) ring.logN w else nttFwd (nth ring.qs k 1) ring.logN w)))
  ∧ (∀ (inv : Bool) (s : State) (d : DRef) (rd ra rb : HRef) (i0 : Nat) (x : Dispatch) (c : Ctx) (n : Nat) (o : Obj)
      (f : Funded) (dd : ObjDst) (h : Hdr) (ga : List Span),
    let i := if inv then Instr.nttI d rd ra rb i0 0 else Instr.nttF d rd ra rb i0 0
    let ring := activeRing x c s
    let u : Use := { Use.none with wr := ga, rs := hrefRegs ra ++ hrefRegs rd ++ hrefRegs rb }
    Stands s d i { u with rd := o.body ++ o.hdrAt, wr := dd.body ++ dd.hdrAt ++ ga } x c n →
    objSrc s x c (s.core x.lead) ra = .ok o → o.h.kind ≠ kindLwe → (s.core x.lead).gate = false →
    o.h.repr = (if inv then 1 else 0) → ObjectOperands s x c rd rb o (1 - o.h.repr) f dd h ga → x.engineFree 0 = true →
    Issues i d s (finishObj (writeStaging (s.keepCopies c f) ga (2 ^ h.logN)) (x.countVault c f) c n 0 [o] u false dd h
      (mapLimbs c.param f.a (fun k w =>
        if inv then nttInv (nth ring.qs k 1) ring.logN w else nttFwd (nth ring.qs k 1) ring.logN w))))
  ∧ (∀ (s : State) (d : DRef) (rd ra : HRef) (i0 nl : Nat) (ev : Bool) (gs : GSrc) (g : Nat) (x : Dispatch) (c : Ctx) (n : Nat)
      (sa da : List Span),
    let ring := activeRing x c s
    let u : Use := { Use.none with rd := sa, wr := da ++ [], rs := hrefRegs rd ++ hrefRegs ra ++ hrefRegs .null ++ gsrcRegs gs }
    Stands s d (.auto d rd ra i0 nl ev gs) u x c n → nl ≠ 0 → galois x (s.core x.lead) gs = .ok g → g % 2 = 1 →
    g < 2 * 2 ^ ring.logN → RegionOperands s x c rd ra .null i0 nl false sa da [] → x.engineFree 1 = true →
    Issues (.auto d rd ra i0 nl ev gs) d s
      (regionDone s x c n 1 u sa da [] i0 nl (fun k w => autoLimb ev (nth ring.qs k 1) ring.logN g w)))
  ∧ (∀ (s : State) (d : DRef) (rd ra : HRef) (i0 : Nat) (ev : Bool) (gs : GSrc) (g : Nat) (x : Dispatch) (c : Ctx) (n : Nat)
      (o : Obj) (f : Funded) (dd : ObjDst) (h : Hdr),
    let ring := activeRing x c s
    let u : Use := { Use.none with wr := [], rs := hrefRegs ra ++ gsrcRegs gs ++ hrefRegs rd ++ hrefRegs .null }
    Stands s d (.auto d rd ra i0 0 ev gs) { u with rd := o.body ++ o.hdrAt, wr := dd.body ++ dd.hdrAt ++ [] } x c n →
    galois x (s.core x.lead) gs = .ok g → g % 2 = 1 → g < 2 * 2 ^ ring.logN →
    objSrc s x c (s.core x.lead) ra = .ok o → o.h.kind ≠ kindLwe → (s.core x.lead).gate = false →
    o.h.repr = (if ev then 1 else 0) → ObjectOperands s x c rd .null o o.h.repr f dd h [] → x.engineFree 1 = true →
    Issues (.auto d rd ra i0 0 ev gs) d s (finishObj (s.keepCopies c f) (x.countVault c f) c n 1 [o] u false dd h
      (mapLimbs c.param f.a (fun k w => autoLimb ev (nth ring.qs k 1) ring.logN g w))))

/-- cvt.up, cvt.down and cvt.rescale complete with the converted limbs the rules give -/
def Obligations.BasisConversionsWriteTheirLimbs : Prop :=
  (∀ (s : State) (d : DRef) (rd ra : HRef) (i0 ns t0 nt : Nat) (x : Dispatch) (c : Ctx) (n : Nat) (src dst : Opnd)
      (sa da : List Span),
    let ring := activeRing x c s
    let nn := 2 ^ ring.logN
    let u : Use := { Use.none with rd := sa, wr := da ++ ownBuffers x, rs := hrefRegs rd ++ hrefRegs ra }
    let out := ((List.range nt).map (fun t => bytesOf 4 (convLimb nn ((ring.qs.drop i0).take ns)
      ((List.range ns).map (regionLimb s sa nn)) (nth ring.qs (t0 + t) 1)))).flatten
    Stands s d (.cvtUp d rd ra i0 ns t0 nt) u x c n →
    resolve x c (s.core x.lead) ra false false = .ok src → resolve x c (s.core x.lead) rd true false = .ok dst →
    ns * nn ≤ dCount src.raw → nt * nn ≤ dCount dst.raw → i0 + ns ≤ ring.qs.length → t0 + nt ≤ ring.qs.length →
    regionSpans s x c .read src.raw (ns * nn * 4) = .ok sa → regionSpans s x c .write dst.raw (nt * nn * 4) = .ok da →
    inWindow s da = false → x.engineFree 2 = true →
    Issues (.cvtUp d rd ra i0 ns t0 nt) d s
      ((fillBuffers ((touchReads s sa).writeSpans da out (spansMarked s.mem sa)) x).flown x n
        (s.flight x 2 u [da] [] (nn * 4) nt) (spansMarked s.mem sa)))
  ∧ (∀ (s : State) (d : DRef) (rd ra : HRef) (i0 ns t0 nt : Nat) (x : Dispatch) (c : Ctx) (n : Nat) (src dst : Opnd)
      (sa da : List Span),
    let ring := activeRing x c s
    let nn := 2 ^ ring.logN
    let u : Use := { Use.none with rd := sa, wr := da ++ ownBuffers x, rs := hrefRegs rd ++ hrefRegs ra }
    let out := ((List.range nt).map (fun t => bytesOf 4 (downLimb nn (nth ring.qs (t0 + t) 1) (regionLimb s sa nn t)
      ((ring.qs.drop i0).take ns) ((List.range ns).map (fun k => regionLimb s sa nn (nt + k)))))).flatten
    Stands s d (.cvtDown d rd ra i0 ns t0 nt) u x c n →
    resolve x c (s.core x.lead) ra false false = .ok src → resolve x c (s.core x.lead) rd true false = .ok dst →
    (nt + ns) * nn ≤ dCount src.raw → nt * nn ≤ dCount dst.raw → i0 + ns ≤ ring.qs.length → t0 + nt ≤ ring.qs.length →
    regionSpans s x c .read src.raw ((nt + ns) * nn * 4) = .ok sa → regionSpans s x c .write dst.raw (nt * nn * 4) = .ok da →
    inWindow s da = false → x.engineFree 2 = true →
    Issues (.cvtDown d rd ra i0 ns t0 nt) d s
      ((fillBuffers ((touchReads s sa).writeSpans da out (spansMarked s.mem sa)) x).flown x n
        (s.flight x 2 u [da] [] (nn * 4) nt) (spansMarked s.mem sa)))
  ∧ (∀ (s : State) (d : DRef) (rd ra : HRef) (x : Dispatch) (c : Ctx) (n : Nat) (od : Opnd) (o : Obj) (f : Funded)
      (dd : ObjDst),
    let s' := { s with freeCtr := s.freeCtr + 1 }
    let v := valOf s c.param o
    let h := rescaleHdr s.freeCtr c.param f
    let y := x.countVault c f
    let u : Use := { Use.none with wr := ownBuffers x, rs := hrefRegs rd ++ hrefRegs ra }
    Stands s d (.cvtRescale d rd ra) { Use.none with rd := o.body ++ o.hdrAt, wr := dd.body ++ dd.hdrAt ++ ownBuffers x,
                                                     rs := hrefRegs rd ++ hrefRegs ra } x c n →
    resolve x c (s.core x.lead) rd true true = .ok od → objSrc s x c (s.core x.lead) ra = .ok o →
    o.h.kind = kindRlwe → (o.h.scheme = 0 ∨ o.h.scheme = 2) → o.h.pPresent = 0 → 1 < o.h.level → o.h.spent = false →
    fund x c v v (fun a _ => if a.h.level > 1 then
      some (resultBudget .rescale c.param (x.set 0x0102) a.h a.h (a.h.level - 1)) else none) = .ok f →
    objDst s' x c od h = .ok dd → x.engineFree 2 = true → inWindow s (dd.body ++ dd.hdrAt) = false →
    Issues (.cvtRescale d rd ra) d s (finishObj (fillBuffers (s'.keepCopies c f) y) y c n 2 [o] u false dd h
      (bodyOf h.comps h.level (rescaleOut c.param f.a))))

/-- cvt.mm accumulates its groups into the tiles and drains them; cvt.drain writes a tile to the Core Store -/
def Obligations.ConverterTilesAccumulateAndDrain : Prop :=
  (∀ (s : State) (d : DRef) (f : MmForm) (x : Dispatch) (c : Ctx) (n : Nat) (da : List Span),
    let r := s.core x.lead
    let qs := (activeRing x c s).qs
    let rdS := mmReads x f
    let tiles := mmTiles f
    let hi := f.g * f.k
    let u : Use := { Use.none with rt := if f.acc then tiles else [], wt := tiles, rd := rdS, wr := da, rs := hrefRegs f.rdr }
    let pois := mmPoisoned s r f rdS tiles x.startPoint
    let y := mmGroups s x.lead (nth qs f.mod 1) qs f (f.rdr != .null) pois x.startPoint hi r
    Stands s d (.cvtMm d f) u x c n → (f.clr = true ∨ f.mod < qs.length) →
    (f.rdr = .null → da = []) →
    (f.rdr ≠ .null → drainDst s x c r f.rdr (512 * f.g) (if f.clr then (if f.narrow then 2 else 1) else 0) = .ok da) →
    x.engineFree 2 = true →
    Issues (.cvtMm d f) d s (((s.writeSpans (mmDrained f da x.startPoint hi) y.2.1 pois).setCore x.lead (y.1.raise y.2.2)).flown
        x n (s.flight x 2 u [da] [] (spansLen da / f.g) hi) pois)
      ∧ y.1.v = r.v ∧ y.1.s = r.s ∧ y.1.l = r.l ∧ y.1.useV = r.useV ∧ y.1.poisV = r.poisV ∧ y.1.poisS = r.poisS
      ∧ y.1.status = r.status
      ∧ (∀ k, k ∉ tiles → y.1.tStored k = r.tStored k ∧ y.1.useA.contains k = r.useA.contains k
          ∧ y.1.poisA.contains k = r.poisA.contains k))
  ∧ (∀ (s : State) (d : DRef) (rdr : HRef) (ta : Nat) (narrow : Bool) (x : Dispatch) (c : Ctx) (n : Nat) (o : Opnd)
      (da : List Span),
    let r := s.core x.lead
    let t := r.tStored ta
    let nar := narrow && (t.mode == .clear || !r.useA.contains ta)
    let u : Use := { Use.none with rt := [ta], wr := da, rs := hrefRegs rdr }
    let out := if r.useA.contains ta then drainBytes (activeRing x c s).qs t true nar
               else (zeros (if nar then 1024 else 2048), 0)
    let pois := r.poisA.contains ta
    Stands s d (.cvtDrain d rdr ta narrow) u x c n → resolve x c r rdr true false = .ok o →
    dSpace o.raw = 1 → 512 ≤ dCount o.raw → (if nar then dElem o.raw = 2 else dE o.raw = 4) →
    elemSpans s x c .write o.raw (List.range 512) = .ok da → inWindow s da = false → x.engineFree 2 = true →
    Issues (.cvtDrain d rdr ta narrow) d s
      (((s.writeSpans da out.1 pois).setCore x.lead (r.raise out.2)).flown x n (s.flight x 2 u [da] [] (spansLen da) 0) pois))

/-- ks.prep, ks.ip and ks.fin complete with the digits, inner products and divided sums the rules give -/
def Obligations.KeySwitchStepsComplete : Prop :=
  (∀ (s : State) (d : DRef) (rd ra : HRef) (j : Nat) (x : Dispatch) (c : Ctx) (n : Nat) (od : Opnd) (o : Obj)
      (f : Funded) (da : List Span),
    let p := c.param
    let level := o.h.level
    let u : Use := { Use.none with rd := o.body ++ o.hdrAt, wr := da ++ ownBuffers x, rs := hrefRegs rd ++ hrefRegs ra }
    let ev := nth f.a.limbs j []
    let coeff := (List.range level).map (fun i => nttInv (pPrime p i) (pLogN p) (nth ev i []))
    let out := bodyOf (digitsAt p level) (level + pK p) (prepLimb p level ev coeff)
    let s' := s.keepCopies c f
    let y := x.countVault c f
    Stands s d (.ksPrep d rd ra j) u x c n → resolve x c (s.core x.lead) rd true false = .ok od →
    objSrc s x c (s.core x.lead) ra = .ok o → o.h.kind = kindRlwe → o.h.repr = 1 → o.h.pPresent = 0 → 1 ≤ j → j < o.h.comps →
    dElem od.raw = 0 → dSpace od.raw ≠ 4 → dCount od.raw = digitWords p level → o.h.spent = false →
    fund x c (valOf s p o) (valOf s p o) (fun a _ => if a.h.level == level && j < a.h.comps
      then some (resultBudget .keep p (x.set 0x0102) a.h a.h level) else none) = .ok f →
    tensorSpans s x c .write od.raw (digitWords p level) = .ok da → inWindow s da = false → x.engineFree 0 = true →
    Issues (.ksPrep d rd ra j) d s
      ((fillBuffers ((touchReads s' (o.body ++ o.hdrAt)).writeSpans da out o.poisoned) y).flown y n
        (s'.flight y 0 u [da] [] (4 * 2 ^ pLogN p) (digitsAt p level * (level + pK p))) o.poisoned))
  ∧ (∀ (s : State) (d : DRef) (rd ra rb rc : HRef) (gs : GSrc) (g : Nat) (x : Dispatch) (c : Ctx) (n : Nat) (od dig key : Opnd)
      (o : Obj) (v : Val) (f : Funded) (dd : ObjDst) (set : KeySet) (k : KeyObj) (ta : List Span),
    let p := c.param
    let level := o.h.level
    let nb := 2 ^ pLogN p * 4
    let slots := level + pK p
    let die := ipDie x c
    let copy := keyReader s c set.id k die
    let kh := keySpans k 0 64
    let hdr := spansPeek s.mem kh
    let h : Hdr := { o.h with comps := 2, pPresent := 1, repr := 1, budget := clampBudget f.budget,
                              flags := hdrFlags false false f.spent }
    let kb := if copy.isSome then [] else kh ++ ((List.range (digitsAt p level)).map (fun kk =>
      ((List.range slots).map (fun t => keySpans k (keyLimbOff p kk (limbIndex p level t)) nb)).flatten)).flatten
    let u : Use := { Use.none with rd := ta ++ o.hdrAt ++ kb, wr := ownBuffers x, copy := copy.map (fun e => e.order),
                                   rs := hrefRegs rd ++ hrefRegs ra ++ hrefRegs rb ++ hrefRegs rc ++ gsrcRegs gs }
    let digit := fun kk t => wordsOf 4 (spansPeek s.mem (spansSlice ta ((kk * slots + t) * nb) nb)) (2 ^ pLogN p)
    let half := fun kk i => wordsOf 4 (keyBytes s k copy (keyLimbOff p kk i) nb) (2 ^ pLogN p)
    let read := (touchReads s (ta ++ kb)).modMeter die (fun m => { m with keyCur := m.keyCur + spansLen kb })
    let touched := touchKey read die c.num (keyName set.id k) (1024 + k.bodyLen)
    let y := x.countVault c f
    Stands s d (.ksIp d rd ra rb rc gs) { u with wr := dd.body ++ dd.hdrAt ++ ownBuffers x } x c n →
    resolve x c (s.core x.lead) rd true true = .ok od → resolve x c (s.core x.lead) ra false false = .ok dig →
    resolve x c (s.core x.lead) rb false false = .ok key → hdrSrc s x c (s.core x.lead) rc = .ok o →
    galois x (s.core x.lead) gs = .ok g → ksGalois p g = true → o.h.kind = kindRlwe → o.h.repr = 1 → o.h.pPresent = 0 →
    dElem dig.raw = 0 → dSpace dig.raw ≠ 4 → dCount dig.raw = digitWords p level → keyFind c key.raw = some (set, k) →
    keyCheck hdr true o.h g = none → o.h.spent = false → ipSource s x c rc o = .ok v →
    fund x c v v (fun a _ => if a.h.level == level
      then some (resultBudget .keep p (x.set 0x0102) a.h a.h level) else none) = .ok f →
    objDst s x c od h = .ok dd → tensorSpans s x c .read dig.raw (digitWords p level) = .ok ta →
    x.engineFree 2 = true → inWindow s (dd.body ++ dd.hdrAt) = false →
    Issues (.ksIp d rd ra rb rc gs) d s (finishObj (fillBuffers (touched.keepCopies c f) y) y c n 2 [o] u
      (spansMarked s.mem (ta ++ kb) || copy.any (fun e => e.marked)) dd h
      (bodyOf 2 slots (ipLimb p level g (slice hdr 32 32) (field hdr 5 1) digit half))))
  ∧ (∀ (s : State) (d : DRef) (rd ra rb : HRef) (gs : GSrc) (rescale : Bool) (g : Nat) (x : Dispatch) (c : Ctx) (n : Nat)
      (od : Opnd) (oa ob : Obj) (f : Funded) (dd : ObjDst),
    let p := c.param
    let s' := { s with freeCtr := s.freeCtr + 1 }
    let op := if rescale then BOp.finRescale else BOp.fin
    let level := if rescale then ob.h.level - 1 else ob.h.level
    let h : Hdr := { f.a.h with comps := 2, level := level, budget := clampBudget f.budget, flags := hdrFlags false false f.spent,
                                scale := if ob.h.scheme == 0 then field32 s.freeCtr (resultScale op p f.a.h f.a.h) else 0 }
    let y := x.countVault c f
    let u : Use := { Use.none with wr := ownBuffers x, rs := hrefRegs rd ++ hrefRegs ra ++ hrefRegs rb ++ gsrcRegs gs }
    Stands s d (.ksFin d rd ra rb gs rescale)
      { u with rd := oa.body ++ oa.hdrAt ++ ob.body ++ ob.hdrAt, wr := dd.body ++ dd.hdrAt ++ ownBuffers x } x c n →
    resolve x c (s.core x.lead) rd true true = .ok od → objSrc s x c (s.core x.lead) ra = .ok oa →
    objSrc s x c (s.core x.lead) rb = .ok ob → galois x (s.core x.lead) gs = .ok g →
    finOk p oa.h ob.h g rescale = true → (rescale = true → ob.h.level ≠ 1) → oa.h.spent = false → ob.h.spent = false →
    fund x c (valOf s p ob) (valOf s p ob) (fun b _ => if finOk p oa.h b.h g rescale
      then some (resultBudget op p (x.set 0x0102) b.h b.h level) else none) = .ok f →
    objDst s' x c od h = .ok dd → x.engineFree 0 = true → inWindow s (dd.body ++ dd.hdrAt) = false →
    Issues (.ksFin d rd ra rb gs rescale) d s (finishObj (fillBuffers (s'.keepCopies c f) y) y c n 0 [oa, ob] u false dd h
      (bodyOf 2 level (finLimb p (valOf s p oa) f.a g rescale))))

/-- s.ld, s.st, s.put and s.get start their stream; win.open and win.close open and close a window -/
def Obligations.StreamsAndWindowsOpenAndClose : Prop :=
  (∀ (k : StreamKind) (s : State) (d : DRef) (f : SForm) (x : Dispatch) (c : Ctx) (n : Nat) (t : Stream),
    let i := match k with
      | .ld => Instr.sLd d f
      | .st => Instr.sSt d f
      | .put => Instr.sPut d f
      | .get => Instr.sGet d f
    let y := { x with pc := x.pc + n, streams := x.streams ++ [t] }
    Stands s d i (streamIssueUse f t) x c n → streamPlan k s f x c = .ok t →
    Issues i d s (if k == .put && t.slot < 8 then sendReq (s.setDisp y) y t else s.setDisp y)
      ∧ t.state = .running ∧ t.done = 0 ∧ t.kind = k ∧ t.instr = x.pc ∧ x.streams.all (fun z => z.slot != t.slot) = true
      ∧ (∀ m, freeSlot x = some m → t.slot = m) ∧ (freeSlot x = none → 8 ≤ t.slot))
  ∧ (∀ (s : State) (d : DRef) (f : WForm) (x : Dispatch) (c : Ctx) (n : Nat) (o : Opnd) (mark : Option Nat) (xs : List Span),
    let lo := (dExtent o.raw).1
    let hi := (dExtent o.raw).2
    let sp := dSpace o.raw
    let m := s.mgr (mgrOf x sp)
    let w : Window := { num := f.window, ctx := c.num, owner := x.id, base := lo.toNat, swz := if sp == 1 then dSwz o.raw else 0,
                        blocks := List.replicate ((hi - lo).toNat / 1024) .empty, scoreLo := f.scoreLo, scoreHi := f.scoreHi,
                        smod := if f.xmod then some f.smod else none, mark := mark, epoch := x.epoch }
    Stands s d (.winOpen d f) { Use.none with rs := hrefRegs f.rm } x c n →
    resolveAny x c (s.core x.lead) f.rm false = .ok o → (sp = 1 ∨ sp = 2) → dBase o.raw % 1024 = 0 → lo.toNat % 1024 = 0 →
    (hi - lo).toNat % 1024 = 0 → m.windows.any (fun y => y.num == f.window) = false →
    m.windows.length < mgrCap (mgrOf x sp) → mgrTesting s (mgrOf x sp) = false →
    (f.markEn = true → mark.isSome = true ∧ x.markNum f.arriveMark = mark) → (f.markEn = false → mark = none) →
    spaceSpans s c (some x.id) x.lead .write 0 sp 0 lo.toNat (hi - lo).toNat = .ok xs →
    Issues (.winOpen d f) d s ((s.setMgr (mgrOf x sp) { m with windows := m.windows ++ [w] }).setDisp (x.adv n)))
  ∧ (∀ (s : State) (d : DRef) (rm : HRef) (win : Nat) (x : Dispatch) (c : Ctx) (n : Nat) (o : Opnd),
    let mgr := mgrOf x (dSpace o.raw)
    Stands s d (.winClose d rm win) { Use.none with rs := hrefRegs rm } x c n →
    resolveAny x c (s.core x.lead) rm false = .ok o → (dSpace o.raw = 1 ∨ dSpace o.raw = 2) →
    (s.mgr mgr).windows.any (fun w => w.num == win && w.ctx == c.num) = true →
    x.streams.any (fun t => t.kind == .get && t.window == win) = false →
    Issues (.winClose d rm win) d s ((closeWindow s mgr win).setDisp (x.adv n)))

/-- at.add.m, at.add.i, at.add.f and at.cas update each element by their operation and fetch the old values -/
def Obligations.AtomicsUpdateEachElementInOrder : Prop :=
  ∀ (op : AtOp) (s : State) (d : DRef) (f : AForm) (x : Dispatch) (c : Ctx) (n : Nat) (o : Opnd) (at_ : List Nat),
    let r := s.core x.lead
    let e := atBytes f
    let q := nth (activeRing x c s).qs f.mod 1
    let rv := groupRegs f.vs e f.cnt ++ (if op == .cas then groupRegs f.vc e f.cnt else [])
    let u : Use := { Use.none with rv := rv, wv := if f.fetch then groupRegs f.vf e f.cnt else [], rs := hrefRegs f.rm,
                                   wr := (at_.zip (List.range f.cnt)).map (fun a => ⟨0, a.1, e, 3, some (atAddr f o.raw a.2)⟩) }
    let vs := r.groupRead f.vs e f.cnt
    let y := atRun op q e (r.vPois rv) (at_.zip (vs.zip (if op == .cas then r.groupRead f.vc e f.cnt else vs))) s
    let pois := r.vPois rv || y.2.2.2
    Stands s d (op.instr d f) u x c n → resolve x c r f.rm true false = .ok o → dSpace o.raw = 0 →
    atElemOk op o.raw = true → atElemsOk f o.raw = true → (op = .addM → f.mod < (activeRing x c s).qs.length) →
    atPlaces s c f o.raw (List.range f.cnt) = .ok at_ → x.engineFree 5 = true →
    Issues (op.instr d f) d s
      ((y.1.setCore x.lead (if f.fetch then (r.groupWrite f.vf e y.2.1 pois).raise y.2.2.1 else r)).flown x n
        (y.1.flight x 5 u [] [] 0 0) pois)
    ∧ (∀ m v cmp, atResult .addM q e m v cmp = ((m + v) % q, m % q, 0))
    ∧ (∀ m v cmp, atResult .addI q e m v cmp = ((m + v) % 2 ^ (8 * e), m, 0))
    ∧ (∀ m v cmp, atResult .cas q e m v cmp = (if m = cmp then v else m, m, 0))

/-- The nine Vault and gate routines complete: S0 is 0, S16 to S31 and the loop registers are kept, outputs written with their headers -/
def Obligations.VaultRoutinesCompleteAndKeepHighScalars : Prop :=
  ∀ (d : DRef) (p : Instr × (State → Dispatch → Ctx → Except Halt VCall)),
    p ∈ [(.vltModraise d, vaultCkks 1), (.vltCts d, vaultCkks 2), (.vltEvalmod d, vaultCkks 3), (.vltStc d, vaultCkks 4),
         (.vltBoot d, vaultCkks 5), (.vltExtract d, vaultExtract), (.vltPbs d, vaultPbs), (.vltRepack d, vaultRepack),
         (.vltBootExact d, vaultBootExact)] →
    ∀ (s : State) (x : Dispatch) (c : Ctx) (n : Nat) (v : VCall),
      Stands s d p.1 (v.use x) x c n → p.2 s x c = .ok v → inWindow s v.writes = false →
      Issues p.1 d s (vaultDone v x c n)
        ∧ (let r := s.core x.lead
           let r' := (vaultDone v x c n).core x.lead
           r'.sget 0 = 0 ∧ (∀ k, 16 ≤ k → r'.sget k = r.sget k) ∧ (∀ k, r'.lget k = r.lget k)
             ∧ r'.useV = [] ∧ r'.useA = [] ∧ r'.poisV = [] ∧ r'.poisA = [])

/-- mark.sig puts one signal on the Mark network; mark.wait ends at once when satisfied or at timeout 0, and waits otherwise -/
def Obligations.MarkInstructionsSignalAndWait : Prop :=
  (∀ (s : State) (d : DRef) (mark : Nat) (amount : SVal) (x : Dispatch) (c : Ctx) (n : Nat),
    Stands s d (.markSig d mark amount) { Use.none with rs := svalRegs amount } x c n → mark < x.markCount →
    (s.core x.lead).svalPois amount = false → writesDone s x = true →
    ∃ t, Issues (.markSig d mark amount) d s t
      ∧ t.markNet = s.markNet ++ [⟨x.markBase + mark, ((s.core x.lead).sval amount).toNat % 2 ^ 32, x.ctx, .program x.id x.epoch⟩]
      ∧ t = { s with markNet := t.markNet, disps := t.disps } ∧ t.disp? d = some (x.adv n)
      ∧ ∀ e, e ≠ d → t.disp? e = s.disp? e)
  ∧ (∀ (s : State) (d : DRef) (sd mark : Nat) (f : WaitForm) (x : Dispatch) (c : Ctx) (n th : Nat) (left : Option Nat),
    Stands s d (.markWait d sd mark f) { Use.none with ws := [sd], rs := match f with
      | .short sa => [sa]
      | .long _ _ => [] } x c n →
    mark < x.markCount →
    (∀ sa, f = .short sa → (s.core x.lead).poisS.contains sa = false ∧ th = ((s.core x.lead).sget sa).toNat % 2 ^ 32 ∧ left = none) →
    (∀ a b, f = .long a b → th = a ∧ left = (if b = 0xFFFFFFFF then none else some b)) →
    ∃ t, Issues (.markWait d sd mark f) d s t
      ∧ (th ≤ (s.mark (x.markBase + mark)).value → ∃ r, OnlyCoreAndDispatch s t x.lead r d { x.adv n with wait := none }
          ∧ r = (s.core x.lead).sput sd 1 false)
      ∧ ((s.mark (x.markBase + mark)).value < th → left = some 0 →
          ∃ r, OnlyCoreAndDispatch s t x.lead r d { x.adv n with wait := none } ∧ r = (s.core x.lead).sput sd 0 false)
      ∧ ((s.mark (x.markBase + mark)).value < th → left ≠ some 0 → OnlyDispatch s t d
          { x.adv n with wait := some (.mark sd (x.markBase + mark) th (s.unitTicks 1 x.lead) left) }))

/-- A signal reaches its Mark only where the rules let it: arrivals, host and peer signals, acknowledgements, wait timeouts -/
def Obligations.MarkSignalsFollowOwnership : Prop :=
  (∀ (s : State) (n : Nat) (x : MarkSig), s.markNet[n]? = some x →
    let u := { s with markNet := s.markNet.eraseIdx n }
    (∀ d e y, x.agent = .program d e → s.disp? d = some y → y.epoch ≠ e →
        ∃ t, exec (.markSignalArrival n) s = .next t
          ∧ t = { u with staleDiscards := min (s.staleDiscards + 1) (2 ^ 32 - 1), disps := t.disps }
          ∧ t.disp? d = some { y with stale := min (y.stale + 1) (2 ^ 32 - 1) } ∧ ∀ b, b ≠ d → t.disp? b = s.disp? b)
      ∧ ((∀ d e y, x.agent = .program d e → s.disp? d = some y → y.epoch = e) → (s.mark x.mark).alloc = true →
          (s.mark x.mark).owner = x.ctx →
          ∃ t, exec (.markSignalArrival n) s = .next t ∧ MarkRaised u t x.mark x.amount)
      ∧ (∀ d e y, x.agent = .program d e → s.disp? d = some y → y.epoch = e → markOwned s x.mark x.ctx = false →
          y.fate = none → y.phase ≠ .ended → y.fin = false →
          ∃ t, exec (.markSignalArrival n) s = .next t ∧ OnlyDispatch u t d { y with fate := some ⟨2, 0x07, 2, y.pc⟩ })
      ∧ (x.agent = .starter → markOwned s x.mark x.ctx = false → exec (.markSignalArrival n) s = .next u))
  ∧ (∀ (s : State) (d : DRef) (x : Dispatch) (sd k th start left : Nat), s.disp? d = some x →
      x.wait = some (.mark sd k th start (some left)) → x.phase = .running → x.fate = none →
      start + left + 1 ≤ s.unitTicks 1 x.lead →
      ∃ t, exec (.markWaitTimeout d) s = .next t ∧ OnlyCoreAndDispatch s t x.lead
        ((s.core x.lead).sput sd (if th ≤ (s.mark k).value then 1 else 0) false) d { x with wait := none })
  ∧ (∀ (s : State) (data : Bytes), s.serves = true → s.linkUp = true → data.length = 16 →
      let ctx := field data 0 4
      let k := s.settingN 0x0106 ctx + field data 4 2
      let refused := fun (f : Nat) => { s with hostSig := ⟨f, min (s.hostSig.refused + 1) (2 ^ 32 - 1)⟩ }
      ((allZero data 6 2 = false ∨ allZero data 12 4 = false) → exec (.hostMarkSig data) s = .next (refused 0x04))
      ∧ (allZero data 6 2 = true → allZero data 12 4 = true →
          (s.ctx? ctx = none ∨ s.settingN 0x0107 ctx ≤ field data 4 2 ∨ (s.mark k).hostSig = false ∨ markOwned s k ctx = false) →
          exec (.hostMarkSig data) s = .next (refused 0x07))
      ∧ (∀ c, allZero data 6 2 = true → allZero data 12 4 = true → s.ctx? ctx = some c → field data 4 2 < s.settingN 0x0107 ctx →
          (s.mark k).alloc = true → (s.mark k).owner = ctx → (s.mark k).hostSig = true →
          ∃ t, exec (.hostMarkSig data) s = .next t ∧ MarkRaised s t k (field data 8 4)))
  ∧ (∀ (s : State) (p fromCtx mark amount tag : Nat), p < 16 → carries (s.port p) = true → s.isUp = true →
      let u := s.heardOn p
      let m := s.mark mark
      (mark < 16384 → m.alloc = true → m.peerSig = true → s.settingN (0x0140 + (s.port p).peer) m.owner = fromCtx →
        ∃ v, exec (.peerMarkSignal p fromCtx mark amount tag) s = .next { v with sent := .peerAck p tag false :: v.sent }
          ∧ MarkRaised u v mark amount)
      ∧ ((16384 ≤ mark ∨ m.alloc = false ∨ m.peerSig = false ∨ s.settingN (0x0140 + (s.port p).peer) m.owner ≠ fromCtx) →
        exec (.peerMarkSignal p fromCtx mark amount tag) s = .next { u with sent := .peerAck p tag true :: s.sent }))
  ∧ (∀ (s : State) (p tag : Nat) (denied : Bool), s.sys.peerSigs.any (fun g => g.tag == tag && g.port == p) = true →
      let u := { s.heardOn p with sys := { s.sys with peerSigs := s.sys.peerSigs.filter (fun g => g.tag != tag) } }
      ((∀ b ∈ s.mbs, b.2.wait ≠ some (.ack tag)) → exec (.peerMarkAck p tag denied) s = .next u)
      ∧ ∀ m b, s.mbs.filter (fun y => y.2.wait == some (.ack tag)) = [(m, b)] →
          ∃ t, exec (.peerMarkAck p tag denied) s = .next t ∧ t = respond u m (if denied then .denied .accessDenied else .ok [])
            ∧ (s.mb m = b → (t.mb m).done = true ∧ (t.mb m).busy = false ∧ (t.mb m).wait = none ∧ ∃ r, (t.mb m).rsp = some r
              ∧ r.opcode = b.opcode ∧ r.seq = b.seq ∧ r.fault = (if denied then some .accessDenied else none)))

/-- handoff.out fills the slot and notifies; handoff.in waits, expires at timeout 0 or takes a good answer; HANDOFF_TIMEOUT expires the slot -/
def Obligations.HandoffsFillWaitAndConsumeTheSlot : Prop :=
  (∀ (s s1 : State) (d : DRef) (src : HRef) (slot notify answer tag : Nat) (x : Dispatch) (c : Ctx) (n : Nat) (o : Obj)
      (xs : List Span),
    let size := bodyLen c.param o.h
    let st := field (slotRead s xs 5 1) 0 1
    let ka := x.markBase + answer
    let seq := c.handoffSeq + 1
    let from_ := o.body ++ o.hdrAt
    Stands s d (.handoffOut d src slot notify answer) { Use.none with rd := from_, wr := xs, rs := hrefRegs src } x c n →
    objSrc s x c (s.core x.lead) src = .ok o → slot < (x.set 0x0104).toNat → 1024 + size ≤ slotSize x / 2 →
    notify < x.markCount → answer < x.markCount → (s.mark ka).value < 0xFFFFFFFF → o.h.poisoned = false →
    slotSpans s x c slot = .ok xs → (st = 0 ∨ st = hsConsumed ∨ st = hsExpired ∨ st = hsAbandoned) →
    takeTag s x = some (tag, s1) →
    let y := { x.adv n with slots := x.slots.filter (fun e => e.slot != slot)
                 ++ [⟨slot, seq, tag, o.h.keyset, o.h.scheme, ka, (s.mark ka).value + 1⟩] }
    ∃ t u, Issues (.handoffOut d src slot notify answer) d s t
      ∧ t = (if spansMarked s1.mem from_ then u.meetPoison y .eccUncorrectable x.pc else u.setDisp y).signal
              ⟨x.markBase + notify, 1, x.ctx, .program x.id x.epoch⟩
      ∧ u = (slotWrite (carrySpans (carrySpans (touchReads s1 from_) o.hdrAt (spansSlice xs 256 128) 1 0) o.body
                (spansSlice xs 1024 size) (size / 1024 + 1) 0) xs 0
                (slotHeader c x seq tag (x.markBase + notify) ka ((s.mark ka).value + 1) size)).setCtx { c with handoffSeq := seq })
  ∧ (∀ (s : State) (d : DRef) (dst : HRef) (slot : Nat) (timeout : SVal) (x : Dispatch) (c : Ctx) (n : Nat) (o : Opnd)
      (xs : List Span) (e : HandSlot),
    let hh := slotRead s xs 0 256
    let limit := ((s.core x.lead).sval timeout).toNat % 2 ^ 32
    Stands s d (.handoffIn d dst slot timeout)
      { Use.none with rs := hrefRegs dst ++ svalRegs timeout, wr := xs ++ looseSpans s x c .write o.raw (256 * dSize o.raw 0) } x c n →
    resolve x c (s.core x.lead) dst true true = .ok o → (s.core x.lead).svalPois timeout = false →
    slot < (x.set 0x0104).toNat → slotSpans s x c slot = .ok xs → x.slots.find? (fun y => y.slot == slot) = some e →
    (field hh 5 1 = hsOutReady ∨ field hh 5 1 = hsAnswered) → slotOurs c hh e = true →
    ((s.mark e.mark).value < e.value → limit ≠ 0 → ∃ t, Issues (.handoffIn d dst slot timeout) d s t
        ∧ OnlyDispatch s t d { x with wait := some (.handoff slot o.raw (s.unitTicks 1 x.lead) limit) })
    ∧ ((s.mark e.mark).value < e.value → limit = 0 → x.fin = false →
        ∃ t, Issues (.handoffIn d dst slot timeout) d s t
          ∧ OnlyDispatch (slotWrite s xs 5 (leBytes 1 hsExpired)) t d { x with fate := some ⟨2, 0x0B, 2, x.pc⟩ })
    ∧ (∀ dd ys, e.value ≤ (s.mark e.mark).value → slotSpans s x c e.slot = .ok ys →
        let half := slotSize x / 2
        let ah := slotRead s ys half 128
        let h := answerHdr c (hdrOf ah)
        let size := bodyLen c.param h
        let at_ := spansSlice ys (half + 1024) size
        let pois := h.poisoned || spansMarked s.mem at_ || spansMarked s.mem (spansSlice ys half 128)
        let limb := if h.kind == kindLwe then 4 * h.lweN else 4 * 2 ^ h.logN
        answerFault c (slotRead s ys 0 256) ah e half (1024 * dSize o.raw 0) = none → objDst s x c ⟨0, o.raw⟩ h = .ok dd →
        inWindow s (dd.body ++ dd.hdrAt) = false →
        Issues (.handoffIn d dst slot timeout) d s
          ((((touchReads s at_).writeSpans dd.body (spansPeek s.mem at_) pois).writeSpans dd.hdrAt
              (hdrBytes (resultHdr x c h pois)) false).flown { x with wait := some (.answer e.slot) } 0
            (s.flight x 8 { Use.none with rd := spansSlice ys half 128 ++ at_, wr := dd.body ++ dd.hdrAt ++ spansSlice ys 5 1 }
              [dd.body] [(dd.raw, dd.hdrAt)] limb (size / limb)) pois)))
  ∧ (∀ (s : State) (d : DRef) (x : Dispatch) (c : Ctx) (slot : Nat) (dst : Bytes) (start limit : Nat),
    s.disp? d = some x → s.ctx? x.ctx = some c → x.wait = some (.handoff slot dst start limit) → x.phase = .running →
    x.fate = none → x.fin = false → start + limit + 1 ≤ s.unitTicks 1 x.lead →
    x.slots.any (fun e => e.slot == slot && decide ((s.mark e.mark).value ≥ e.value)) = false →
    ∃ t, exec (.handoffTimeout d) s = .next t
      ∧ OnlyDispatch (setSlotState s x c slot hsExpired (fun st => st == hsOutReady || st == hsAnswered)) t d
          { x with wait := none, fate := some ⟨2, 0x0B, 2, x.pc⟩ })

/-- INSTRUCTION_RETIRE, STREAM_UNIT_COMMIT, STREAM_CREDIT_RETRY and STREAM_EMPTY_RESUME complete with their effect -/
def Obligations.InFlightWorkRetiresAndStreamsMove : Prop :=
  (∀ (s : State) (d : DRef) (n : Nat) (met : Option Upset) (x : Dispatch) (f : InFlight),
    s.disp? d = some x → x.inflight[n]? = some f → x.phase = .running → x.fate = none →
    s.coresRun x = true → s.isUp = true → x.oldest n f = true →
    let y := { x with inflight := x.inflight.eraseIdx n }
    (f.engine ≠ 8 → (met = none ∨ ∃ core k p, met = some (.product core k p)
          ∧ (f.multiplies y = false ∨ limbCore y f k core = false ∨ checksPass p = true)) →
        ∃ t, exec (.instructionRetire d n met) s = .next t
          ∧ t = { s with disps := t.disps, keyCopies := t.keyCopies, dma := t.dma }
          ∧ t.disp? d = some y ∧ (∀ e, e ≠ d → t.disp? e = s.disp? e)
          ∧ ((∀ k ∈ s.keyCopies, k.stage ≠ .evicted ∧ k.stage ≠ .waiting) → t.keyCopies = s.keyCopies ∧ t.dma = s.dma)
          ∧ ∀ k ∈ s.keyCopies, k.stage = .evicted → (∀ e ∈ s.disps, e.id ≠ d → ∀ g ∈ e.inflight, g.use.copy ≠ some k.order) →
              (∀ g ∈ y.inflight, g.use.copy ≠ some k.order) → k ∉ t.keyCopies)
      ∧ (f.engine ≠ 8 → ∀ core k p, met = some (.product core k p) → f.multiplies y = true → limbCore y f k core = true →
          checksPass p = false → (s.fence.residues.filter (fun e => e.1 == core)).length + 1 < s.settingN 0x031D 0 →
          ∃ t, exec (.instructionRetire d n met) s = .next t ∧ t.disp? d = some (y.poison .residueCheck f.instr)
            ∧ (t.core core).status.toNat / 65536 = min ((s.core core).status.toNat / 65536 + 1) 65535
            ∧ (t.core core).status.toNat / 16 % 2 = 1 ∧ (t.core x.lead).status.toNat / 16 % 2 = 1
            ∧ ∀ r, f.use.wv[k]? = some r → f.use.wt = [] → (t.core x.lead).poisV.contains r = true)
      ∧ (f.engine ≠ 8 → ∀ core k, met = some (.registerUe core k) → y.cores.contains core = true → f.use.rv ≠ [] →
          (∀ e ∈ s.fence.sramUe, e.1 ≠ core) →
          ∃ t, exec (.instructionRetire d n met) s = .next t ∧ t.disp? d = some (y.poison .eccUncorrectable f.instr)
            ∧ (t.core x.lead).status.toNat / 16 % 2 = 1
            ∧ ∀ r, f.use.wv[k]? = some r → f.use.wt = [] → (t.core x.lead).poisV.contains r = true)
      ∧ (f.engine = 8 → met = none → ∀ slot c, x.wait = some (.answer slot) → s.ctx? x.ctx = some c →
          ∃ t, exec (.instructionRetire d n met) s = .next t
            ∧ t.disp? d = some { y.adv 2 with wait := none, slots := x.slots.filter (fun e => e.slot != slot) }
            ∧ t = { s with disps := t.disps, keyCopies := t.keyCopies, dma := t.dma, mem :=
                (setSlotState (s.setDisp y) y c slot hsConsumed (fun st => st == hsAnswered)).mem }))
  ∧ (∀ (s : State) (d : DRef) (slot : Nat) (err : MemErr) (x : Dispatch) (c : Ctx) (t : Stream) (u : SUnit) (r : Except Stop State),
    s.running d = some (x, c) → x.stream? slot = some t → t.units[t.done]? = some u → t.state = .running → t.slot < 8 →
    r = (match t.kind with
      | .ld => moveUnit s x c t u (.desc t.mem) t.other true err
      | .st => moveUnit s x c t u t.other (.desc t.mem) false err
      | .get => getUnit s x c t u err
      | .put => putUnit s x c t u err) →
    (∀ v, r = .ok v → exec (.streamUnitCommit d slot err) s = .next (fillSlot v d))
      ∧ (∀ e, r = .error e → exec (.streamUnitCommit d slot err) s = .next (streamHalt s x t e))
      ∧ (∀ f, r = .error (.fault f) → ∃ v, exec (.streamUnitCommit d slot err) s = .next v
          ∧ OnlyDispatch s v d { x with fate := some ⟨2, f.code, 2, t.instr⟩ }))
  ∧ (∀ (s : State) (d : DRef) (slot : Nat) (x : Dispatch) (c : Ctx) (t : Stream),
    s.running d = some (x, c) → x.stream? slot = some t → t.state = .haltCredit → t.reqOpen = false → t.nextReq ≤ x.ck3 →
    let want := min 256 (t.units.length - t.done)
    (t.tmod = none → ∃ v, exec (.streamCreditRetry d slot) s = .next
          { v with net := s.net ++ [.crReq none (putMgr t) ⟨none, x.lead, x.ctx, x.epoch⟩ t.window want] }
        ∧ OnlyDispatch s v d (x.setStream { t with reqOpen := true, port := none }))
      ∧ (∀ m p, t.tmod = some m → (bundle s m).head? = some p → ∃ v, exec (.streamCreditRetry d slot) s = .next
          { v with sent := .crReq (some m) (putMgr t) ⟨some s.sys.modNum, x.lead, x.ctx, x.epoch⟩ t.window want :: s.sent }
        ∧ OnlyDispatch s v d (x.setStream { t with reqOpen := true, port := some p }))
      ∧ (∀ m, t.tmod = some m → bundle s m = [] → ∃ v, exec (.streamCreditRetry d slot) s = .next v
        ∧ OnlyDispatch s v d { x.setStream t with fate := some ⟨2, 0x0A, 2, t.instr⟩ }))
  ∧ (∀ (s : State) (d : DRef) (slot : Nat) (x : Dispatch) (c : Ctx) (t : Stream) (u : SUnit) (m : Mgr) (w : Window) (b : Nat),
    s.running d = some (x, c) → x.stream? slot = some t → t.state = .haltEmpty → t.units[t.done]? = some u →
    getBlock s x t u = some (m, w, b) → w.blocks[b]? = some .full →
    ∃ v, exec (.streamEmptyResume d slot) s = .next v ∧ OnlyDispatch s v d (x.setStream { t with state := .running }))

/-- A unit loaded into registers writes exactly the unit's words to its register, and DONE advances by one -/
def Obligations.StreamUnitsLandWholeAndOnce : Prop :=
  ∀ (s : State) (d : DRef) (slot first : Nat) (x : Dispatch) (c : Ctx) (t : Stream) (u : SUnit) (xs : List Span),
    s.running d = some (x, c) → x.stream? slot = some t → t.units[t.done]? = some u → t.state = .running → t.slot < 8 →
    t.kind = .ld → t.other = .regs first → unitSpans s x c .read t.mem u = .ok xs → spansMarked s.mem xs = false →
    x.cls ≠ .sprint →
    ∃ v, exec (.streamUnitCommit d slot .none) s = .next v
      ∧ v.mem = (touchReads (walkSpans s (.core x.lead) c .read xs) xs).mem
      ∧ v.core x.lead = (s.core x.lead).vWrite (first + t.done) (convWords t true u (spansPeek s.mem xs)) false
      ∧ (∀ k, k ≠ x.lead → v.core k = s.core k)
      ∧ ((∀ z ∈ x.streams, z.slot < 8) → t.done + 1 < t.units.length →
          v.disp? d = some (x.setStream { t with done := t.done + 1, epoch := x.epoch }))
      ∧ ((∀ z ∈ x.streams, z.slot < 8) → t.units.length ≤ t.done + 1 → v.disp? d = some (x.dropStream t))

/-- CR_REQ, CR_GRANT, PUT, CR_RETURN, CR_CANCEL and CREDIT_TIMEOUT complete on the manager or the stream they reach -/
def Obligations.CreditManagersGrantPutReturnAndCancel : Prop :=
  (∀ (s u : State) (mgr : Mgr) (y : Sender) (win want : Nat), s.isUp = true → 1 ≤ want → want ≤ 256 →
      Reaches s y.module (fun m => m = .crReq none mgr y win want) u →
      (∀ w b, (u.mgr mgr).windows.find? (fun w => w.num == win) = some w → mgrServes u mgr = true → windowAccepts u w y = true →
        (u.mgr mgr).grants.length < 1024 → freeFirst (u.mgr mgr) w = some b →
        let n := freeRun (u.mgr mgr) w want b
        ∃ v g, OnlyManager u v mgr { u.mgr mgr with grants := (u.mgr mgr).grants ++ [g], nextGrant := (u.mgr mgr).nextGrant + 1 }
          ∧ exec (.crReq mgr y win want) s = .next (told v y.module.isSome (.crGrant y mgr win (u.mgr mgr).nextGrant b n .granted))
          ∧ g.num = (u.mgr mgr).nextGrant ∧ g.window = win ∧ g.sender = y ∧ g.first = b ∧ g.count = n ∧ g.puts = [] ∧ g.returned = 0
          ∧ 1 ≤ n ∧ n ≤ want ∧ ∀ i, i < n → w.blocks[b + i]? = some .empty ∧ blockLent (u.mgr mgr) win (b + i) = false)
      ∧ (∀ w, (u.mgr mgr).windows.find? (fun w => w.num == win) = some w → mgrServes u mgr = true → windowAccepts u w y = true →
          (1024 ≤ (u.mgr mgr).grants.length ∨ ∀ b, w.blocks[b]? = some .empty → blockLent (u.mgr mgr) win b = true) →
          exec (.crReq mgr y win want) s = .next (told u y.module.isSome (.crGrant y mgr win 0 0 0 .wait)))
      ∧ ((∀ w, (u.mgr mgr).windows.find? (fun w => w.num == win) = some w → mgrServes u mgr = false ∨ windowAccepts u w y = false) →
          exec (.crReq mgr y win want) s = .next (told u y.module.isSome (.crGrant y mgr win 0 0 0 .noWindow))))
  ∧ (∀ (s u : State) (d : DRef) (slot epoch grant first count : Nat) (st : GrantStatus) (x : Dispatch) (t : Stream),
      s.holding d = some x → x.stream? slot = some t → t.kind = .put →
      ReachesStream s t (fun m => ∃ y, m = .crGrant y (putMgr t) t.window grant first count st ∧ y.ctx = x.ctx ∧ y.epoch = epoch) u →
      let act : StreamState := if x.phase = .saved then .stopped else .running
      (epoch = x.epoch → t.reqOpen = true →
        (st = .granted → ∃ v, exec (.crGrant d slot epoch grant first count st) s = .next v ∧ OnlyDispatch u v d (x.setStream { t with
            state := act, grant := grant, gFirst := first, gCount := count, gSent := 0, gRet := 0, gBase := t.done,
            reqOpen := false, port := t.tmod.bind (fun m => grantPort u m grant) }))
          ∧ (st = .wait → ∃ v, exec (.crGrant d slot epoch grant first count st) s = .next v ∧ OnlyDispatch u v d (x.setStream { t with
            state := .haltCredit, reqOpen := false, nextReq := x.ck3 + 3 * 512 }))
          ∧ (st = .noWindow → ∃ v, exec (.crGrant d slot epoch grant first count st) s = .next v ∧ OnlyDispatch u v d
            { x.setStream { t with reqOpen := false, noWindow := true } with fate := some ⟨2, 0x0D, 2, t.instr⟩ }))
      ∧ (epoch ≠ x.epoch → t.tmod = none → ∃ v, exec (.crGrant d slot epoch grant first count st) s = .next v
          ∧ OnlyDispatch { u with staleDiscards := min (u.staleDiscards + 1) (2 ^ 32 - 1) } v d
              { x with stale := min (x.stale + 1) (2 ^ 32 - 1) }))
  ∧ (∀ (s u : State) (mgr : Mgr) (y : Sender) (grant block : Nat) (payload : Bytes) (marked : Bool),
      ((y.module = none ∧ Reaches s none (fun m => m = .put none mgr y grant block payload marked) u)
        ∨ (∃ k, y.module = some k ∧ lanes s k ≠ [] ∧ s.isUp = true
            ∧ u = match ((s.mgr mgr).grants.find? (fun g => g.num == grant)).bind (fun g => g.port) with
              | some p => s.heardOn p
              | none => s.heardFrom k)) →
      (∀ g w xs, (u.mgr mgr).grants.find? (fun g => g.num == grant) = some g → g.sender.epoch = y.epoch →
        block = g.first + g.puts.length → g.puts.length < g.count → payload.length = 1024 →
        (u.mgr mgr).windows.find? (fun w => w.num == g.window) = some w → windowSpans u mgr w block = .ok xs →
        ∃ v m w', OnlyManager u v mgr m ∧ m = { u.mgr mgr with windows := m.windows, grants := m.grants }
          ∧ m.windows.find? (fun w => w.num == g.window) = some w' ∧ w' = { w with blocks := w'.blocks }
          ∧ (block < w.blocks.length → w'.blocks[block]? = some .full) ∧ (∀ b, b ≠ block → w'.blocks[b]? = w.blocks[b]?)
          ∧ (m.grants.find? (fun g => g.num == grant)).map (fun g => g.puts) = some (g.puts ++ [block])
          ∧ (w.mark = none → exec (.put mgr y grant block payload marked) s = .next (v.writeSpans xs payload marked))
          ∧ (∀ k, w.mark = some k → exec (.put mgr y grant block payload marked) s = .next
              ((v.writeSpans xs payload marked).signal ⟨k, 1, w.ctx, .program w.owner w.epoch⟩)))
      ∧ ((∀ g, (u.mgr mgr).grants.find? (fun g => g.num == grant) = some g → g.sender.epoch ≠ y.epoch) →
          ∃ v, exec (.put mgr y grant block payload marked) s = .next v
            ∧ OnlyManager u v mgr { u.mgr mgr with staleCount := min ((u.mgr mgr).staleCount + 1) (2 ^ 16 - 1) }))
  ∧ (∀ (s u : State) (d : DRef) (slot epoch grant count : Nat) (x : Dispatch) (t : Stream),
      s.holding d = some x → x.stream? slot = some t → t.kind = .put →
      ReachesStream s t (fun m => ∃ y, m = .crReturn y (putMgr t) grant count ∧ y.ctx = x.ctx ∧ y.epoch = epoch) u →
      let back := t.gRet + count
      (epoch = x.epoch → grant ≠ 0 → t.grant = grant → back ≤ t.gSent →
        (back < t.gCount → ∃ v, exec (.crReturn d slot epoch grant count) s = .next v
            ∧ OnlyDispatch u v d (x.setStream { t with gRet := back }))
          ∧ (t.gCount ≤ back → t.units.length ≤ t.done → (∀ z ∈ x.streams, z.slot < 8) →
            ∃ v, exec (.crReturn d slot epoch grant count) s = .next v ∧ OnlyDispatch u v d (x.dropStream t))
          ∧ (t.gCount ≤ back → t.done < t.units.length → x.phase = .saved →
            ∃ v, exec (.crReturn d slot epoch grant count) s = .next v
              ∧ OnlyDispatch u v d (x.setStream { t with gRet := back, grant := 0 }))
          ∧ (t.gCount ≤ back → t.done < t.units.length → x.phase = .running → t.tmod = none →
            ∃ v, exec (.crReturn d slot epoch grant count) s = .next (told v false
                (.crReq none (putMgr t) ⟨none, x.lead, x.ctx, x.epoch⟩ t.window (min 256 (t.units.length - t.done))))
              ∧ OnlyDispatch u v d (x.setStream { t with gRet := back, grant := 0, reqOpen := true, port := none })))
      ∧ (epoch ≠ x.epoch → ∃ v, exec (.crReturn d slot epoch grant count) s = .next v
          ∧ OnlyDispatch { u with staleDiscards := min (u.staleDiscards + 1) (2 ^ 32 - 1) } v d
              { x with stale := min (x.stale + 1) (2 ^ 32 - 1) }))
  ∧ (∀ (s u : State) (d : DRef) (slot grant : Nat) (r : CancelReason) (x : Dispatch) (t : Stream),
      s.holding d = some x → x.stream? slot = some t → t.kind = .put → grant ≠ 0 → t.grant = grant →
      ReachesStream s t (fun m => ∃ y, m = .crCancel y (putMgr t) grant r ∧ y.ctx = x.ctx ∧ y.epoch = x.epoch) u →
      let back := { t with done := t.gBase + t.gRet, grant := 0, gFirst := 0, gCount := 0, gSent := 0, gRet := 0, reqOpen := false }
      (r = .link → ∃ v, exec (.crCancel (.stream d slot) grant r) s = .next v
          ∧ OnlyDispatch u v d { x.setStream back with fate := some ⟨2, 0x0A, 2, t.instr⟩ })
        ∧ (r ≠ .link → r ≠ .epoch → ∃ v, exec (.crCancel (.stream d slot) grant r) s = .next v
          ∧ OnlyDispatch u v d { x.setStream back with fate := some ⟨2, 0x0D, 2, t.instr⟩ })
        ∧ (r = .epoch → x.phase = .saved → ∃ v, exec (.crCancel (.stream d slot) grant r) s = .next v
          ∧ OnlyDispatch u v d (x.setStream { back with state := .stopped }))
        ∧ (r = .epoch → x.phase = .running → t.tmod = none → ∃ v, exec (.crCancel (.stream d slot) grant r) s = .next
              (told v false (.crReq none (putMgr t) ⟨none, x.lead, x.ctx, x.epoch⟩ t.window
                (min 256 (t.units.length - (t.gBase + t.gRet)))))
            ∧ OnlyDispatch u v d (x.setStream { back with state := .running, reqOpen := true, port := none })))
  ∧ (∀ (s : State) (m : Mgr) (y : Sender) (grant k : Nat) (r : CancelReason) (g : Grant), y.module = some k →
      (s.mgr m).grants.find? (fun z => z.num == grant && z.sender == y) = some g →
      ∃ v x, exec (.crCancel (.manager m y) grant r) s = .next v
        ∧ OnlyManager (match g.port with
            | some p => s.heardOn p
            | none => s) v m x
        ∧ GrantEnded (s.mgr m) x g)
  ∧ (∀ (s : State) (mgr : Mgr) (grant : Nat) (g : Grant), (s.mgr mgr).grants.find? (fun y => y.num == grant) = some g →
      g.lastTick + s.settingN 0x0303 0 + 1 ≤ mgrTicks s mgr g.sender →
      ∃ v x, exec (.creditTimeout mgr grant) s = .next (told v g.sender.module.isSome (.crCancel g.sender mgr grant .timeout))
        ∧ OnlyManager s v mgr x ∧ GrantEnded (s.mgr mgr) x g)

/-- PAGE_WALK, MARSHAL_FAULT_SERVICE, PAGE_FILL_COMPLETE, PAGE_REWALK, FAULT_WAIT_EXPIRY and DMA_TRANSFER_COMPLETE complete -/
def Obligations.PagingFillsWaitsAndEnds : Prop :=
  (∀ (s : State) (u : XUnit) (ctx va : Nat) (acc : Access) (c : Ctx) (b z p : Nat) (rd wr : Bool) (ls : List Nat),
    s.ctx? ctx = some c → s.isUp = true → xunitServes s u = true → va < 2 ^ 48 → walk s c va acc = .leaf b z p rd wr ls →
    ∃ t, exec (.pageWalk u ctx va acc) s = .next t
      ∧ t = { touchLines s ls with mem := { (touchLines s ls).mem with xlate := t.mem.xlate } }
      ∧ t.mem.xlate.head? = some ⟨u, ctx, b, z, p, rd, wr, ls⟩
      ∧ (∀ e ∈ (touchLines s ls).mem.xlate, e.unit ≠ u → e ∈ t.mem.xlate)
      ∧ (t.mem.xlate.filter (fun e => e.unit == u)).length ≤ (match u with
          | .core _ => 64
          | .die _ => 4096))
  ∧ (∀ (s : State) (ctx va : Nat) (w : PageWait), pageWait? s ctx va = some w → w.started = false → s.isUp = true →
    (w.fill = true → frameOk s ctx w.entry = false →
        ∃ t, exec (.marshalFaultService ctx va) s = .next t ∧ PageEnded s t ctx va w .accessDenied)
      ∧ (w.fill = true → frameOk s ctx w.entry = true → s.linkUp = false →
        ∃ t, exec (.marshalFaultService ctx va) s = .next t ∧ PageEnded s t ctx va w .linkLost)
      ∧ (w.fill = true → frameOk s ctx w.entry = true → s.linkUp = true →
        (s.pageWaits.filter (fun v => v.fill && v.started)).length < 64 →
        let die := hbmDie (fillFrame w.entry)
        ∃ t, exec (.marshalFaultService ctx va) s = .next t ∧ t = { s with pageWaits := t.pageWaits, dma := t.dma }
          ∧ t.dma = s.dma ++ [⟨die, freeEngine s die, .fill ctx w.page⟩]
          ∧ pageWait? t ctx va = some { w with started := true })
      ∧ (w.fill = false →
        let w' := { w with started := true, posted := true, since := s.now, limit := s.settingN 0x0312 0 }
        ∃ t l, exec (.marshalFaultService ctx va) s = .next t ∧ t = waitRec (setWait s w') w' .pageNotPresent 1 l
          ∧ t.ev.seq = s.ev.seq + 1 ∧ pageWait? t ctx va = some w'))
  ∧ (∀ (s : State) (ctx va : Nat) (ue : List Nat) (w : PageWait), pageWait? s ctx va = some w → w.fill = true → w.started = true →
    s.dma.any (fun b => b.job == .fill ctx w.page && b.engine.isNone) = false → s.linkUp = true →
    let u := endDma s (fun b => b.job == .fill ctx w.page)
    (entryNow u w = w.entry → ∃ t, exec (.pageFillComplete ctx va ue) s = .next t
        ∧ t = waitRec (resumePage (dropWait (markFrame (doFill u w.entryPa w.entry) w.entry ue) w) ctx w.page) w .pageNotPresent 3 3
        ∧ PageResumed s t ctx va w)
      ∧ (entryNow u w ≠ w.entry → exec (.pageFillComplete ctx va ue) s = .next (rewalk u { w with started := false })))
  ∧ (∀ (s : State) (ctx va : Nat) (w : PageWait) (c : Ctx), pageWait? s ctx va = some w → w.fill = false → w.started = true →
    (entryNow s w ≠ w.entry ∨ w.lastWalk + 125 ≤ s.now) → s.ctx? ctx = some c →
    ∃ t, exec (.pageRewalk ctx va) s = .next t
      ∧ (∀ b z p rd wr ls, walk s c w.va w.acc = .leaf b z p rd wr ls → PageResumed s t ctx va w)
      ∧ (∀ f l, walk s c w.va w.acc = .bad f l → PageEnded s t ctx va w f)
      ∧ (∀ l ea e, walk s c w.va w.acc = .absent l ea e → t = { s with pageWaits := t.pageWaits }
          ∧ pageWait? t ctx va = some { w with entryPa := ea, entry := e, fill := decide (e / 2 % 4 = 1),
                                               started := decide (e / 2 % 4 ≠ 1), lastWalk := s.now }))
  ∧ (∀ (s : State) (ctx va : Nat) (w : PageWait), pageWait? s ctx va = some w → w.posted = true →
    w.since + w.limit + 1 ≤ s.now →
    ∃ t, exec (.faultWaitExpiry ctx va) s = .next t ∧ PageEnded s t ctx va w .pageNotPresent)
  ∧ (∀ (s : State) (die engine : Nat) (b : DmaBusy),
    s.dma.find? (fun y => y.die == die && y.engine == some engine) = some b →
    ∃ t, exec (.dmaTransferComplete die engine) s = .next t ∧ t = { s with dma := t.dma }
      ∧ (∀ w a r, s.dma.erase b = a ++ w :: r → w.die = die → w.engine = none → (∀ y ∈ a, y.die = die → y.engine ≠ none) →
          w ∉ r → t.dma = a ++ { w with engine := some engine } :: r)
      ∧ ((∀ y ∈ s.dma.erase b, y.die = die → y.engine ≠ none) → t.dma = s.dma.erase b))

/-- QUEUE_DOORBELL moves the producer count; DISPATCH_RECORD_READ consumes one record and makes its dispatch, or refuses it -/
def Obligations.DoorbellsCountAndRecordsBecomeDispatches : Prop :=
  (∀ (s : State) (q v : Nat) (x : Queue), s.linkUp = true → s.isUp = true → bellWaits s = false → s.queue? q = some x →
      let n := (v % 2 ^ 32 + 2 ^ 32 - x.consumed % 2 ^ 32) % 2 ^ 32
      (n ≤ 2 ^ x.k → x.prod - x.consumed ≤ n → ∃ t y, exec (.queueDoorbell q v) s = .next t ∧ t = s.setQueue y
        ∧ y = { x with prod := x.consumed + n, bells := y.bells }
        ∧ (x.consumed + n ≠ x.prod → (x.consumed + n, s.now) ∈ y.bells))
      ∧ ((2 ^ x.k < n ∨ n < x.prod - x.consumed) → exec (.queueDoorbell q v) s = .next s))
  ∧ (∀ (s u : State) (q : Nat) (x : Queue) (c : Ctx) (xs : List Span) (b : Bytes),
      s.queue? q = some x → s.ctx? x.ctx = some c → s.admits = true → recordReady x = true →
      readerRead s c ⟨9, some (newDispatch s c x [])⟩ (x.ringVa + x.consumed % 2 ^ x.k * 64) 64 = (u, .ok (xs, b, false)) →
      u.queue? q = some x → u.disp? ⟨q, x.consumed + 1⟩ = none →
      (∀ m w, (m, w) ∈ u.mbs → w.wait ≠ some (.abort ⟨q, x.consumed + 1⟩)) →
      (recordOk u c x b = true → x.cls ≠ .sprint →
        (newDispatch u c x b).prog.pins.all (keyLoaded c) = true → shapeOf (newDispatch u c x b) ≤ unitsInService u x.cls →
        ∃ t y z, exec (.dispatchRecordRead q) s = .next t ∧ t.disp? ⟨q, x.consumed + 1⟩ = some y ∧ y.phase = .waiting
          ∧ y.fate = none ∧ y.record = b ∧ y.ctx = c.num ∧ y.cls = x.cls ∧ y.epoch = t.epochNow
          ∧ (∀ e, e ≠ ⟨q, x.consumed + 1⟩ → t.disp? e = u.disp? e)
          ∧ t.queue? q = some z ∧ z.consumed = x.consumed + 1 ∧ z.prod = x.prod
          ∧ assoc (x.consumed + 1) z.results = some .pending)
      ∧ (recordOk u c x b = false → ∃ t z w, exec (.dispatchRecordRead q) s = .next t ∧ t.queue? q = some z
          ∧ z.consumed = x.consumed + 1 ∧ assoc (x.consumed + 1) z.results = some (.written w)
          ∧ field w 14 1 = 3 ∧ field w 16 1 = 0x04))

/-- DISPATCH_PLACE, DISTANCE_YIELD_EXPIRY, DISPATCH_RESUME, MIGRATION, PLACE_WINDOW_EXPIRY and STAGE_END_RETIRE complete -/
def Obligations.PlacementsRunResumeAndMove : Prop :=
  (∀ (s : State) (d : DRef) (relays : List Nat) (x : Dispatch) (c : Ctx), waiting? s d = some x → s.ctx? x.ctx = some c →
    s.admits = true → someoneFirst s x = false → policyMet s x relays = true → mayTake s x relays = true → orderMet s x = true →
    verdict s x (coresOf s relays) = .ok →
    ∃ t y, exec (.dispatchPlace d relays) s = .next t ∧ t.disp? d = some y ∧ y.phase = .running ∧ y.relays = relays
      ∧ y.cores = coresOf s relays ∧ y.pc = x.pc ∧ y.epoch = x.epoch ∧ y.lastMove = s.now
      ∧ (∀ e, e ≠ d → t.disp? e = s.disp? e) ∧ t.queues = s.queues ∧ t.marks = s.marks ∧ t.ctxs = s.ctxs)
  ∧ (∀ (s : State) (d : DRef) (relays : List Nat) (x : Dispatch) (c : Ctx), waiting? s d = some x →
    s.admits = true → x.cls = .middle → s.now ≥ x.waitSince + s.settingN 0x030E 0 + 1 → someoneFirst s x = false →
    policyMet (preemptOn s (List.range 32) (fun y => y.cls == .distance)) x relays = true →
    let u := preemptOn s relays (fun y => y.cls == .distance)
    u.ctx? x.ctx = some c → mayTake u x relays = true → orderMet u x = true → verdict u x (coresOf u relays) = .ok →
    ∃ t, exec (.distanceYieldExpiry d relays) s = .next t ∧ t = placeOn u c x relays
      ∧ (u.disp? d = some x → ∃ y, t.disp? d = some y ∧ y.phase = .running ∧ y.relays = relays)
      ∧ (∀ e, e ≠ d → t.disp? e = u.disp? e))
  ∧ (∀ (s : State) (d : DRef) (x : Dispatch) (c : Ctx), s.disp? d = some x → s.ctx? x.ctx = some c →
    s.isUp = true → x.phase = .saved → x.fate = none → x.relays.all (relayFree s d) = true →
    coresOf s x.relays = x.cores →
    ∃ t, exec (.dispatchResume d) s = .next t ∧ t = askGrants (restoreDispatch s c { x with redivide := false }) d
      ∧ (∀ f, x.frame = some f → x.wait = none → x.streams = [] →
        t.disp? d = some { x with phase := .running, frame := none, redivide := false }
        ∧ t.core x.lead = restoreRegs c (s.core x.lead) f.regs ∧ (∀ k, k ≠ x.lead → t.core k = s.core k)
        ∧ (∀ e, e ≠ d → t.disp? e = s.disp? e)
        ∧ t.mem = { s.mem with ob := scratchPutPart s.mem.ob (obStart x.lead) (3 * 65536) f.ob }))
  ∧ (∀ (s : State) (d : DRef) (relays : List Nat) (x : Dispatch) (c : Ctx), s.disp? d = some x → s.ctx? x.ctx = some c →
    s.isUp = true → (x.phase = .running ∨ x.phase = .saved) → x.fate = none →
    (x.redivide = true ∨ (x.cls ≠ .sprint ∧ x.phase = .saved)) → sameShape s x relays = true →
    ∃ t, exec (.migration d relays) s = .next t ∧ t = migrateTo s c x relays
      ∧ (x.phase = .saved → x.wait = none → x.streams = [] → ∃ y, t.disp? d = some y ∧ y.phase = .running ∧ y.relays = relays
          ∧ y.cores = coresOf s relays ∧ y.migrations = min (x.migrations + 1) 0xFFFF ∧ y.pc = x.pc ∧ y.redivide = false))
  ∧ (∀ (s : State) (die : Nat), s.isUp = true → die < 2 → die < s.meters.length →
    let m := s.meter die
    let on := measuredOn s die
    let u := { s.modMeter die (fun m => { m with placeSince := s.now, keyCur := 0, keyRate := m.keyCur / max 1 (s.now - m.placeSince) })
               with disps := s.disps.map (fun x => if on.any (fun y => y.id == x.id) then measured s x else x) }
    m.placeSince + s.settingN 0x030F 0 + 1 ≤ s.now →
    ((∀ x ∈ on, s.disp? x.id = some x) → (∀ x ∈ on, x.cls = .sprint ∨ x.redivide = true ∨ x.fate ≠ none ∨ s.now < x.lastMove + s.settingN 0x0311 0) →
      ∃ t, exec (.placeWindowExpiry die) s = .next t ∧ t = { s with meters := t.meters, disps := t.disps }
        ∧ t.meter die = { m with placeSince := s.now, keyCur := 0, keyRate := m.keyCur / max 1 (s.now - m.placeSince) }
        ∧ (∀ k, k ≠ die → t.meter k = s.meter k)
        ∧ ∀ d x, s.disp? d = some x → t.disp? d = some (if on.any (fun y => y.id == d) then measured s x else x))
      ∧ (∀ x c p since relays, on = [x] → s.disp? x.id = some x → s.ctx? x.ctx = some c → x.cls ≠ .sprint → x.redivide = false →
          x.fate = none → ratePercent s x = some p → (measured s x).slow = some since →
          since + s.settingN 0x0311 0 ≤ s.now → x.lastMove + s.settingN 0x0311 0 ≤ s.now →
          rebalanceTo u c (measured s x) p = some relays →
          exec (.placeWindowExpiry die) s = .next (migrateTo u c (measured s x) relays)))
  ∧ (∀ (s : State) (d : DRef) (x : Dispatch), s.acts d = some x → x.stage = .ending → x.streams = [] → x.inflight = [] →
    let y := { x with stage := .between, doneCk := x.doneCk + stageCount s x, runCk := x.runCk + (x.ck3 - x.stageCk3) / 3 }
    let u := releaseDead s y
    ((x.redivide = false ∨ shapeFree u y = true) → ∃ t r, exec (.stageEndRetire d) s = .next t
        ∧ OnlyCoreAndDispatch s t x.lead r d y
        ∧ r = { s.core x.lead with useV := r.useV, useA := r.useA, poisV := r.poisV, poisA := r.poisA }
        ∧ (∀ n, r.useV.contains n = ((s.core x.lead).useV.contains n && y.reads (asks n RegUse.rv RegUse.kv)))
        ∧ ∀ n, r.useA.contains n = ((s.core x.lead).useA.contains n && y.reads (asks n RegUse.rt RegUse.kt)))
      ∧ (x.redivide = true → shapeFree u y = false → exec (.stageEndRetire d) s = .next (redivideAt (u.setDisp y) y)))

/-- DISPATCH_COMMIT ends the dispatch once, with the outcome that won, and puts its completion record into the result store -/
def Obligations.CommitWritesOneCompletionRecord : Prop :=
  ∀ (s : State) (d : DRef) (x : Dispatch) (o : Fate), s.disp? d = some x → outcomeOf x = some o → x.phase ≠ .ended →
    ∃ t y, exec (.dispatchCommit d) s = .next t ∧ t.disp? d = some y ∧ y.phase = .ended ∧ y.relays = [] ∧ y.cores = []
      ∧ y.streams = [] ∧ y.inflight = [] ∧ y.slots = [] ∧ exec (.dispatchCommit d) t = .next t
      ∧ (∀ q, s.queue? d.queue = some q → q.ctx = x.ctx → ∃ z w, t.queue? d.queue = some z
          ∧ assoc d.seq z.results = some (.written w)
          ∧ w.length = 128 ∧ field w 0 8 = d.seq % 2 ^ 64 ∧ field w 12 2 = d.queue % 2 ^ 16
          ∧ field w 14 1 = o.outcome % 2 ^ 8 ∧ field w 16 1 = o.fault % 2 ^ 8
          ∧ ∀ n, n ≠ d.seq → assoc n z.results = assoc n q.results)

/-- Every mailbox row: held behind host-window writes, OVERRUN on a busy mailbox, ST_DENIED with its fault on a general refusal -/
def Obligations.MailboxProtocolHoldsForEveryRow : Prop :=
  (∀ (op m : Nat) (r : MbReq) (i : Instr) (s : State), mailboxRow op m r = some i → m < 64 → s.linkUp = true →
      marshalUp s = true → s.rsp.restartDue = false →
      (bellWaits s = true → exec i s = .next ((s.setMb m { s.mb m with req := slotBytes (s.mb m).req op r }).holdAtLink
          (heldBell m (slotBytes (s.mb m).req op r))))
      ∧ (bellWaits s = false → (s.mb m).busy = true → exec i s = .next (s.setMb m { s.mb m with overrun := true }))
      ∧ (∀ f, bellWaits s = false → (s.mb m).busy = false → generalRefusal s op m r = some f → ∃ t b v, exec i s = .next t
          ∧ t = { s with mbs := t.mbs, sent := t.sent } ∧ t.mb m = b ∧ (∀ k, k ≠ m → t.mb k = s.mb k)
          ∧ b.busy = false ∧ b.done = true ∧ b.overrun = (s.mb m).overrun ∧ b.rsp = some v ∧ v.opcode = op ∧ v.seq = r.seq
          ∧ v.status = .denied ∧ v.fault = some f ∧ v.payload = []
          ∧ t.sent = (if bit r.flags 0 then Msg.interrupt m :: s.sent else s.sent)))
  ∧ (∀ (op m v : Nat) (r : MbReq) (i : Instr) (s : State), m < 64 → s.linkUp = true → marshalUp s = true →
      parseReq (s.mb m).req = (op, r) → mailboxRow op m r = some i →
      exec (.registerWrite (.aperture (0x10000 + 16 * m)) 8 v) s = exec i { s with linkRetry := 0 })

/-- CTX_CREATE, CTX_DESTROY, CTX_INFO, DESC_SET and DESC_FREE answer ST_OK with their effect -/
def Obligations.ContextsAndDescriptorsAreManaged : Prop :=
  (∀ (s : State) (m n : Nat) (r : MbReq), Carried s 0x01 m r →
      let t := taken s 0x01 m r
      let p := slice r.payload 0 320
      allZero r.payload 337 3 = true → lcState t ≠ 0 → lcState t ≠ 3 → paramOk p = true →
      (∀ c, c ∈ s.ctxs → pId c.param = pId p → c.psh = pshOf p) → 2 ≤ field r.payload 320 4 → field r.payload 320 4 ≤ 2 ^ 24 →
      field r.payload 336 1 = 0 → ptRootOk (field r.payload 328 8) = true → n < 2 ^ 20 → s.ctx? n = none →
      (∀ k, k < n → s.ctx? k ≠ none) → n ≤ s.ctxs.length →
      exec (.ctxCreate m r) s = .next (respond { t with ctxs := s.ctxs ++ [newCtx n r.payload []] } m
        (.ok (leBytes 4 n ++ zeros 12 ++ pshOf p))))
  ∧ (∀ (s : State) (m n : Nat) (r : MbReq) (c : Ctx) (u : State), Carried s 0x02 m r → s.ctx? r.ctx = some c →
      destroyContext (taken s 0x02 m r) c = (u, n) →
      exec (.ctxDestroy m r) s = .next (respond u m (.ok (leBytes 4 n)))
        ∧ (u.ctx? r.ctx = none) ∧ (∀ x, x ∈ u.disps → x.ctx ≠ r.ctx) ∧ (∀ w, w ∈ u.hwins → w.2.ctx ≠ r.ctx)
        ∧ (∀ e, e ∈ u.mem.csMap → e.ctx ≠ r.ctx) ∧ (∀ e, e ∈ u.mem.ifMap → e.ctx ≠ r.ctx))
  ∧ (∀ (s : State) (m : Nat) (r : MbReq) (c : Ctx), Carried s 0x03 m r → s.ctx? r.ctx = some c →
      (field r.payload 4 1 = 0x05 ∨ field r.payload 4 1 = 0x12 ∨ field r.payload 4 1 = 0x13) →
      let t := taken s 0x03 m r
      ∃ b, exec (.ctxInfo m r) s = .next (respond ({ t with freeCtr := t.freeCtr + 1 }.setCtx { c with heldLost := false }) m
          (.ok b))
        ∧ b.take 256 = (ctxEntry s c).take 256)
  ∧ (∀ (s : State) (m : Nat) (r : MbReq) (c : Ctx), Carried s 0x1C m r → s.ctx? r.ctx = some c →
      let i := field r.payload 0 4
      let raw := slice r.payload 8 64
      allZero r.payload 4 4 = true → 1 ≤ i → i < c.descEntries → descCheck raw = none →
      ∃ e, exec (.descSet m r) s = .next (respond ((taken s 0x1C m r).setCtx e) m
          (.ok (leBytes 4 ((genNext (c.desc i).gen) * 2 ^ 24 + i))))
        ∧ e = { c with descs := e.descs } ∧ e.desc i = ⟨true, genNext (c.desc i).gen, raw⟩
        ∧ ∀ k, k ≠ i → e.desc k = c.desc k)
  ∧ (∀ (s : State) (m : Nat) (r : MbReq) (c : Ctx), Carried s 0x1D m r → s.ctx? r.ctx = some c →
      let h := field r.payload 0 4
      let i := h % 2 ^ 24
      h ≠ 0 → i < c.descEntries → (c.desc i).valid = true → (c.desc i).gen = h / 2 ^ 24 →
      ∃ e, exec (.descFree m r) s = .next (respond ((taken s 0x1D m r).setCtx e) m (.ok []))
        ∧ e = { c with descs := e.descs } ∧ (e.desc i).valid = false ∧ (e.desc i).gen = genNext (c.desc i).gen
        ∧ ∀ k, k ≠ i → e.desc k = c.desc k)

/-- KEYSET_LOAD and UNLOAD, KEY_PIN, KEY_COPY_COMPLETE, RES_WINDOW_EXPIRY, PROG_LOAD and PROG_UNLOAD complete -/
def Obligations.KeysAndProgramsLoadAndUnload : Prop :=
  (∀ (s u : State) (m : Nat) (r : MbReq) (c : Ctx) (ks : List Loaded), Carried s 0x10 m r → s.ctx? r.ctx = some c →
      let id := field r.payload 0 4
      let n := field r.payload 4 4
      1 ≤ n → n ≤ 500 → allZero r.payload 8 8 = true → c.keysets.any (fun k => k.id == id) = false →
      loadKeys (taken s 0x10 m r) c id [] 0 ((List.range n).map (fun i => field r.payload (16 + 8 * i) 8)) = (u, .ok ks) →
      let total := (ks.map (fun k => k.1.bodyLen)).sum
      let meas := sha384 (leBytes 4 id ++ (ks.map (fun k => k.2)).flatten)
      keyMib c (total + 1024 * n) ≤ c.quotaKeyMib → c.measCount < 512 →
      ∃ e, exec (.keysetLoad m r) s = .next (respond (u.setCtx e) m (.ok (meas ++ leBytes 8 total)))
        ∧ e = { c with keysets := c.keysets ++ [⟨id, ks.map (fun k => k.1), meas⟩], measCount := c.measCount + 1,
                       measChain := sha384 (c.measChain ++ leBytes 1 2 ++ meas), log := e.log }
        ∧ ∃ l, e.log = c.log ++ [l] ∧ l.meas = meas ∧ l.keyset = id)
  ∧ (∀ (s : State) (m : Nat) (r : MbReq) (c : Ctx), Carried s 0x11 m r → s.ctx? r.ctx = some c →
      let id := field r.payload 0 4
      c.keysets.any (fun k => k.id == id) = true → (∀ x, x ∈ s.disps → x.ctx = r.ctx → x.phase = .ended) →
      exec (.keysetUnload m r) s = .next (respond (settlePins ((dropCopies (taken s 0x11 m r)
          (fun ctx k => ctx == r.ctx && k.keyset == id)).setCtx { c with keysets := c.keysets.filter (fun k => k.id != id) }))
        m (.ok [])))
  ∧ (∀ (s : State) (m : Nat) (r : MbReq) (c : Ctx) (o : KeyObj), Carried s 0x12 m r → s.ctx? r.ctx = some c →
      let p := r.payload
      let t := taken s 0x12 m r
      field p 5 1 < 4 → allZero p 7 1 = true → loadedKey c (pinKey p) = some o →
      (field p 6 1 = 0 → ∃ l, exec (.keyPin m r) s = .next (respond { t with keyCopies := l } m (.ok []))
        ∧ l.length = s.keyCopies.length
        ∧ ∀ e, e ∈ l → e.ctx = r.ctx → e.key = pinKey p → (pinDies p).contains e.die = true → e.pinned = false)
      ∧ (∀ u, field p 6 1 = 1 → (pinDies p).foldl (fun (v : Option State) die =>
          v.bind (fun v => pinOn v r.ctx (pinKey p) (1024 + o.bodyLen) die)) (some t) = some u →
          ((∀ die e, die ∈ pinDies p → copyOn u r.ctx (pinKey p) die = some e → e.complete = true) →
            exec (.keyPin m r) s = .next (respond u m (.ok [])))
          ∧ (∀ die e, die ∈ pinDies p → copyOn u r.ctx (pinKey p) die = some e → e.complete = false →
            exec (.keyPin m r) s = .next (u.setMb m { u.mb m with wait := some .keyCopy }))))
  ∧ (∀ (s : State) (die ctx keyset kind galois : Nat),
      let k : KeyName := ⟨keyset, kind, galois⟩
      let job := fun (b : DmaBusy) => b.die == die && b.job == .keyCopy ctx k
      let u := { s with keyCopies := s.keyCopies.map (fun e =>
        if e.die == die && e.ctx == ctx && e.key == k && e.stage == .copying
        then { e with stage := .ready, data := (copyData s ctx k).1, marked := (copyData s ctx k).2 } else e) }
      s.dma.any (fun b => job b && b.engine.isSome) = true →
      ∃ t, exec (.keyCopyComplete die ctx keyset kind galois) s = .next t ∧ t = settlePins (endDma u job)
        ∧ t.keyCopies = u.keyCopies ∧ ((∀ b ∈ s.mbs, b.2.wait ≠ some .keyCopy) → t = { u with dma := t.dma }))
  ∧ (∀ (s : State) (die : Nat), s.isUp = true → die < 2 → die < s.meters.length →
      (s.meter die).resSince + s.settingN 0x0300 0 + 1 ≤ s.now →
      ∃ t, exec (.resWindowExpiry die) s = .next t ∧ t = { s with keyScores := t.keyScores, meters := t.meters }
        ∧ t.keyScores = s.keyScores.map (fun e => if e.die = die then { e with last := e.cur, cur := 0 } else e)
        ∧ t.meter die = { s.meter die with resSince := s.now } ∧ ∀ k, k ≠ die → t.meter k = s.meter k)
  ∧ (∀ (s u : State) (m n : Nat) (r : MbReq) (c : Ctx) (xs : List Span) (img : Bytes), Carried s 0x18 m r →
      s.ctx? r.ctx = some c →
      let size := field r.payload 8 4
      256 ≤ size → size ≤ 67108864 → c.weightsUsed = false →
      readerRead (taken s 0x18 m r) c cmdReader (field r.payload 0 8) size = (u, .ok (xs, img, false)) →
      (∀ x, x ∈ xs → u.sealedAny x.addr x.len = false) → imageFault c img size = none →
      c.programs.length < c.quotaPrograms → c.measCount < 512 → freeProgram c = some n →
      ∃ (t : State) (e : Ctx) (p : Program), exec (.progLoad m r) s = .next (respond (t.setCtx e) m
          (.ok (leBytes 2 n ++ leBytes 1 (flag (u.trans.contains (transKey c (sha384 img) (translatorMeas u))) 0) ++ zeros 13
            ++ sha384 img ++ translatorMeas u)))
        ∧ t = { u with trans := t.trans } ∧ e.programs = c.programs ++ [p] ∧ p.num = n ∧ p.meas = sha384 img
        ∧ p.code = imageWords img ∧ p.entry = field img 12 4 ∧ e.measCount = c.measCount + 1
        ∧ e.measChain = sha384 (c.measChain ++ leBytes 1 1 ++ sha384 img) ∧ e.keysets = c.keysets)
  ∧ (∀ (s : State) (m : Nat) (r : MbReq) (c : Ctx), Carried s 0x19 m r → s.ctx? r.ctx = some c →
      let n := field r.payload 0 2
      c.programs.any (fun p => p.num == n) = true →
      (∀ x, x ∈ s.disps → x.ctx = r.ctx → x.prog.num = n → x.phase = .ended) →
      exec (.progUnload m r) s = .next (respond ((taken s 0x19 m r).setCtx
        { c with programs := c.programs.filter (fun p => p.num != n) }) m (.ok [])))

/-- QUEUE, RESULT, ABORT, MARK_READ, MARK_SET, SPAD_RELEASE, HWIN_SET and EVENT_RING commands answer with their effect -/
def Obligations.QueuesResultsMarksAndWindowsAreManaged : Prop :=
  (∀ (s : State) (m n : Nat) (r : MbReq) (c : Ctx) (cl : Class3), Carried s 0x20 m r → s.ctx? r.ctx = some c →
      classOf (field r.payload 9 1) = some cl → field r.payload 0 8 % 4096 = 0 → 4 ≤ field r.payload 8 1 →
      field r.payload 8 1 ≤ 16 → (queuesOf s r.ctx).length < c.quotaQueues →
      storeBytes s + 128 * 2 ^ field r.payload 8 1 ≤ 2 ^ 30 → n < 32768 → n ≤ s.queues.length → s.queue? n = none →
      (∀ k, k < n → s.queue? k ≠ none) →
      ∃ u q, exec (.queueCreate m r) s = .next (respond u m (.ok (leBytes 2 n ++ zeros 2 ++ leBytes 4 (0x1000000 + 8 * n))))
        ∧ u = { taken s 0x20 m r with queues := u.queues, disps := u.disps } ∧ u.queue? n = some q ∧ q.ctx = r.ctx ∧ q.cls = cl
        ∧ q.ringVa = field r.payload 0 8 ∧ q.k = field r.payload 8 1 ∧ q.prod = 0 ∧ q.consumed = 0 ∧ q.results = []
        ∧ ∀ k, k ≠ n → u.queue? k = s.queue? k)
  ∧ (∀ (s : State) (m : Nat) (r : MbReq), Carried s 0x21 m r →
      let q := field r.payload 0 2
      (queuesOf s r.ctx).any (fun x => x.num == q) = true → (∀ x, x ∈ s.disps → x.id.queue = q → x.phase = .ended) →
      exec (.queueDestroy m r) s = .next (respond (destroyQueue (taken s 0x21 m r) q) m (.ok []))
        ∧ (destroyQueue (taken s 0x21 m r) q).queue? q = none)
  ∧ (∀ (s : State) (m : Nat) (r : MbReq) (b : Bytes), seqState s r = .written b →
      (Carried s 0x48 m r → exec (.resultGet m r) s = .next (respond (taken s 0x48 m r) m (.ok b)))
      ∧ (Carried s 0x49 m r → ∃ u, exec (.resultRelease m r) s = .next (respond u m (.ok []))
          ∧ u = { taken s 0x49 m r with queues := u.queues }
          ∧ ∀ x, queueOf s r.ctx (field r.payload 0 2) = some x → ∃ y, queueOf u r.ctx (field r.payload 0 2) = some y
              ∧ assoc (field r.payload 8 8) y.results = some .released
              ∧ ∀ n, n ≠ field r.payload 8 8 → assoc n y.results = assoc n x.results)
      ∧ (Carried s 0x4A m r → exec (.abort m r) s = .next (respond (taken s 0x4A m r) m
          (.ok (leBytes 1 (field b 14 1) ++ leBytes 1 (flag (field b 14 1 == 1) 0))))))
  ∧ (∀ (s : State) (m : Nat) (r : MbReq) (x : Dispatch), seqState s r = .notYet → Carried s 0x4A m r →
      let d : DRef := ⟨field r.payload 0 2, field r.payload 8 8⟩
      s.disp? d = some x →
      ∃ u, exec (.abort m r) s = .next u ∧ (u.mb m).busy = true ∧ (u.mb m).wait = some (.abort d)
        ∧ u.disp? d = some (raceAbort x) ∧ ∀ e, e ≠ d → u.disp? e = s.disp? e)
  ∧ (∀ (s : State) (m : Nat) (r : MbReq), Carried s 0x30 m r → 1 ≤ field r.payload 2 2 → field r.payload 2 2 ≤ 500 →
      field r.payload 0 2 + field r.payload 2 2 ≤ s.settingN 0x0107 r.ctx →
      exec (.markRead m r) s = .next (respond (taken s 0x30 m r) m (.ok
        (((List.range (field r.payload 2 2)).map (fun j =>
          leBytes 8 (s.mark (s.settingN 0x0106 r.ctx + field r.payload 0 2 + j)).word)).flatten))))
  ∧ (∀ (s : State) (m k : Nat) (r : MbReq), Carried s 0x31 m r → ctxMark s r.ctx (field r.payload 0 2) = some k →
      field r.payload 2 1 < 2 → (field r.payload 3 1 < 2 ∨ field r.payload 3 1 = 0xFF) →
      (field r.payload 4 1 < 2 ∨ field r.payload 4 1 = 0xFF) →
      ∃ u a, exec (.markSet m r) s = .next (respond u m (.ok [])) ∧ u = { taken s 0x31 m r with marks := u.marks }
        ∧ u.mark k = a ∧ (∀ j, j ≠ k → u.mark j = s.mark j) ∧ a.alloc = (s.mark k).alloc ∧ a.owner = (s.mark k).owner
        ∧ a.hostSig = (if field r.payload 3 1 = 0xFF then (s.mark k).hostSig else field r.payload 3 1 == 1)
        ∧ a.peerSig = (if field r.payload 4 1 = 0xFF then (s.mark k).peerSig else field r.payload 4 1 == 1)
        ∧ a.value = (if field r.payload 2 1 = 1 then 0 else (s.mark k).value)
        ∧ a.sat = (if field r.payload 2 1 = 1 then false else (s.mark k).sat))
  ∧ (∀ (s : State) (m : Nat) (r : MbReq), Carried s 0x24 m r →
      let core := field r.payload 0 1 = 1
      let mine := fun (e : SegMap) => e.unit = field r.payload 2 2 ∧ e.ctx = r.ctx ∧ e.logical = field r.payload 4 2 ∧ e.held = true
      (core ∨ field r.payload 0 1 = 2) → allZero r.payload 1 1 = true →
      (∀ x, x ∈ s.disps → x.ctx = r.ctx → x.phase ≠ .running ∧ x.phase ≠ .saved) → s.colls = [] →
      ((core → ∃ e, e ∈ s.mem.csMap ∧ mine e) ∧ (¬ core → ∃ e, e ∈ s.mem.ifMap ∧ mine e)) →
      ∃ u, exec (.spadRelease m r) s = .next (respond u m (.ok []))
        ∧ u = { taken s 0x24 m r with mem := { s.mem with csMap := u.mem.csMap, ifMap := u.mem.ifMap } }
        ∧ (core → u.mem.ifMap = s.mem.ifMap ∧ ∀ e, e ∈ u.mem.csMap ↔ (e ∈ s.mem.csMap ∧ ¬ mine e))
        ∧ (¬ core → u.mem.csMap = s.mem.csMap ∧ ∀ e, e ∈ u.mem.ifMap ↔ (e ∈ s.mem.ifMap ∧ ¬ mine e)))
  ∧ (∀ (s : State) (m : Nat) (r : MbReq), Carried s 0x28 m r →
      let w := field r.payload 0 1
      let p := field r.payload 1 1
      let va := field r.payload 8 8
      let size := field r.payload 16 8
      w < 64 → p < 4 → allZero r.payload 2 6 = true →
      (p = 0 ∨ (va % 65536 = 0 ∧ size % 65536 = 0 ∧ 0 < size ∧ size ≤ 2 ^ 30 ∧ va + size ≤ 2 ^ 48)) →
      ∃ u, exec (.hwinSet m r) s = .next (respond u m (.ok [])) ∧ u = { taken s 0x28 m r with hwins := u.hwins }
        ∧ assoc w u.hwins = (if p = 0 then none else some ⟨r.ctx, va, size, p % 2 == 1, p / 2 % 2 == 1⟩)
        ∧ ∀ k, k ≠ w → assoc k u.hwins = assoc k s.hwins)
  ∧ (∀ (s : State) (m : Nat) (r : MbReq), Carried s 0x5A m r → field r.payload 0 8 % 4096 = 0 → 6 ≤ field r.payload 8 1 →
      field r.payload 8 1 ≤ 16 → field r.payload 0 8 + 64 * 2 ^ field r.payload 8 1 + 4096 ≤ 2 ^ 46 →
      let t := taken s 0x5A m r
      exec (.eventRing m r) s = .next (respond (s.ev.boot.foldl State.ringPut { t with ev := { s.ev with
        base := field r.payload 0 8, log2 := field r.payload 8 1, on := true, boot := [],
        mirrorTick := if s.ev.on then s.ev.mirrorTick else s.now } }) m (.ok [])))

/-- CFG_BEGIN, CFG_SET, CFG_COMMIT, CFG_ROLLBACK, CFG_GET, CFG_TXN_EXPIRY and SETTING_TAKE_EFFECT complete -/
def Obligations.TransactionsDecideSettings : Prop :=
  (∀ (s : State) (m : Nat) (r : MbReq), Carried s 0x40 m r → s.cfg.txns.length < 64 →
      exec (.cfgBegin m r) s = .next (respond { taken s 0x40 m r with cfg := { s.cfg with
          txns := s.cfg.txns ++ [⟨s.cfg.lastTxn + 1, s.now, s.cfg.order, []⟩], lastTxn := s.cfg.lastTxn + 1 } } m
        (.ok (leBytes 4 (s.cfg.lastTxn + 1)))))
  ∧ (∀ (s : State) (m : Nat) (r : MbReq) (t : Txn), Carried s 0x41 m r → txn? s r.txn = some t →
      let n := field r.payload 0 4
      let staged := ((List.range n).map (cfgEntry r.payload)).foldl (fun l e => assocSet e.1 e.2 l) t.staged
      1 ≤ n → n ≤ 251 → allZero r.payload 4 12 = true →
      ((∀ i, i < n → entryFault s m r.payload staged i = none) →
        ∃ u, exec (.cfgSet m r) s = .next (respond u m (.ok [])) ∧ u = { taken s 0x41 m r with cfg := { s.cfg with txns := u.cfg.txns } }
          ∧ txn? u r.txn = some { t with staged := staged } ∧ ∀ k, k ≠ r.txn → txn? u k = txn? s k)
      ∧ (∀ i f, i < n → entryFault s m r.payload staged i = some f → (∀ j, j < i → entryFault s m r.payload staged j = none) →
        exec (.cfgSet m r) s = .next (respond (taken s 0x41 m r) m (.deniedAt f i))))
  ∧ (∀ (s : State) (m : Nat) (r : MbReq) (t : Txn), Carried s 0x42 m r → txn? s r.txn = some t →
      ((commitFault (dropTxn (taken s 0x42 m r) r.txn) t = none →
        ∃ u, exec (.cfgCommit m r) s = .next (respond u m (.ok [])) ∧ u = { taken s 0x42 m r with cfg := u.cfg }
          ∧ u.cfg.values = s.cfg.values ∧ txn? u r.txn = none
          ∧ (∀ k v, assoc k (afterCommit t.staged) = some v → assoc k u.cfg.decided = some v)
          ∧ (∀ k, assoc k (afterCommit t.staged) = none → assoc k u.cfg.decided = assoc k s.cfg.decided))
      ∧ (∀ f i, commitFault (dropTxn (taken s 0x42 m r) r.txn) t = some (f, i) →
        exec (.cfgCommit m r) s = .next (respond (dropTxn (taken s 0x42 m r) r.txn) m (.deniedAt f i)))))
  ∧ (∀ (s : State) (m : Nat) (r : MbReq) (t : Txn), Carried s 0x43 m r → txn? s r.txn = some t →
      exec (.cfgRollback m r) s = .next (respond (dropTxn (taken s 0x43 m r) r.txn) m (.ok [])))
  ∧ (∀ (s : State) (m : Nat) (r : MbReq), Carried s 0x44 m r → allZero r.payload 2 2 = true →
      let id := field r.payload 0 2
      let u := (targetUnits id (field r.payload 4 4)).headD 0
      targetOk s id (field r.payload 4 4) = true →
      exec (.cfgGet m r) s = .next (respond (taken s 0x44 m r) m (.ok (leBytes 8 (unsignedOf 64 (s.setting id u))
        ++ leBytes 1 (flag (assoc (id, u) s.cfg.decided).isSome 0) ++ zeros 7
        ++ leBytes 8 (unsignedOf 64 ((assoc (id, u) s.cfg.decided).getD 0))))))
  ∧ (∀ (s : State) (k : Nat) (t : Txn), txn? s k = some t → t.tick + 125000001 ≤ s.now →
      exec (.cfgTxnExpiry k) s = .next (dropTxn s k) ∧ txn? (dropTxn s k) k = none)
  ∧ (∀ (s : State) (id target : Nat) (v : Int), assoc (id, target) s.cfg.decided = some v → 0x0200 ≤ id →
      mayChange s id v = true →
      ∃ u, exec (.settingTakeEffect id target) s = .next (effectOf u id target) ∧ u = { s with cfg := { s.cfg with
            values := u.cfg.values, decided := u.cfg.decided } }
        ∧ assoc (id, target) u.cfg.values = some v ∧ assoc (id, target) u.cfg.decided = none
        ∧ (∀ k, k ≠ (id, target) → assoc k u.cfg.values = assoc k s.cfg.values
            ∧ assoc k u.cfg.decided = assoc k s.cfg.decided))

/-- VAON_RISE, EN_RISE, EN_FALL, INPUT_TRIP, THERMAL_TRIP, VAON_LOSS and REFCLK_LOSS move the power state as the rules say -/
def Obligations.PinsAndTripsMoveTheModulePowerState : Prop :=
  (∀ s : State, s.pwr.st = .off →
      (s.pwr.en = false → exec .vaonRise s = .next { s with pwr := { s.pwr with st := .standby } })
      ∧ (s.pwr.en = true → exec .vaonRise s = .next { s with pwr := { s.pwr with
          st := .starting 1, thermTripN := true, startFault := false } }))
  ∧ (∀ s : State, s.pwr.en = false →
      (s.pwr.st = .standby → enAccepted s = true → exec .enRise s = .next { s with pwr := { s.pwr with
          en := true, enTick := s.now, st := .starting 1, thermTripN := true, startFault := false } })
      ∧ ((s.pwr.st ≠ .standby ∨ enAccepted s = false) → exec .enRise s = .next
          { s with pwr := { s.pwr with en := true, enTick := s.now } }))
  ∧ (∀ s : State, s.pwr.en = true → s.pwr.st ≠ .off → ∃ t, exec .enFall s = .next t ∧ t.pwr.st = .standby ∧ t.pwr.en = false
      ∧ (s.pwr.st ≠ .standby → t.ctxs = [] ∧ t.disps = [] ∧ t.queues = [] ∧ t.cores = [] ∧ t.marks = [] ∧ t.mem.hbm = [])
      ∧ t.rsp.fuses = s.rsp.fuses ∧ t.pwr.ticks = s.pwr.ticks)
  ∧ (∀ (s : State) (mv : Int), -500 ≤ mv → mv ≤ 60000 → railsUp s = true → ∃ t, exec (.inputTrip mv) s = .next t
      ∧ t.pwr.inputMv = mv.toNat ∧ t.rsp.fuses = s.rsp.fuses ∧ t.mem.comp = s.mem.comp ∧ t.sent = s.sent
      ∧ (29000 ≤ mv → mv ≤ 42000 → t = { s with pwr := { s.pwr with inputMv := mv.toNat } })
      ∧ ((mv < 29000 ∨ 42000 < mv) → t.pwr.st = .standby ∧ t.pwr.thermTripN = false ∧ t.ctxs = [] ∧ t.disps = []
          ∧ t.mem.inf = s.mem.inf ∧ t.pwr.tripCause = (if mv < 29000 then 2 else 3)))
  ∧ (∀ (s : State) (x : Sensor) (temp : Nat), sensorOk x = true → 115 ≤ temp → railsUp s = true →
      ∃ t, exec (.thermalTrip x temp) s = .next t ∧ t.pwr.st = .standby ∧ t.pwr.tripCause = 1 ∧ t.pwr.thermTripN = false
        ∧ t.ctxs = [] ∧ t.disps = [] ∧ t.rsp.fuses = s.rsp.fuses ∧ t.mem.comp = s.mem.comp ∧ t.sent = s.sent)
  ∧ (∀ s : State, ∃ t, exec .vaonLoss s = .next t ∧ t.pwr.st = .off ∧ t.pwr.ticks = 0 ∧ t.ctxs = [] ∧ t.disps = []
      ∧ t.mem.inf = ⟨[], [], []⟩ ∧ t.mem.hbm = [] ∧ t.rsp.fuses = s.rsp.fuses ∧ t.rsp.images = s.rsp.images
      ∧ t.mem.comp = s.mem.comp)
  ∧ (∀ s : State, railsUp s = true → s.pwr.refOk = true → ∃ t, exec .refclkLoss s = .next t ∧ t.pwr.refOk = false
      ∧ t.fence.moduleFault = true ∧ t.disps = s.disps ∧ t.ctxs = s.ctxs ∧ t.pwr.st = s.pwr.st)

/-- Each start-up step that ends in order leads to the next, step 8 to READY; a failing unit to the start fault, failed images to boot recovery -/
def Obligations.StartUpWalksItsEightSteps : Prop :=
  (∀ (s : State) (n : Nat), s.pwr.st = .starting n → 1 ≤ n → n ≤ 8 →
      ∃ t, exec (.startupStepComplete .ok) s = .next t ∧ t.pwr.st = (if n = 8 then .up else .starting (n + 1))
        ∧ t.rsp.fuses = s.rsp.fuses ∧ t.mem.comp = s.mem.comp
        ∧ (n = 2 → t.rsp.bootStep = 2 ∧ t.ham = State.reset.ham ∧ t.rsp.sessions = [] ∧ t.rsp.debugAuth = false)
        ∧ (n = 3 → t.rsp.bootStep = 5) ∧ (n = 4 → t.rsp.bootStep = 6)
        ∧ (n = 7 → t.mem.hbm = [] ∧ t.mem.hbmMarked = [] ∧ t.mem.cache = [])
        ∧ (n = 8 → t.pwr.startFault = false ∧ t.rsp.windows = [] ∧ t.mem.reserved = Config.reservedMap
            ∧ t.rsp.tagPools = [4096, 4096]))
  ∧ (∀ (s : State) (n : Nat) (ts : List StartDma), s.pwr.st = .starting n → 1 ≤ n → n ≤ 8 →
      ∃ t, exec (.startupStepComplete (.dma ts)) s = .next t ∧ t.pwr.st = (if n = 8 then .up else .starting (n + 1))
        ∧ t.rsp.fuses = s.rsp.fuses ∧ t.ev.seq = s.ev.seq + (ts.filter (fun x => !inWindows s x || x.ue)).length)
  ∧ (∀ (s : State) (n kind unit : Nat), s.pwr.st = .starting n → ∃ t, exec (.startupStepComplete (.unitFails kind unit)) s = .next t
      ∧ t.pwr.st = .startFault ∧ t.pwr.startFault = true ∧ t.rsp.fuses = s.rsp.fuses)
  ∧ (∀ (s : State) (bad both : List Nat), s.pwr.st = .starting 3 →
      ∃ t, exec (.startupStepComplete (.images bad both)) s = .next t
        ∧ ((∃ i, i < 5 ∧ (both.contains (i + 1) = true
            ∨ (bad.contains (i + 1) = true ∧ (s.rsp.images[i]?).bind otherBank = none))) → t.pwr.st = .bootRecovery)
        ∧ ((∀ i, i < 5 → both.contains (i + 1) = false
            ∧ (bad.contains (i + 1) = true → (s.rsp.images[i]?).bind otherBank ≠ none)) → t.pwr.st = .starting 4))

/-- The thermal emergency, the Pacer procedure, clock steps and the Field states follow their rules -/
def Obligations.ThermalEmergencyAndPacer : Prop :=
  (∀ (s : State) (x : Sensor) (temp : Nat), sensorOk x = true → rspPowered s = true → emergLimit s x ≤ temp →
      s.pwr.emerg = false →
      ∃ t, exec (.thermalEmergencyEntry x temp) s = .next t ∧ t.pwr.emerg = true ∧ t.pwr.coolSince = some s.now
        ∧ t.fields.length = s.fields.length ∧ (∀ g, g ∈ t.fields → g.step = 15 ∧ g.toStep = none)
        ∧ t.disps = s.disps.map (fun y => if y.cls = .sprint ∧ y.phase ≠ .ended then { y with void := true } else y)
        ∧ t.cores = s.cores ∧ t.ctxs = s.ctxs)
  ∧ (∀ (s : State) (k : Nat), s.pwr.emerg = true → s.pwr.coolSince = some k → k + 12501 ≤ s.now →
      ∃ t, exec .thermalEmergencyExit s = .next t ∧ t.pwr.emerg = false ∧ t.pwr.coolSince = none ∧ t.disps = s.disps
        ∧ ∀ f, f < s.fields.length → (t.field f).step = (s.field f).step
            ∧ ((s.field f).tj + 10 < s.settingN 0x0316 0 → (t.field f).tj = (s.field f).tj))
  ∧ (∀ (s : State) (stack temp : Nat), stack < 12 → rspPowered s = true → s.pwr.doubled.length = 12 → s.pwr.hbmT.length = 12 →
      ∃ t, exec (.hbmDoubledRefresh stack temp) s = .next t ∧ t.pwr.doubled[stack]? = some (decide (95 ≤ temp))
        ∧ t.pwr.hbmT[stack]? = some temp
        ∧ (∀ k, k ≠ stack → t.pwr.doubled[k]? = s.pwr.doubled[k]? ∧ t.pwr.hbmT[k]? = s.pwr.hbmT[k]?)
        ∧ t = { s with pwr := t.pwr })
  ∧ (∀ (s : State) (f : Nat) (x : PaceSample), f < 8 → f < s.fields.length → s.isUp = true →
      (s.field f).sampledAt + s.settingN 0x0317 0 ≤ s.now → s.pwr.emerg = false →
      ∃ t u, exec (.pacerSample f x) s = .next t ∧ (t.field f).powerW = x.powerW ∧ (t.field f).tj = x.tj
        ∧ (t.field f).util = min x.util 100 ∧ t.pwr.inputW = x.inputW ∧ (t.field f).step = (s.field f).step
        ∧ t = u.modField f (fun g => { g with toStep := (t.field f).toStep })
        ∧ (t.field f).toStep = (if pacedStep u f = (s.field f).step then none else some (pacedStep u f))
        ∧ u.cfg = s.cfg ∧ u.pwr.inputW = x.inputW ∧ (u.field f).tj = x.tj
        ∧ (x.ce = 0 → (u.field f).ce = (s.field f).ce ∧ t.disps = s.disps ∧ t.mem = s.mem ∧ t.fence = s.fence))
  ∧ (∀ (s : State) (f : Nat),
      let goal := (s.field f).toStep.getD (s.field f).step
      (runsSprint s f = true → pacedStep s f = 0)
      ∧ (runsSprint s f = false → s.settingN 0x0315 0 ≤ (s.field f).tj → pacedStep s f = min (goal + 1) 15)
      ∧ (runsSprint s f = false → (s.field f).tj < s.settingN 0x0315 0 → s.settingN 0x0314 0 < s.pwr.inputW →
          pacedStep s f = (if cappedField s = some f then min (goal + 1) 15 else goal))
      ∧ (∀ a, cappedField s = some a → a < 8 ∧ runsSprint s a = false ∧ goalStep (s.field a) < 15
          ∧ ∀ b, b < 8 → runsSprint s b = false → goalStep (s.field b) < 15 →
            (s.field a).util < (s.field b).util ∨ ((s.field a).util = (s.field b).util ∧ b ≤ a))
      ∧ (runsSprint s f = false → (s.field f).tj + 5 ≤ s.settingN 0x0315 0 → s.pwr.inputW + 50 ≤ s.settingN 0x0314 0 →
          pacedStep s f = max (goal - 1) (if s.settingN 0x0319 0 ≤ ceCount s f then 2 else 0)))
  ∧ (∀ (s : State) (f k : Nat), f < s.fields.length → (s.field f).toStep = some k →
      ∃ t, exec (.clockStepChange f) s = .next t ∧ t = s.modField f (fun g => { g with step := k, toStep := none })
        ∧ (t.field f).step = k ∧ ∀ e, e ≠ f → t.field e = s.field e)
  ∧ (∀ (s : State) (f : Nat), mayDeepen s f = true →
      ((s.field f).st = .warm → (s.field f).idleSince + s.settingN 0x031A 0 + 1 ≤ s.now →
        exec (.fieldIdleSleep f) s = .next (s.modField f (fun g => { g with entering := some .sleep })))
      ∧ (((s.field f).st = .warm ∨ (s.field f).st = .sleep) → segHold s f = false →
          (s.field f).idleSince + s.settingN 0x031B 0 + 1 ≤ s.now →
        exec (.fieldIdleOff f) s = .next (s.modField f (fun g => { g with entering := some .off }))))
  ∧ (∀ (s : State) (f : Nat) (into : FieldSt), f < s.fields.length → (s.field f).entering = some into →
      let goal : FieldSt := if into = .off ∧ segHold s f = true then .sleep else into
      ∃ t, exec (.fieldEntryComplete f) s = .next t ∧ (t.field f).st = goal ∧ (t.field f).entering = none
        ∧ (∀ e, e ≠ f → t.field e = s.field e) ∧ t.disps = s.disps
        ∧ (∀ n, fieldOf n ≠ f → t.core n = s.core n)
        ∧ (goal = .off → ∀ n, 16 * f ≤ n → n < 16 * f + 16 → t.core n = CoreRegs.zero))
  ∧ (∀ (s : State) (f : Nat), f < 8 → f < s.fields.length → s.isUp = true → (s.field f).waking = true →
      (s.field f).entering = none →
      ∃ t, exec (.fieldWakeComplete f) s = .next t ∧ (t.field f).st = .run ∧ (t.field f).waking = false
        ∧ (t.field f).entering = (if fieldBusy s f then none else some .warm))

/-- REST_ENTRY, REST_ENTRY_COMPLETE, WAKE_EVENT and REST_WAKE_COMPLETE: the quiet module rests, with caches written back, and wakes -/
def Obligations.RestIsEnteredAndLeft : Prop :=
  (∀ s : State, s.isUp = true → s.settingN 0x0313 0 = 1 → quiet s = true → s.pwr.quietSince + s.settingN 0x031A 0 + 1 ≤ s.now →
      exec .restEntry s = .next { s with pwr := { s.pwr with st := .restEntry, wakeHeld := false } })
  ∧ (∀ s : State, s.pwr.st = .restEntry → s.fields.length = 8 → ∃ t, exec .restEntryComplete s = .next t
      ∧ t.pwr.st = (if s.pwr.wakeHeld then .restWake else .rest) ∧ t.pwr.wakeHeld = false
      ∧ (∀ f, f < 8 → (t.field f).st = .off ∧ (t.field f).entering = none ∧ (t.field f).waking = false)
      ∧ t.mem.cache = [] ∧ t.mem.xlate = [] ∧ t.mem.inf = s.mem.inf ∧ t.ctxs.length = s.ctxs.length ∧ t.disps = s.disps
      ∧ t.mem.hbm = (cacheFlush s.mem).hbm ∧ t.mem.comp = (cacheFlush s.mem).comp)
  ∧ (∀ (s : State) (w : Wake),
      (s.pwr.st = .rest → exec (.wakeEvent w) s = .next { s with pwr := { s.pwr with st := .restWake } })
      ∧ (s.pwr.st = .restEntry → exec (.wakeEvent w) s = .next { s with pwr := { s.pwr with wakeHeld := true } })
      ∧ (s.pwr.st ≠ .rest → s.pwr.st ≠ .restEntry → exec (.wakeEvent w) s = .next s))
  ∧ (∀ s : State, s.pwr.st = .restWake →
      let u := { s with pwr := { s.pwr with st := .up, quietSince := s.now }, atLink := [] }
      exec .restWakeComplete s = .next (s.atLink.foldl serveHeld u) ∧ u.isUp = true ∧ u.now = s.now
        ∧ (s.atLink = [] → exec .restWakeComplete s = .next { s with pwr := { s.pwr with st := .up, quietSince := s.now } }))
  ∧ (∀ (s t : State) (i : Instr), (∃ w off a, i = .hostWindowAccess w off a) → exec i s = .next t → serveHeld s i = t)

/-- The Hammer multiplies, adds and writes out exactly; its slots are written, loaded and released; the CTR_DRBG stops and reseeds -/
def Obligations.HammerAndEntropySourceFollowTheirRegisters : Prop :=
  (∀ (s : State) (cmd : DWord) (a b : Nat), rspPowered s = true → bits cmd.toNat 63 60 = 1 →
      hoperand s.ham (bits cmd.toNat 55 45) = some a → hoperand s.ham (bits cmd.toNat 44 34) = some b →
      (∀ c d, (bit cmd.toNat 58 = true → hoperand s.ham (bits cmd.toNat 33 23) = some c) →
        (bit cmd.toNat 57 = true → hoperand s.ham (bits cmd.toNat 22 12) = some d) →
        let sum := ((if bit cmd.toNat 59 then 0 else s.ham.acc.toNat) + (hword s.ham a).toNat * (hword s.ham b).toNat
          + (if bit cmd.toNat 58 then (hword s.ham c).toNat else 0)) % 2 ^ 576
        ∃ h, exec (.hammerMac cmd) s = .next { s with ham := h } ∧ h.slots = s.ham.slots ∧ h.cmds = (s.ham.cmds + 1) % 2 ^ 32
          ∧ (bit cmd.toNat 57 = false → h.acc.toNat = sum ∧ ∀ w, hword h w = hword s.ham w)
          ∧ (bit cmd.toNat 57 = true → h.acc.toNat = sum / 2 ^ 256 ∧ (hword h d).toNat = sum % 2 ^ 256
              ∧ ∀ w, w ≠ d → hword h w = hword s.ham w)))
  ∧ (∀ (s : State) (cmd : DWord), rspPowered s = true →
      (bits cmd.toNat 63 60 ≠ 1 ∨ hoperand s.ham (bits cmd.toNat 55 45) = none ∨ hoperand s.ham (bits cmd.toNat 44 34) = none
        ∨ (bit cmd.toNat 58 = true ∧ hoperand s.ham (bits cmd.toNat 33 23) = none)
        ∨ (bit cmd.toNat 57 = true ∧ hoperand s.ham (bits cmd.toNat 22 12) = none)) →
      exec (.hammerMac cmd) s = .next { s with ham := { s.ham with cmdErr := true } })
  ∧ (∀ (s : State) (n : Nat) (v : Word), n < 128 → rspPowered s = true →
      let e := v.toNat
      let clash := bit e 31 = true ∧ ∃ k, k < 128 ∧ k ≠ n ∧ hValid (hslot s.ham k) = true
        ∧ meets (hBase e) (hLen e) (hBase (hslot s.ham k)) (hLen (hslot s.ham k)) = true
      ((hSealed (hslot s.ham n) = true ∨ clash) → exec (.hslotWrite n v) s = .next { s with ham := { s.ham with cfgErr := true } })
      ∧ (hSealed (hslot s.ham n) = false → ¬ clash → ∃ h, exec (.hslotWrite n v) s = .next { s with ham := h }
          ∧ h = { s.ham with slots := h.slots } ∧ hValid (hslot h n) = bit e 31 ∧ hSealed (hslot h n) = false
          ∧ hBase (hslot h n) = hBase e ∧ hLen (hslot h n) = hLen e ∧ ∀ k, k ≠ n → hslot h k = hslot s.ham k))
  ∧ (∀ (s : State) (n : Nat), n < 128 → rspPowered s = true → ∃ h, exec (.hslotRelease n) s = .next { s with ham := h }
      ∧ hValid (hslot h n) = false ∧ hSealed (hslot h n) = false ∧ (∀ k, k ≠ n → hslot h k = hslot s.ham k)
      ∧ (hValid (hslot s.ham n) = false → h.words = s.ham.words)
      ∧ (hValid (hslot s.ham n) = true → ∀ w, hBase (hslot s.ham n) ≤ w → w < hBase (hslot s.ham n) + hLen (hslot s.ham n) →
          w < 2048 → hword h w = 0)
      ∧ ∀ w, (w < hBase (hslot s.ham n) ∨ hBase (hslot s.ham n) + hLen (hslot s.ham n) ≤ w) → hword h w = hword s.ham w)
  ∧ (∀ (s : State) (n : Nat) (ws : List (BitVec 256)), n < 128 → rspPowered s = true → hValid (hslot s.ham n) = true →
      ws.length ≤ hLen (hslot s.ham n) → hBase (hslot s.ham n) + ws.length ≤ 2048 →
      ∃ h, exec (.keyLoad n ws) s = .next { s with ham := h } ∧ hValid (hslot h n) = true ∧ hSealed (hslot h n) = true
        ∧ (∀ i v, ws[i]? = some v → hword h (hBase (hslot s.ham n) + i) = v) ∧ ∀ k, k ≠ n → hslot h k = hslot s.ham k)
  ∧ (∀ (s : State) (op : PrivOp) (agree : Bool), rspPowered s = true → s.ham.privLock = false →
      (agree = true → exec (.hammerPrivateKeyOp op agree) s = .next s)
      ∧ (agree = false → ∃ t, exec (.hammerPrivateKeyOp op agree) s = .next t
          ∧ t.ham = { s.ham with
              faultCount := min (s.ham.faultCount + 1) 255, privLock := decide (8 ≤ min (s.ham.faultCount + 1) 255) }
          ∧ t.rsp = s.rsp ∧ t.ctxs = s.ctxs))
  ∧ (∀ s : State, (s.serves = true ∨ s.pwr.st = .startFault ∨ s.pwr.st = .bootRecovery) →
      ∃ r, exec .drbgReseed s = .next { s with rsp := r } ∧ r.drbgOk = true ∧ r.drbgReqs = 0 ∧ r.drbgTick = s.now
        ∧ r.fuses = s.rsp.fuses ∧ r.mr = s.rsp.mr)
  ∧ (∀ s : State, s.rsp.drbgOk = true →
      exec .entropyHealthFail s = .next { s with rsp := { s.rsp with drbgOk := false, drbgFailTick := s.now } })
  ∧ (∀ s : State, s.rsp.drbgOk = false → s.rsp.drbgFailTick + 1250001 ≤ s.now → 0 ∈ s.rsp.tagPools → s.serves = true →
      ∃ t, exec .entropyReseedTimeout s = .next t ∧ t.fence = { s.fence with moduleFault := true } ∧ t.disps = s.disps
        ∧ t.rsp = s.rsp)

/-- The test access port and the management bus answer in every state with power, and only MODULE_PWR clears the alert -/
def Obligations.TestPortAndManagementBusAnswer : Prop :=
  (∀ s : State, s.pwr.st ≠ .off →
      exec .idcode s = .next { s with rsp := { s.rsp with tap := 0 }, sent := .tdo 0x109609CB :: s.sent }
      ∧ exec .bypass s = .next { s with rsp := { s.rsp with tap := 1 }, sent := .tdo 0 :: s.sent }
      ∧ (∀ pins, ∃ v, exec (.samplePreload pins) s = .next
          { s with freeCtr := s.freeCtr + 1, rsp := { s.rsp with tap := 2, tapPins := pins }, sent := .tdo v :: s.sent })
      ∧ (∀ pins, (s.pwr.st = .standby → ∃ v, exec (.extest pins) s = .next
            { s with freeCtr := s.freeCtr + 1, rsp := { s.rsp with tap := 3, tapPins := pins }, sent := .tdo v :: s.sent })
        ∧ (s.pwr.st ≠ .standby →
            exec (.extest pins) s = .next { s with rsp := { s.rsp with tap := 1 }, sent := .tdo 0 :: s.sent })))
  ∧ (∀ s : State, s.pwr.st ≠ .off →
      (∃ t, exec .smbModulePwr s = .next t ∧ smbAlert t = false ∧ t =
          { s with pwr := { s.pwr with smbSeen := modulePwr s }, sent := .smb (leBytes 8 (modulePwr s)) :: s.sent })
      ∧ exec .smbFenceStatus s = .next { s with sent := .smb (leBytes 8 (fenceStatus s)) :: s.sent }
      ∧ (∀ f, f < 8 → exec (.smbFieldPwr f) s = .next { s with sent := .smb (leBytes 8 (fieldPwr s f)) :: s.sent })
      ∧ exec .smbSerial s = .next { s with sent := .smb (slice s.rsp.serial 0 16) :: s.sent }
      ∧ exec .smbIdcode s = .next { s with sent := .smb [0xCB, 0x09, 0x96, 0x10] :: s.sent }
      ∧ exec .smbLcState s = .next { s with sent := .smb [BitVec.ofNat 8 (s.rsp.fuseState.toNat % 4)] :: s.sent }
      ∧ ∀ code, exec (.smbWrite code) s = .next { s with sent := .smbNack :: s.sent })

/-- The debug mailbox answers within its reach, and refuses what lies beyond it without effect -/
def Obligations.DebugReachesWhatTheLifecycleAllows : Prop :=
  (∀ (s : State), debugReach s ≠ .closed →
      (∃ d, exec .dbgStatus s = .next { s with freeCtr := s.freeCtr + 1, sent := .debug .ok none d :: s.sent })
      ∧ (drbgReady s = true → ∃ t n, exec .dbgChallenge s = .next t ∧ n.length = 32
          ∧ t.sent = .debug .ok none n :: s.sent ∧ nonceLive t n = true ∧ t.rsp.fuses = s.rsp.fuses ∧ t.mem = s.mem))
  ∧ (∀ (s : State) (t : Bytes), debugReach s ≠ .closed → tokenFault s t = none → field t 5 1 = 0x10 → hasIdentity s = true →
      s.ctxs = [] → s.sys.joined = false →
      ∃ u, exec (.dbgResponse t) s = .next u ∧ u.rsp.debugAuth = true ∧ u.rsp.debugSeen = true
        ∧ u.sent = .debug .ok none [] :: s.sent ∧ u.rsp.fuses = s.rsp.fuses
        ∧ (∀ w, wordSealed s.ham w = true → hword u.ham w = 0) ∧ (∀ w, wordSealed s.ham w = false → hword u.ham w = hword s.ham w)
        ∧ nonceLive u (slice t 24 32) = false)
  ∧ (∀ (s : State) (x : DbgTarget), debugReach s ≠ .closed → dbgReaches s x = true →
      ∃ d, exec (.dbgRead x) s = .next { s with sent := .debug .ok none d :: s.sent }
        ∧ (∀ a, x = .hbm a → d = devPeek s.mem a 8)
        ∧ (∀ c o, x = .coreStore c o → d = scratchRead s.mem.cs (c * 2 ^ 21 + o) 8)
        ∧ (∀ c n, x = .scalar c n → d = leBytes 8 ((s.core c).sget n).toNat)
        ∧ (∀ c n, x = .loop c n → d = leBytes 4 ((s.core c).lget n))
        ∧ (∀ c, x = .arith c → d = leBytes 4 (s.core c).status.toNat)
        ∧ (∀ o, x = .rspRam o → d = memRead s.rsp.rspRam o 8)
        ∧ (∀ w, x = .hammerWord w → d = leBytes 32 (hword s.ham w).toNat))
  ∧ (∀ (s : State) (x : DbgTarget) (v : Nat), debugReach s ≠ .closed → dbgReaches s x = true →
      ∃ t, exec (.dbgWrite x v) s = .next { t with sent := .debug .ok none [] :: s.sent }
        ∧ (∀ a, x = .hbm a → t = s.devWr a (leBytes 8 v))
        ∧ (∀ c o, x = .coreStore c o → t = { s with mem := { s.mem with cs := t.mem.cs } }
            ∧ scratchRead t.mem.cs (c * 2 ^ 21 + o) 8 = leBytes 8 v
            ∧ ∀ b, (b < c * 2 ^ 21 + o ∨ c * 2 ^ 21 + o + 8 ≤ b) → scratchRead t.mem.cs b 1 = scratchRead s.mem.cs b 1)
        ∧ (∀ c n, x = .scalar c n → t = s.setCore c (t.core c) ∧ ScalarWritten (s.core c) (t.core c) n (BitVec.ofNat 64 v) false)
        ∧ (∀ c n, x = .loop c n → t = s.setCore c (t.core c) ∧ (t.core c).lget n = v % 2 ^ 32
            ∧ ∀ k, k ≠ n → (t.core c).lget k = (s.core c).lget k)
        ∧ (∀ c, x = .arith c → t = s.setCore c (t.core c) ∧ (t.core c).status = (s.core c).status &&& ~~~(BitVec.ofNat 32 (v % 32)))
        ∧ (∀ o, x = .rspRam o → t = { s with rsp := { s.rsp with rspRam := memPut s.rsp.rspRam o (leBytes 8 v) } })
        ∧ (∀ w, x = .hammerWord w → (hword t.ham w).toNat = v % 2 ^ 256 ∧ ∀ k, k ≠ w → hword t.ham k = hword s.ham k))
  ∧ (∀ (s : State) (u : DbgUnit), debugReach s ≠ .closed → dbgHalts s u = true →
      (∃ l, exec (.dbgHalt u) s = .next { s with rsp := { s.rsp with halted := l }, sent := .debug .ok none [] :: s.sent }
        ∧ ∀ w, w ∈ l ↔ (w = u ∨ w ∈ s.rsp.halted))
      ∧ (∃ l, exec (.dbgResume u) s = .next { s with rsp := { s.rsp with halted := l }, sent := .debug .ok none [] :: s.sent }
        ∧ ∀ w, w ∈ l ↔ (w ≠ u ∧ w ∈ s.rsp.halted)))
  ∧ (∀ (s : State), debugReach s ≠ .closed →
      (∀ x v, dbgReaches s x = false →
        exec (.dbgRead x) s = .next { s with sent := .debug .denied (some .accessDenied) [] :: s.sent }
        ∧ exec (.dbgWrite x v) s = .next { s with sent := .debug .denied (some .accessDenied) [] :: s.sent })
      ∧ (∀ u, dbgHalts s u = false →
        exec (.dbgHalt u) s = .next { s with sent := .debug .denied (some .accessDenied) [] :: s.sent }
        ∧ exec (.dbgResume u) s = .next { s with sent := .debug .denied (some .accessDenied) [] :: s.sent }))
  ∧ (∀ (s : State), dbgReaches s .udsFuses = false ∧ (∀ o, dbgReaches s (.keyRam o) = false)
      ∧ (∀ w, wordSealed s.ham w = true → dbgReaches s (.hammerWord w) = false)
      ∧ (debugReach s = .locked → ∀ x, dbgReaches s x = false))
  ∧ (∀ (s : State) (c : Instr), debugReach s = .closed →
      (c ∈ [Instr.dbgStatus, .dbgChallenge, .dbgDebugClose] ∨ (∃ t, c = .dbgResponse t ∨ c = .dbgLcToken t)
        ∨ (∃ x v, c = .dbgRead x ∨ c = .dbgWrite x v) ∨ (∃ u, c = .dbgHalt u ∨ c = .dbgResume u)) → exec c s = .next s)

/-- An accepted lifecycle token or DEBUG_CLOSE takes effect once, on the debug mailbox or in a session; a refused one only consumes its nonce -/
def Obligations.LifecycleTokensBlowTheirFuses : Prop :=
  (∀ (s : State) (t : Bytes), debugReach s ≠ .closed → s.rsp.restartDue = false →
      (∀ f, tokenFault s t = some f → exec (.dbgLcToken t) s = .next
          { (consumeNonce s t) with sent := .debug .denied (some f) [] :: s.sent })
      ∧ (tokenFault s t = none → field t 5 1 = 2 → lcState s = 1 → s.rsp.devCert.isSome = true → s.ctxs = [] →
          s.sys.joined = false → ∃ u, exec (.dbgLcToken t) s = .next u ∧ lcState u = 2 ∧ u.pwr.st = .starting 2)
      ∧ (tokenFault s t = none → field t 5 1 = 3 → lcState s ≠ 3 →
          ∃ u, exec (.dbgLcToken t) s = .next u ∧ lcState u = 3 ∧ u.pwr.st = .starting 2 ∧ u.ctxs = [] ∧ u.rsp.sessions = []
            ∧ u.rsp.devCert = none)
      ∧ (tokenFault s t = none → field t 5 1 = 4 → lcState s = 1 → s.rsp.devCert = none →
          ∃ u, exec (.dbgLcToken t) s = .next u ∧ u.rsp.devCert = some (slice t 17408 (field t 104 4))
            ∧ u.rsp.fuses = s.rsp.fuses)
      ∧ (tokenFault s t = none → field t 5 1 = 1 → lcState s = 0 → s.rsp.fuses.udsLock = true → s.rsp.fuses.udsOk = true →
          ∃ u, exec (.dbgLcToken t) s = .next u ∧ lcState u = 1 ∧ u.rsp.fuses.uds = s.rsp.fuses.uds))
  ∧ (∀ s : State, debugReach s ≠ .closed → 2 ≤ lcState s → ∃ u, exec .dbgDebugClose s = .next u
      ∧ u.rsp.fuses = { s.rsp.fuses with debugDisable := true } ∧ debugReach u = .closed ∧ u.rsp.debugAuth = false
      ∧ u.sent = .debug .ok none [] :: s.sent)
  ∧ (∀ (s : State) (v : SpdmVia) (n : Nat) (t d : Bytes) (sc : Option Nat) (x : Session) (w : State),
      spdmScope s v = some sc → session? s v sc n = some x → x.step = .mixed → moduleMail v x = true →
      let u := setSession s { x with lastTick := s.now }
      (lcTokenOut u t false = some ⟨w, .ok d⟩ →
        exec (.lcToken v n t) s = .next (if w.rsp.restartDue then restart (spdmSend w v (.vendor 3 0 d))
          else spdmSend w v (.vendor 3 0 d)))
      ∧ (2 ≤ lcState s → s.rsp.fuses.debugDisable = false → ∃ y, exec (.debugClose v n) s = .next (spdmSend y v (.vendor 4 0 []))
          ∧ y.rsp.fuses = { s.rsp.fuses with debugDisable := true } ∧ y.ctxs = s.ctxs ∧ y.mem = s.mem))

/-- FW_STAGE fills the inactive bank; FW_ACTIVATE swaps banks and restarts, or waits for FW_LIVE_SWAP; MIN_SVN only rises -/
def Obligations.FirmwareIsStagedActivatedAndNeverOlder : Prop :=
  (∀ (s : State) (m : Nat) (r : MbReq), Carried s 0x60 m r →
      let t := taken s 0x60 m r
      let a := compBase + field r.payload 0 8
      let n := field r.payload 8 4
      let rd := devRead t.mem t.ways hintNormal a n
      let b := bankOf rd.1
      inComp a n = true → 17408 ≤ n → n ≤ 17408 + 2 ^ 24 → fwFault { t with mem := rd.2 } b false = none →
      exec (.fwStage m r) s = .next (respond (putInactive { t with mem := rd.2 } (field b.head 5 1 - 1) b) m (.ok (imageMeas b))))
  ∧ (∀ (s : State) (m i : Nat) (r : MbReq) (b : Bank), Carried s 0x61 m r → s.rsp.restartDue = false →
      let t := taken s 0x61 m r
      stagedClass t (slice r.payload 0 48) = some (i, b) → fwFault t b false = none →
      (2 ≤ i → exec (.fwActivate m r) s = .next (t.setMb m { t.mb m with wait := some (.fwSwap (i + 1)) }))
      ∧ (i < 2 → s.ctxs = [] → s.sys.joined = false → ∃ u, exec (.fwActivate m r) s = .next u ∧ u.pwr.st = .starting 2
          ∧ u.rsp.images = (swapBanks s i).rsp.images ∧ u.rsp.fuses = (commitSvn s b).rsp.fuses
          ∧ ∃ a, (u.mb m).rsp = some a ∧ a.status = .ok))
  ∧ (∀ (s : State) (cls : Nat) (b : Bank), s.mbs.any (fun x => x.2.wait == some (.fwSwap cls)) = true →
      (s.rsp.images[cls - 1]?).bind otherBank = some b → 3 ≤ cls → cls ≤ 5 →
      ∃ u, exec (.fwLiveSwap cls) s = .next u ∧ u.rsp.images = (swapBanks s (cls - 1)).rsp.images
        ∧ u.rsp.fuses = (commitSvn s b).rsp.fuses ∧ u.ctxs = s.ctxs ∧ u.disps = s.disps
        ∧ (cls = 4 → u.trans = []) ∧ (cls ≠ 4 → u.trans = s.trans)
        ∧ u.rsp.mr[cls + 1]? = (s.rsp.mr[cls + 1]?).map (fun v => sha384 (v ++ imageMeas b)))
  ∧ (∀ (s : State) (b : Bank), (commitSvn s b).rsp.fuses = { s.rsp.fuses with
      minSvn := if bit (field b.head 7 1) 0 then max s.rsp.fuses.minSvn (field b.head 8 4) else s.rsp.fuses.minSvn })

/-- Each SPDM request in its step is answered with its response and moves the connection or session on -/
def Obligations.SpdmHandshakeAndSessionsAdvance : Prop :=
  (∀ (s : State) (v : SpdmVia) (sc : Option Nat), spdmScope s v = some sc →
      exec (.getVersion v) s = .next (spdmSend (s.setConn { SpdmConn.new v with step := .version }) v .version)
      ∧ ((s.conn v).step = .version →
          exec (.getCapabilities v) s = .next (spdmSend (s.setConn { s.conn v with step := .caps }) v .capabilities))
      ∧ ((s.conn v).step ≠ .version → exec (.getCapabilities v) s = .next (spdmSend s v (.error 0x04)))
      ∧ ((s.conn v).step = .caps →
          exec (.negotiateAlgorithms v true) s = .next (spdmSend (s.setConn { s.conn v with step := .algs }) v .algorithms)
          ∧ exec (.negotiateAlgorithms v false) s = .next (spdmSend s v (.error 0x01)))
      ∧ exec (.respondIfReady v) s = .next (spdmSend s v (.error 0x04)))
  ∧ (∀ (s : State) (v : SpdmVia) (sc : Option Nat) (b : Bytes), spdmScope s v = some sc → (s.conn v).step = .algs →
      chain s = some b →
      exec (.getDigests v) s = .next (spdmSend s v (.digests (sha384 b)))
      ∧ (∀ off len, off < b.length → exec (.getCertificate v 0 off len) s = .next (spdmSend s v
          (.certificate (slice b off (min len (b.length - off))) (b.length - off - min len (b.length - off)))))
      ∧ (canSign s = true → drbgReady s = true →
          (∀ nonce, ∃ t sig, exec (.challenge v 0 nonce) s = .next (spdmSend t v (.challengeAuth sig)) ∧ sig.length = 96
            ∧ t = { s with rsp := { s.rsp with drbgReqs := s.rsp.drbgReqs + 1 }, freeCtr := t.freeCtr })
          ∧ (∀ nonce, ∃ t sig, exec (.getMeasurements v 0xFF true nonce) s = .next (spdmSend t v
              (.measurements (measBlocks s sc) (opaqueData s sc) sig)) ∧ sig.length = 96 ∧ t.rsp.mr = s.rsp.mr)
          ∧ (∀ share, onCurve share = true → sessionLeft s v = true → ∃ t x sig y, exec (.keyExchange v share) s =
              .next (spdmSend t v (.keyExchangeRsp s.rsp.nextSession sig (opaqueData s sc) y))
            ∧ t.rsp.sessions = s.rsp.sessions ++ [x] ∧ x.num = s.rsp.nextSession ∧ x.via = v ∧ x.ctx = sc ∧ x.step = .session
            ∧ t.rsp.nextSession = s.rsp.nextSession + 1)))
  ∧ (∀ (s : State) (v : SpdmVia) (sc : Option Nat) (nonce : Bytes), spdmScope s v = some sc → (s.conn v).step = .algs →
      exec (.getMeasurements v 0 false nonce) s = .next (spdmSend s v
        (.measCount (if (sc.bind s.ctx?).isSome then 35 else 33) (opaqueData s sc) [])))
  ∧ (∀ (s : State) (v : SpdmVia) (sc : Option Nat) (n : Nat) (x : Session), spdmScope s v = some sc →
      session? s v sc n = some x →
      (x.step = .session → exec (.finish v n (Config.finishMac x.key)) s = .next (spdmSend
          (setSession s { x with lastTick := s.now, step := .finished }) v .finishRsp))
      ∧ ((x.step = .finished ∨ x.step = .mixed) →
          exec (.heartbeat v n) s = .next (spdmSend (setSession s { x with lastTick := s.now, lastBeat := s.now }) v .heartbeatAck)
          ∧ exec (.keyUpdate v n) s = .next (spdmSend
              (setSession s { x with lastTick := s.now, key := Config.keyUpdate x.key }) v .keyUpdateAck)
          ∧ exec (.endSession v n) s = .next (spdmSend (dropSess s n) v .endSessionAck)))
  ∧ (∀ (s : State) (v : SpdmVia) (sc : Option Nat) (data : Bytes), spdmScope s v = some sc → data.length ≤ 4028 →
      (s.conn v).chunk.length + data.length ≤ 65536 →
      exec (.chunkSend v false data) s = .next (spdmSend (s.setConn { s.conn v with chunk := (s.conn v).chunk ++ data }) v .chunkSendAck)
      ∧ exec (.chunkSend v true data) s = .next (s.setConn { s.conn v with chunk := [] }))
  ∧ (∀ (s : State) (v : SpdmVia) (sc : Option Nat) (n : Nat) (r : SpdmRsp), spdmScope s v = some sc →
      (s.conn v).deferred = some r → n < partCount r → ∃ t part, exec (.chunkGet v n) s = .next (spdmSend t v
          (.chunkRsp part (n + 1 == partCount r)))
        ∧ (n + 1 = partCount r → (t.conn v).deferred = none ∧ t.sent = .spdmRsp v r :: s.sent)
        ∧ (n + 1 ≠ partCount r → t.sent = s.sent ∧ (t.conn v).deferred = some r))
  ∧ (∀ (s : State) (n : Nat) (x : Session), s.rsp.sessions.find? (fun y => y.num == n) = some x →
      (x.lastTick + 1500000001 ≤ s.now → exec (.spdmSessionIdleTimeout n) s = .next (dropSess s n))
      ∧ (x.requester = true → x.lastBeat + 750000000 ≤ s.now → exec (.heartbeatPeriodExpiry n) s = .next
          ((setSession s { x with lastBeat := s.now, lastTick := s.now }).emit (.spdmHeartbeat n))))
  ∧ (∀ (s : State) (m : Nat) (r : MbReq), Carried s 0x50 m r → field r.payload 2 2 = 0 → exec (.attestGet m r) s =
      .next ((taken s 0x50 m r).setMb m { (taken s 0x50 m r).mb m with
        wait := some (.spdm (if r.ctx = noCtx then none else some r.ctx) (r.payload.drop 4)) }))

/-- KEM_MIX, NONCE_GET, WEIGHTS_KEY, WEIGHTS_UNWRAP and SEALED_FRAME_ZEROED complete as the rules say -/
def Obligations.VendorRequestsProtectKeysAndWeights : Prop :=
  (∀ (s : State) (v : SpdmVia) (sc : Option Nat) (n : Nat) (ct : Bytes) (x : Session), spdmScope s v = some sc →
      session? s v sc n = some x → x.step = .finished → ct.length = 1568 →
      (∀ ss, Config.kemDecaps s.rsp.fuses.uds (summary s) ct = some ss → exec (.kemMix v n ct) s = .next (spdmSend
          (setSession s { x with lastTick := s.now, key := Config.kemSecret x.key ss, step := .mixed }) v (.vendor 1 0 [])))
      ∧ (Config.kemDecaps s.rsp.fuses.uds (summary s) ct = none → exec (.kemMix v n ct) s = .next
          (spdmSend (dropSess s n) v (.vendor 1 0x07 []))))
  ∧ (∀ (s : State) (v : SpdmVia) (sc : Option Nat) (n : Nat) (x : Session), spdmScope s v = some sc →
      session? s v sc n = some x → x.step = .mixed → moduleMail v x = true → drbgReady s = true →
      ∃ t nonce, exec (.nonceGet v n) s = .next (spdmSend t v (.vendor 2 0 nonce)) ∧ nonce.length = 32
        ∧ nonceLive t nonce = true ∧ t.ctxs = s.ctxs ∧ t.mem = s.mem)
  ∧ (∀ (s : State) (v : SpdmVia) (sc : Option Nat) (n keyNo : Nat) (key : Bytes) (x : Session) (c : Ctx),
      spdmScope s v = some sc → session? s v sc n = some x → x.step = .mixed → weightsCtx s x = some c → keyNo < 4 →
      key.length = 32 → ∃ e, exec (.weightsKey v n keyNo key) s = .next (spdmSend
          ((setSession s { x with lastTick := s.now }).setCtx e) v (.vendor 0x10 0 []))
        ∧ e = { c with weightsKeys := e.weightsKeys, weightsUsed := true } ∧ assoc keyNo e.weightsKeys = some key
        ∧ ∀ k, k ≠ keyNo → assoc k e.weightsKeys = assoc k c.weightsKeys)
  ∧ (∀ (s u : State) (v : SpdmVia) (sc : Option Nat) (n keyNo blobId src dst records : Nat) (x : Session) (c : Ctx) (key : Bytes)
      (f : Option (FaultCode × Nat)),
      spdmScope s v = some sc → session? s v sc n = some x → x.step = .mixed → weightsCtx s x = some c → keyNo < 4 →
      src % 65536 = 0 → dst % 65536 = 0 → 1 ≤ records → records ≤ 8192 → assoc keyNo c.weightsKeys = some key →
      unwrapFrom key c.num blobId src dst records 0 (dropOthersXlate (setSession s { x with lastTick := s.now }) c.num) = (u, f) →
      exec (.weightsUnwrap v n keyNo blobId src dst records) s = .next (spdmSend u v (match f with
        | none => .vendor 0x11 0 []
        | some (e, r) => .vendor 0x11 e.code (leBytes 4 r))))
  ∧ (∀ (s : State) (ctx : Nat) (z : Nat × List Nat), s.rsp.zeroing.find? (fun y => y.1 == ctx) = some z →
      ∃ t, exec (.sealedFrameZeroed ctx) s = .next t
        ∧ t = { s with mem := { s.mem with hbm := t.mem.hbm, hbmMarked := t.mem.hbmMarked, cache := t.mem.cache },
                       rsp := { s.rsp with zeroing := s.rsp.zeroing.erase z } }
        ∧ (∀ f a, f ∈ z.2 → a / 65536 = f → memGet t.mem.hbm a = 0 ∧ a / 1024 ∉ t.mem.hbmMarked)
        ∧ (∀ a, a / 65536 ∉ z.2 → memGet t.mem.hbm a = memGet s.mem.hbm a))

/-- Host windows read, write and compare-and-swap only what they bind; register writes and companion snoops take effect -/
def Obligations.HostWindowsRegistersAndSnoops : Prop :=
  (∀ (s : State) (w off n : Nat) (xs : List Span), s.linkUp = true → s.isUp = true → w < 64 → oneLine off n = true →
      hwinSpans s w off n true false = .ok xs → exec (.hostWindowAccess w off (.read n)) s = .next
        ((touchReads (hwinWalk { s with linkRetry := 0 } w .read xs) xs).emit (.hostRead (spansPeek s.mem xs))))
  ∧ (∀ (s : State) (w off : Nat) (data : Bytes) (xs : List Span), s.linkUp = true → s.isUp = true → w < 64 →
      oneLine off data.length = true → hwinSpans s w off data.length false true = .ok xs →
      exec (.hostWindowAccess w off (.write data)) s
        = .next ((hwinWalk { s with linkRetry := 0 } w .write xs).writeSpans xs data false))
  ∧ (∀ (s : State) (w off n : Nat) (data : Bytes) (f : FaultCode), s.linkUp = true → s.isUp = true → w < 64 →
      ∃ l st, assoc w l = some st ∧ st.lastFault = f.code
        ∧ st.refused = min (((assoc w s.hwinStatus).getD ⟨0, 0⟩).refused + 1) (2 ^ 32 - 1)
        ∧ (∀ k, k ≠ w → assoc k l = assoc k s.hwinStatus)
        ∧ (oneLine off n = true → hwinSpans s w off n true false = .error f → exec (.hostWindowAccess w off (.read n)) s = .next
            { s with linkRetry := 0, hwinStatus := l, sent := .hostRead (List.replicate n 0xFF) :: s.sent })
        ∧ (oneLine off data.length = true → hwinSpans s w off data.length false true = .error f →
            exec (.hostWindowAccess w off (.write data)) s = .next { s with linkRetry := 0, hwinStatus := l }))
  ∧ (∀ (s : State) (w off size expect new : Nat) (xs : List Span), s.linkUp = true → s.isUp = true → w < 64 →
      (size = 1 ∨ size = 4 ∨ size = 8) → off % size = 0 → hwinSpans s w off size true true = .ok xs →
      (∀ x, x ∈ xs → inComp x.addr x.len = false) →
      let t := touchReads (hwinWalk { s with linkRetry := 0 } w .write xs) xs
      let old := leNat (spansPeek s.mem xs)
      (old = expect % 2 ^ (8 * size) → exec (.hostWindowCas w off size expect new) s = .next
          ((t.writeSpans xs (leBytes size new) false).emit (.casOld old)))
        ∧ (old ≠ expect % 2 ^ (8 * size) → exec (.hostWindowCas w off size expect new) s = .next (t.emit (.casOld old))))
  ∧ (∀ (s : State) (w off size expect new : Nat) (a : HwAccess), s.linkUp = true → s.serves = true → s.isUp = false → w < 64 →
      (oneLine off (hwBytes a) = true → ∃ t, exec (.hostWindowAccess w off a) s = .next t ∧ t.mem = s.mem
        ∧ t.atLink = s.atLink ++ [.hostWindowAccess w off a])
      ∧ (∃ t, exec (.hostWindowCas w off size expect new) s = .next t ∧ t.mem = s.mem
        ∧ t.atLink = s.atLink ++ [.hostWindowCas w off size expect new]))
  ∧ (∀ (s : State) (v : Nat), s.linkUp = true → marshalUp s = true →
      let t := { s with linkRetry := 0 }
      (v % 2 ^ 32 ≠ 0 → exec (.registerWrite (.aperture 0x8) 8 v) s = .next { t with hostSig := { s.hostSig with refused := 0 } })
      ∧ exec (.registerWrite (.aperture 0x10) 16 v) s = exec (.hostMarkSig (leBytes 16 v)) t
      ∧ exec (.registerWrite (.aperture 0x24) 4 v) s = .next { t with ev := { s.ev with cons := v % 2 ^ 32 } }
      ∧ exec (.registerWrite (.aperture 0x28) 4 v) s = .next { t with ev := { s.ev with lost := 0 } }
      ∧ (∀ q n, q < 32768 → (n = 4 ∨ n = 8) →
          exec (.registerWrite (.aperture (0x1000000 + 8 * q)) n v) s = exec (.queueDoorbell q (v % 2 ^ 32)) t)
      ∧ (∀ m, m < 64 → exec (.registerWrite (.aperture (0x10000 + 16 * m)) 8 v) s
          = runMailbox (parseReq (s.mb m).req).1 m (parseReq (s.mb m).req).2 t)
      ∧ (∀ m o n, m < 64 → (n = 4 ∨ n = 8 ∨ n = 16) → o % n = 0 → o + n ≤ 4096 → ∃ b,
          exec (.registerWrite (.aperture (0x100000 + 0x2000 * m + o)) n v) s = .next (t.setMb m b)
          ∧ b = { s.mb m with req := b.req } ∧ slice b.req o n = leBytes n v
          ∧ ∀ k, k < 4096 → (k < o ∨ o + n ≤ k) → slice b.req k 1 = slice (s.mb m).req k 1)
      ∧ (∀ m, m < 64 → bit v 2 = true →
          exec (.registerWrite (.aperture (0x10008 + 16 * m)) 8 v) s = .next (t.setMb m { s.mb m with overrun := false }))
      ∧ (∀ w x, w < 64 → assoc w s.hwinStatus = some x → v % 2 ^ 32 ≠ 0 → ∃ l,
          exec (.registerWrite (.aperture (0x100 + 8 * w)) 8 v) s = .next { t with hwinStatus := l }
          ∧ assoc w l = some { x with refused := 0 } ∧ ∀ k, k ≠ w → assoc k l = assoc k s.hwinStatus)
      ∧ (∀ off n, ¬ ((n = 4 ∨ n = 8 ∨ n = 16) ∧ off % n = 0) →
          exec (.registerWrite (.aperture off) n v) s = .next t ∧ readRegister s (.aperture off) n = 0))
  ∧ (∀ (s : State) (v : Nat), marshalUp s = true →
      (∀ m, ∃ x, exec (.registerWrite (.manager m) 8 v) s = .next (s.setMgr m x)
        ∧ x = { s.mgr m with cancelCount := x.cancelCount, staleCount := x.staleCount }
        ∧ x.cancelCount = (if v / 2 ^ 48 % 2 ^ 16 = 0 then (s.mgr m).cancelCount else 0)
        ∧ x.staleCount = (if v / 2 ^ 32 % 2 ^ 16 = 0 then (s.mgr m).staleCount else 0))
      ∧ (∀ p, p < 16 → p < s.ports.length → ∃ t, exec (.registerWrite (.port p) 8 v) s = .next t ∧ t = { s with ports := t.ports }
        ∧ t.port p = { s.port p with retry := if v / 2 ^ 16 % 2 ^ 16 = 0 then (s.port p).retry else 0,
                                     downs := if v / 2 ^ 8 % 2 ^ 8 = 0 then (s.port p).downs else 0 }
        ∧ ∀ q, q ≠ p → t.port q = s.port q)
      ∧ exec (.registerWrite .stale 8 v) s
          = .next { s with staleDiscards := if v / 2 ^ 32 % 2 ^ 32 = 0 then s.staleDiscards else 0 })
  ∧ (∀ (s : State) (v : Nat), rspPowered s = true → ∃ h, exec (.registerWrite .hammer 8 v) s = .next { s with ham := h }
      ∧ h = { s.ham with cfgErr := h.cfgErr, cmdErr := h.cmdErr }
      ∧ (h.cfgErr = true ↔ s.ham.cfgErr = true ∧ v / 2 ^ 33 % 2 = 0) ∧ (h.cmdErr = true ↔ s.ham.cmdErr = true ∧ v / 2 ^ 32 % 2 = 0))
  ∧ (∀ (s : State) (line : Nat) (data : Bytes), isCompLine line = true → line * 64 + 64 ≤ compEnd → data.length = 64 →
      ∃ t, exec (.companionSnoopInvalidate line data) s = .next t ∧ t = { s with mem := t.mem }
        ∧ t.mem.comp = memPut (cacheDrop s.mem line false).comp (line * 64 - compBase) data
        ∧ (∀ x, x ∈ t.mem.xlate → line ∉ x.lines) ∧ t.mem.hbm = (cacheDrop s.mem line false).hbm)

/-- A link asks for a bad flit again eight times and falls at the ninth; lock loss, a dead timer and a bad tag take a port down -/
def Obligations.LinkErrorsRetryThenFall : Prop :=
  (∀ s : State, s.linkUp = true → s.linkRetry < 8 →
      exec (.flitCrcError none) s = .next { s with linkRetry := s.linkRetry + 1, sent := .flitAgain none :: s.sent })
  ∧ (∀ s : State, s.linkUp = true → ∃ t, exec .weloneLinkDown s = .next t ∧ t.linkUp = false ∧ t.linkTick = s.now
      ∧ (∀ l, l ∈ t.mem.cache → isCompLine l.line = false)
      ∧ (∀ x, x ∈ t.mem.xlate → x.lines.any isCompLine = false) ∧ t.mem.comp = s.mem.comp ∧ t.ctxs = s.ctxs
      ∧ (8 ≤ s.linkRetry → exec (.flitCrcError none) s = .next t))
  ∧ (∀ s : State, s.linkUp = false → linkPowered s = true → (s.linkTick = 0 ∨ s.linkTick + 125001 ≤ s.now) →
      (∃ t, exec (.weloneLinkRetrain true) s = .next t ∧ t.linkUp = true ∧ t.linkRetry = 0 ∧ t.ev.held = [] ∧ t.ev.heldIrq = []
        ∧ (∀ v, v ∈ s.ev.heldIrq → Msg.interrupt v ∈ t.sent))
      ∧ exec (.weloneLinkRetrain false) s = .next { s with linkTick := s.now })
  ∧ (∀ (s : State) (p : Nat), p < 16 → p < s.ports.length → serPowered s = true → trained (s.port p) = true →
      ((s.port p).flitFails < 8 → ∃ t, exec (.flitCrcError (some p)) s = .next t
        ∧ t = { s with ports := t.ports, sent := .flitAgain (some p) :: s.sent }
        ∧ t.port p = { s.port p with flitFails := (s.port p).flitFails + 1, retry := min ((s.port p).retry + 1) (2 ^ 16 - 1) }
        ∧ ∀ q, q ≠ p → t.port q = s.port q)
      ∧ (8 ≤ (s.port p).flitFails → ∃ t, exec (.flitCrcError (some p)) s = .next t ∧ (t.port p).st = .down
          ∧ ((s.port p).st = .active → (t.port p).cause = 2 ∧ (t.port p).downs = min ((s.port p).downs + 1) 255)
          ∧ ∀ q, q ≠ p → t.port q = s.port q)
      ∧ (∃ t, exec (.laneLossOfLock p) s = .next t ∧ (t.port p).st = .down ∧ ((s.port p).st = .active → (t.port p).cause = 1)
          ∧ ∀ q, q ≠ p → t.port q = s.port q)
      ∧ (∃ t, exec (.idleFlitSend p) s = .next t ∧ t = { s with ports := t.ports, sent := .idle p :: s.sent }
          ∧ t.port p = { s.port p with flitFails := 0 } ∧ ∀ q, q ≠ p → t.port q = s.port q))
  ∧ (∀ (s : State) (p : Nat), p < 16 → p < s.ports.length → (s.port p).st = .active →
      ((s.port p).lastGood + s.settingN 0x0306 0 + 1 ≤ s.unitTicks 4 (p / 8) → ∃ t, exec (.linkDeadTimer p) s = .next t
        ∧ (t.port p).st = .down ∧ (t.port p).cause = 3 ∧ ∀ q, q ≠ p → t.port q = s.port q)
      ∧ (∃ t, exec (.gcmTagFailure p) s = .next t ∧ (t.port p).st = .down ∧ (t.port p).cause = 4
          ∧ (∀ x, x ∈ t.rsp.sessions → x.via ≠ .port p) ∧ ∀ q, q ≠ p → t.port q = s.port q))

/-- Discovery walks a port from DOWN to ACTIVE or REFUSED by its rules; joining, leaving and MARK_SIGNAL take effect -/
def Obligations.PortsAreDiscoveredAdmittedAndLeft : Prop :=
  (∀ (s : State) (p : Nat), p < s.ports.length → serPowered s = true →
      (portEnabled s p = true → (s.port p).st = .down → (s.port p).since + 125001 ≤ s.now →
        exec (.portTrainingAttempt p) s = .next (s.modPort p (fun x => { x with st := .training, since := s.now })))
      ∧ (p < 16 → (s.port p).st = .training → s.now ≤ (s.port p).since + 6250000 → ∃ t, exec (.portTrainingComplete p true) s = .next t
          ∧ (t.port p).st = .ident ∧ t.sent = .ident p (identMsg s p) :: s.sent ∧ ∀ q, q ≠ p → t.port q = s.port q)
      ∧ (p < 16 → (s.port p).st = .training → ∃ t, exec (.portTrainingComplete p false) s = .next t
          ∧ (t.port p).st = .down ∧ (t.port p).cause = 1 ∧ ∀ q, q ≠ p → t.port q = s.port q)
      ∧ (∀ m, p < 16 → (s.port p).st = .ident → s.now ≤ (s.port p).since + 12500 →
          (identOk p m = true → exec (.ident p m) s
            = .next ((s.heardOn p).modPort p (fun x => { notePeer x m with st := .attest, since := s.now })))
          ∧ (identOk p m = false → ∃ t, exec (.ident p m) s = .next t ∧ (t.port p).st = .refused ∧ (t.port p).cause = 6))
      ∧ (∀ m, p < 16 → (s.port p).st = .ident → (s.port p).since + 12501 ≤ s.now →
          ∃ t, exec (.ident p m) s = .next t ∧ (t.port p).st = .down ∧ (t.port p).cause = 3))
  ∧ (∀ (s : State) (p : Nat), p < 16 → p < s.ports.length →
      ((s.port p).st = .ident → (s.port p).since + 12501 ≤ s.now → ∃ t, exec (.identTimeout p) s = .next t
        ∧ (t.port p).st = .down ∧ (t.port p).cause = 3)
      ∧ (∀ r, (s.port p).st = .attest → r.ok = true → s.now ≤ (s.port p).since + s.settingN 0x0307 0 → s.sys.joined = false →
          ∃ t, exec (.portAttestComplete p r) s = .next t ∧ (t.port p).st = .admitting ∧ (t.port p).attested = some r
            ∧ t.rsp.sessions.any (fun x => x.via == .port p) = true)
      ∧ (∀ r, (s.port p).st = .attest → r.ok = false → ∃ t, exec (.portAttestComplete p r) s = .next t
          ∧ (t.port p).st = .refused ∧ (t.port p).cause = 5)
      ∧ ((s.port p).st = .attest → (s.port p).since + s.settingN 0x0307 0 + 1 ≤ s.now → ∃ t, exec (.attestTimeout p) s = .next t
          ∧ (t.port p).st = .refused ∧ (t.port p).cause = 5)
      ∧ ((s.port p).st = .admitting → ∃ t, exec (.admissionMessage p false) s = .next t ∧ (t.port p).st = .refused
          ∧ (t.port p).cause = 6)
      ∧ ((s.port p).st = .admitting → s.sys.joined = true → (s.port p).peerJoined = true → s.sys.leaving = none →
          (Sys2Proof.Machine.admits s p = true → ∃ t, exec (.admissionMessage p true) s = .next t ∧ (t.port p).st = .active)
          ∧ (Sys2Proof.Machine.admits s p = false → ∃ t, exec (.admissionMessage p true) s = .next t ∧ (t.port p).st = .refused
              ∧ (t.port p).cause = 6 ∧ Msg.admission p false ∈ t.sent)))
  ∧ (∀ (s : State) (p : Nat), p < 16 → s.ports.length = 16 → serPowered s = true → carries (s.port p) = true →
      ∃ t, exec (.leave p) s = .next t ∧ ∀ q, q < 16 →
        (carries (s.port q) = true → (s.port q).peer = (s.port p).peer → (t.port q).st = .ident ∧ (t.port q).cause = 7)
        ∧ ((carries (s.port q) = false ∨ (s.port q).peer ≠ (s.port p).peer) → t.port q = s.port q))
  ∧ (∀ (s : State) (m : Nat) (r : MbReq), Carried s 0x58 m r →
      let id := field r.payload 0 8
      let num := field r.payload 8 1
      let n := field r.payload 9 1
      id ≠ 0 → num < 64 → 1 ≤ n → n ≤ 8 → allZero r.payload 10 6 = true → lcState s ≠ 0 → lcState s ≠ 3 →
      (s.sys.joined = true → s.sys.systemId = id ∧ s.sys.modNum = num) →
      ∃ u, exec (.systemJoin m r) s = .next (respond u m (.ok [])) ∧ u.sys.joined = true ∧ u.sys.systemId = id
        ∧ u.sys.modNum = num ∧ u.sys.anchor = slice r.payload 16 48
        ∧ u.sys.digests = (List.range n).map (fun i => slice r.payload (64 + 48 * i) 48)
        ∧ u.rsp.mr[9]? = (s.rsp.mr[9]?).map (fun v => sha384 (v ++ sha384 r.payload)))
  ∧ (∀ (s : State) (m : Nat) (r : MbReq), Carried s 0x59 m r →
      let u := beginLeave (taken s 0x59 m r)
      (drained u = true → exec (.systemLeave m r) s = .next (respond (finishLeave u) m (.ok [])))
      ∧ (drained u = false → exec (.systemLeave m r) s = .next (u.setMb m { u.mb m with wait := some .leave }))
      ∧ ∀ p, p < s.ports.length → (s.port p).st = .active → (u.port p).st = .leaving ∧ (u.port p).cause = 7)
  ∧ (∀ (s : State) (k : Nat), s.sys.leaving = some k → k + s.settingN 0x0308 0 + 1 ≤ s.now →
      exec .leaveDrainExpiry s = .next (finishLeave s))
  ∧ (∀ s : State, (finishLeave s).sys.joined = false ∧ (finishLeave s).sys.systemId = 0 ∧ (finishLeave s).sys.leaving = none
      ∧ ∀ p, p < 16 → p < s.ports.length → trained (s.port p) = true → ((finishLeave s).port p).st = .ident
          ∧ Msg.leave p ∈ (finishLeave s).sent)
  ∧ (∀ (s : State) (m k : Nat) (r : MbReq), Carried s 0x32 m r → field r.payload 2 1 = 0 →
      ctxMark s r.ctx (field r.payload 0 2) = some k → markOwned s k r.ctx = true → (s.mark k).hostSig = true →
      exec (.markSignal m r) s = .next (respond (addMark (taken s 0x32 m r) k (field r.payload 4 4)) m (.ok [])))
  ∧ (∀ (s : State) (m p : Nat) (r : MbReq), Carried s 0x32 m r → field r.payload 2 1 = 1 → field r.payload 3 1 < 64 →
      (bundle s (field r.payload 3 1)).head? = some p →
      ∃ u, exec (.markSignal m r) s = .next u ∧ (u.mb m).busy = true ∧ (u.mb m).wait = some (.ack s.sys.nextTag)
        ∧ u.sent = .peerMark p (field r.payload 0 2) (field r.payload 4 4) r.ctx s.sys.nextTag :: s.sent
        ∧ u.marks = s.marks ∧ u.sys.peerSigs = s.sys.peerSigs ++ [⟨s.sys.nextTag, p, m⟩])

/-- Collectives are created, set up, fed chunks, credits and acknowledgements, and committed round by round; stale messages change nothing -/
def Obligations.CollectivesAreCreatedSetUpAndCommitted : Prop :=
  (∀ (s : State) (m : Nat) (r : MbReq) (c : Ctx), Carried s 0x38 m r → s.ctx? r.ctx = some c →
      collFault s c r.payload = none → ∃ u k, exec (.collCreate m r) s = .next (respond u m (.ok []))
        ∧ u = { taken s 0x38 m r with colls := u.colls, sent := u.sent, retx := u.retx, freeCtr := u.freeCtr } ∧ u.coll? ⟨r.ctx, field r.payload 0 4⟩ = some k
        ∧ k.record = r.payload ∧ (k.st = .setup ∨ (k.st = .idle ∧ neighbours r.payload = [])) ∧ k.round = 0
        ∧ k.members = cMembers r.payload ∧ ∀ e, e ≠ ⟨r.ctx, field r.payload 0 4⟩ → u.coll? e = s.coll? e)
  ∧ (∀ (s : State) (m : Nat) (r : MbReq) (k : Coll), s.coll? ⟨r.ctx, field r.payload 0 4⟩ = some k →
      (Carried s 0x3A m r → exec (.collStatus m r) s = .next (respond (taken s 0x3A m r) m (.ok (leBytes 8 (collWord k)))))
      ∧ (Carried s 0x39 m r → ∃ u, exec (.collDestroy m r) s = .next (respond u m (.ok []))
          ∧ u.coll? ⟨r.ctx, field r.payload 0 4⟩ = none
          ∧ (∀ e, e ≠ ⟨r.ctx, field r.payload 0 4⟩ → u.coll? e = s.coll? e)
          ∧ u.mem = { s.mem with ifMap := u.mem.ifMap }
          ∧ ∀ e, e ∈ s.mem.ifMap → e.owner ≠ some collOwner → e ∈ u.mem.ifMap))
  ∧ (∀ (s : State) (c : CMsg) (hash : Bytes) (parent children below : Nat) (k : Coll), s.isUp = true → isPeer s c.fromMod = true →
      c.fromMod < 64 → s.coll? c.coll = some k → k.st = .setup →
      (neighbours k.record).contains c.fromMod = true → s.settingN (0x0140 + c.fromMod) c.coll.ctx = c.fromCtx →
      hash = setupHash k.record → (parent = s.sys.modNum ↔ bit (cChildren k.record) c.fromMod = true) →
      (bit children s.sys.modNum = true ↔ cParent k.record = c.fromMod) →
      ∃ t e, exec (.collSetup c hash parent children below) s = .next t
        ∧ t = { s.heardFrom c.fromMod with colls := t.colls, sent := t.sent, retx := t.retx, freeCtr := t.freeCtr }
        ∧ t.coll? c.coll = some e ∧ assoc c.fromMod e.answered = some below ∧ (e.st = .setup ∨ e.st = .idle)
        ∧ ∀ y, y ≠ c.coll → t.coll? y = s.coll? y)
  ∧ (∀ (s : State) (c : CMsg) (k : Coll), CollTaken s c k true current → k.st = .running ∨ k.st = .reforming →
      ∃ t, exec (.collCommit c) s = .next t
        ∧ t.coll? c.coll = some { cleared k with st := .idle, round := k.round + 1, attempt := 1 }
        ∧ (∀ y, y ≠ c.coll → t.coll? y = s.coll? y) ∧ t.mem = s.mem
        ∧ (∀ n, ctxMark s k.ref.ctx (field k.record 58 2) = some n → t.markNet = s.markNet ++ [⟨n, 1, k.ref.ctx, .starter⟩])
        ∧ ∀ m, m ∈ kids k → SentToPeer s t m (.collCommit m k.ref (k.round + 1) k.attempt))
  ∧ (∀ (s : State) (c : CMsg) (k : Coll) (i : Nat) (ws : List Nat) (marked : Bool) (x : Ctx),
      CollTaken s c k (cMulti k.record) inAttempt → k.st = .running → k.lent = true → s.ctx? k.ref.ctx = some x →
      i < chunkCount k.record →
      ws.length = chunkLen k.record i → i ∉ k.doneChunks → (∀ y, y ∈ k.chunks → y.from_ = c.fromMod → y.index ≠ i) →
      let e : Coll := { k with chunks := k.chunks ++ [⟨c.fromMod, i, ws, marked⟩] }
      (cMulti k.record = false → exec (.collChunk c i ws marked) s = .next (pump (s.heardFrom c.fromMod) x e))
      ∧ (cMulti k.record = true → ∃ u, exec (.collChunk c i ws marked) s = .next
          (pump u x { e with doneChunks := insertNat i k.doneChunks })
        ∧ u.mem = (landChunk s k i (if cPlain k.record && cDstE k.record == 4 then ws.map (fun w => (bfToF32 w).1) else ws) marked).mem
        ∧ u.colls = s.colls
        ∧ ((insertNat i k.doneChunks).length = chunkCount k.record → SentToPeer s u (cParent k.record)
            (.collAck (cParent k.record) k.ref (k.round + 1) k.attempt s.sys.modNum))))
  ∧ (∀ (s : State) (c : CMsg) (k : Coll) (n member : Nat),
      (CollTaken s c k (!cMulti k.record) inAttempt → ∃ e,
          exec (.collChunkCredit c n) s = .next (runColl ((s.heardFrom c.fromMod).setColl e) e)
          ∧ e = { k with credits := e.credits } ∧ assoc c.fromMod e.credits = some ((assoc c.fromMod k.credits).getD 0 + n)
          ∧ ∀ y, y ≠ c.fromMod → assoc y e.credits = assoc y k.credits)
      ∧ (CollTaken s c k false inAttempt →
          (atHome k = true → exec (.collChunkAck c member) s = .next (runColl ((s.heardFrom c.fromMod).setColl
            { k with acks := insertNat member k.acks }) { k with acks := insertNat member k.acks }))
          ∧ (atHome k = false → exec (.collChunkAck c member) s = .next (collSend (s.heardFrom c.fromMod) (cParent k.record)
              (.collAck (cParent k.record) k.ref (k.round + 1) k.attempt member)))))
  ∧ (∀ (s : State) (c : CMsg) (k : Coll) (i n mask : Nat) (ws : List Nat) (marked : Bool), collFor s c = some k → lives k = true →
      let u := staleColl (s.heardFrom c.fromMod) k
      (cParent k.record = c.fromMod →
        (current c k = false → exec (.collCommit c) s = .next u ∧ exec (.collOrphan c) s = .next u ∧ exec (.collAbandon c) s = .next u)
        ∧ (current c k = false ∨ k.st = .reforming → (cMulti k.record = true → exec (.collChunk c i ws marked) s = .next u)
            ∧ (cMulti k.record = false → exec (.collChunkCredit c n) s = .next u))
        ∧ (c.round ≠ k.round + 1 ∨ c.attempt ≠ k.attempt + 1 → exec (.collRestart c n) s = .next u))
      ∧ ((maskMods (cChildren k.record)).contains c.fromMod = true →
        (current c k = false → c.round ≠ k.round → exec (.collDepart c mask) s = .next u)
        ∧ (current c k = false ∨ k.st = .reforming → exec (.collChunkAck c n) s = .next u
            ∧ (cMulti k.record = false → exec (.collChunk c i ws marked) s = .next u)
            ∧ (cMulti k.record = true → exec (.collChunkCredit c n) s = .next u))))
  ∧ (∀ (c : CMsg) (k : Coll), current c k = true ↔ c.round = k.round + 1 ∧ c.attempt = k.attempt)
  ∧ (∀ (s : State) (c : CMsg) (hash : Bytes) (parent children below : Nat), s.serves = true → s.isUp = false →
      (lanes s c.fromMod ≠ [] → exec (.collCommit c) s = .next (s.holdAtLink (.collCommit c))
        ∧ (c.fromMod < 64 → exec (.collSetup c hash parent children below) s
            = .next (s.holdAtLink (.collSetup c hash parent children below)))))
  ∧ (∀ (c : Ctx) (r : Bytes) (j a : Nat) (bs : List Nat), cPlain r = false → WordPrime (elemPrime c r j) → a < 2 ^ 32 →
      (∀ b, b ∈ bs → b < 2 ^ 32) → addWords c r j a bs = (a + bs.sum) % elemPrime c r j)

/-- DEPART, ORPHAN, ABANDON, RESTART and REFORM_TIMEOUT re-form or end a collective as the rules say -/
def Obligations.CollectivesReFormAfterADeparture : Prop :=
  (∀ (s : State) (c : CMsg) (k : Coll) (mask : Nat), CollTaken s c k false departTime →
      (atHome k = true → k.members &&& mask ≠ 0 → exec (.collDepart c mask) s = .next (reform (s.heardFrom c.fromMod) k mask))
      ∧ (atHome k = true → k.members &&& mask = 0 → exec (.collDepart c mask) s = .next (s.heardFrom c.fromMod))
      ∧ (atHome k = false → exec (.collDepart c mask) s = .next (collSend (s.heardFrom c.fromMod) (cParent k.record)
          (.collDepart (cParent k.record) k.ref c.round c.attempt mask))))
  ∧ (∀ (c : CMsg) (k : Coll), departTime c k = true ↔ (c.round = k.round + 1 ∧ c.attempt = k.attempt) ∨ c.round = k.round)
  ∧ (∀ (s : State) (k : Coll) (mask : Nat), s.coll? k.ref = some k → k.attempt < 255 →
      ∃ e, (reform s k mask).coll? k.ref = some e ∧ e.st = .reforming
        ∧ (∀ m, bit e.members m = (bit k.members m && !bit mask m)) ∧ e.round = k.round ∧ e.attempt = k.attempt
        ∧ (k.st ≠ .reforming → e.since = s.now ∧ e.chunks = [] ∧ e.acks = [])
        ∧ (∀ y, y ≠ k.ref → (reform s k mask).coll? y = s.coll? y) ∧ (reform s k mask).mem = s.mem
        ∧ (k.st ≠ .reforming → ∀ m, m ∈ kids k → bit mask m = false →
            SentToPeer s (reform s k mask) m (.collAbandon m k.ref (k.round + 1) k.attempt)))
  ∧ (∀ (s : State) (c : CMsg) (k : Coll), CollTaken s c k true current →
      ∃ t, exec (.collOrphan c) s = .next t ∧ t.coll? c.coll = some { cleared k with st := .orphaned, fault := some .linkLost }
        ∧ (∀ y, y ≠ c.coll → t.coll? y = s.coll? y) ∧ t.mem = s.mem
        ∧ ∀ m, m ∈ kids k → SentToPeer s t m (.collOrphan m k.ref (k.round + 1) k.attempt))
  ∧ (∀ (s : State) (c : CMsg) (k : Coll), CollTaken s c k true current →
      ∃ t, exec (.collAbandon c) s = .next t
        ∧ t.coll? c.coll = some (if 255 ≤ k.attempt then { cleared k with st := .failed, fault := some .linkLost }
            else { cleared k with st := .reforming })
        ∧ (∀ y, y ≠ c.coll → t.coll? y = s.coll? y) ∧ t.mem = s.mem
        ∧ (k.st ≠ .reforming → ∀ m, m ∈ kids k → SentToPeer s t m (.collAbandon m k.ref (k.round + 1) k.attempt)))
  ∧ (∀ (s : State) (c : CMsg) (k : Coll) (members : Nat), CollTaken s c k true nextAttempt → k.st = .reforming →
      exec (.collRestart c members) s = .next (restartWith (s.heardFrom c.fromMod) k members (k.attempt + 1)))
  ∧ (∀ (c : CMsg) (k : Coll), nextAttempt c k = true ↔ c.round = k.round + 1 ∧ c.attempt = k.attempt + 1)
  ∧ (∀ (s : State) (c : CRef) (k : Coll), s.coll? c = some k → s.isUp = true → k.st = .reforming → atHome k = true →
      k.since + s.settingN 0x0309 0 + 1 ≤ s.now →
      exec (.reformTimeout c) s = .next (restartWith s k k.members (k.attempt + 1)))
  ∧ (∀ (s : State) (k : Coll) (members attempt : Nat), s.coll? k.ref = some k → armed s k = false →
      (∀ m, m ∈ kids { k with members := members } → isPeer s m = true) →
      ∃ t, restartWith s k members attempt = t
        ∧ t.coll? k.ref = some { cleared k with st := .running, members := members, attempt := attempt }
        ∧ (∀ y, y ≠ k.ref → t.coll? y = s.coll? y) ∧ t.mem = s.mem
        ∧ ∀ m, m ∈ kids { k with members := members } → SentToPeer s t m (.collRestart m k.ref (k.round + 1) attempt members))
  ∧ (∀ (s : State) (m : Nat) (msg : Msg), (lanes s m = [] → collSend s m msg = s)
      ∧ (∀ p l, lanes s m = p :: l → ∃ t, collSend s m msg = t
          ∧ t = { s with freeCtr := s.freeCtr + 1, retx := t.retx, sent := .guarded p (portKey s p) msg :: s.sent }
          ∧ (p, msg) ∈ t.retx ∧ ∀ e : Nat × Msg, e ∈ t.retx → e = (p, msg) ∨ e ∈ s.retx))

/-- Corrected errors are merged, uncontained ones fence their unit, a fenced Field is reset, tested and returned, the mirror is rewritten -/
def Obligations.ErrorsAreRecordedFencedAndRecovered : Prop :=
  (∀ (s : State) (relay n : Nat), relay < 32 → s.isUp = true → 1 ≤ n →
      (n ≤ 8 → ∃ t m, exec (.fabricRetry relay n) s = .next t ∧ m ∈ t.fence.merges ∧ m.cls = 7 ∧ m.kind = ukRelay ∧ m.unit = relay
        ∧ 1 ≤ m.count ∧ t.fence.relays = s.fence.relays ∧ t.disps = s.disps)
      ∧ (n = 9 → ∃ t f, exec (.fabricRetry relay n) s = .next t ∧ f ∈ t.fence.relays ∧ f.unit = relay))
  ∧ (∀ (s : State) (core : Nat), coreOn s core = true → ∃ t f, exec (.controlUe core) s = .next t
      ∧ f ∈ t.fence.cores ∧ f.unit = core ∧ f.hard = true)
  ∧ (∀ (s : State) (relay : Nat), relay < 32 → coreOn s (4 * relay) = true → ∃ t f, exec (.relayControlUe relay) s = .next t
      ∧ f ∈ t.fence.relays ∧ f.unit = relay ∧ f.hard = true)
  ∧ (∀ (s : State) (f : Nat), f < 8 → s.isUp = true → (s.field f).st ≠ .off → ∃ t x, exec (.fieldPllLoss f) s = .next t
      ∧ x ∈ t.fence.fields ∧ x.unit = f ∧ x.hard = true
      ∧ ((∀ y, y ∈ s.fence.fields → y.unit ≠ f) → ∀ y, y ∈ t.disps → y.phase ≠ .ended → onUnit y ukField f = true →
            y.fate.isSome = true ∨ (y.abortLate = true ∧ y.finished = true)))
  ∧ (∀ (s : State) (ctx : Nat) (c : Ctx), s.ctx? ctx = some c → s.serves = true → ∃ t, exec (.contextUe ctx) s = .next t
      ∧ t.ctx? ctx = none ∧ ∀ x, x ∈ t.disps → x.ctx ≠ ctx)
  ∧ (∀ (s : State) (kind unit : Nat), rspPowered s = true → ∃ t, exec (.moduleFault kind unit) s = .next t
      ∧ t.fence = { s.fence with moduleFault := true } ∧ t.admits = false ∧ t.disps = s.disps ∧ t.ctxs = s.ctxs)
  ∧ (∀ (s : State) (f : Nat), s.fields.length = 8 → mayRecover s f = true → ∃ t, exec (.fieldRecovery f) s = .next t
      ∧ (t.field f).phase = .test ∧ (t.field f).st = .warm ∧ (t.field f).recoveries = (s.field f).recoveries + 1
      ∧ t.fence = { s.fence with recoveries := satInc 8 s.fence.recoveries }
      ∧ (∀ n, fieldOf n = f → n < 128 → t.core n = CoreRegs.zero) ∧ (∀ g, g ≠ f → t.field g = s.field g))
  ∧ (∀ (s : State) (f : Nat), f < 8 → s.fields.length = 8 → s.isUp = true → (s.field f).phase = .test →
      (∃ t, exec (.selfTestComplete f true) s = .next t ∧ (t.field f).phase = .service ∧ fieldFenced t f = false
        ∧ ∀ n, fieldOf n = f → n < 128 → t.coreFenced n = false)
      ∧ (∃ t, exec (.selfTestComplete f false) s = .next t ∧ t.fence = s.fence ∧ (t.field f).st = .off
        ∧ (t.field f).failedTest = true ∧ mayRecover t f = false))
  ∧ (∀ (s : State) (b : Nat), s.isUp = true → inHbm (1024 * b) 1024 = true →
      exec (.patrolScrub (.hbm b) .none) s = .next s
      ∧ (∃ t, exec (.patrolScrub (.hbm b) .hbmCe) s = .next t ∧ (s.ev.on = false → t.mem = s.mem)
          ∧ t.fence.dieCe = modNth (· + 1) (if 1024 * b < 6 * 2 ^ 34 then 0 else 1) s.fence.dieCe)
      ∧ (∃ t, exec (.patrolScrub (.hbm b) .hbmUe) s = .next t ∧ t.mem.hbmMarked.contains b = true
          ∧ (s.ev.on = false → t.mem = { s.mem with hbmMarked := markBlocks s.mem.hbmMarked (1024 * b) 1 true })))
  ∧ (∀ (s : State) (core b : Nat), coreOn s core = true → b < 2048 → ∃ t, exec (.patrolScrub (.coreStore core b) .sramUe) s = .next t
      ∧ ((∀ f, f ∈ t.fence.cores → f ∈ s.fence.cores) → (∀ f, f ∈ t.fence.fields → f ∈ s.fence.fields) →
          t.mem.cs.marked.contains (core * 2048 + b) = true))
  ∧ (∀ (s : State) (die b : Nat), die < 2 → s.isUp = true → b < 2 ^ 18 →
      (∃ t, exec (.patrolScrub (.infield die b) .sramUe) s = .next t ∧ t.mem.inf.marked.contains (die * 2 ^ 18 + b) = true
        ∧ t.fence = s.fence)
      ∧ (∃ t m, exec (.patrolScrub (.infield die b) .sramCe) s = .next t ∧ m ∈ t.fence.merges ∧ m.kind = ukDie ∧ m.unit = die
        ∧ t.fence = { s.fence with merges := t.fence.merges } ∧ t.fields = s.fields))
  ∧ (∀ s : State, s.ev.on = true → s.linkUp = true → s.serves = true → ∃ t, exec .statusMirrorRewrite s = .next t
      ∧ t.ev = { s.ev with mirrorSeq := (s.ev.mirrorSeq + 2) % 2 ^ 32, mirrorTick := s.now }
      ∧ (let v := leNat (devPeek s.mem (compBase + s.ev.base + 64 * 2 ^ s.ev.log2 + 2048) 8)
         (bit v 2 = true → t.staleDiscards = 0) ∧ (bit v 2 = false → t.staleDiscards = s.staleDiscards)
         ∧ (bit v 3 = true → t.pwr.noAdmit = some 0)
         ∧ (∀ m, t.mgr m = if bit v 0 then { s.mgr m with cancelCount := 0, staleCount := 0 } else s.mgr m)
         ∧ (∀ p, p < s.ports.length → t.port p = if bit v 1 then { s.port p with retry := 0, downs := 0 } else s.port p)))

/-- A modular load writes redc(u R2) for any u, a lazy Montgomery value of u mod q; a store writes the canonical residue; a unit of a stream goes word by word -/
def Obligations.ModularLoadsAndStoresKeepResidues : Prop :=
  (∀ q u : Nat, WordPrime q → u < 2 ^ 32 →
      loadM q u = redc q (u * (2 ^ 64 % q)) ∧ loadM q u < 2 * q ∧ loadM q u % q = u * 2 ^ 32 % q
      ∧ (redc q u = q → storeM q u = 0) ∧ (redc q u ≠ q → storeM q u = redc q u)
      ∧ storeM q u < q ∧ storeM q u * 2 ^ 32 % q = u % q ∧ storeM q (loadM q u) = u % q)
  ∧ (∀ (t : Stream) (load : Bool) (u : SUnit) (bs : Bytes), t.conv = true → bs.length = 4 * u.count →
      ∀ j, j < u.count → leNat (slice (convWords t load u bs) (4 * j) 4) =
        (let q := nth t.primes ((u.first + j) / t.limbWords) 1
         let w := leNat (slice bs (4 * j) 4)
         (if load then loadM q w else storeM q w) % 2 ^ 32))
  ∧ (∀ (t : Stream) (load : Bool) (u : SUnit) (bs : Bytes), t.conv = false → convWords t load u bs = bs)

/-- On lazy Montgomery values, add, sub, mul and mac give lazy values of the sum, difference, product and product-sum of the residues; a scalar becomes one -/
def Obligations.ModularLanesComputeOnResidues : Prop :=
  (∀ q a b c : Nat, WordPrime q → a < 2 * q → b < 2 * q → c < 2 * q →
      (laneMod .add q a b c < 2 * q ∧ storeM q (laneMod .add q a b c) = (storeM q a + storeM q b) % q)
      ∧ (laneMod .sub q a b c < 2 * q ∧ storeM q (laneMod .sub q a b c) = (storeM q a + q - storeM q b) % q)
      ∧ (laneMod .mul q a b c < 2 * q ∧ storeM q (laneMod .mul q a b c) = storeM q a * storeM q b % q)
      ∧ (laneMod .mac q a b c < 2 * q ∧ storeM q (laneMod .mac q a b c) = (storeM q a * storeM q b + storeM q c) % q))
  ∧ (∀ q x : Nat, WordPrime q → x < 2 ^ 64 → scalarM q x < 2 * q ∧ storeM q (scalarM q x) = x % q)
  ∧ (addM 998244353 1500000000 1800000000 = 1303511294 ∧ subM 998244353 1500000000 1800000000 = 1696488706
      ∧ condSub 1500000000 998244353 = 501755647 ∧ condSub 1800000000 998244353 = 801755647)

/-- A cell counts the products since it was empty or folded, folds before the 1,025th, never overflows 72 bits, and stays congruent to the exact sum -/
def Obligations.ProductCellsFoldAndNeverOverflow : Prop :=
  (∀ q t n p : Nat, WordPrime q → p ≤ (q - 1) * (q - 1) → t < 2 ^ 72 → n ≤ 1024 → (n < 1024 → t ≤ q + n * ((q - 1) * (q - 1))) →
      (n < 1024 → cellAdd q (t, n) p = (t + p, n + 1)) ∧ (n = 1024 → cellAdd q (t, n) p = (t % q + p, 1)))
  ∧ (∀ (q : Nat) (ps : List Nat), WordPrime q → (∀ p, p ∈ ps → p ≤ (q - 1) * (q - 1)) →
      let r := ps.foldl (cellAdd q) (0, 0)
      r.1 < 2 ^ 72 ∧ r.1 % q = ps.sum % q ∧ r.2 ≤ 1024 ∧ r.1 ≤ q + r.2 * ((q - 1) * (q - 1)))
  ∧ (∀ (s : State) (core q g row col ka kb : Nat) (f : MmForm) (start : Nat × Nat),
      matrixCell s core q f g row col ka kb start = ((rangeFrom ka (kb - ka)).map (fun k =>
        condSub (obWord s core 1 (f.xoff + (g * f.k + k) * 128 + 4 * row) 4) q
          * condSub (obWord s core 2 (f.woff + k * 64 + 4 * col) 4) q)).foldl (cellAdd q) start)

/-- The coefficient automorphism X to X^g writes a_j, or its negative, to position j g modulo 2N, and every position is written exactly once -/
def Obligations.CoefficientAutomorphismMovesEachCoefficientOnce : Prop :=
  ∀ (q logN g : Nat) (a : List Nat), 1 ≤ q → 1 ≤ logN → logN ≤ 17 → g % 2 = 1 → g < 2 * 2 ^ logN → a.length = 2 ^ logN →
    let n := 2 ^ logN
    (autoCoeff q logN g a).length = n
    ∧ (∀ j, j < n →
        (j * g % (2 * n) < n → nth (autoCoeff q logN g a) (j * g % (2 * n)) 0 = nth a j 0 % q)
        ∧ (n ≤ j * g % (2 * n) → nth (autoCoeff q logN g a) (j * g % (2 * n) - n) 0
            = if nth a j 0 % q = 0 then 0 else q - nth a j 0 % q))
    ∧ (∀ p, p < n → ∃ j, j < n ∧ j * g % (2 * n) % n = p ∧ ∀ k, k < n → k * g % (2 * n) % n = p → k = j)

/-- The first instruction of a dispatch stamps T_START and signals START_MARK; a later one does neither -/
def Obligations.FirstInstructionStampsTheStart : Prop :=
  (∀ (s : State) (d : DRef) (x : Dispatch), s.disp? d = some x → x.tStart = none →
      began s d = { s.setDisp { x with tStart := some s.now } with markNet := match x.markNum (field x.record 12 2) with
        | some k => s.markNet ++ [⟨k, 1, x.ctx, .starter⟩]
        | none => s.markNet })
  ∧ (∀ (s : State) (d : DRef) (x : Dispatch), s.disp? d = some x → x.tStart ≠ none → began s d = s)
  ∧ (∀ (s : State) (d : DRef), s.disp? d = none → began s d = s)

/-- Instruction words written out from the encoding tables decode to the instructions they stand for -/
def Obligations.InstructionWordsDecode : Prop :=
  ∀ d : DRef,
    decodeAvis d (0x41 * 2 ^ 57 + 5 * 2 ^ 49 + 6 * 2 ^ 44 + 7 * 2 ^ 39) 0 = some (.scAdd d 5 6 (.reg 7), 1)
    ∧ decodeAvis d (0x40 * 2 ^ 57 + 31 * 2 ^ 49 + (2 ^ 32 - 1)) 0 = some (.scLi d 31 (BitVec.ofInt 64 (-1)) false, 1)
    ∧ decodeAvis d (0x18 * 2 ^ 57 + 4 * 2 ^ 48 + 5 * 2 ^ 42 + 6 * 2 ^ 36 + 3 * 2 ^ 21 + 31 * 2 ^ 6) 0
        = some (.vAdd d { ety := .mod32, vd := 4, va := 5, vb := 6, vc := 0, tileA := false, scalB := false, colStep := false,
                          mod := 3, ml := none, cnt := 32, subop := 0, ob3 := 0 }, 1)
    ∧ decodeAvis d (0x01 * 2 ^ 57 + 2 ^ 56 + 7 * 2 ^ 32 + 8 * 2 ^ 10) (9 * 2 ^ 42 + (2 * 2 ^ 16 + 3 * 2 ^ 9) * 2 ^ 20)
        = some (.nttF d (.lit 7) (.lit 8) (.lit 9) 2 3, 2)
    ∧ decodeAvis d (0x30 * 2 ^ 57 + 2 ^ 56 + 7 * 2 ^ 32 + 12 * 2 ^ 26 + 2 ^ 25 + 2 ^ 24 + 256) (3 * 2 ^ 3)
        = some (.sLd d { rm := .lit 7, other := .vr 12, conv := true, count := 256, window := 0, tcore := 0, tmod := 0,
                         xmod := false, mod := 3 }, 2)
    ∧ decodeAvis d (0x38 * 2 ^ 57 + 7 * 2 ^ 32 + 12 * 2 ^ 26 + 13 * 2 ^ 20 + 2 ^ 19 + 3 * 2 ^ 12 + 31) 0
        = some (.atAddM d { rm := .lit 7, vs := 12, vf := 13, fetch := true, w64 := false, mod := 3, cnt := 32, vc := 0 }, 1)
    ∧ decodeAvis d (0x50 * 2 ^ 57 + 6 * 2 ^ 44 + 7 * 2 ^ 39 + 2 * 2 ^ 32 + (2 ^ 32 - 4)) 0 = some (.br d .ne 6 (.reg 7) (-4), 1)
    ∧ decodeAvis d (0x53 * 2 ^ 57) 0 = some (.ret d, 1)
    ∧ decodeAvis d (0x62 * 2 ^ 57 + 8 * 2 ^ 48 + 16 * 2 ^ 41 + 5 * 2 ^ 37) 0 = some (.rel d 8 16 5, 1)
    ∧ decodeAvis d (0x62 * 2 ^ 57 + 1) 0 = none
    ∧ decodeAvis d (0x7F * 2 ^ 57) 0 = none

/-- No command puts, takes or reorders a waiting command; a step takes exactly the one in front (the queue is the model's own, log entry 2) -/
def Obligations.CommandsLeaveTheQueueAlone : Prop :=
  (∀ (c : Instr) (s t : State), exec c s = .next t → t.pending = s.pending)
  ∧ (∀ s t : State, step s = .next t → t.pending = s.pending.tail)

/-- No step of the block unblows a fuse: lifecycle pairs, the UDS and its lock, the debug disable and MIN_SVN only move forward -/
def Obligations.FusesOnlyMoveForward : Prop :=
  ∀ s t : State, step s = .next t → FusesForward s.rsp.fuses t.rsp.fuses ∧ lcState s ≤ lcState t

/-- Every step keeps every memory in its one canonical form: addresses rising, no zero byte listed (log entry 7) -/
def Obligations.StepsKeepTheMemoriesCanonical : Prop :=
  ∀ s t : State, MemState.ok s.mem = true → step s = .next t → MemState.ok t.mem = true
end

