-- ==== Sys2Proof/Laws/Memory.lean ====
section
/-! SUPPORT. The memories keep their canonical form under every memory operation, and a read gives what was last written. -/

namespace Sys2Proof.Machine

/-- The canonical form as an ordering of the addresses. -/
theorem memOk_iff (m : Mem) : memOk m = true ↔ (∀ c ∈ m, c.2 ≠ 0) ∧ m.Pairwise (fun x y => x.1 < y.1) := by
  induction m with
  | nil => simp [memOk]
  | cons c t ih =>
    cases t with
    | nil => simp [memOk]
    | cons e u =>
      have h : memOk (c :: e :: u) = (c.2 != 0 && decide (c.1 < e.1) && memOk (e :: u)) := by
        simp only [memOk, List.all_cons, List.tail_cons, List.zip_cons_cons]
        cases (c.2 != 0) <;> cases (e.2 != 0) <;> cases decide (c.1 < e.1) <;> simp
      rw [h, Bool.and_eq_true, Bool.and_eq_true, ih]
      constructor
      · rintro ⟨⟨h0, h1⟩, h2, h3⟩
        have h1 : c.1 < e.1 := by simpa using h1
        refine ⟨?_, List.pairwise_cons.2 ⟨?_, h3⟩⟩
        · intro x hx
          rcases List.mem_cons.1 hx with rfl | hx
          · simpa using h0
          · exact h2 x hx
        · intro x hx
          rcases List.mem_cons.1 hx with rfl | hx
          · exact h1
          · exact lt_trans h1 ((List.pairwise_cons.1 h3).1 x hx)
      · rintro ⟨h2, h3⟩
        have h4 := List.pairwise_cons.1 h3
        exact ⟨⟨by simpa using h2 c (by simp), by simpa using h4.1 e (by simp)⟩,
          fun x hx => h2 x (List.mem_cons_of_mem _ hx), h4.2⟩

theorem cellsOf_mem (a : Nat) (bs : Bytes) : ∀ c ∈ cellsOf a bs, c.2 ≠ 0 ∧ a ≤ c.1 ∧ c.1 < a + bs.length := by
  induction bs generalizing a with
  | nil => simp [cellsOf]
  | cons b t ih =>
    intro c hc
    have step : ∀ c ∈ cellsOf (a + 1) t, c.2 ≠ 0 ∧ a ≤ c.1 ∧ c.1 < a + (b :: t).length := fun c hc => by
      have := ih (a + 1) c hc
      simp only [List.length_cons]
      exact ⟨this.1, by omega, by omega⟩
    by_cases hb : b = 0
    · exact step c (by simpa [cellsOf, hb] using hc)
    · simp only [cellsOf, hb, if_false, List.mem_cons] at hc
      rcases hc with rfl | hc
      · exact ⟨hb, le_rfl, by simp⟩
      · exact step c hc

theorem cellsOf_sorted (a : Nat) (bs : Bytes) : (cellsOf a bs).Pairwise (fun x y => x.1 < y.1) := by
  induction bs generalizing a with
  | nil => simp [cellsOf]
  | cons b t ih =>
    by_cases hb : b = 0
    · simpa [cellsOf, hb] using ih (a + 1)
    · simp only [cellsOf, hb, if_false]
      exact List.pairwise_cons.2 ⟨fun c hc => by have := cellsOf_mem (a + 1) t c hc; simp only; omega, ih (a + 1)⟩

/-- A write keeps the canonical form, whatever it writes. -/
theorem memPut_ok {m : Mem} (h : memOk m = true) (a : Nat) (bs : Bytes) : memOk (memPut m a bs) = true := by
  rw [memOk_iff] at h ⊢
  obtain ⟨hz, hs⟩ := h
  refine ⟨?_, ?_⟩
  · intro c hc
    simp only [memPut, List.mem_append, List.mem_filter] at hc
    rcases hc with (hc | hc) | hc
    · exact hz c hc.1
    · exact (cellsOf_mem a bs c hc).1
    · exact hz c hc.1
  · simp only [memPut, List.pairwise_append, List.mem_append, List.mem_filter, decide_eq_true_eq]
    refine ⟨⟨hs.filter _, cellsOf_sorted a bs, ?_⟩, hs.filter _, ?_⟩
    · intro x hx y hy
      have := (cellsOf_mem a bs y hy).2
      omega
    · intro x hx y hy
      rcases hx with hx | hx
      · omega
      · have := (cellsOf_mem a bs x hx).2
        omega

theorem memGet_append (m n : Mem) (a : Nat) (h : ∀ c ∈ m, c.1 ≠ a) : memGet (m ++ n) a = memGet n a := by
  induction m with
  | nil => rfl
  | cons c t ih =>
    have hc : c.1 ≠ a := h c (by simp)
    simp only [List.cons_append, memGet, hc, if_false]
    exact ih (fun x hx => h x (List.mem_cons_of_mem _ hx))

theorem memGet_absent (m : Mem) (a : Nat) (h : ∀ c ∈ m, c.1 ≠ a) : memGet m a = 0 := by
  have := memGet_append m [] a h
  simpa [memGet] using this

theorem memGet_filter (m : Mem) (a : Nat) (p : Host.Cell → Bool) (hp : ∀ b, p (a, b) = true) :
    memGet (m.filter p) a = memGet m a := by
  induction m with
  | nil => rfl
  | cons c t ih =>
    obtain ⟨k, b⟩ := c
    by_cases hk : k = a
    · subst hk; simp [hp, memGet]
    · cases hc : p (k, b) <;> simp [hc, memGet, hk, ih]

theorem memGet_append_left (m n : Mem) (a : Nat) (h : ∀ c ∈ n, c.1 ≠ a) : memGet (m ++ n) a = memGet m a := by
  induction m with
  | nil => simpa [memGet] using memGet_absent n a h
  | cons c t ih => obtain ⟨k, b⟩ := c; by_cases hk : k = a <;> simp [memGet, hk, ih]

theorem memGet_cellsOf (a i : Nat) (bs : Bytes) (h : i < bs.length) : memGet (cellsOf a bs) (a + i) = bs.getD i 0 := by
  induction bs generalizing a i with
  | nil => simp at h
  | cons b t ih =>
    cases i with
    | zero =>
      by_cases hb : b = 0
      · simp only [cellsOf, hb, if_true, Nat.add_zero, List.getD_cons_zero]
        exact memGet_absent _ _ (fun c hc => by have := (cellsOf_mem (a + 1) t c hc).2; omega)
      · rw [cellsOf, if_neg hb]; simp [memGet]
    | succ i =>
      have hi : i < t.length := by simpa using h
      have := ih (a + 1) i hi
      have e : a + 1 + i = a + (i + 1) := by omega
      rw [e] at this
      by_cases hb : b = 0
      · simpa [cellsOf, hb] using this
      · have hne : a ≠ a + (i + 1) := by omega
        rw [cellsOf, if_neg hb]
        simpa [memGet, hne] using this

/-- A read of a byte just written gives the byte written. -/
theorem memGet_memPut_in (m : Mem) (a i : Nat) (bs : Bytes) (h : i < bs.length) :
    memGet (memPut m a bs) (a + i) = bs.getD i 0 := by
  have h1 : ∀ c ∈ m.filter (fun c => decide (c.1 < a)), c.1 ≠ a + i := fun c hc => by
    have := (List.mem_filter.1 hc).2; simp at this; omega
  have h2 : ∀ c ∈ m.filter (fun c => decide (a + bs.length ≤ c.1)), c.1 ≠ a + i := fun c hc => by
    have := (List.mem_filter.1 hc).2; simp at this; omega
  rw [memPut, List.append_assoc, memGet_append _ _ _ h1, memGet_append_left _ _ _ h2, memGet_cellsOf a i bs h]

/-- A write leaves every byte outside it. -/
theorem memGet_memPut_out (m : Mem) (a k : Nat) (bs : Bytes) (h : k < a ∨ a + bs.length ≤ k) :
    memGet (memPut m a bs) k = memGet m k := by
  have hc : ∀ c ∈ cellsOf a bs, c.1 ≠ k := fun c hc => by have := (cellsOf_mem a bs c hc).2; omega
  rcases h with h | h
  · have h2 : ∀ c ∈ m.filter (fun c => decide (a + bs.length ≤ c.1)), c.1 ≠ k := fun c hc => by
      have := (List.mem_filter.1 hc).2; simp at this; omega
    rw [memPut, memGet_append_left _ _ _ h2, memGet_append_left _ _ _ hc, memGet_filter _ _ _ (by simpa using h)]
  · have h1 : ∀ c ∈ m.filter (fun c => decide (c.1 < a)), c.1 ≠ k := fun c hc => by
      have := (List.mem_filter.1 hc).2; simp at this; omega
    rw [memPut, List.append_assoc, memGet_append _ _ _ h1, memGet_append _ _ _ hc,
      memGet_filter _ _ _ (by simpa using h)]

/-! The memories of a state. -/

/-- The canonical form of all memories, part by part. -/
theorem MemState.ok_iff (m : MemState) : m.ok = true ↔
    memOk m.hbm = true ∧ memOk m.comp = true ∧ memOk m.cs.data = true ∧ memOk m.ob.data = true ∧ memOk m.inf.data = true := by
  simp [MemState.ok, Bool.and_eq_true, and_assoc]

@[simp] theorem MemState.reset_ok : MemState.reset.ok = true := by decide

theorem foldl_keeps {α β : Type} (p : α → Prop) (f : α → β → α) (h : ∀ a b, p a → p (f a b)) (l : List β) (a : α)
    (ha : p a) : p (l.foldl f a) := by
  induction l generalizing a with
  | nil => exact ha
  | cons b t ih => exact ih (f a b) (h a b ha)

theorem dropXlate_ok {m : MemState} (h : m.ok = true) (l : Nat) : (dropXlate m l).ok = true := h

theorem cacheDrop_ok {m : MemState} (h : m.ok = true) (l : Nat) (wb : Bool) : (cacheDrop m l wb).ok = true := by
  unfold cacheDrop
  split
  · exact h
  · dsimp only
    split
    · rw [MemState.ok_iff] at h ⊢
      exact ⟨memPut_ok h.1 _ _, h.2⟩
    · exact h

theorem lowerKeep_ok {m : MemState} (h : m.ok = true) (km l : Nat) : (lowerKeep m km l).ok = true := by
  unfold lowerKeep
  dsimp only
  split
  · exact h
  · split <;> exact h

theorem cacheAlloc_ok {m : MemState} (h : m.ok = true) (cw km : Nat) (c : CacheLine) : (cacheAlloc m cw km c).ok = true := by
  have drop : ∀ (x : MemState) (o : Option CacheLine), x.ok = true → (MemState.ok (match o with
      | some v => cacheDrop x v.line true
      | none => x)) = true := by
    intro x o hx
    cases o
    · exact hx
    · exact cacheDrop_ok hx _ _
  have low : (if c.keep then lowerKeep m km c.line else m).ok = true := by
    split
    · exact lowerKeep_ok h _ _
    · exact h
  unfold cacheAlloc
  split
  · exact h
  · exact drop _ _ low

theorem cacheTouch_ok {m : MemState} (h : m.ok = true) (k : Nat) (c : CacheLine) (r : Bool) : (cacheTouch m k c r).ok = true := by
  have low : (if r && !c.keep then lowerKeep m k c.line else m).ok = true := by
    split
    · exact lowerKeep_ok h _ _
    · exact h
  exact low

theorem lineRead_ok {m : MemState} (h : m.ok = true) (w : Ways) (hint l : Nat) : (lineRead m w hint l).2.ok = true := by
  unfold lineRead
  generalize (if isCompLine l then hintNormal else hint) = k
  dsimp only
  split
  · by_cases hk : (k == hintLast) = true
    · rw [if_pos hk]; exact cacheDrop_ok h _ _
    · rw [if_neg hk]; exact cacheTouch_ok h _ _ _
  · by_cases hk : (k == hintKeep || k == hintNormal) = true
    · rw [if_pos hk]; exact cacheAlloc_ok h _ _ _
    · rw [if_neg hk]; exact h

theorem lineWrite_ok {m : MemState} (h : m.ok = true) (w : Ways) (hint l o : Nat) (bs : Bytes) :
    (lineWrite m w hint l o bs).ok = true := by
  have hd := dropXlate_ok h l
  unfold lineWrite
  dsimp only
  split
  · rw [MemState.ok_iff] at hd ⊢
    exact ⟨hd.1, memPut_ok hd.2.1 _ _, hd.2.2⟩
  · split
    · split
      · exact cacheDrop_ok (cacheTouch_ok hd _ _ _) _ _
      · exact cacheTouch_ok hd _ _ _
    · split
      · exact cacheAlloc_ok hd _ _ _
      · rw [MemState.ok_iff] at hd ⊢
        exact ⟨memPut_ok hd.1 _ _, hd.2⟩

theorem devRead_ok {m : MemState} (h : m.ok = true) (w : Ways) (hint a n : Nat) : (devRead m w hint a n).2.ok = true := by
  unfold devRead
  generalize linePieces (n / 64 + 2) a n = l
  refine foldl_keeps (fun x : Bytes × MemState => x.2.ok = true) _ (fun acc p hx => ?_) l ([], m) h
  have := lineRead_ok hx w hint p.1
  revert this
  generalize lineRead acc.2 w hint p.1 = q
  rcases q with ⟨d, m⟩
  exact id

theorem devWrite_ok {m : MemState} (h : m.ok = true) (w : Ways) (hint a : Nat) (bs : Bytes) (p : Bool) :
    (devWrite m w hint a bs p).ok = true := by
  unfold devWrite
  have := foldl_keeps (fun x : MemState × Bytes => x.1.ok = true)
    (fun acc q => (lineWrite acc.1 w hint q.1 q.2.1 (acc.2.take q.2.2), acc.2.drop q.2.2))
    (fun _ _ hx => lineWrite_ok hx _ _ _ _ _) (linePieces (bs.length / 64 + 2) a bs.length) (m, bs) h
  dsimp only
  by_cases hh : inHbm a bs.length = true
  · rw [if_pos hh]; exact this
  · rw [if_neg hh]; exact this

theorem cacheFlush_ok {m : MemState} (h : m.ok = true) : (cacheFlush m).ok = true :=
  foldl_keeps (fun x : MemState => x.ok = true) _ (fun _ _ hx => cacheDrop_ok hx _ _) _ m h

theorem scratchTouch_ok {sc : Scratch} (h : memOk sc.data = true) (b : Nat) : memOk (scratchTouch sc b).data = true := by
  unfold scratchTouch
  split
  · exact h
  · exact memPut_ok h _ _

theorem scratchWrite_ok {sc : Scratch} (h : memOk sc.data = true) (a : Nat) (bs : Bytes) (p : Bool) :
    memOk (scratchWrite sc a bs p).data = true :=
  memPut_ok (foldl_keeps (fun x : Scratch => memOk x.data = true) _ (fun _ _ hx => scratchTouch_ok hx _) _ sc h) _ _

@[simp] theorem scratchClear_data (sc : Scratch) (f n : Nat) : (scratchClear sc f n).data = sc.data := rfl

theorem spanRead_ok {m : MemState} (h : m.ok = true) (w : Ways) (x : Span) : (spanRead m w x).2.2.ok = true := by
  unfold spanRead
  split
  · exact devRead_ok h _ _ _ _
  · exact h

theorem spanWrite_ok {m : MemState} (h : m.ok = true) (w : Ways) (x : Span) (bs : Bytes) (p : Bool) :
    (spanWrite m w x bs p).ok = true := by
  have h' := (MemState.ok_iff m).1 h
  unfold spanWrite
  split
  · exact devWrite_ok h _ _ _ _ _
  · split
    · exact (MemState.ok_iff _).2 ⟨h'.1, h'.2.1, scratchWrite_ok h'.2.2.1 _ _ _, h'.2.2.2⟩
    · split
      · exact (MemState.ok_iff _).2 ⟨h'.1, h'.2.1, h'.2.2.1, scratchWrite_ok h'.2.2.2.1 _ _ _, h'.2.2.2.2⟩
      · exact (MemState.ok_iff _).2 ⟨h'.1, h'.2.1, h'.2.2.1, h'.2.2.2.1, scratchWrite_ok h'.2.2.2.2 _ _ _⟩

theorem spansRead_ok {m : MemState} (h : m.ok = true) (w : Ways) (xs : List Span) : (spansRead m w xs).2.2.ok = true := by
  unfold spansRead
  refine foldl_keeps (fun x : Bytes × Bool × MemState => x.2.2.ok = true) _ (fun acc x hx => ?_) xs ([], false, m) h
  have := spanRead_ok hx w x
  revert this
  generalize spanRead acc.2.2 w x = q
  rcases q with ⟨d, b, m⟩
  exact id

theorem spansUnmark_ok {m : MemState} (h : m.ok = true) (xs : List Span) : (spansUnmark m xs).ok = true := h

theorem spansWrite_ok {m : MemState} (h : m.ok = true) (w : Ways) (xs : List Span) (bs : Bytes) (p : Bool) :
    (spansWrite m w xs bs p).ok = true := by
  unfold spansWrite
  have := foldl_keeps (fun x : MemState × Bytes => x.1.ok = true)
    (fun acc x => (spanWrite acc.1 w x (acc.2.take x.len) p, acc.2.drop x.len))
    (fun _ _ hx => spanWrite_ok hx _ _ _ _) xs (m, bs) h
  dsimp only
  split
  · exact this
  · exact spansUnmark_ok this _

end Sys2Proof.Machine
end

