-- ==== Sys2Proof/Laws/State.lean ====
section
/-! SUPPORT. What the named updates of State leave as it was, one lemma per field per update, and what a look-up gives after an
update of its own. -/

namespace Sys2Proof.Machine

@[simp] theorem State.emit_pending (s : State) (m : Msg) : (s.emit m).pending = s.pending := rfl
@[simp] theorem State.emit_freeCtr (s : State) (m : Msg) : (s.emit m).freeCtr = s.freeCtr := rfl
@[simp] theorem State.emit_pwr (s : State) (m : Msg) : (s.emit m).pwr = s.pwr := rfl
@[simp] theorem State.emit_fields (s : State) (m : Msg) : (s.emit m).fields = s.fields := rfl
@[simp] theorem State.emit_fence (s : State) (m : Msg) : (s.emit m).fence = s.fence := rfl
@[simp] theorem State.emit_mem (s : State) (m : Msg) : (s.emit m).mem = s.mem := rfl
@[simp] theorem State.emit_cores (s : State) (m : Msg) : (s.emit m).cores = s.cores := rfl
@[simp] theorem State.emit_marks (s : State) (m : Msg) : (s.emit m).marks = s.marks := rfl
@[simp] theorem State.emit_markNet (s : State) (m : Msg) : (s.emit m).markNet = s.markNet := rfl
@[simp] theorem State.emit_ctxs (s : State) (m : Msg) : (s.emit m).ctxs = s.ctxs := rfl
@[simp] theorem State.emit_queues (s : State) (m : Msg) : (s.emit m).queues = s.queues := rfl
@[simp] theorem State.emit_disps (s : State) (m : Msg) : (s.emit m).disps = s.disps := rfl
@[simp] theorem State.emit_epochNow (s : State) (m : Msg) : (s.emit m).epochNow = s.epochNow := rfl
@[simp] theorem State.emit_staleDiscards (s : State) (m : Msg) : (s.emit m).staleDiscards = s.staleDiscards := rfl
@[simp] theorem State.emit_mgrs (s : State) (m : Msg) : (s.emit m).mgrs = s.mgrs := rfl
@[simp] theorem State.emit_keyCopies (s : State) (m : Msg) : (s.emit m).keyCopies = s.keyCopies := rfl
@[simp] theorem State.emit_keyScores (s : State) (m : Msg) : (s.emit m).keyScores = s.keyScores := rfl
@[simp] theorem State.emit_net (s : State) (m : Msg) : (s.emit m).net = s.net := rfl
@[simp] theorem State.emit_retx (s : State) (m : Msg) : (s.emit m).retx = s.retx := rfl
@[simp] theorem State.emit_atLink (s : State) (m : Msg) : (s.emit m).atLink = s.atLink := rfl
@[simp] theorem State.emit_meters (s : State) (m : Msg) : (s.emit m).meters = s.meters := rfl
@[simp] theorem State.emit_relayBusy (s : State) (m : Msg) : (s.emit m).relayBusy = s.relayBusy := rfl
@[simp] theorem State.emit_pageWaits (s : State) (m : Msg) : (s.emit m).pageWaits = s.pageWaits := rfl
@[simp] theorem State.emit_dma (s : State) (m : Msg) : (s.emit m).dma = s.dma := rfl
@[simp] theorem State.emit_mbs (s : State) (m : Msg) : (s.emit m).mbs = s.mbs := rfl
@[simp] theorem State.emit_hwins (s : State) (m : Msg) : (s.emit m).hwins = s.hwins := rfl
@[simp] theorem State.emit_hwinStatus (s : State) (m : Msg) : (s.emit m).hwinStatus = s.hwinStatus := rfl
@[simp] theorem State.emit_hostSig (s : State) (m : Msg) : (s.emit m).hostSig = s.hostSig := rfl
@[simp] theorem State.emit_linkUp (s : State) (m : Msg) : (s.emit m).linkUp = s.linkUp := rfl
@[simp] theorem State.emit_linkRetry (s : State) (m : Msg) : (s.emit m).linkRetry = s.linkRetry := rfl
@[simp] theorem State.emit_linkTick (s : State) (m : Msg) : (s.emit m).linkTick = s.linkTick := rfl
@[simp] theorem State.emit_cfg (s : State) (m : Msg) : (s.emit m).cfg = s.cfg := rfl
@[simp] theorem State.emit_ev (s : State) (m : Msg) : (s.emit m).ev = s.ev := rfl
@[simp] theorem State.emit_ports (s : State) (m : Msg) : (s.emit m).ports = s.ports := rfl
@[simp] theorem State.emit_sys (s : State) (m : Msg) : (s.emit m).sys = s.sys := rfl
@[simp] theorem State.emit_colls (s : State) (m : Msg) : (s.emit m).colls = s.colls := rfl
@[simp] theorem State.emit_trans (s : State) (m : Msg) : (s.emit m).trans = s.trans := rfl
@[simp] theorem State.emit_rsp (s : State) (m : Msg) : (s.emit m).rsp = s.rsp := rfl
@[simp] theorem State.emit_ham (s : State) (m : Msg) : (s.emit m).ham = s.ham := rfl

@[simp] theorem State.setDisp_pending (s : State) (x : Dispatch) : (s.setDisp x).pending = s.pending := rfl
@[simp] theorem State.setDisp_freeCtr (s : State) (x : Dispatch) : (s.setDisp x).freeCtr = s.freeCtr := rfl
@[simp] theorem State.setDisp_pwr (s : State) (x : Dispatch) : (s.setDisp x).pwr = s.pwr := rfl
@[simp] theorem State.setDisp_fields (s : State) (x : Dispatch) : (s.setDisp x).fields = s.fields := rfl
@[simp] theorem State.setDisp_fence (s : State) (x : Dispatch) : (s.setDisp x).fence = s.fence := rfl
@[simp] theorem State.setDisp_mem (s : State) (x : Dispatch) : (s.setDisp x).mem = s.mem := rfl
@[simp] theorem State.setDisp_cores (s : State) (x : Dispatch) : (s.setDisp x).cores = s.cores := rfl
@[simp] theorem State.setDisp_marks (s : State) (x : Dispatch) : (s.setDisp x).marks = s.marks := rfl
@[simp] theorem State.setDisp_markNet (s : State) (x : Dispatch) : (s.setDisp x).markNet = s.markNet := rfl
@[simp] theorem State.setDisp_ctxs (s : State) (x : Dispatch) : (s.setDisp x).ctxs = s.ctxs := rfl
@[simp] theorem State.setDisp_queues (s : State) (x : Dispatch) : (s.setDisp x).queues = s.queues := rfl
@[simp] theorem State.setDisp_epochNow (s : State) (x : Dispatch) : (s.setDisp x).epochNow = s.epochNow := rfl
@[simp] theorem State.setDisp_staleDiscards (s : State) (x : Dispatch) : (s.setDisp x).staleDiscards = s.staleDiscards := rfl
@[simp] theorem State.setDisp_mgrs (s : State) (x : Dispatch) : (s.setDisp x).mgrs = s.mgrs := rfl
@[simp] theorem State.setDisp_keyCopies (s : State) (x : Dispatch) : (s.setDisp x).keyCopies = s.keyCopies := rfl
@[simp] theorem State.setDisp_keyScores (s : State) (x : Dispatch) : (s.setDisp x).keyScores = s.keyScores := rfl
@[simp] theorem State.setDisp_net (s : State) (x : Dispatch) : (s.setDisp x).net = s.net := rfl
@[simp] theorem State.setDisp_retx (s : State) (x : Dispatch) : (s.setDisp x).retx = s.retx := rfl
@[simp] theorem State.setDisp_atLink (s : State) (x : Dispatch) : (s.setDisp x).atLink = s.atLink := rfl
@[simp] theorem State.setDisp_meters (s : State) (x : Dispatch) : (s.setDisp x).meters = s.meters := rfl
@[simp] theorem State.setDisp_relayBusy (s : State) (x : Dispatch) : (s.setDisp x).relayBusy = s.relayBusy := rfl
@[simp] theorem State.setDisp_pageWaits (s : State) (x : Dispatch) : (s.setDisp x).pageWaits = s.pageWaits := rfl
@[simp] theorem State.setDisp_dma (s : State) (x : Dispatch) : (s.setDisp x).dma = s.dma := rfl
@[simp] theorem State.setDisp_mbs (s : State) (x : Dispatch) : (s.setDisp x).mbs = s.mbs := rfl
@[simp] theorem State.setDisp_hwins (s : State) (x : Dispatch) : (s.setDisp x).hwins = s.hwins := rfl
@[simp] theorem State.setDisp_hwinStatus (s : State) (x : Dispatch) : (s.setDisp x).hwinStatus = s.hwinStatus := rfl
@[simp] theorem State.setDisp_hostSig (s : State) (x : Dispatch) : (s.setDisp x).hostSig = s.hostSig := rfl
@[simp] theorem State.setDisp_linkUp (s : State) (x : Dispatch) : (s.setDisp x).linkUp = s.linkUp := rfl
@[simp] theorem State.setDisp_linkRetry (s : State) (x : Dispatch) : (s.setDisp x).linkRetry = s.linkRetry := rfl
@[simp] theorem State.setDisp_linkTick (s : State) (x : Dispatch) : (s.setDisp x).linkTick = s.linkTick := rfl
@[simp] theorem State.setDisp_cfg (s : State) (x : Dispatch) : (s.setDisp x).cfg = s.cfg := rfl
@[simp] theorem State.setDisp_ev (s : State) (x : Dispatch) : (s.setDisp x).ev = s.ev := rfl
@[simp] theorem State.setDisp_ports (s : State) (x : Dispatch) : (s.setDisp x).ports = s.ports := rfl
@[simp] theorem State.setDisp_sys (s : State) (x : Dispatch) : (s.setDisp x).sys = s.sys := rfl
@[simp] theorem State.setDisp_colls (s : State) (x : Dispatch) : (s.setDisp x).colls = s.colls := rfl
@[simp] theorem State.setDisp_trans (s : State) (x : Dispatch) : (s.setDisp x).trans = s.trans := rfl
@[simp] theorem State.setDisp_rsp (s : State) (x : Dispatch) : (s.setDisp x).rsp = s.rsp := rfl
@[simp] theorem State.setDisp_ham (s : State) (x : Dispatch) : (s.setDisp x).ham = s.ham := rfl
@[simp] theorem State.setDisp_sent (s : State) (x : Dispatch) : (s.setDisp x).sent = s.sent := rfl

@[simp] theorem State.setCtx_pending (s : State) (c : Ctx) : (s.setCtx c).pending = s.pending := rfl
@[simp] theorem State.setCtx_freeCtr (s : State) (c : Ctx) : (s.setCtx c).freeCtr = s.freeCtr := rfl
@[simp] theorem State.setCtx_pwr (s : State) (c : Ctx) : (s.setCtx c).pwr = s.pwr := rfl
@[simp] theorem State.setCtx_fields (s : State) (c : Ctx) : (s.setCtx c).fields = s.fields := rfl
@[simp] theorem State.setCtx_fence (s : State) (c : Ctx) : (s.setCtx c).fence = s.fence := rfl
@[simp] theorem State.setCtx_mem (s : State) (c : Ctx) : (s.setCtx c).mem = s.mem := rfl
@[simp] theorem State.setCtx_cores (s : State) (c : Ctx) : (s.setCtx c).cores = s.cores := rfl
@[simp] theorem State.setCtx_marks (s : State) (c : Ctx) : (s.setCtx c).marks = s.marks := rfl
@[simp] theorem State.setCtx_markNet (s : State) (c : Ctx) : (s.setCtx c).markNet = s.markNet := rfl
@[simp] theorem State.setCtx_queues (s : State) (c : Ctx) : (s.setCtx c).queues = s.queues := rfl
@[simp] theorem State.setCtx_disps (s : State) (c : Ctx) : (s.setCtx c).disps = s.disps := rfl
@[simp] theorem State.setCtx_epochNow (s : State) (c : Ctx) : (s.setCtx c).epochNow = s.epochNow := rfl
@[simp] theorem State.setCtx_staleDiscards (s : State) (c : Ctx) : (s.setCtx c).staleDiscards = s.staleDiscards := rfl
@[simp] theorem State.setCtx_mgrs (s : State) (c : Ctx) : (s.setCtx c).mgrs = s.mgrs := rfl
@[simp] theorem State.setCtx_keyCopies (s : State) (c : Ctx) : (s.setCtx c).keyCopies = s.keyCopies := rfl
@[simp] theorem State.setCtx_keyScores (s : State) (c : Ctx) : (s.setCtx c).keyScores = s.keyScores := rfl
@[simp] theorem State.setCtx_net (s : State) (c : Ctx) : (s.setCtx c).net = s.net := rfl
@[simp] theorem State.setCtx_retx (s : State) (c : Ctx) : (s.setCtx c).retx = s.retx := rfl
@[simp] theorem State.setCtx_atLink (s : State) (c : Ctx) : (s.setCtx c).atLink = s.atLink := rfl
@[simp] theorem State.setCtx_meters (s : State) (c : Ctx) : (s.setCtx c).meters = s.meters := rfl
@[simp] theorem State.setCtx_relayBusy (s : State) (c : Ctx) : (s.setCtx c).relayBusy = s.relayBusy := rfl
@[simp] theorem State.setCtx_pageWaits (s : State) (c : Ctx) : (s.setCtx c).pageWaits = s.pageWaits := rfl
@[simp] theorem State.setCtx_dma (s : State) (c : Ctx) : (s.setCtx c).dma = s.dma := rfl
@[simp] theorem State.setCtx_mbs (s : State) (c : Ctx) : (s.setCtx c).mbs = s.mbs := rfl
@[simp] theorem State.setCtx_hwins (s : State) (c : Ctx) : (s.setCtx c).hwins = s.hwins := rfl
@[simp] theorem State.setCtx_hwinStatus (s : State) (c : Ctx) : (s.setCtx c).hwinStatus = s.hwinStatus := rfl
@[simp] theorem State.setCtx_hostSig (s : State) (c : Ctx) : (s.setCtx c).hostSig = s.hostSig := rfl
@[simp] theorem State.setCtx_linkUp (s : State) (c : Ctx) : (s.setCtx c).linkUp = s.linkUp := rfl
@[simp] theorem State.setCtx_linkRetry (s : State) (c : Ctx) : (s.setCtx c).linkRetry = s.linkRetry := rfl
@[simp] theorem State.setCtx_linkTick (s : State) (c : Ctx) : (s.setCtx c).linkTick = s.linkTick := rfl
@[simp] theorem State.setCtx_cfg (s : State) (c : Ctx) : (s.setCtx c).cfg = s.cfg := rfl
@[simp] theorem State.setCtx_ev (s : State) (c : Ctx) : (s.setCtx c).ev = s.ev := rfl
@[simp] theorem State.setCtx_ports (s : State) (c : Ctx) : (s.setCtx c).ports = s.ports := rfl
@[simp] theorem State.setCtx_sys (s : State) (c : Ctx) : (s.setCtx c).sys = s.sys := rfl
@[simp] theorem State.setCtx_colls (s : State) (c : Ctx) : (s.setCtx c).colls = s.colls := rfl
@[simp] theorem State.setCtx_trans (s : State) (c : Ctx) : (s.setCtx c).trans = s.trans := rfl
@[simp] theorem State.setCtx_rsp (s : State) (c : Ctx) : (s.setCtx c).rsp = s.rsp := rfl
@[simp] theorem State.setCtx_ham (s : State) (c : Ctx) : (s.setCtx c).ham = s.ham := rfl
@[simp] theorem State.setCtx_sent (s : State) (c : Ctx) : (s.setCtx c).sent = s.sent := rfl

@[simp] theorem State.setQueue_pending (s : State) (q : Queue) : (s.setQueue q).pending = s.pending := rfl
@[simp] theorem State.setQueue_freeCtr (s : State) (q : Queue) : (s.setQueue q).freeCtr = s.freeCtr := rfl
@[simp] theorem State.setQueue_pwr (s : State) (q : Queue) : (s.setQueue q).pwr = s.pwr := rfl
@[simp] theorem State.setQueue_fields (s : State) (q : Queue) : (s.setQueue q).fields = s.fields := rfl
@[simp] theorem State.setQueue_fence (s : State) (q : Queue) : (s.setQueue q).fence = s.fence := rfl
@[simp] theorem State.setQueue_mem (s : State) (q : Queue) : (s.setQueue q).mem = s.mem := rfl
@[simp] theorem State.setQueue_cores (s : State) (q : Queue) : (s.setQueue q).cores = s.cores := rfl
@[simp] theorem State.setQueue_marks (s : State) (q : Queue) : (s.setQueue q).marks = s.marks := rfl
@[simp] theorem State.setQueue_markNet (s : State) (q : Queue) : (s.setQueue q).markNet = s.markNet := rfl
@[simp] theorem State.setQueue_ctxs (s : State) (q : Queue) : (s.setQueue q).ctxs = s.ctxs := rfl
@[simp] theorem State.setQueue_disps (s : State) (q : Queue) : (s.setQueue q).disps = s.disps := rfl
@[simp] theorem State.setQueue_epochNow (s : State) (q : Queue) : (s.setQueue q).epochNow = s.epochNow := rfl
@[simp] theorem State.setQueue_staleDiscards (s : State) (q : Queue) : (s.setQueue q).staleDiscards = s.staleDiscards := rfl
@[simp] theorem State.setQueue_mgrs (s : State) (q : Queue) : (s.setQueue q).mgrs = s.mgrs := rfl
@[simp] theorem State.setQueue_keyCopies (s : State) (q : Queue) : (s.setQueue q).keyCopies = s.keyCopies := rfl
@[simp] theorem State.setQueue_keyScores (s : State) (q : Queue) : (s.setQueue q).keyScores = s.keyScores := rfl
@[simp] theorem State.setQueue_net (s : State) (q : Queue) : (s.setQueue q).net = s.net := rfl
@[simp] theorem State.setQueue_retx (s : State) (q : Queue) : (s.setQueue q).retx = s.retx := rfl
@[simp] theorem State.setQueue_atLink (s : State) (q : Queue) : (s.setQueue q).atLink = s.atLink := rfl
@[simp] theorem State.setQueue_meters (s : State) (q : Queue) : (s.setQueue q).meters = s.meters := rfl
@[simp] theorem State.setQueue_relayBusy (s : State) (q : Queue) : (s.setQueue q).relayBusy = s.relayBusy := rfl
@[simp] theorem State.setQueue_pageWaits (s : State) (q : Queue) : (s.setQueue q).pageWaits = s.pageWaits := rfl
@[simp] theorem State.setQueue_dma (s : State) (q : Queue) : (s.setQueue q).dma = s.dma := rfl
@[simp] theorem State.setQueue_mbs (s : State) (q : Queue) : (s.setQueue q).mbs = s.mbs := rfl
@[simp] theorem State.setQueue_hwins (s : State) (q : Queue) : (s.setQueue q).hwins = s.hwins := rfl
@[simp] theorem State.setQueue_hwinStatus (s : State) (q : Queue) : (s.setQueue q).hwinStatus = s.hwinStatus := rfl
@[simp] theorem State.setQueue_hostSig (s : State) (q : Queue) : (s.setQueue q).hostSig = s.hostSig := rfl
@[simp] theorem State.setQueue_linkUp (s : State) (q : Queue) : (s.setQueue q).linkUp = s.linkUp := rfl
@[simp] theorem State.setQueue_linkRetry (s : State) (q : Queue) : (s.setQueue q).linkRetry = s.linkRetry := rfl
@[simp] theorem State.setQueue_linkTick (s : State) (q : Queue) : (s.setQueue q).linkTick = s.linkTick := rfl
@[simp] theorem State.setQueue_cfg (s : State) (q : Queue) : (s.setQueue q).cfg = s.cfg := rfl
@[simp] theorem State.setQueue_ev (s : State) (q : Queue) : (s.setQueue q).ev = s.ev := rfl
@[simp] theorem State.setQueue_ports (s : State) (q : Queue) : (s.setQueue q).ports = s.ports := rfl
@[simp] theorem State.setQueue_sys (s : State) (q : Queue) : (s.setQueue q).sys = s.sys := rfl
@[simp] theorem State.setQueue_colls (s : State) (q : Queue) : (s.setQueue q).colls = s.colls := rfl
@[simp] theorem State.setQueue_trans (s : State) (q : Queue) : (s.setQueue q).trans = s.trans := rfl
@[simp] theorem State.setQueue_rsp (s : State) (q : Queue) : (s.setQueue q).rsp = s.rsp := rfl
@[simp] theorem State.setQueue_ham (s : State) (q : Queue) : (s.setQueue q).ham = s.ham := rfl
@[simp] theorem State.setQueue_sent (s : State) (q : Queue) : (s.setQueue q).sent = s.sent := rfl

@[simp] theorem State.setCore_pending (s : State) (n : Nat) (r : CoreRegs) : (s.setCore n r).pending = s.pending := rfl
@[simp] theorem State.setCore_freeCtr (s : State) (n : Nat) (r : CoreRegs) : (s.setCore n r).freeCtr = s.freeCtr := rfl
@[simp] theorem State.setCore_pwr (s : State) (n : Nat) (r : CoreRegs) : (s.setCore n r).pwr = s.pwr := rfl
@[simp] theorem State.setCore_fields (s : State) (n : Nat) (r : CoreRegs) : (s.setCore n r).fields = s.fields := rfl
@[simp] theorem State.setCore_fence (s : State) (n : Nat) (r : CoreRegs) : (s.setCore n r).fence = s.fence := rfl
@[simp] theorem State.setCore_mem (s : State) (n : Nat) (r : CoreRegs) : (s.setCore n r).mem = s.mem := rfl
@[simp] theorem State.setCore_marks (s : State) (n : Nat) (r : CoreRegs) : (s.setCore n r).marks = s.marks := rfl
@[simp] theorem State.setCore_markNet (s : State) (n : Nat) (r : CoreRegs) : (s.setCore n r).markNet = s.markNet := rfl
@[simp] theorem State.setCore_ctxs (s : State) (n : Nat) (r : CoreRegs) : (s.setCore n r).ctxs = s.ctxs := rfl
@[simp] theorem State.setCore_queues (s : State) (n : Nat) (r : CoreRegs) : (s.setCore n r).queues = s.queues := rfl
@[simp] theorem State.setCore_disps (s : State) (n : Nat) (r : CoreRegs) : (s.setCore n r).disps = s.disps := rfl
@[simp] theorem State.setCore_epochNow (s : State) (n : Nat) (r : CoreRegs) : (s.setCore n r).epochNow = s.epochNow := rfl
@[simp] theorem State.setCore_staleDiscards (s : State) (n : Nat) (r : CoreRegs) : (s.setCore n r).staleDiscards = s.staleDiscards := rfl
@[simp] theorem State.setCore_mgrs (s : State) (n : Nat) (r : CoreRegs) : (s.setCore n r).mgrs = s.mgrs := rfl
@[simp] theorem State.setCore_keyCopies (s : State) (n : Nat) (r : CoreRegs) : (s.setCore n r).keyCopies = s.keyCopies := rfl
@[simp] theorem State.setCore_keyScores (s : State) (n : Nat) (r : CoreRegs) : (s.setCore n r).keyScores = s.keyScores := rfl
@[simp] theorem State.setCore_net (s : State) (n : Nat) (r : CoreRegs) : (s.setCore n r).net = s.net := rfl
@[simp] theorem State.setCore_retx (s : State) (n : Nat) (r : CoreRegs) : (s.setCore n r).retx = s.retx := rfl
@[simp] theorem State.setCore_atLink (s : State) (n : Nat) (r : CoreRegs) : (s.setCore n r).atLink = s.atLink := rfl
@[simp] theorem State.setCore_meters (s : State) (n : Nat) (r : CoreRegs) : (s.setCore n r).meters = s.meters := rfl
@[simp] theorem State.setCore_relayBusy (s : State) (n : Nat) (r : CoreRegs) : (s.setCore n r).relayBusy = s.relayBusy := rfl
@[simp] theorem State.setCore_pageWaits (s : State) (n : Nat) (r : CoreRegs) : (s.setCore n r).pageWaits = s.pageWaits := rfl
@[simp] theorem State.setCore_dma (s : State) (n : Nat) (r : CoreRegs) : (s.setCore n r).dma = s.dma := rfl
@[simp] theorem State.setCore_mbs (s : State) (n : Nat) (r : CoreRegs) : (s.setCore n r).mbs = s.mbs := rfl
@[simp] theorem State.setCore_hwins (s : State) (n : Nat) (r : CoreRegs) : (s.setCore n r).hwins = s.hwins := rfl
@[simp] theorem State.setCore_hwinStatus (s : State) (n : Nat) (r : CoreRegs) : (s.setCore n r).hwinStatus = s.hwinStatus := rfl
@[simp] theorem State.setCore_hostSig (s : State) (n : Nat) (r : CoreRegs) : (s.setCore n r).hostSig = s.hostSig := rfl
@[simp] theorem State.setCore_linkUp (s : State) (n : Nat) (r : CoreRegs) : (s.setCore n r).linkUp = s.linkUp := rfl
@[simp] theorem State.setCore_linkRetry (s : State) (n : Nat) (r : CoreRegs) : (s.setCore n r).linkRetry = s.linkRetry := rfl
@[simp] theorem State.setCore_linkTick (s : State) (n : Nat) (r : CoreRegs) : (s.setCore n r).linkTick = s.linkTick := rfl
@[simp] theorem State.setCore_cfg (s : State) (n : Nat) (r : CoreRegs) : (s.setCore n r).cfg = s.cfg := rfl
@[simp] theorem State.setCore_ev (s : State) (n : Nat) (r : CoreRegs) : (s.setCore n r).ev = s.ev := rfl
@[simp] theorem State.setCore_ports (s : State) (n : Nat) (r : CoreRegs) : (s.setCore n r).ports = s.ports := rfl
@[simp] theorem State.setCore_sys (s : State) (n : Nat) (r : CoreRegs) : (s.setCore n r).sys = s.sys := rfl
@[simp] theorem State.setCore_colls (s : State) (n : Nat) (r : CoreRegs) : (s.setCore n r).colls = s.colls := rfl
@[simp] theorem State.setCore_trans (s : State) (n : Nat) (r : CoreRegs) : (s.setCore n r).trans = s.trans := rfl
@[simp] theorem State.setCore_rsp (s : State) (n : Nat) (r : CoreRegs) : (s.setCore n r).rsp = s.rsp := rfl
@[simp] theorem State.setCore_ham (s : State) (n : Nat) (r : CoreRegs) : (s.setCore n r).ham = s.ham := rfl
@[simp] theorem State.setCore_sent (s : State) (n : Nat) (r : CoreRegs) : (s.setCore n r).sent = s.sent := rfl

@[simp] theorem State.setMgr_pending (s : State) (m : Mgr) (x : Manager) : (s.setMgr m x).pending = s.pending := rfl
@[simp] theorem State.setMgr_freeCtr (s : State) (m : Mgr) (x : Manager) : (s.setMgr m x).freeCtr = s.freeCtr := rfl
@[simp] theorem State.setMgr_pwr (s : State) (m : Mgr) (x : Manager) : (s.setMgr m x).pwr = s.pwr := rfl
@[simp] theorem State.setMgr_fields (s : State) (m : Mgr) (x : Manager) : (s.setMgr m x).fields = s.fields := rfl
@[simp] theorem State.setMgr_fence (s : State) (m : Mgr) (x : Manager) : (s.setMgr m x).fence = s.fence := rfl
@[simp] theorem State.setMgr_mem (s : State) (m : Mgr) (x : Manager) : (s.setMgr m x).mem = s.mem := rfl
@[simp] theorem State.setMgr_cores (s : State) (m : Mgr) (x : Manager) : (s.setMgr m x).cores = s.cores := rfl
@[simp] theorem State.setMgr_marks (s : State) (m : Mgr) (x : Manager) : (s.setMgr m x).marks = s.marks := rfl
@[simp] theorem State.setMgr_markNet (s : State) (m : Mgr) (x : Manager) : (s.setMgr m x).markNet = s.markNet := rfl
@[simp] theorem State.setMgr_ctxs (s : State) (m : Mgr) (x : Manager) : (s.setMgr m x).ctxs = s.ctxs := rfl
@[simp] theorem State.setMgr_queues (s : State) (m : Mgr) (x : Manager) : (s.setMgr m x).queues = s.queues := rfl
@[simp] theorem State.setMgr_disps (s : State) (m : Mgr) (x : Manager) : (s.setMgr m x).disps = s.disps := rfl
@[simp] theorem State.setMgr_epochNow (s : State) (m : Mgr) (x : Manager) : (s.setMgr m x).epochNow = s.epochNow := rfl
@[simp] theorem State.setMgr_staleDiscards (s : State) (m : Mgr) (x : Manager) : (s.setMgr m x).staleDiscards = s.staleDiscards := rfl
@[simp] theorem State.setMgr_keyCopies (s : State) (m : Mgr) (x : Manager) : (s.setMgr m x).keyCopies = s.keyCopies := rfl
@[simp] theorem State.setMgr_keyScores (s : State) (m : Mgr) (x : Manager) : (s.setMgr m x).keyScores = s.keyScores := rfl
@[simp] theorem State.setMgr_net (s : State) (m : Mgr) (x : Manager) : (s.setMgr m x).net = s.net := rfl
@[simp] theorem State.setMgr_retx (s : State) (m : Mgr) (x : Manager) : (s.setMgr m x).retx = s.retx := rfl
@[simp] theorem State.setMgr_atLink (s : State) (m : Mgr) (x : Manager) : (s.setMgr m x).atLink = s.atLink := rfl
@[simp] theorem State.setMgr_meters (s : State) (m : Mgr) (x : Manager) : (s.setMgr m x).meters = s.meters := rfl
@[simp] theorem State.setMgr_relayBusy (s : State) (m : Mgr) (x : Manager) : (s.setMgr m x).relayBusy = s.relayBusy := rfl
@[simp] theorem State.setMgr_pageWaits (s : State) (m : Mgr) (x : Manager) : (s.setMgr m x).pageWaits = s.pageWaits := rfl
@[simp] theorem State.setMgr_dma (s : State) (m : Mgr) (x : Manager) : (s.setMgr m x).dma = s.dma := rfl
@[simp] theorem State.setMgr_mbs (s : State) (m : Mgr) (x : Manager) : (s.setMgr m x).mbs = s.mbs := rfl
@[simp] theorem State.setMgr_hwins (s : State) (m : Mgr) (x : Manager) : (s.setMgr m x).hwins = s.hwins := rfl
@[simp] theorem State.setMgr_hwinStatus (s : State) (m : Mgr) (x : Manager) : (s.setMgr m x).hwinStatus = s.hwinStatus := rfl
@[simp] theorem State.setMgr_hostSig (s : State) (m : Mgr) (x : Manager) : (s.setMgr m x).hostSig = s.hostSig := rfl
@[simp] theorem State.setMgr_linkUp (s : State) (m : Mgr) (x : Manager) : (s.setMgr m x).linkUp = s.linkUp := rfl
@[simp] theorem State.setMgr_linkRetry (s : State) (m : Mgr) (x : Manager) : (s.setMgr m x).linkRetry = s.linkRetry := rfl
@[simp] theorem State.setMgr_linkTick (s : State) (m : Mgr) (x : Manager) : (s.setMgr m x).linkTick = s.linkTick := rfl
@[simp] theorem State.setMgr_cfg (s : State) (m : Mgr) (x : Manager) : (s.setMgr m x).cfg = s.cfg := rfl
@[simp] theorem State.setMgr_ev (s : State) (m : Mgr) (x : Manager) : (s.setMgr m x).ev = s.ev := rfl
@[simp] theorem State.setMgr_ports (s : State) (m : Mgr) (x : Manager) : (s.setMgr m x).ports = s.ports := rfl
@[simp] theorem State.setMgr_sys (s : State) (m : Mgr) (x : Manager) : (s.setMgr m x).sys = s.sys := rfl
@[simp] theorem State.setMgr_colls (s : State) (m : Mgr) (x : Manager) : (s.setMgr m x).colls = s.colls := rfl
@[simp] theorem State.setMgr_trans (s : State) (m : Mgr) (x : Manager) : (s.setMgr m x).trans = s.trans := rfl
@[simp] theorem State.setMgr_rsp (s : State) (m : Mgr) (x : Manager) : (s.setMgr m x).rsp = s.rsp := rfl
@[simp] theorem State.setMgr_ham (s : State) (m : Mgr) (x : Manager) : (s.setMgr m x).ham = s.ham := rfl
@[simp] theorem State.setMgr_sent (s : State) (m : Mgr) (x : Manager) : (s.setMgr m x).sent = s.sent := rfl

@[simp] theorem State.modField_pending (s : State) (n : Nat) (g : FieldState → FieldState) : (s.modField n g).pending = s.pending := rfl
@[simp] theorem State.modField_freeCtr (s : State) (n : Nat) (g : FieldState → FieldState) : (s.modField n g).freeCtr = s.freeCtr := rfl
@[simp] theorem State.modField_pwr (s : State) (n : Nat) (g : FieldState → FieldState) : (s.modField n g).pwr = s.pwr := rfl
@[simp] theorem State.modField_fence (s : State) (n : Nat) (g : FieldState → FieldState) : (s.modField n g).fence = s.fence := rfl
@[simp] theorem State.modField_mem (s : State) (n : Nat) (g : FieldState → FieldState) : (s.modField n g).mem = s.mem := rfl
@[simp] theorem State.modField_cores (s : State) (n : Nat) (g : FieldState → FieldState) : (s.modField n g).cores = s.cores := rfl
@[simp] theorem State.modField_marks (s : State) (n : Nat) (g : FieldState → FieldState) : (s.modField n g).marks = s.marks := rfl
@[simp] theorem State.modField_markNet (s : State) (n : Nat) (g : FieldState → FieldState) : (s.modField n g).markNet = s.markNet := rfl
@[simp] theorem State.modField_ctxs (s : State) (n : Nat) (g : FieldState → FieldState) : (s.modField n g).ctxs = s.ctxs := rfl
@[simp] theorem State.modField_queues (s : State) (n : Nat) (g : FieldState → FieldState) : (s.modField n g).queues = s.queues := rfl
@[simp] theorem State.modField_disps (s : State) (n : Nat) (g : FieldState → FieldState) : (s.modField n g).disps = s.disps := rfl
@[simp] theorem State.modField_epochNow (s : State) (n : Nat) (g : FieldState → FieldState) : (s.modField n g).epochNow = s.epochNow := rfl
@[simp] theorem State.modField_staleDiscards (s : State) (n : Nat) (g : FieldState → FieldState) : (s.modField n g).staleDiscards = s.staleDiscards := rfl
@[simp] theorem State.modField_mgrs (s : State) (n : Nat) (g : FieldState → FieldState) : (s.modField n g).mgrs = s.mgrs := rfl
@[simp] theorem State.modField_keyCopies (s : State) (n : Nat) (g : FieldState → FieldState) : (s.modField n g).keyCopies = s.keyCopies := rfl
@[simp] theorem State.modField_keyScores (s : State) (n : Nat) (g : FieldState → FieldState) : (s.modField n g).keyScores = s.keyScores := rfl
@[simp] theorem State.modField_net (s : State) (n : Nat) (g : FieldState → FieldState) : (s.modField n g).net = s.net := rfl
@[simp] theorem State.modField_retx (s : State) (n : Nat) (g : FieldState → FieldState) : (s.modField n g).retx = s.retx := rfl
@[simp] theorem State.modField_atLink (s : State) (n : Nat) (g : FieldState → FieldState) : (s.modField n g).atLink = s.atLink := rfl
@[simp] theorem State.modField_meters (s : State) (n : Nat) (g : FieldState → FieldState) : (s.modField n g).meters = s.meters := rfl
@[simp] theorem State.modField_relayBusy (s : State) (n : Nat) (g : FieldState → FieldState) : (s.modField n g).relayBusy = s.relayBusy := rfl
@[simp] theorem State.modField_pageWaits (s : State) (n : Nat) (g : FieldState → FieldState) : (s.modField n g).pageWaits = s.pageWaits := rfl
@[simp] theorem State.modField_dma (s : State) (n : Nat) (g : FieldState → FieldState) : (s.modField n g).dma = s.dma := rfl
@[simp] theorem State.modField_mbs (s : State) (n : Nat) (g : FieldState → FieldState) : (s.modField n g).mbs = s.mbs := rfl
@[simp] theorem State.modField_hwins (s : State) (n : Nat) (g : FieldState → FieldState) : (s.modField n g).hwins = s.hwins := rfl
@[simp] theorem State.modField_hwinStatus (s : State) (n : Nat) (g : FieldState → FieldState) : (s.modField n g).hwinStatus = s.hwinStatus := rfl
@[simp] theorem State.modField_hostSig (s : State) (n : Nat) (g : FieldState → FieldState) : (s.modField n g).hostSig = s.hostSig := rfl
@[simp] theorem State.modField_linkUp (s : State) (n : Nat) (g : FieldState → FieldState) : (s.modField n g).linkUp = s.linkUp := rfl
@[simp] theorem State.modField_linkRetry (s : State) (n : Nat) (g : FieldState → FieldState) : (s.modField n g).linkRetry = s.linkRetry := rfl
@[simp] theorem State.modField_linkTick (s : State) (n : Nat) (g : FieldState → FieldState) : (s.modField n g).linkTick = s.linkTick := rfl
@[simp] theorem State.modField_cfg (s : State) (n : Nat) (g : FieldState → FieldState) : (s.modField n g).cfg = s.cfg := rfl
@[simp] theorem State.modField_ev (s : State) (n : Nat) (g : FieldState → FieldState) : (s.modField n g).ev = s.ev := rfl
@[simp] theorem State.modField_ports (s : State) (n : Nat) (g : FieldState → FieldState) : (s.modField n g).ports = s.ports := rfl
@[simp] theorem State.modField_sys (s : State) (n : Nat) (g : FieldState → FieldState) : (s.modField n g).sys = s.sys := rfl
@[simp] theorem State.modField_colls (s : State) (n : Nat) (g : FieldState → FieldState) : (s.modField n g).colls = s.colls := rfl
@[simp] theorem State.modField_trans (s : State) (n : Nat) (g : FieldState → FieldState) : (s.modField n g).trans = s.trans := rfl
@[simp] theorem State.modField_rsp (s : State) (n : Nat) (g : FieldState → FieldState) : (s.modField n g).rsp = s.rsp := rfl
@[simp] theorem State.modField_ham (s : State) (n : Nat) (g : FieldState → FieldState) : (s.modField n g).ham = s.ham := rfl
@[simp] theorem State.modField_sent (s : State) (n : Nat) (g : FieldState → FieldState) : (s.modField n g).sent = s.sent := rfl

@[simp] theorem State.devWr_pending (s : State) (a : Nat) (b : Bytes) : (s.devWr a b).pending = s.pending := rfl
@[simp] theorem State.devWr_freeCtr (s : State) (a : Nat) (b : Bytes) : (s.devWr a b).freeCtr = s.freeCtr := rfl
@[simp] theorem State.devWr_pwr (s : State) (a : Nat) (b : Bytes) : (s.devWr a b).pwr = s.pwr := rfl
@[simp] theorem State.devWr_fields (s : State) (a : Nat) (b : Bytes) : (s.devWr a b).fields = s.fields := rfl
@[simp] theorem State.devWr_fence (s : State) (a : Nat) (b : Bytes) : (s.devWr a b).fence = s.fence := rfl
@[simp] theorem State.devWr_cores (s : State) (a : Nat) (b : Bytes) : (s.devWr a b).cores = s.cores := rfl
@[simp] theorem State.devWr_marks (s : State) (a : Nat) (b : Bytes) : (s.devWr a b).marks = s.marks := rfl
@[simp] theorem State.devWr_markNet (s : State) (a : Nat) (b : Bytes) : (s.devWr a b).markNet = s.markNet := rfl
@[simp] theorem State.devWr_ctxs (s : State) (a : Nat) (b : Bytes) : (s.devWr a b).ctxs = s.ctxs := rfl
@[simp] theorem State.devWr_queues (s : State) (a : Nat) (b : Bytes) : (s.devWr a b).queues = s.queues := rfl
@[simp] theorem State.devWr_disps (s : State) (a : Nat) (b : Bytes) : (s.devWr a b).disps = s.disps := rfl
@[simp] theorem State.devWr_epochNow (s : State) (a : Nat) (b : Bytes) : (s.devWr a b).epochNow = s.epochNow := rfl
@[simp] theorem State.devWr_staleDiscards (s : State) (a : Nat) (b : Bytes) : (s.devWr a b).staleDiscards = s.staleDiscards := rfl
@[simp] theorem State.devWr_mgrs (s : State) (a : Nat) (b : Bytes) : (s.devWr a b).mgrs = s.mgrs := rfl
@[simp] theorem State.devWr_keyCopies (s : State) (a : Nat) (b : Bytes) : (s.devWr a b).keyCopies = s.keyCopies := rfl
@[simp] theorem State.devWr_keyScores (s : State) (a : Nat) (b : Bytes) : (s.devWr a b).keyScores = s.keyScores := rfl
@[simp] theorem State.devWr_net (s : State) (a : Nat) (b : Bytes) : (s.devWr a b).net = s.net := rfl
@[simp] theorem State.devWr_retx (s : State) (a : Nat) (b : Bytes) : (s.devWr a b).retx = s.retx := rfl
@[simp] theorem State.devWr_atLink (s : State) (a : Nat) (b : Bytes) : (s.devWr a b).atLink = s.atLink := rfl
@[simp] theorem State.devWr_meters (s : State) (a : Nat) (b : Bytes) : (s.devWr a b).meters = s.meters := rfl
@[simp] theorem State.devWr_relayBusy (s : State) (a : Nat) (b : Bytes) : (s.devWr a b).relayBusy = s.relayBusy := rfl
@[simp] theorem State.devWr_pageWaits (s : State) (a : Nat) (b : Bytes) : (s.devWr a b).pageWaits = s.pageWaits := rfl
@[simp] theorem State.devWr_dma (s : State) (a : Nat) (b : Bytes) : (s.devWr a b).dma = s.dma := rfl
@[simp] theorem State.devWr_mbs (s : State) (a : Nat) (b : Bytes) : (s.devWr a b).mbs = s.mbs := rfl
@[simp] theorem State.devWr_hwins (s : State) (a : Nat) (b : Bytes) : (s.devWr a b).hwins = s.hwins := rfl
@[simp] theorem State.devWr_hwinStatus (s : State) (a : Nat) (b : Bytes) : (s.devWr a b).hwinStatus = s.hwinStatus := rfl
@[simp] theorem State.devWr_hostSig (s : State) (a : Nat) (b : Bytes) : (s.devWr a b).hostSig = s.hostSig := rfl
@[simp] theorem State.devWr_linkUp (s : State) (a : Nat) (b : Bytes) : (s.devWr a b).linkUp = s.linkUp := rfl
@[simp] theorem State.devWr_linkRetry (s : State) (a : Nat) (b : Bytes) : (s.devWr a b).linkRetry = s.linkRetry := rfl
@[simp] theorem State.devWr_linkTick (s : State) (a : Nat) (b : Bytes) : (s.devWr a b).linkTick = s.linkTick := rfl
@[simp] theorem State.devWr_cfg (s : State) (a : Nat) (b : Bytes) : (s.devWr a b).cfg = s.cfg := rfl
@[simp] theorem State.devWr_ev (s : State) (a : Nat) (b : Bytes) : (s.devWr a b).ev = s.ev := rfl
@[simp] theorem State.devWr_ports (s : State) (a : Nat) (b : Bytes) : (s.devWr a b).ports = s.ports := rfl
@[simp] theorem State.devWr_sys (s : State) (a : Nat) (b : Bytes) : (s.devWr a b).sys = s.sys := rfl
@[simp] theorem State.devWr_colls (s : State) (a : Nat) (b : Bytes) : (s.devWr a b).colls = s.colls := rfl
@[simp] theorem State.devWr_trans (s : State) (a : Nat) (b : Bytes) : (s.devWr a b).trans = s.trans := rfl
@[simp] theorem State.devWr_rsp (s : State) (a : Nat) (b : Bytes) : (s.devWr a b).rsp = s.rsp := rfl
@[simp] theorem State.devWr_ham (s : State) (a : Nat) (b : Bytes) : (s.devWr a b).ham = s.ham := rfl
@[simp] theorem State.devWr_sent (s : State) (a : Nat) (b : Bytes) : (s.devWr a b).sent = s.sent := rfl

@[simp] theorem State.setMark_pending (s : State) (n : Nat) (m : Mark) : (s.setMark n m).pending = s.pending := rfl
@[simp] theorem State.setMark_freeCtr (s : State) (n : Nat) (m : Mark) : (s.setMark n m).freeCtr = s.freeCtr := rfl
@[simp] theorem State.setMark_pwr (s : State) (n : Nat) (m : Mark) : (s.setMark n m).pwr = s.pwr := rfl
@[simp] theorem State.setMark_fields (s : State) (n : Nat) (m : Mark) : (s.setMark n m).fields = s.fields := rfl
@[simp] theorem State.setMark_fence (s : State) (n : Nat) (m : Mark) : (s.setMark n m).fence = s.fence := rfl
@[simp] theorem State.setMark_mem (s : State) (n : Nat) (m : Mark) : (s.setMark n m).mem = s.mem := rfl
@[simp] theorem State.setMark_cores (s : State) (n : Nat) (m : Mark) : (s.setMark n m).cores = s.cores := rfl
@[simp] theorem State.setMark_markNet (s : State) (n : Nat) (m : Mark) : (s.setMark n m).markNet = s.markNet := rfl
@[simp] theorem State.setMark_ctxs (s : State) (n : Nat) (m : Mark) : (s.setMark n m).ctxs = s.ctxs := rfl
@[simp] theorem State.setMark_queues (s : State) (n : Nat) (m : Mark) : (s.setMark n m).queues = s.queues := rfl
@[simp] theorem State.setMark_disps (s : State) (n : Nat) (m : Mark) : (s.setMark n m).disps = s.disps := rfl
@[simp] theorem State.setMark_epochNow (s : State) (n : Nat) (m : Mark) : (s.setMark n m).epochNow = s.epochNow := rfl
@[simp] theorem State.setMark_staleDiscards (s : State) (n : Nat) (m : Mark) : (s.setMark n m).staleDiscards = s.staleDiscards := rfl
@[simp] theorem State.setMark_mgrs (s : State) (n : Nat) (m : Mark) : (s.setMark n m).mgrs = s.mgrs := rfl
@[simp] theorem State.setMark_keyCopies (s : State) (n : Nat) (m : Mark) : (s.setMark n m).keyCopies = s.keyCopies := rfl
@[simp] theorem State.setMark_keyScores (s : State) (n : Nat) (m : Mark) : (s.setMark n m).keyScores = s.keyScores := rfl
@[simp] theorem State.setMark_net (s : State) (n : Nat) (m : Mark) : (s.setMark n m).net = s.net := rfl
@[simp] theorem State.setMark_retx (s : State) (n : Nat) (m : Mark) : (s.setMark n m).retx = s.retx := rfl
@[simp] theorem State.setMark_atLink (s : State) (n : Nat) (m : Mark) : (s.setMark n m).atLink = s.atLink := rfl
@[simp] theorem State.setMark_meters (s : State) (n : Nat) (m : Mark) : (s.setMark n m).meters = s.meters := rfl
@[simp] theorem State.setMark_relayBusy (s : State) (n : Nat) (m : Mark) : (s.setMark n m).relayBusy = s.relayBusy := rfl
@[simp] theorem State.setMark_pageWaits (s : State) (n : Nat) (m : Mark) : (s.setMark n m).pageWaits = s.pageWaits := rfl
@[simp] theorem State.setMark_dma (s : State) (n : Nat) (m : Mark) : (s.setMark n m).dma = s.dma := rfl
@[simp] theorem State.setMark_mbs (s : State) (n : Nat) (m : Mark) : (s.setMark n m).mbs = s.mbs := rfl
@[simp] theorem State.setMark_hwins (s : State) (n : Nat) (m : Mark) : (s.setMark n m).hwins = s.hwins := rfl
@[simp] theorem State.setMark_hwinStatus (s : State) (n : Nat) (m : Mark) : (s.setMark n m).hwinStatus = s.hwinStatus := rfl
@[simp] theorem State.setMark_hostSig (s : State) (n : Nat) (m : Mark) : (s.setMark n m).hostSig = s.hostSig := rfl
@[simp] theorem State.setMark_linkUp (s : State) (n : Nat) (m : Mark) : (s.setMark n m).linkUp = s.linkUp := rfl
@[simp] theorem State.setMark_linkRetry (s : State) (n : Nat) (m : Mark) : (s.setMark n m).linkRetry = s.linkRetry := rfl
@[simp] theorem State.setMark_linkTick (s : State) (n : Nat) (m : Mark) : (s.setMark n m).linkTick = s.linkTick := rfl
@[simp] theorem State.setMark_cfg (s : State) (n : Nat) (m : Mark) : (s.setMark n m).cfg = s.cfg := rfl
@[simp] theorem State.setMark_ev (s : State) (n : Nat) (m : Mark) : (s.setMark n m).ev = s.ev := rfl
@[simp] theorem State.setMark_ports (s : State) (n : Nat) (m : Mark) : (s.setMark n m).ports = s.ports := rfl
@[simp] theorem State.setMark_sys (s : State) (n : Nat) (m : Mark) : (s.setMark n m).sys = s.sys := rfl
@[simp] theorem State.setMark_colls (s : State) (n : Nat) (m : Mark) : (s.setMark n m).colls = s.colls := rfl
@[simp] theorem State.setMark_trans (s : State) (n : Nat) (m : Mark) : (s.setMark n m).trans = s.trans := rfl
@[simp] theorem State.setMark_rsp (s : State) (n : Nat) (m : Mark) : (s.setMark n m).rsp = s.rsp := rfl
@[simp] theorem State.setMark_ham (s : State) (n : Nat) (m : Mark) : (s.setMark n m).ham = s.ham := rfl
@[simp] theorem State.setMark_sent (s : State) (n : Nat) (m : Mark) : (s.setMark n m).sent = s.sent := rfl

@[simp] theorem State.signal_pending (s : State) (x : MarkSig) : (s.signal x).pending = s.pending := rfl
@[simp] theorem State.signal_freeCtr (s : State) (x : MarkSig) : (s.signal x).freeCtr = s.freeCtr := rfl
@[simp] theorem State.signal_pwr (s : State) (x : MarkSig) : (s.signal x).pwr = s.pwr := rfl
@[simp] theorem State.signal_fields (s : State) (x : MarkSig) : (s.signal x).fields = s.fields := rfl
@[simp] theorem State.signal_fence (s : State) (x : MarkSig) : (s.signal x).fence = s.fence := rfl
@[simp] theorem State.signal_mem (s : State) (x : MarkSig) : (s.signal x).mem = s.mem := rfl
@[simp] theorem State.signal_cores (s : State) (x : MarkSig) : (s.signal x).cores = s.cores := rfl
@[simp] theorem State.signal_marks (s : State) (x : MarkSig) : (s.signal x).marks = s.marks := rfl
@[simp] theorem State.signal_ctxs (s : State) (x : MarkSig) : (s.signal x).ctxs = s.ctxs := rfl
@[simp] theorem State.signal_queues (s : State) (x : MarkSig) : (s.signal x).queues = s.queues := rfl
@[simp] theorem State.signal_disps (s : State) (x : MarkSig) : (s.signal x).disps = s.disps := rfl
@[simp] theorem State.signal_epochNow (s : State) (x : MarkSig) : (s.signal x).epochNow = s.epochNow := rfl
@[simp] theorem State.signal_staleDiscards (s : State) (x : MarkSig) : (s.signal x).staleDiscards = s.staleDiscards := rfl
@[simp] theorem State.signal_mgrs (s : State) (x : MarkSig) : (s.signal x).mgrs = s.mgrs := rfl
@[simp] theorem State.signal_keyCopies (s : State) (x : MarkSig) : (s.signal x).keyCopies = s.keyCopies := rfl
@[simp] theorem State.signal_keyScores (s : State) (x : MarkSig) : (s.signal x).keyScores = s.keyScores := rfl
@[simp] theorem State.signal_net (s : State) (x : MarkSig) : (s.signal x).net = s.net := rfl
@[simp] theorem State.signal_retx (s : State) (x : MarkSig) : (s.signal x).retx = s.retx := rfl
@[simp] theorem State.signal_atLink (s : State) (x : MarkSig) : (s.signal x).atLink = s.atLink := rfl
@[simp] theorem State.signal_meters (s : State) (x : MarkSig) : (s.signal x).meters = s.meters := rfl
@[simp] theorem State.signal_relayBusy (s : State) (x : MarkSig) : (s.signal x).relayBusy = s.relayBusy := rfl
@[simp] theorem State.signal_pageWaits (s : State) (x : MarkSig) : (s.signal x).pageWaits = s.pageWaits := rfl
@[simp] theorem State.signal_dma (s : State) (x : MarkSig) : (s.signal x).dma = s.dma := rfl
@[simp] theorem State.signal_mbs (s : State) (x : MarkSig) : (s.signal x).mbs = s.mbs := rfl
@[simp] theorem State.signal_hwins (s : State) (x : MarkSig) : (s.signal x).hwins = s.hwins := rfl
@[simp] theorem State.signal_hwinStatus (s : State) (x : MarkSig) : (s.signal x).hwinStatus = s.hwinStatus := rfl
@[simp] theorem State.signal_hostSig (s : State) (x : MarkSig) : (s.signal x).hostSig = s.hostSig := rfl
@[simp] theorem State.signal_linkUp (s : State) (x : MarkSig) : (s.signal x).linkUp = s.linkUp := rfl
@[simp] theorem State.signal_linkRetry (s : State) (x : MarkSig) : (s.signal x).linkRetry = s.linkRetry := rfl
@[simp] theorem State.signal_linkTick (s : State) (x : MarkSig) : (s.signal x).linkTick = s.linkTick := rfl
@[simp] theorem State.signal_cfg (s : State) (x : MarkSig) : (s.signal x).cfg = s.cfg := rfl
@[simp] theorem State.signal_ev (s : State) (x : MarkSig) : (s.signal x).ev = s.ev := rfl
@[simp] theorem State.signal_ports (s : State) (x : MarkSig) : (s.signal x).ports = s.ports := rfl
@[simp] theorem State.signal_sys (s : State) (x : MarkSig) : (s.signal x).sys = s.sys := rfl
@[simp] theorem State.signal_colls (s : State) (x : MarkSig) : (s.signal x).colls = s.colls := rfl
@[simp] theorem State.signal_trans (s : State) (x : MarkSig) : (s.signal x).trans = s.trans := rfl
@[simp] theorem State.signal_rsp (s : State) (x : MarkSig) : (s.signal x).rsp = s.rsp := rfl
@[simp] theorem State.signal_ham (s : State) (x : MarkSig) : (s.signal x).ham = s.ham := rfl
@[simp] theorem State.signal_sent (s : State) (x : MarkSig) : (s.signal x).sent = s.sent := rfl

@[simp] theorem State.setMb_pending (s : State) (m : Nat) (b : Mailbox) : (s.setMb m b).pending = s.pending := rfl
@[simp] theorem State.setMb_freeCtr (s : State) (m : Nat) (b : Mailbox) : (s.setMb m b).freeCtr = s.freeCtr := rfl
@[simp] theorem State.setMb_pwr (s : State) (m : Nat) (b : Mailbox) : (s.setMb m b).pwr = s.pwr := rfl
@[simp] theorem State.setMb_fields (s : State) (m : Nat) (b : Mailbox) : (s.setMb m b).fields = s.fields := rfl
@[simp] theorem State.setMb_fence (s : State) (m : Nat) (b : Mailbox) : (s.setMb m b).fence = s.fence := rfl
@[simp] theorem State.setMb_mem (s : State) (m : Nat) (b : Mailbox) : (s.setMb m b).mem = s.mem := rfl
@[simp] theorem State.setMb_cores (s : State) (m : Nat) (b : Mailbox) : (s.setMb m b).cores = s.cores := rfl
@[simp] theorem State.setMb_marks (s : State) (m : Nat) (b : Mailbox) : (s.setMb m b).marks = s.marks := rfl
@[simp] theorem State.setMb_markNet (s : State) (m : Nat) (b : Mailbox) : (s.setMb m b).markNet = s.markNet := rfl
@[simp] theorem State.setMb_ctxs (s : State) (m : Nat) (b : Mailbox) : (s.setMb m b).ctxs = s.ctxs := rfl
@[simp] theorem State.setMb_queues (s : State) (m : Nat) (b : Mailbox) : (s.setMb m b).queues = s.queues := rfl
@[simp] theorem State.setMb_disps (s : State) (m : Nat) (b : Mailbox) : (s.setMb m b).disps = s.disps := rfl
@[simp] theorem State.setMb_epochNow (s : State) (m : Nat) (b : Mailbox) : (s.setMb m b).epochNow = s.epochNow := rfl
@[simp] theorem State.setMb_staleDiscards (s : State) (m : Nat) (b : Mailbox) : (s.setMb m b).staleDiscards = s.staleDiscards := rfl
@[simp] theorem State.setMb_mgrs (s : State) (m : Nat) (b : Mailbox) : (s.setMb m b).mgrs = s.mgrs := rfl
@[simp] theorem State.setMb_keyCopies (s : State) (m : Nat) (b : Mailbox) : (s.setMb m b).keyCopies = s.keyCopies := rfl
@[simp] theorem State.setMb_keyScores (s : State) (m : Nat) (b : Mailbox) : (s.setMb m b).keyScores = s.keyScores := rfl
@[simp] theorem State.setMb_net (s : State) (m : Nat) (b : Mailbox) : (s.setMb m b).net = s.net := rfl
@[simp] theorem State.setMb_retx (s : State) (m : Nat) (b : Mailbox) : (s.setMb m b).retx = s.retx := rfl
@[simp] theorem State.setMb_atLink (s : State) (m : Nat) (b : Mailbox) : (s.setMb m b).atLink = s.atLink := rfl
@[simp] theorem State.setMb_meters (s : State) (m : Nat) (b : Mailbox) : (s.setMb m b).meters = s.meters := rfl
@[simp] theorem State.setMb_relayBusy (s : State) (m : Nat) (b : Mailbox) : (s.setMb m b).relayBusy = s.relayBusy := rfl
@[simp] theorem State.setMb_pageWaits (s : State) (m : Nat) (b : Mailbox) : (s.setMb m b).pageWaits = s.pageWaits := rfl
@[simp] theorem State.setMb_dma (s : State) (m : Nat) (b : Mailbox) : (s.setMb m b).dma = s.dma := rfl
@[simp] theorem State.setMb_hwins (s : State) (m : Nat) (b : Mailbox) : (s.setMb m b).hwins = s.hwins := rfl
@[simp] theorem State.setMb_hwinStatus (s : State) (m : Nat) (b : Mailbox) : (s.setMb m b).hwinStatus = s.hwinStatus := rfl
@[simp] theorem State.setMb_hostSig (s : State) (m : Nat) (b : Mailbox) : (s.setMb m b).hostSig = s.hostSig := rfl
@[simp] theorem State.setMb_linkUp (s : State) (m : Nat) (b : Mailbox) : (s.setMb m b).linkUp = s.linkUp := rfl
@[simp] theorem State.setMb_linkRetry (s : State) (m : Nat) (b : Mailbox) : (s.setMb m b).linkRetry = s.linkRetry := rfl
@[simp] theorem State.setMb_linkTick (s : State) (m : Nat) (b : Mailbox) : (s.setMb m b).linkTick = s.linkTick := rfl
@[simp] theorem State.setMb_cfg (s : State) (m : Nat) (b : Mailbox) : (s.setMb m b).cfg = s.cfg := rfl
@[simp] theorem State.setMb_ev (s : State) (m : Nat) (b : Mailbox) : (s.setMb m b).ev = s.ev := rfl
@[simp] theorem State.setMb_ports (s : State) (m : Nat) (b : Mailbox) : (s.setMb m b).ports = s.ports := rfl
@[simp] theorem State.setMb_sys (s : State) (m : Nat) (b : Mailbox) : (s.setMb m b).sys = s.sys := rfl
@[simp] theorem State.setMb_colls (s : State) (m : Nat) (b : Mailbox) : (s.setMb m b).colls = s.colls := rfl
@[simp] theorem State.setMb_trans (s : State) (m : Nat) (b : Mailbox) : (s.setMb m b).trans = s.trans := rfl
@[simp] theorem State.setMb_rsp (s : State) (m : Nat) (b : Mailbox) : (s.setMb m b).rsp = s.rsp := rfl
@[simp] theorem State.setMb_ham (s : State) (m : Nat) (b : Mailbox) : (s.setMb m b).ham = s.ham := rfl
@[simp] theorem State.setMb_sent (s : State) (m : Nat) (b : Mailbox) : (s.setMb m b).sent = s.sent := rfl

@[simp] theorem State.modPort_pending (s : State) (p : Nat) (g : Port → Port) : (s.modPort p g).pending = s.pending := rfl
@[simp] theorem State.modPort_freeCtr (s : State) (p : Nat) (g : Port → Port) : (s.modPort p g).freeCtr = s.freeCtr := rfl
@[simp] theorem State.modPort_pwr (s : State) (p : Nat) (g : Port → Port) : (s.modPort p g).pwr = s.pwr := rfl
@[simp] theorem State.modPort_fields (s : State) (p : Nat) (g : Port → Port) : (s.modPort p g).fields = s.fields := rfl
@[simp] theorem State.modPort_fence (s : State) (p : Nat) (g : Port → Port) : (s.modPort p g).fence = s.fence := rfl
@[simp] theorem State.modPort_mem (s : State) (p : Nat) (g : Port → Port) : (s.modPort p g).mem = s.mem := rfl
@[simp] theorem State.modPort_cores (s : State) (p : Nat) (g : Port → Port) : (s.modPort p g).cores = s.cores := rfl
@[simp] theorem State.modPort_marks (s : State) (p : Nat) (g : Port → Port) : (s.modPort p g).marks = s.marks := rfl
@[simp] theorem State.modPort_markNet (s : State) (p : Nat) (g : Port → Port) : (s.modPort p g).markNet = s.markNet := rfl
@[simp] theorem State.modPort_ctxs (s : State) (p : Nat) (g : Port → Port) : (s.modPort p g).ctxs = s.ctxs := rfl
@[simp] theorem State.modPort_queues (s : State) (p : Nat) (g : Port → Port) : (s.modPort p g).queues = s.queues := rfl
@[simp] theorem State.modPort_disps (s : State) (p : Nat) (g : Port → Port) : (s.modPort p g).disps = s.disps := rfl
@[simp] theorem State.modPort_epochNow (s : State) (p : Nat) (g : Port → Port) : (s.modPort p g).epochNow = s.epochNow := rfl
@[simp] theorem State.modPort_staleDiscards (s : State) (p : Nat) (g : Port → Port) : (s.modPort p g).staleDiscards = s.staleDiscards := rfl
@[simp] theorem State.modPort_mgrs (s : State) (p : Nat) (g : Port → Port) : (s.modPort p g).mgrs = s.mgrs := rfl
@[simp] theorem State.modPort_keyCopies (s : State) (p : Nat) (g : Port → Port) : (s.modPort p g).keyCopies = s.keyCopies := rfl
@[simp] theorem State.modPort_keyScores (s : State) (p : Nat) (g : Port → Port) : (s.modPort p g).keyScores = s.keyScores := rfl
@[simp] theorem State.modPort_net (s : State) (p : Nat) (g : Port → Port) : (s.modPort p g).net = s.net := rfl
@[simp] theorem State.modPort_retx (s : State) (p : Nat) (g : Port → Port) : (s.modPort p g).retx = s.retx := rfl
@[simp] theorem State.modPort_atLink (s : State) (p : Nat) (g : Port → Port) : (s.modPort p g).atLink = s.atLink := rfl
@[simp] theorem State.modPort_meters (s : State) (p : Nat) (g : Port → Port) : (s.modPort p g).meters = s.meters := rfl
@[simp] theorem State.modPort_relayBusy (s : State) (p : Nat) (g : Port → Port) : (s.modPort p g).relayBusy = s.relayBusy := rfl
@[simp] theorem State.modPort_pageWaits (s : State) (p : Nat) (g : Port → Port) : (s.modPort p g).pageWaits = s.pageWaits := rfl
@[simp] theorem State.modPort_dma (s : State) (p : Nat) (g : Port → Port) : (s.modPort p g).dma = s.dma := rfl
@[simp] theorem State.modPort_mbs (s : State) (p : Nat) (g : Port → Port) : (s.modPort p g).mbs = s.mbs := rfl
@[simp] theorem State.modPort_hwins (s : State) (p : Nat) (g : Port → Port) : (s.modPort p g).hwins = s.hwins := rfl
@[simp] theorem State.modPort_hwinStatus (s : State) (p : Nat) (g : Port → Port) : (s.modPort p g).hwinStatus = s.hwinStatus := rfl
@[simp] theorem State.modPort_hostSig (s : State) (p : Nat) (g : Port → Port) : (s.modPort p g).hostSig = s.hostSig := rfl
@[simp] theorem State.modPort_linkUp (s : State) (p : Nat) (g : Port → Port) : (s.modPort p g).linkUp = s.linkUp := rfl
@[simp] theorem State.modPort_linkRetry (s : State) (p : Nat) (g : Port → Port) : (s.modPort p g).linkRetry = s.linkRetry := rfl
@[simp] theorem State.modPort_linkTick (s : State) (p : Nat) (g : Port → Port) : (s.modPort p g).linkTick = s.linkTick := rfl
@[simp] theorem State.modPort_cfg (s : State) (p : Nat) (g : Port → Port) : (s.modPort p g).cfg = s.cfg := rfl
@[simp] theorem State.modPort_ev (s : State) (p : Nat) (g : Port → Port) : (s.modPort p g).ev = s.ev := rfl
@[simp] theorem State.modPort_sys (s : State) (p : Nat) (g : Port → Port) : (s.modPort p g).sys = s.sys := rfl
@[simp] theorem State.modPort_colls (s : State) (p : Nat) (g : Port → Port) : (s.modPort p g).colls = s.colls := rfl
@[simp] theorem State.modPort_trans (s : State) (p : Nat) (g : Port → Port) : (s.modPort p g).trans = s.trans := rfl
@[simp] theorem State.modPort_rsp (s : State) (p : Nat) (g : Port → Port) : (s.modPort p g).rsp = s.rsp := rfl
@[simp] theorem State.modPort_ham (s : State) (p : Nat) (g : Port → Port) : (s.modPort p g).ham = s.ham := rfl
@[simp] theorem State.modPort_sent (s : State) (p : Nat) (g : Port → Port) : (s.modPort p g).sent = s.sent := rfl

@[simp] theorem State.setColl_pending (s : State) (k : Coll) : (s.setColl k).pending = s.pending := rfl
@[simp] theorem State.setColl_freeCtr (s : State) (k : Coll) : (s.setColl k).freeCtr = s.freeCtr := rfl
@[simp] theorem State.setColl_pwr (s : State) (k : Coll) : (s.setColl k).pwr = s.pwr := rfl
@[simp] theorem State.setColl_fields (s : State) (k : Coll) : (s.setColl k).fields = s.fields := rfl
@[simp] theorem State.setColl_fence (s : State) (k : Coll) : (s.setColl k).fence = s.fence := rfl
@[simp] theorem State.setColl_mem (s : State) (k : Coll) : (s.setColl k).mem = s.mem := rfl
@[simp] theorem State.setColl_cores (s : State) (k : Coll) : (s.setColl k).cores = s.cores := rfl
@[simp] theorem State.setColl_marks (s : State) (k : Coll) : (s.setColl k).marks = s.marks := rfl
@[simp] theorem State.setColl_markNet (s : State) (k : Coll) : (s.setColl k).markNet = s.markNet := rfl
@[simp] theorem State.setColl_ctxs (s : State) (k : Coll) : (s.setColl k).ctxs = s.ctxs := rfl
@[simp] theorem State.setColl_queues (s : State) (k : Coll) : (s.setColl k).queues = s.queues := rfl
@[simp] theorem State.setColl_disps (s : State) (k : Coll) : (s.setColl k).disps = s.disps := rfl
@[simp] theorem State.setColl_epochNow (s : State) (k : Coll) : (s.setColl k).epochNow = s.epochNow := rfl
@[simp] theorem State.setColl_staleDiscards (s : State) (k : Coll) : (s.setColl k).staleDiscards = s.staleDiscards := rfl
@[simp] theorem State.setColl_mgrs (s : State) (k : Coll) : (s.setColl k).mgrs = s.mgrs := rfl
@[simp] theorem State.setColl_keyCopies (s : State) (k : Coll) : (s.setColl k).keyCopies = s.keyCopies := rfl
@[simp] theorem State.setColl_keyScores (s : State) (k : Coll) : (s.setColl k).keyScores = s.keyScores := rfl
@[simp] theorem State.setColl_net (s : State) (k : Coll) : (s.setColl k).net = s.net := rfl
@[simp] theorem State.setColl_retx (s : State) (k : Coll) : (s.setColl k).retx = s.retx := rfl
@[simp] theorem State.setColl_atLink (s : State) (k : Coll) : (s.setColl k).atLink = s.atLink := rfl
@[simp] theorem State.setColl_meters (s : State) (k : Coll) : (s.setColl k).meters = s.meters := rfl
@[simp] theorem State.setColl_relayBusy (s : State) (k : Coll) : (s.setColl k).relayBusy = s.relayBusy := rfl
@[simp] theorem State.setColl_pageWaits (s : State) (k : Coll) : (s.setColl k).pageWaits = s.pageWaits := rfl
@[simp] theorem State.setColl_dma (s : State) (k : Coll) : (s.setColl k).dma = s.dma := rfl
@[simp] theorem State.setColl_mbs (s : State) (k : Coll) : (s.setColl k).mbs = s.mbs := rfl
@[simp] theorem State.setColl_hwins (s : State) (k : Coll) : (s.setColl k).hwins = s.hwins := rfl
@[simp] theorem State.setColl_hwinStatus (s : State) (k : Coll) : (s.setColl k).hwinStatus = s.hwinStatus := rfl
@[simp] theorem State.setColl_hostSig (s : State) (k : Coll) : (s.setColl k).hostSig = s.hostSig := rfl
@[simp] theorem State.setColl_linkUp (s : State) (k : Coll) : (s.setColl k).linkUp = s.linkUp := rfl
@[simp] theorem State.setColl_linkRetry (s : State) (k : Coll) : (s.setColl k).linkRetry = s.linkRetry := rfl
@[simp] theorem State.setColl_linkTick (s : State) (k : Coll) : (s.setColl k).linkTick = s.linkTick := rfl
@[simp] theorem State.setColl_cfg (s : State) (k : Coll) : (s.setColl k).cfg = s.cfg := rfl
@[simp] theorem State.setColl_ev (s : State) (k : Coll) : (s.setColl k).ev = s.ev := rfl
@[simp] theorem State.setColl_ports (s : State) (k : Coll) : (s.setColl k).ports = s.ports := rfl
@[simp] theorem State.setColl_sys (s : State) (k : Coll) : (s.setColl k).sys = s.sys := rfl
@[simp] theorem State.setColl_trans (s : State) (k : Coll) : (s.setColl k).trans = s.trans := rfl
@[simp] theorem State.setColl_rsp (s : State) (k : Coll) : (s.setColl k).rsp = s.rsp := rfl
@[simp] theorem State.setColl_ham (s : State) (k : Coll) : (s.setColl k).ham = s.ham := rfl
@[simp] theorem State.setColl_sent (s : State) (k : Coll) : (s.setColl k).sent = s.sent := rfl

@[simp] theorem State.writeSpans_pending (s : State) (x : List Span) (b : Bytes) (p : Bool) : (s.writeSpans x b p).pending = s.pending := rfl
@[simp] theorem State.writeSpans_freeCtr (s : State) (x : List Span) (b : Bytes) (p : Bool) : (s.writeSpans x b p).freeCtr = s.freeCtr := rfl
@[simp] theorem State.writeSpans_pwr (s : State) (x : List Span) (b : Bytes) (p : Bool) : (s.writeSpans x b p).pwr = s.pwr := rfl
@[simp] theorem State.writeSpans_fields (s : State) (x : List Span) (b : Bytes) (p : Bool) : (s.writeSpans x b p).fields = s.fields := rfl
@[simp] theorem State.writeSpans_fence (s : State) (x : List Span) (b : Bytes) (p : Bool) : (s.writeSpans x b p).fence = s.fence := rfl
@[simp] theorem State.writeSpans_cores (s : State) (x : List Span) (b : Bytes) (p : Bool) : (s.writeSpans x b p).cores = s.cores := rfl
@[simp] theorem State.writeSpans_marks (s : State) (x : List Span) (b : Bytes) (p : Bool) : (s.writeSpans x b p).marks = s.marks := rfl
@[simp] theorem State.writeSpans_markNet (s : State) (x : List Span) (b : Bytes) (p : Bool) : (s.writeSpans x b p).markNet = s.markNet := rfl
@[simp] theorem State.writeSpans_ctxs (s : State) (x : List Span) (b : Bytes) (p : Bool) : (s.writeSpans x b p).ctxs = s.ctxs := rfl
@[simp] theorem State.writeSpans_queues (s : State) (x : List Span) (b : Bytes) (p : Bool) : (s.writeSpans x b p).queues = s.queues := rfl
@[simp] theorem State.writeSpans_disps (s : State) (x : List Span) (b : Bytes) (p : Bool) : (s.writeSpans x b p).disps = s.disps := rfl
@[simp] theorem State.writeSpans_epochNow (s : State) (x : List Span) (b : Bytes) (p : Bool) : (s.writeSpans x b p).epochNow = s.epochNow := rfl
@[simp] theorem State.writeSpans_staleDiscards (s : State) (x : List Span) (b : Bytes) (p : Bool) : (s.writeSpans x b p).staleDiscards = s.staleDiscards := rfl
@[simp] theorem State.writeSpans_mgrs (s : State) (x : List Span) (b : Bytes) (p : Bool) : (s.writeSpans x b p).mgrs = s.mgrs := rfl
@[simp] theorem State.writeSpans_keyCopies (s : State) (x : List Span) (b : Bytes) (p : Bool) : (s.writeSpans x b p).keyCopies = s.keyCopies := rfl
@[simp] theorem State.writeSpans_keyScores (s : State) (x : List Span) (b : Bytes) (p : Bool) : (s.writeSpans x b p).keyScores = s.keyScores := rfl
@[simp] theorem State.writeSpans_net (s : State) (x : List Span) (b : Bytes) (p : Bool) : (s.writeSpans x b p).net = s.net := rfl
@[simp] theorem State.writeSpans_retx (s : State) (x : List Span) (b : Bytes) (p : Bool) : (s.writeSpans x b p).retx = s.retx := rfl
@[simp] theorem State.writeSpans_atLink (s : State) (x : List Span) (b : Bytes) (p : Bool) : (s.writeSpans x b p).atLink = s.atLink := rfl
@[simp] theorem State.writeSpans_meters (s : State) (x : List Span) (b : Bytes) (p : Bool) : (s.writeSpans x b p).meters = s.meters := rfl
@[simp] theorem State.writeSpans_relayBusy (s : State) (x : List Span) (b : Bytes) (p : Bool) : (s.writeSpans x b p).relayBusy = s.relayBusy := rfl
@[simp] theorem State.writeSpans_pageWaits (s : State) (x : List Span) (b : Bytes) (p : Bool) : (s.writeSpans x b p).pageWaits = s.pageWaits := rfl
@[simp] theorem State.writeSpans_dma (s : State) (x : List Span) (b : Bytes) (p : Bool) : (s.writeSpans x b p).dma = s.dma := rfl
@[simp] theorem State.writeSpans_mbs (s : State) (x : List Span) (b : Bytes) (p : Bool) : (s.writeSpans x b p).mbs = s.mbs := rfl
@[simp] theorem State.writeSpans_hwins (s : State) (x : List Span) (b : Bytes) (p : Bool) : (s.writeSpans x b p).hwins = s.hwins := rfl
@[simp] theorem State.writeSpans_hwinStatus (s : State) (x : List Span) (b : Bytes) (p : Bool) : (s.writeSpans x b p).hwinStatus = s.hwinStatus := rfl
@[simp] theorem State.writeSpans_hostSig (s : State) (x : List Span) (b : Bytes) (p : Bool) : (s.writeSpans x b p).hostSig = s.hostSig := rfl
@[simp] theorem State.writeSpans_linkUp (s : State) (x : List Span) (b : Bytes) (p : Bool) : (s.writeSpans x b p).linkUp = s.linkUp := rfl
@[simp] theorem State.writeSpans_linkRetry (s : State) (x : List Span) (b : Bytes) (p : Bool) : (s.writeSpans x b p).linkRetry = s.linkRetry := rfl
@[simp] theorem State.writeSpans_linkTick (s : State) (x : List Span) (b : Bytes) (p : Bool) : (s.writeSpans x b p).linkTick = s.linkTick := rfl
@[simp] theorem State.writeSpans_cfg (s : State) (x : List Span) (b : Bytes) (p : Bool) : (s.writeSpans x b p).cfg = s.cfg := rfl
@[simp] theorem State.writeSpans_ev (s : State) (x : List Span) (b : Bytes) (p : Bool) : (s.writeSpans x b p).ev = s.ev := rfl
@[simp] theorem State.writeSpans_ports (s : State) (x : List Span) (b : Bytes) (p : Bool) : (s.writeSpans x b p).ports = s.ports := rfl
@[simp] theorem State.writeSpans_sys (s : State) (x : List Span) (b : Bytes) (p : Bool) : (s.writeSpans x b p).sys = s.sys := rfl
@[simp] theorem State.writeSpans_colls (s : State) (x : List Span) (b : Bytes) (p : Bool) : (s.writeSpans x b p).colls = s.colls := rfl
@[simp] theorem State.writeSpans_trans (s : State) (x : List Span) (b : Bytes) (p : Bool) : (s.writeSpans x b p).trans = s.trans := rfl
@[simp] theorem State.writeSpans_rsp (s : State) (x : List Span) (b : Bytes) (p : Bool) : (s.writeSpans x b p).rsp = s.rsp := rfl
@[simp] theorem State.writeSpans_ham (s : State) (x : List Span) (b : Bytes) (p : Bool) : (s.writeSpans x b p).ham = s.ham := rfl
@[simp] theorem State.writeSpans_sent (s : State) (x : List Span) (b : Bytes) (p : Bool) : (s.writeSpans x b p).sent = s.sent := rfl

@[simp] theorem State.put2_pending (s : State) (x : Dispatch) (r : CoreRegs) : (s.put2 x r).pending = s.pending := rfl
@[simp] theorem State.put2_freeCtr (s : State) (x : Dispatch) (r : CoreRegs) : (s.put2 x r).freeCtr = s.freeCtr := rfl
@[simp] theorem State.put2_pwr (s : State) (x : Dispatch) (r : CoreRegs) : (s.put2 x r).pwr = s.pwr := rfl
@[simp] theorem State.put2_fields (s : State) (x : Dispatch) (r : CoreRegs) : (s.put2 x r).fields = s.fields := rfl
@[simp] theorem State.put2_fence (s : State) (x : Dispatch) (r : CoreRegs) : (s.put2 x r).fence = s.fence := rfl
@[simp] theorem State.put2_mem (s : State) (x : Dispatch) (r : CoreRegs) : (s.put2 x r).mem = s.mem := rfl
@[simp] theorem State.put2_marks (s : State) (x : Dispatch) (r : CoreRegs) : (s.put2 x r).marks = s.marks := rfl
@[simp] theorem State.put2_markNet (s : State) (x : Dispatch) (r : CoreRegs) : (s.put2 x r).markNet = s.markNet := rfl
@[simp] theorem State.put2_ctxs (s : State) (x : Dispatch) (r : CoreRegs) : (s.put2 x r).ctxs = s.ctxs := rfl
@[simp] theorem State.put2_queues (s : State) (x : Dispatch) (r : CoreRegs) : (s.put2 x r).queues = s.queues := rfl
@[simp] theorem State.put2_epochNow (s : State) (x : Dispatch) (r : CoreRegs) : (s.put2 x r).epochNow = s.epochNow := rfl
@[simp] theorem State.put2_staleDiscards (s : State) (x : Dispatch) (r : CoreRegs) : (s.put2 x r).staleDiscards = s.staleDiscards := rfl
@[simp] theorem State.put2_mgrs (s : State) (x : Dispatch) (r : CoreRegs) : (s.put2 x r).mgrs = s.mgrs := rfl
@[simp] theorem State.put2_keyCopies (s : State) (x : Dispatch) (r : CoreRegs) : (s.put2 x r).keyCopies = s.keyCopies := rfl
@[simp] theorem State.put2_keyScores (s : State) (x : Dispatch) (r : CoreRegs) : (s.put2 x r).keyScores = s.keyScores := rfl
@[simp] theorem State.put2_net (s : State) (x : Dispatch) (r : CoreRegs) : (s.put2 x r).net = s.net := rfl
@[simp] theorem State.put2_retx (s : State) (x : Dispatch) (r : CoreRegs) : (s.put2 x r).retx = s.retx := rfl
@[simp] theorem State.put2_atLink (s : State) (x : Dispatch) (r : CoreRegs) : (s.put2 x r).atLink = s.atLink := rfl
@[simp] theorem State.put2_meters (s : State) (x : Dispatch) (r : CoreRegs) : (s.put2 x r).meters = s.meters := rfl
@[simp] theorem State.put2_relayBusy (s : State) (x : Dispatch) (r : CoreRegs) : (s.put2 x r).relayBusy = s.relayBusy := rfl
@[simp] theorem State.put2_pageWaits (s : State) (x : Dispatch) (r : CoreRegs) : (s.put2 x r).pageWaits = s.pageWaits := rfl
@[simp] theorem State.put2_dma (s : State) (x : Dispatch) (r : CoreRegs) : (s.put2 x r).dma = s.dma := rfl
@[simp] theorem State.put2_mbs (s : State) (x : Dispatch) (r : CoreRegs) : (s.put2 x r).mbs = s.mbs := rfl
@[simp] theorem State.put2_hwins (s : State) (x : Dispatch) (r : CoreRegs) : (s.put2 x r).hwins = s.hwins := rfl
@[simp] theorem State.put2_hwinStatus (s : State) (x : Dispatch) (r : CoreRegs) : (s.put2 x r).hwinStatus = s.hwinStatus := rfl
@[simp] theorem State.put2_hostSig (s : State) (x : Dispatch) (r : CoreRegs) : (s.put2 x r).hostSig = s.hostSig := rfl
@[simp] theorem State.put2_linkUp (s : State) (x : Dispatch) (r : CoreRegs) : (s.put2 x r).linkUp = s.linkUp := rfl
@[simp] theorem State.put2_linkRetry (s : State) (x : Dispatch) (r : CoreRegs) : (s.put2 x r).linkRetry = s.linkRetry := rfl
@[simp] theorem State.put2_linkTick (s : State) (x : Dispatch) (r : CoreRegs) : (s.put2 x r).linkTick = s.linkTick := rfl
@[simp] theorem State.put2_cfg (s : State) (x : Dispatch) (r : CoreRegs) : (s.put2 x r).cfg = s.cfg := rfl
@[simp] theorem State.put2_ev (s : State) (x : Dispatch) (r : CoreRegs) : (s.put2 x r).ev = s.ev := rfl
@[simp] theorem State.put2_ports (s : State) (x : Dispatch) (r : CoreRegs) : (s.put2 x r).ports = s.ports := rfl
@[simp] theorem State.put2_sys (s : State) (x : Dispatch) (r : CoreRegs) : (s.put2 x r).sys = s.sys := rfl
@[simp] theorem State.put2_colls (s : State) (x : Dispatch) (r : CoreRegs) : (s.put2 x r).colls = s.colls := rfl
@[simp] theorem State.put2_trans (s : State) (x : Dispatch) (r : CoreRegs) : (s.put2 x r).trans = s.trans := rfl
@[simp] theorem State.put2_rsp (s : State) (x : Dispatch) (r : CoreRegs) : (s.put2 x r).rsp = s.rsp := rfl
@[simp] theorem State.put2_ham (s : State) (x : Dispatch) (r : CoreRegs) : (s.put2 x r).ham = s.ham := rfl
@[simp] theorem State.put2_sent (s : State) (x : Dispatch) (r : CoreRegs) : (s.put2 x r).sent = s.sent := rfl

@[simp] theorem State.modMeter_pending (s : State) (die : Nat) (g : Meter → Meter) : (s.modMeter die g).pending = s.pending := rfl
@[simp] theorem State.modMeter_freeCtr (s : State) (die : Nat) (g : Meter → Meter) : (s.modMeter die g).freeCtr = s.freeCtr := rfl
@[simp] theorem State.modMeter_pwr (s : State) (die : Nat) (g : Meter → Meter) : (s.modMeter die g).pwr = s.pwr := rfl
@[simp] theorem State.modMeter_fields (s : State) (die : Nat) (g : Meter → Meter) : (s.modMeter die g).fields = s.fields := rfl
@[simp] theorem State.modMeter_fence (s : State) (die : Nat) (g : Meter → Meter) : (s.modMeter die g).fence = s.fence := rfl
@[simp] theorem State.modMeter_mem (s : State) (die : Nat) (g : Meter → Meter) : (s.modMeter die g).mem = s.mem := rfl
@[simp] theorem State.modMeter_cores (s : State) (die : Nat) (g : Meter → Meter) : (s.modMeter die g).cores = s.cores := rfl
@[simp] theorem State.modMeter_marks (s : State) (die : Nat) (g : Meter → Meter) : (s.modMeter die g).marks = s.marks := rfl
@[simp] theorem State.modMeter_markNet (s : State) (die : Nat) (g : Meter → Meter) : (s.modMeter die g).markNet = s.markNet := rfl
@[simp] theorem State.modMeter_ctxs (s : State) (die : Nat) (g : Meter → Meter) : (s.modMeter die g).ctxs = s.ctxs := rfl
@[simp] theorem State.modMeter_queues (s : State) (die : Nat) (g : Meter → Meter) : (s.modMeter die g).queues = s.queues := rfl
@[simp] theorem State.modMeter_disps (s : State) (die : Nat) (g : Meter → Meter) : (s.modMeter die g).disps = s.disps := rfl
@[simp] theorem State.modMeter_epochNow (s : State) (die : Nat) (g : Meter → Meter) : (s.modMeter die g).epochNow = s.epochNow := rfl
@[simp] theorem State.modMeter_staleDiscards (s : State) (die : Nat) (g : Meter → Meter) : (s.modMeter die g).staleDiscards = s.staleDiscards := rfl
@[simp] theorem State.modMeter_mgrs (s : State) (die : Nat) (g : Meter → Meter) : (s.modMeter die g).mgrs = s.mgrs := rfl
@[simp] theorem State.modMeter_keyCopies (s : State) (die : Nat) (g : Meter → Meter) : (s.modMeter die g).keyCopies = s.keyCopies := rfl
@[simp] theorem State.modMeter_keyScores (s : State) (die : Nat) (g : Meter → Meter) : (s.modMeter die g).keyScores = s.keyScores := rfl
@[simp] theorem State.modMeter_net (s : State) (die : Nat) (g : Meter → Meter) : (s.modMeter die g).net = s.net := rfl
@[simp] theorem State.modMeter_retx (s : State) (die : Nat) (g : Meter → Meter) : (s.modMeter die g).retx = s.retx := rfl
@[simp] theorem State.modMeter_atLink (s : State) (die : Nat) (g : Meter → Meter) : (s.modMeter die g).atLink = s.atLink := rfl
@[simp] theorem State.modMeter_relayBusy (s : State) (die : Nat) (g : Meter → Meter) : (s.modMeter die g).relayBusy = s.relayBusy := rfl
@[simp] theorem State.modMeter_pageWaits (s : State) (die : Nat) (g : Meter → Meter) : (s.modMeter die g).pageWaits = s.pageWaits := rfl
@[simp] theorem State.modMeter_dma (s : State) (die : Nat) (g : Meter → Meter) : (s.modMeter die g).dma = s.dma := rfl
@[simp] theorem State.modMeter_mbs (s : State) (die : Nat) (g : Meter → Meter) : (s.modMeter die g).mbs = s.mbs := rfl
@[simp] theorem State.modMeter_hwins (s : State) (die : Nat) (g : Meter → Meter) : (s.modMeter die g).hwins = s.hwins := rfl
@[simp] theorem State.modMeter_hwinStatus (s : State) (die : Nat) (g : Meter → Meter) : (s.modMeter die g).hwinStatus = s.hwinStatus := rfl
@[simp] theorem State.modMeter_hostSig (s : State) (die : Nat) (g : Meter → Meter) : (s.modMeter die g).hostSig = s.hostSig := rfl
@[simp] theorem State.modMeter_linkUp (s : State) (die : Nat) (g : Meter → Meter) : (s.modMeter die g).linkUp = s.linkUp := rfl
@[simp] theorem State.modMeter_linkRetry (s : State) (die : Nat) (g : Meter → Meter) : (s.modMeter die g).linkRetry = s.linkRetry := rfl
@[simp] theorem State.modMeter_linkTick (s : State) (die : Nat) (g : Meter → Meter) : (s.modMeter die g).linkTick = s.linkTick := rfl
@[simp] theorem State.modMeter_cfg (s : State) (die : Nat) (g : Meter → Meter) : (s.modMeter die g).cfg = s.cfg := rfl
@[simp] theorem State.modMeter_ev (s : State) (die : Nat) (g : Meter → Meter) : (s.modMeter die g).ev = s.ev := rfl
@[simp] theorem State.modMeter_ports (s : State) (die : Nat) (g : Meter → Meter) : (s.modMeter die g).ports = s.ports := rfl
@[simp] theorem State.modMeter_sys (s : State) (die : Nat) (g : Meter → Meter) : (s.modMeter die g).sys = s.sys := rfl
@[simp] theorem State.modMeter_colls (s : State) (die : Nat) (g : Meter → Meter) : (s.modMeter die g).colls = s.colls := rfl
@[simp] theorem State.modMeter_trans (s : State) (die : Nat) (g : Meter → Meter) : (s.modMeter die g).trans = s.trans := rfl
@[simp] theorem State.modMeter_rsp (s : State) (die : Nat) (g : Meter → Meter) : (s.modMeter die g).rsp = s.rsp := rfl
@[simp] theorem State.modMeter_ham (s : State) (die : Nat) (g : Meter → Meter) : (s.modMeter die g).ham = s.ham := rfl
@[simp] theorem State.modMeter_sent (s : State) (die : Nat) (g : Meter → Meter) : (s.modMeter die g).sent = s.sent := rfl

@[simp] theorem State.heardOn_pending (s : State) (p : Nat) : (s.heardOn p).pending = s.pending := rfl
@[simp] theorem State.heardOn_freeCtr (s : State) (p : Nat) : (s.heardOn p).freeCtr = s.freeCtr := rfl
@[simp] theorem State.heardOn_pwr (s : State) (p : Nat) : (s.heardOn p).pwr = s.pwr := rfl
@[simp] theorem State.heardOn_fields (s : State) (p : Nat) : (s.heardOn p).fields = s.fields := rfl
@[simp] theorem State.heardOn_fence (s : State) (p : Nat) : (s.heardOn p).fence = s.fence := rfl
@[simp] theorem State.heardOn_mem (s : State) (p : Nat) : (s.heardOn p).mem = s.mem := rfl
@[simp] theorem State.heardOn_cores (s : State) (p : Nat) : (s.heardOn p).cores = s.cores := rfl
@[simp] theorem State.heardOn_marks (s : State) (p : Nat) : (s.heardOn p).marks = s.marks := rfl
@[simp] theorem State.heardOn_markNet (s : State) (p : Nat) : (s.heardOn p).markNet = s.markNet := rfl
@[simp] theorem State.heardOn_ctxs (s : State) (p : Nat) : (s.heardOn p).ctxs = s.ctxs := rfl
@[simp] theorem State.heardOn_queues (s : State) (p : Nat) : (s.heardOn p).queues = s.queues := rfl
@[simp] theorem State.heardOn_disps (s : State) (p : Nat) : (s.heardOn p).disps = s.disps := rfl
@[simp] theorem State.heardOn_epochNow (s : State) (p : Nat) : (s.heardOn p).epochNow = s.epochNow := rfl
@[simp] theorem State.heardOn_staleDiscards (s : State) (p : Nat) : (s.heardOn p).staleDiscards = s.staleDiscards := rfl
@[simp] theorem State.heardOn_mgrs (s : State) (p : Nat) : (s.heardOn p).mgrs = s.mgrs := rfl
@[simp] theorem State.heardOn_keyCopies (s : State) (p : Nat) : (s.heardOn p).keyCopies = s.keyCopies := rfl
@[simp] theorem State.heardOn_keyScores (s : State) (p : Nat) : (s.heardOn p).keyScores = s.keyScores := rfl
@[simp] theorem State.heardOn_net (s : State) (p : Nat) : (s.heardOn p).net = s.net := rfl
@[simp] theorem State.heardOn_retx (s : State) (p : Nat) : (s.heardOn p).retx = s.retx := rfl
@[simp] theorem State.heardOn_atLink (s : State) (p : Nat) : (s.heardOn p).atLink = s.atLink := rfl
@[simp] theorem State.heardOn_meters (s : State) (p : Nat) : (s.heardOn p).meters = s.meters := rfl
@[simp] theorem State.heardOn_relayBusy (s : State) (p : Nat) : (s.heardOn p).relayBusy = s.relayBusy := rfl
@[simp] theorem State.heardOn_pageWaits (s : State) (p : Nat) : (s.heardOn p).pageWaits = s.pageWaits := rfl
@[simp] theorem State.heardOn_dma (s : State) (p : Nat) : (s.heardOn p).dma = s.dma := rfl
@[simp] theorem State.heardOn_mbs (s : State) (p : Nat) : (s.heardOn p).mbs = s.mbs := rfl
@[simp] theorem State.heardOn_hwins (s : State) (p : Nat) : (s.heardOn p).hwins = s.hwins := rfl
@[simp] theorem State.heardOn_hwinStatus (s : State) (p : Nat) : (s.heardOn p).hwinStatus = s.hwinStatus := rfl
@[simp] theorem State.heardOn_hostSig (s : State) (p : Nat) : (s.heardOn p).hostSig = s.hostSig := rfl
@[simp] theorem State.heardOn_linkUp (s : State) (p : Nat) : (s.heardOn p).linkUp = s.linkUp := rfl
@[simp] theorem State.heardOn_linkRetry (s : State) (p : Nat) : (s.heardOn p).linkRetry = s.linkRetry := rfl
@[simp] theorem State.heardOn_linkTick (s : State) (p : Nat) : (s.heardOn p).linkTick = s.linkTick := rfl
@[simp] theorem State.heardOn_cfg (s : State) (p : Nat) : (s.heardOn p).cfg = s.cfg := rfl
@[simp] theorem State.heardOn_ev (s : State) (p : Nat) : (s.heardOn p).ev = s.ev := rfl
@[simp] theorem State.heardOn_sys (s : State) (p : Nat) : (s.heardOn p).sys = s.sys := rfl
@[simp] theorem State.heardOn_colls (s : State) (p : Nat) : (s.heardOn p).colls = s.colls := rfl
@[simp] theorem State.heardOn_trans (s : State) (p : Nat) : (s.heardOn p).trans = s.trans := rfl
@[simp] theorem State.heardOn_rsp (s : State) (p : Nat) : (s.heardOn p).rsp = s.rsp := rfl
@[simp] theorem State.heardOn_ham (s : State) (p : Nat) : (s.heardOn p).ham = s.ham := rfl
@[simp] theorem State.heardOn_sent (s : State) (p : Nat) : (s.heardOn p).sent = s.sent := rfl

/-! Association lists. -/

@[simp] theorem assoc_assocSet_self {α β : Type} [DecidableEq α] (k : α) (v : β) (l : List (α × β)) :
    assoc k (assocSet k v l) = some v := by
  induction l with
  | nil => simp [assocSet, assoc]
  | cons p t ih =>
    obtain ⟨a, b⟩ := p
    by_cases h : a = k <;> simp [assocSet, assoc, h, ih]

theorem assoc_assocSet_other {α β : Type} [DecidableEq α] {k j : α} (h : j ≠ k) (v : β) (l : List (α × β)) :
    assoc j (assocSet k v l) = assoc j l := by
  induction l with
  | nil => simp [assocSet, assoc, Ne.symm h]
  | cons p t ih =>
    obtain ⟨a, b⟩ := p
    by_cases ha : a = k
    · simp [assocSet, assoc, ha, Ne.symm h]
    · have hs : assocSet k v ((a, b) :: t) = (a, b) :: assocSet k v t := by simp [assocSet, ha]
      rw [hs]
      by_cases hj : a = j <;> simp [assoc, hj, ih]

/-! Look-ups after an update. -/

@[simp] theorem State.core_setCore_self (s : State) (n : Nat) (r : CoreRegs) : (s.setCore n r).core n = r := by
  simp [State.core, State.setCore]

theorem State.core_setCore_other (s : State) {m n : Nat} (h : m ≠ n) (r : CoreRegs) : (s.setCore n r).core m = s.core m := by
  simp [State.core, State.setCore, assoc_assocSet_other h]

@[simp] theorem State.core_setDisp (s : State) (x : Dispatch) (n : Nat) : (s.setDisp x).core n = s.core n := rfl

@[simp] theorem State.disp?_setCore (s : State) (d : DRef) (n : Nat) (r : CoreRegs) : (s.setCore n r).disp? d = s.disp? d := rfl

theorem find?_map_id (l : List Dispatch) (x : Dispatch) (d : DRef) :
    (l.map (fun y => if y.id == x.id then x else y)).find? (·.id == d)
      = (l.find? (·.id == d)).map (fun y => if y.id == x.id then x else y) := by
  induction l with
  | nil => rfl
  | cons y t ih =>
    rw [List.map_cons, List.find?_cons, List.find?_cons]
    by_cases h : y.id = x.id
    · by_cases hd : x.id = d
      · simp [h, hd]
      · have hb : (x.id == d) = false := by simpa using hd
        simpa [h, hb] using ih
    · by_cases hd : y.id = d
      · have hx : d ≠ x.id := fun e => h (hd.trans e)
        simp [hd, hx]
      · have hb : (y.id == d) = false := by simpa using hd
        simpa [h, hb] using ih

/-- After a dispatch is replaced, looking it up gives what it was replaced with. -/
theorem State.disp?_setDisp_self (s : State) {x y : Dispatch} {d : DRef} (hy : s.disp? d = some y) (hx : x.id = d) :
    (s.setDisp x).disp? d = some x := by
  have hid : y.id = d := by simpa using List.find?_some hy
  unfold State.disp? at hy ⊢
  rw [State.setDisp, find?_map_id, hy]
  simp [hid, hx]

/-- Replacing a dispatch leaves every other one. -/
theorem State.disp?_setDisp_other (s : State) {x : Dispatch} {d : DRef} (hx : x.id ≠ d) :
    (s.setDisp x).disp? d = s.disp? d := by
  unfold State.disp?
  rw [State.setDisp, find?_map_id]
  cases h : s.disps.find? (·.id == d) with
  | none => rfl
  | some y =>
    have : y.id = d := by simpa using List.find?_some h
    simp [this, Ne.symm hx]

@[simp] theorem State.mark_setMark_self (s : State) (n : Nat) (m : Mark) : (s.setMark n m).mark n = m := by
  simp [State.mark, State.setMark]

theorem State.mark_setMark_other (s : State) {j n : Nat} (h : j ≠ n) (m : Mark) : (s.setMark n m).mark j = s.mark j := by
  simp [State.mark, State.setMark, assoc_assocSet_other h]

@[simp] theorem State.mb_setMb_self (s : State) (m : Nat) (b : Mailbox) : (s.setMb m b).mb m = b := by
  simp [State.mb, State.setMb]

theorem State.mb_setMb_other (s : State) {j m : Nat} (h : j ≠ m) (b : Mailbox) : (s.setMb m b).mb j = s.mb j := by
  simp [State.mb, State.setMb, assoc_assocSet_other h]

@[simp] theorem State.mgr_setMgr_self (s : State) (m : Mgr) (x : Manager) : (s.setMgr m x).mgr m = x := by
  simp [State.mgr, State.setMgr]

theorem State.mgr_setMgr_other (s : State) {j m : Mgr} (h : j ≠ m) (x : Manager) : (s.setMgr m x).mgr j = s.mgr j := by
  simp [State.mgr, State.setMgr, assoc_assocSet_other h]

/-! Registers of a core. -/

@[simp] theorem CoreRegs.sget_sput_self (r : CoreRegs) (n : Nat) (v : DWord) (p : Bool) : (r.sput n v p).sget n = v := by
  simp [CoreRegs.sget, CoreRegs.sput]

theorem CoreRegs.sget_sput_other (r : CoreRegs) {j n : Nat} (h : j ≠ n) (v : DWord) (p : Bool) :
    (r.sput n v p).sget j = r.sget j := by
  simp [CoreRegs.sget, CoreRegs.sput, assoc_assocSet_other h]

@[simp] theorem CoreRegs.sget_raise (r : CoreRegs) (f n : Nat) : (r.raise f).sget n = r.sget n := rfl

@[simp] theorem CoreRegs.lget_lput_self (r : CoreRegs) (n v : Nat) : (r.lput n v).lget n = v % 2 ^ 32 := by
  simp [CoreRegs.lget, CoreRegs.lput]

theorem CoreRegs.lget_lput_other (r : CoreRegs) {j n : Nat} (h : j ≠ n) (v : Nat) : (r.lput n v).lget j = r.lget j := by
  simp [CoreRegs.lget, CoreRegs.lput, assoc_assocSet_other h]

end Sys2Proof.Machine
end

