-- ==== Sys2Proof/Laws/Issue.lean ====
section
/-! SUPPORT. What issuing an instruction comes to: a dispatch that stands at an instruction issues it, and what the shared
operations that write a register change. -/

namespace Sys2Proof.Machine

/-- What a ready dispatch is: the one listed under its number. -/
theorem ready_fact {s : State} {d i y c n} (h : s.ready d i = some (y,c,n)) : s.disp? d = some y ∧ y.id = d := by
  unfold State.ready at h
  split at h
  · cases h
  · rename_i x hx
    split at h
    · split at h
      · cases h; exact ⟨hx, by simpa using List.find?_some hx⟩
      · cases h
    · cases h

/-- What the uses of streams are brought up to changes no dispatch's number. -/
@[simp] theorem refreshUses_id (s : State) (x : Dispatch) (c : Ctx) : (refreshUses s x c).id = x.id := rfl

/-- A dispatch that stands at an instruction is listed. -/
theorem stands_disp {s : State} {d i u x c n} (h : Stands s d i u x c n) : (∃ y, s.disp? d = some y) ∧ x.id = d := by
  obtain ⟨⟨y, hy, rfl⟩, _⟩ := h
  exact ⟨⟨y, (ready_fact hy).1⟩, (ready_fact hy).2⟩

/-- An instruction of a dispatch that stands at it issues where its form completes: exec answers its state, with the notes of an
issue and of a first instruction. -/
theorem issue_ok {s : State} {d i u x c n} (h : Stands s d i u x c n) (f : Dispatch → Ctx → Nat → Except Halt State) (r : Nat) {t}
   (hf : f x c n = .ok t) : ∃ y, s.ready d i = some (y, c, n) ∧ issue s d i r f = .next (began (issued y c t) d) := by
  obtain ⟨⟨y, hy, rfl⟩, _⟩ := h
  exact ⟨y, hy, by simp only [issue, hy, hf]⟩

/-- Writing a core's registers and a dispatch changes that core and that dispatch only. -/
theorem only_put2 {s : State} {d : DRef} {x y z : Dispatch} {r} (hy : s.disp? d = some y) (hz : z.id = d) (hl : z.lead = x.lead) :
   OnlyCoreAndDispatch s (s.put2 z r) x.lead r d z := by
  refine ⟨rfl, ?_, ?_, ?_, ?_⟩
  · rw [← hl]; simp [State.put2]
  · intro k hk; rw [← hl] at hk; simp [State.put2, State.core_setCore_other _ hk]
  · exact State.disp?_setDisp_self _ (by simpa using hy) hz
  · intro e he
    rw [State.put2, State.disp?_setDisp_other _ (by rw [hz]; exact he.symm)]; rfl

/-- Membership after an insertion into a sorted list. -/
theorem insert_mem (k n : Nat) (l : List Nat) : k ∈ insertNat n l ↔ k = n ∨ k ∈ l := by
  induction l with
  | nil => simp [insertNat]
  | cons a t ih =>
    simp only [insertNat]
    split
    · simp
    · split
      · rename_i h; subst h; simp
      · rw [List.mem_cons, ih, List.mem_cons]; tauto
/-- The same as a test. -/
theorem insert_contains (k n : Nat) (l : List Nat) : (insertNat n l).contains k = (k == n || l.contains k) := by
  rw [Bool.eq_iff_iff]; simp [insert_mem]
/-- Membership after a removal. -/
theorem remove_contains (k n : Nat) (l : List Nat) : (removeNat n l).contains k = (l.contains k && k != n) := by
  induction l with
  | nil => simp [removeNat]
  | cons a t ih =>
    simp only [removeNat] at ih ⊢
    by_cases h : a = n
    · subst h
      simp [List.filter] at ih ⊢
      rw [Bool.eq_iff_iff]; simp
      grind
    · rw [List.filter_cons_of_pos (by simpa using h), List.contains_cons, ih, List.contains_cons]
      by_cases hk : k = a
      · subst hk; simp [h]
      · have : (k == a) = false := by simpa using hk
        simp [this]

/-- A scalar register written with or without poison, the other registers and flags kept (R50, R74). -/
theorem scalarWritten_put (r : CoreRegs) (sd v p) :
   ScalarWritten r (if p then (r.sput sd v p).raise stPoisonSeen else r.sput sd v p) sd v p := by
  have e : ∀ k, (if p then (r.sput sd v p).raise stPoisonSeen else r.sput sd v p).poisS.contains k
     = ((if p then insertNat sd r.poisS else removeNat sd r.poisS).contains k) := by
    intro k; cases p <;> rfl
  refine ⟨?_, ?_, ?_, ?_, ?_, ?_, ?_, ?_, ?_, ?_, ?_, ?_, ?_, ?_, ?_⟩
  · cases p <;> simp
  · intro k hk; cases p <;> simp [CoreRegs.sget_sput_other _ hk]
  · rw [e]; cases p
    · simp only [Bool.false_eq_true, if_false, remove_contains]; simp
    · simp only [if_true, insert_contains]; simp
  · intro k hk; rw [e]
    have : (k == sd) = false := by simpa using hk
    cases p
    · simp only [Bool.false_eq_true, if_false, remove_contains, bne, this]; simp
    · simp only [if_true, insert_contains, this]; simp
  all_goals cases p <;> rfl

/-- A form that ends by writing one scalar register: one register of one core and one dispatch change. -/
theorem putScalar_only {s : State} {d : DRef} {x x' y : Dispatch} {sd n v p} (hy : s.disp? d = some y) (hz : x'.id = d) (hl : x'.lead = x.lead) :
   ∃ r, OnlyCoreAndDispatch s (putScalar s x' (s.core x.lead) n sd v p) x.lead r d (x'.adv n) ∧ ScalarWritten (s.core x.lead) r sd v p :=
  ⟨_, only_put2 (z := x'.adv n) hy hz hl, scalarWritten_put _ _ _ _⟩

/-- A dispatch that stands at an instruction is not held back by what it has in flight. -/
theorem stands_free {s : State} {d i u x c n} (h : Stands s d i u x c n) : free x u = .ok () := by
  simp [free, h.2]

/-- A form goes on with the value of a part that succeeds. -/
theorem run_eq {α β : Type} (a : α) (f : α → Except Halt β) : (Except.ok a : Except Halt α) >>= f = f a := rfl
/-- A form ends with its value. -/
theorem pure_ok {α : Type} (a : α) : (pure a : Except Halt α) = .ok a := rfl
/-- A check that holds lets the form go on. -/
theorem need_ok {b : Bool} (c) (h : b = true) : need b c = .ok () := by simp [need, h]
/-- An operand step that succeeds lets the form go on. -/
theorem lift_ok {α : Type} {e : Except Stop α} {a} (h : e = .ok a) : lift e = .ok a := by simp [lift, h]

end Sys2Proof.Machine
end

