-- ==== Sys2Proof/Tests/Slice0.lean ====
section
/-! SUPPORT. The model's own tests: small benches, ill-formed terms refused, instruction words read, for every statement concrete
states and operands that meet its hypotheses, and steps whose results the spec gives. -/

namespace Sys2Proof.Tests

open Machine

set_option Elab.async false

/-- The dispatch of the benches. -/
def d0 : DRef := ⟨0, 1⟩

/-- A module in READY with Field 0 running and the link up. -/
def up : State :=
  { State.reset with
    pwr := { Power.reset with ticks := 1000, st := .up, en := true }
    fields := { FieldState.reset with st := .run } :: List.replicate 7 FieldState.reset
    linkUp := true }

/-- The bytes of a descriptor (R152): BASE, SPACE, ELEM_TYPE, SWIZZLE, FLAGS, the dimensions, HDR_LINK. -/
def mkDesc (base sp elem swz flags : Nat) (dims : List (Nat × Nat)) (hdr : Nat) : Bytes :=
  leBytes 8 base ++ leBytes 1 sp ++ leBytes 1 elem ++ leBytes 1 dims.length ++ leBytes 1 swz ++ leBytes 2 flags ++ zeros 2
    ++ slice ((dims.map (fun d => leBytes 8 (d.1 + d.2 * 2 ^ 24))).flatten) 0 40 ++ leBytes 8 hdr

/-- A record of a CKKS parameter set of degree 256 with two primes and one special prime, as the forms read it. -/
def params : Bytes :=
  leBytes 4 7 ++ leBytes 1 0 ++ leBytes 1 0 ++ leBytes 1 8 ++ leBytes 1 2 ++ leBytes 1 1 ++ leBytes 1 1 ++ zeros 6
    ++ leBytes 1 9 ++ leBytes 1 3 ++ leBytes 2 16 ++ leBytes 4 8404993 ++ leBytes 4 512 ++ zeros 4
    ++ leBytes 4 8392193 ++ leBytes 4 8394753 ++ leBytes 4 8397313 ++ zeros 276

/-- The header of an RLWE object of the bench at a level (R16). -/
def rlwe (level repr : Nat) : Hdr :=
  { kind := 1, scheme := 0, logN := 8, paramId := 7, keyset := 3, ctx := 1, epoch := 0, comps := 2, level := level, pPresent := 0,
    repr := repr, flags := 0, budget := 100, scale := 0x40000000, slots := 128, plainT := 0, factor := 0, lweN := 0,
    lweCount := 0, psh := zeros 16 }

/-- The descriptors of the bench: 1 to 3 words of the Core Store (a source, a destination, a staging limb), 4 and 5 objects of
level 2 in evaluation form, 6 an object to write, 7 an object in coefficient form, 8 a digit tensor, 9 an object with its P limbs, 10
the key at 0x10000, 11 and 12 words of device memory, 13 an object to write over four units. -/
def descs : List (Nat × DescEntry) :=
  [(1, ⟨true, 1, mkDesc 0 1 0 0 1 [(512, 1)] 0⟩), (2, ⟨true, 1, mkDesc 2048 1 0 0 1 [(512, 1)] 0⟩),
   (3, ⟨true, 1, mkDesc 4096 1 0 0 1 [(256, 1)] 0⟩), (4, ⟨true, 1, mkDesc 8192 1 0 0 2 [(4, 256)] (0xE000 + 2 ^ 48)⟩),
   (5, ⟨true, 1, mkDesc 12288 1 0 0 2 [(4, 256)] (0xE080 + 2 ^ 48)⟩), (6, ⟨true, 1, mkDesc 16384 1 0 0 3 [(6, 256)] (0xE100 + 2 ^ 48)⟩),
   (7, ⟨true, 1, mkDesc 24576 1 0 0 2 [(4, 256)] (0xE180 + 2 ^ 48)⟩), (8, ⟨true, 1, mkDesc 28672 1 0 0 1 [(768, 1)] 0⟩),
   (9, ⟨true, 1, mkDesc 32768 1 0 0 2 [(6, 256)] (0xE200 + 2 ^ 48)⟩), (10, ⟨true, 1, mkDesc 0x10000 0 0 0 0 [(256, 1)] 0⟩),
   (11, ⟨true, 1, mkDesc 0x20000 0 0 0 1 [(32, 1)] 0⟩), (12, ⟨true, 1, mkDesc 0x20000 0 1 0 1 [(32, 1)] 0⟩),
   (13, ⟨true, 1, mkDesc 40960 1 0 0 3 [(4, 256)] (0xE280 + 2 ^ 48)⟩)]

/-- The key of set 3 at 0x10000: a Galois key of element 3 for levels 1 and 2. -/
def key3 : KeyObj := { kind := 2, galois := 3, va := 0x10000, header := zeros 64, bodyLen := 3072, frames := [0x20] }

/-- Tables that map pages 0, 1 and 2 of context 1 to the frames 0x22, 0x20 and 0x21, read and write (R342), and the header of
the key in frame 0x20 (R109). -/
def tables : Mem :=
  [(0x100000, 0x01), (0x100001, 0x10), (0x100002, 0x10), (0x101000, 0x01), (0x101001, 0x20), (0x101002, 0x10), (0x102000, 0x01),
   (0x102001, 0x30), (0x102002, 0x10), (0x103000, 0x1D), (0x103002, 0x22), (0x103008, 0x1D), (0x10300A, 0x20), (0x103010, 0x1D),
   (0x103012, 0x21), (0x200000, 0xCB), (0x200001, 0xA2), (0x200002, 0x60), (0x200003, 0x09), (0x200004, 1), (0x200005, 2),
   (0x200006, 1), (0x200007, 2), (0x200008, 3), (0x20000C, 3)]

/-- Context 1 of the benches. -/
def ctx1 : Ctx :=
  { num := 1, secClass := 0, tenant := 0, param := params, psh := zeros 16, ptRoot := 0x100000, descEntries := 64, descs := descs,
    quotaQueues := 4, quotaPrograms := 4, quotaKeyMib := 64, heldLost := false, heldLostCount := 0, measCount := 0,
    measChain := zeros 48, log := [], keysets := [⟨3, [key3], zeros 48⟩], programs := [], handoffSeq := 0, weightsKeys := [], weightsUsed := false,
    frozen := [], sealed := [], oldMarks := [], vaultScratch := [] }

/-- A program of the words given; every literal handle is bound to generation 1. -/
def prog (code : List Nat) : Program :=
  { num := 0, code := code.map (BitVec.ofNat 64), entry := 0, binds := (List.range 32).map (fun i => (i, 1)), foot := [], pins := [],
    autoVault := false, meas := zeros 48, translator := zeros 48 }

/-- A dispatch that runs on core 0 at the first word of its program. -/
def disp (code : List Nat) : Dispatch :=
  { id := d0, ctx := 1, prog := prog code, cls := .middle, record := zeros 64, cfg := [(0x0102, 1), (0x0104, 4), (0x0105, 16)],
    markBase := 100, markCount := 8, tDoorbell := 1, tStart := none, waitSince := 1, relays := [0], cores := [0], epoch := 1,
    phase := .running, pc := 0, calls := [], laps := [], wait := none, stage := .between, stageNum := 0, stageAt := 0, stageCk3 := 0,
    doneCk := 0, runCk := 0, slow := none, streams := [], inflight := [], ringPend := none, redo := [], begun := [], frame := none,
    frames := [], kept := [], firstPoison := none, slots := [], stale := 0, torn := 0, migrations := 0,
    preempts := 0, vaultCalls := 0, vaultTicks := 0, bound := 0, void := false, ck3 := 0, lastMove := 0, redivide := false,
    abortLate := false, fin := false, fate := none }

/-- The bytes of the header of an RLWE object of level 2 that are not 0, laid out from an address (R16): P_PRESENT, REPR and HDR_CRC given. -/
def hdrCells (a pp repr : Nat) (crc : List Nat) : Mem :=
  ([(0, 0xC7), (1, 0xA2), (2, 0x60), (3, 0x09), (4, 1), (5, 1), (7, 8), (8, 7), (12, 3), (16, 1), (24, 2), (25, 2)]
    ++ (if pp == 1 then [(26, 1)] else []) ++ (if repr == 1 then [(27, 1)] else []) ++ [(30, 100), (35, 64), (36, 128)] ++ (List.range 4).map (fun i => (124 + i, nth crc i 0))).map
    (fun (c : Nat × Nat) => (a + c.1, BitVec.ofNat 8 c.2))

/-- The Core Store of core 0 with the headers of objects 4, 5, 7 and 9 in place. -/
def store : Scratch :=
  { data := hdrCells 0xE000 0 1 [105, 8, 60, 238] ++ hdrCells 0xE080 0 1 [105, 8, 60, 238] ++ hdrCells 0xE180 0 0 [175, 96, 244, 91]
      ++ hdrCells 0xE200 1 1 [45, 1, 165, 11]
    written := [0, 56], marked := [] }

/-- The bench: a module in READY with context 1 and one dispatch of the program given on core 0. -/
def bench (code : List Nat) : State :=
  { up with
    ctxs := [ctx1]
    disps := [disp code]
    mem := { MemState.reset with hbm := tables, cs := store, csMap := [⟨0, 1, some d0, 0, 0, false⟩] } }

/-- The bench at a dispatch given. -/
def benchAt (x : Dispatch) : State := { bench [] with disps := [x] }

/-- The only dispatch of a module, with nothing in flight, stands at an instruction of its only context, as a check. -/
def standsB (s : State) (d : DRef) (i : Instr) (x : Dispatch) (c : Ctx) (n : Nat) : Bool :=
  x.id == d && c.num == x.ctx && decide (x.prog.fetch d x.pc = some (i, n)) && (x.phase == .running && x.fate.isNone && !x.fin
    && x.wait.isNone && x.ringPend.isNone && x.stage != .ending && x.atLapEnd.isNone && s.coresRun x && s.isUp)
    && x.streams.isEmpty && x.inflight.isEmpty && x.redo.isEmpty

/-- What the check tells. -/
theorem stands_of {s : State} {d : DRef} {i : Instr} {u : Use} {x : Dispatch} {c : Ctx} {n : Nat} (hd : s.disps = [x])
    (hc : s.ctxs = [c]) (h : standsB s d i x c n = true) : Stands s d i u x c n := by
  simp only [standsB, Bool.and_eq_true, decide_eq_true_eq, List.isEmpty_iff] at h
  obtain ⟨⟨⟨⟨⟨⟨h1, h2⟩, h3⟩, h4⟩, h5⟩, h6⟩, h7⟩ := h
  have hn : x.next = x.pc := by simp [Dispatch.next, h7]
  refine ⟨⟨x, ?_, by cases x; simp_all [refreshUses]⟩, by simp [Dispatch.blocked, h5, h6]⟩
  have e1 : s.disp? d = some x := by simp [State.disp?, hd, h1]
  have e2 : s.ctx? x.ctx = some c := by simp [State.ctx?, hc, h2]
  simp only [State.ready, e1, e2, hn, h3]
  simp [Dispatch.flows, h4, h7]

/-- A result that is not an error. -/
def okB {ε α : Type} (e : Except ε α) : Bool :=
  match e with
  | .ok _ => true
  | .error _ => false

/-- The value of a result that is not an error. -/
def val {ε α : Type} (e : Except ε α) (h : okB e = true) : α :=
  match e, h with
  | .ok a, _ => a

/-- The result is its value. -/
theorem val_eq {ε α : Type} (e : Except ε α) (h : okB e = true) : e = .ok (val e h) := by
  cases e with
  | ok a => rfl
  | error b => cases h

/-- A result that is not an error gives what its value meets. -/
theorem ex_ok {ε α : Type} {e : Except ε α} {p : α → Prop} (h : okB e = true) (hp : p (val e h)) : ∃ a, e = .ok a ∧ p a :=
  ⟨val e h, val_eq e h, hp⟩

/-- A result is a value, as a check. -/
def okIs {ε α : Type} [DecidableEq α] (e : Except ε α) (a : α) : Bool :=
  match e with
  | .ok b => decide (b = a)
  | .error _ => false

/-- What the check tells. -/
theorem ok_of {ε α : Type} [DecidableEq α] {e : Except ε α} {a : α} (h : okIs e a = true) : e = .ok a := by
  cases e with
  | ok b => simpa [okIs] using h
  | error b => cases h

/-- An instruction word of format K (R223): OPCODE, SD, SA, SB, SUBOP, IMM32. -/
def kW (op sd sa sb sub imm : Nat) : Nat := op * 2 ^ 57 + sd * 2 ^ 49 + sa * 2 ^ 44 + sb * 2 ^ 39 + sub * 2 ^ 32 + imm

/-- The word of the long form. -/
def long (w : Nat) : Nat := w + 2 ^ 56

/-! ## Steps, reset and the scalar forms -/

/-- StepRunsTheCommandInFront and IdleStepIsOneTick: a queue with a command, an empty queue, a module without VAON. -/
theorem wit_step : ({ State.reset with pending := [.idcode] }).pending = [.idcode] ∧ State.reset.pending = []
    ∧ ∃ s : State, s.pending = [] ∧ s.pwr.st = .off :=
  ⟨rfl, rfl, { State.reset with pwr := { Power.reset with st := .off } }, rfl, rfl⟩

/-- OnlyRatingsStopTheModel: both ends of the ratings. -/
theorem wit_ratings : (∀ mv, Instr.inputTrip (-500) = .inputTrip mv → -500 ≤ mv ∧ mv ≤ 60000)
    ∧ (∀ mv, Instr.inputTrip 60000 = .inputTrip mv → -500 ≤ mv ∧ mv ≤ 60000) ∧ ((-501 : Int) < -500 ∨ (60000 : Int) < -501)
    ∧ ((60001 : Int) < -500 ∨ (60000 : Int) < 60001) := by
  refine ⟨fun mv h => ?_, fun mv h => ?_, by decide, by decide⟩ <;> cases h <;> decide

/-- ScalarArithmeticWritesItsResult: each of the eight operations stands, its word written from R223 and R229. -/
theorem wit_scalar_arithmetic (op : ScOp) : ∃ sub, Stands (bench [kW 0x41 5 6 7 sub 0]) d0 (op.instr d0 5 6 (.reg 7))
    { Use.none with rs := 6 :: svalRegs (.reg 7), ws := [5] } (disp [kW 0x41 5 6 7 sub 0]) ctx1 1 := by
  cases op
  · exact ⟨0, stands_of rfl rfl (by decide +kernel)⟩
  · exact ⟨1, stands_of rfl rfl (by decide +kernel)⟩
  · exact ⟨2, stands_of rfl rfl (by decide +kernel)⟩
  · exact ⟨3, stands_of rfl rfl (by decide +kernel)⟩
  · exact ⟨4, stands_of rfl rfl (by decide +kernel)⟩
  · exact ⟨5, stands_of rfl rfl (by decide +kernel)⟩
  · exact ⟨6, stands_of rfl rfl (by decide +kernel)⟩
  · exact ⟨7, stands_of rfl rfl (by decide +kernel)⟩

/-- sc.li in both forms: IMM32 sign-extended, and word 1. -/
theorem wit_sc_li : Stands (bench [kW 0x40 5 0 0 0 0xFFFFFFFF]) d0 (.scLi d0 5 0xFFFFFFFFFFFFFFFF false)
      { Use.none with ws := [5] } (disp [kW 0x40 5 0 0 0 0xFFFFFFFF]) ctx1 1
    ∧ Stands (bench [long (kW 0x40 5 0 0 0 0), 77]) d0 (.scLi d0 5 77 true) { Use.none with ws := [5] }
      (disp [long (kW 0x40 5 0 0 0 0), 77]) ctx1 2 :=
  ⟨stands_of rfl rfl (by decide +kernel), stands_of rfl rfl (by decide +kernel)⟩

/-- Word 1 that names a literal handle. -/
def hW (h : Nat) : Nat := h * 2 ^ 42

/-- ScalarLoadStoreMovesEightBytes: sc.ld and sc.st of descriptor 1 at byte 16, the last and the first bytes of its extent. -/
theorem wit_sc_ld_st :
    (let code := [long (kW 0x42 5 0 0 0 2040), hW 1]
     ∃ o k, Stands (bench code) d0 (.scLd d0 5 (.lit 1) 2040 none)
        { Use.none with rd := [⟨1, 2040, 8, k, none⟩], rs := hrefRegs (.lit 1) ++ (none : Option Nat).toList, ws := [5] } (disp code) ctx1 2
      ∧ resolve (disp code) ctx1 ((bench code).core 0) (.lit 1) false false = .ok o
      ∧ scAddress (bench code) (disp code) ctx1 ((bench code).core 0) .read o 2040 none = .ok [⟨1, 2040, 8, k, none⟩])
    ∧ (let code := [long (kW 0x43 5 0 0 0 0), hW 1]
      ∃ o k, Stands (bench code) d0 (.scSt d0 5 (.lit 1) 0 none)
        { Use.none with wr := [⟨1, 0, 8, k, none⟩], rs := 5 :: hrefRegs (.lit 1) ++ (none : Option Nat).toList } (disp code) ctx1 2
      ∧ resolve (disp code) ctx1 ((bench code).core 0) (.lit 1) true false = .ok o
      ∧ scAddress (bench code) (disp code) ctx1 ((bench code).core 0) .write o 0 none = .ok [⟨1, 0, 8, k, none⟩]
      ∧ inWindow (bench code) [⟨1, 0, 8, k, none⟩] = false) := by
  refine ⟨⟨⟨1, mkDesc 0 1 0 0 1 [(512, 1)] 0⟩, 0, stands_of rfl rfl ?_, ok_of ?_, ok_of ?_⟩,
    ⟨⟨1, mkDesc 0 1 0 0 1 [(512, 1)] 0⟩, 0, stands_of rfl rfl ?_, ok_of ?_, ok_of ?_, ?_⟩⟩ <;> decide +kernel

/-- ScalarReadsOfTheMachine: sc.hdr of object 4, sc.arg, each sc.ctr, sc.stat with and without clearing, sc.lrd, sc.lwr outside a
lap and of the register of an active lap. -/
theorem wit_scalar_reads :
    (let code := [long (kW 0x44 5 0 0 1 0), hW 4]
     ∃ o, hdrSrc (bench code) (disp code) ctx1 ((bench code).core 0) (.lit 4) = .ok o
      ∧ Stands (bench code) d0 (.scHdr d0 5 (.lit 4) 1) { Use.none with rd := o.hdrAt, rs := hrefRegs (.lit 4), ws := [5] }
        (disp code) ctx1 2)
    ∧ Stands (bench [kW 0x45 5 0 0 0 3]) d0 (.scArg d0 5 3) { Use.none with ws := [5] } (disp [kW 0x45 5 0 0 0 3]) ctx1 1
    ∧ (∀ sub, sub < 6 → Stands (bench [kW 0x46 5 0 0 sub 0]) d0 (.scCtr d0 5 sub) { Use.none with ws := [5] }
        (disp [kW 0x46 5 0 0 sub 0]) ctx1 1)
    ∧ (Stands (bench [kW 0x47 5 0 0 0 0]) d0 (.scStat d0 5 none) { Use.none with ws := [5] } (disp [kW 0x47 5 0 0 0 0]) ctx1 1
        ∧ Stands (bench [kW 0x47 5 0 0 64 31]) d0 (.scStat d0 5 (some 31)) { Use.none with ws := [5] } (disp [kW 0x47 5 0 0 64 31]) ctx1 1
        ∧ (disp [kW 0x47 5 0 0 0 0]).inflight = [])
    ∧ Stands (bench [kW 0x48 5 0 0 0 3]) d0 (.scLrd d0 5 3) { Use.none with ws := [5] } (disp [kW 0x48 5 0 0 0 3]) ctx1 1
    ∧ (Stands (bench [kW 0x48 0 6 0 1 3]) d0 (.scLwr d0 3 6) { Use.none with rs := [6] } (disp [kW 0x48 0 6 0 1 3]) ctx1 1
        ∧ ((bench [kW 0x48 0 6 0 1 3]).core 0).poisS.contains 6 = false
        ∧ (disp [kW 0x48 0 6 0 1 3]).laps.all (fun l => l.ln != 3) = true ∧ (disp [kW 0x48 0 6 0 1 3]).readsLoop 3 = false)
    ∧ (let x := { disp [kW 0x48 0 6 0 1 3, 0] with laps := [⟨3, 5, 0, 2, none, 0⟩] }
      Stands { bench [] with disps := [x] } d0 (.scLwr d0 3 6) { Use.none with rs := [6] } x ctx1 1
        ∧ x.laps.any (fun l => l.ln == 3) = true) := by
  refine ⟨⟨val (hdrSrc (bench [long (kW 0x44 5 0 0 1 0), hW 4]) (disp [long (kW 0x44 5 0 0 1 0), hW 4]) ctx1 CoreRegs.zero (.lit 4))
      (by decide +kernel), val_eq _ _, stands_of rfl rfl ?_⟩, stands_of rfl rfl ?_, ?_, ⟨stands_of rfl rfl ?_, stands_of rfl rfl ?_, rfl⟩, stands_of rfl rfl ?_,
    ⟨stands_of rfl rfl ?_, ?_, ?_⟩, stands_of rfl rfl ?_, ?_⟩
  case refine_3 =>
    intro sub h
    have : sub = 0 ∨ sub = 1 ∨ sub = 2 ∨ sub = 3 ∨ sub = 4 ∨ sub = 5 := by omega
    rcases this with rfl | rfl | rfl | rfl | rfl | rfl <;> exact stands_of rfl rfl (by decide +kernel)
  all_goals decide +kernel

/-! ## Control flow, ring, stage, rel -/

/-- ControlFlowMovesThePc: a taken and an untaken branch, a lap with a count and with none, an iteration and the last, a call at
depth 15, a return to a caller and the end of the program. -/
theorem wit_control :
    (∀ cd sub, (cd, sub) ∈ [(Cond.always, 0), (.eq, 1), (.ne, 2), (.ltu, 3), (.geu, 4), (.lts, 5), (.ges, 6)] →
      Stands (bench [kW 0x50 0 6 7 sub 1]) d0 (.br d0 cd 6 (.reg 7) 1)
        { Use.none with rs := if cd == .always then [] else 6 :: svalRegs (.reg 7) } (disp [kW 0x50 0 6 7 sub 1]) ctx1 1
      ∧ lapsHeld (disp [kW 0x50 0 6 7 sub 1]) (leavesLap (disp [kW 0x50 0 6 7 sub 1]) (jumpTo 0 1)) = false
      ∧ (cd ≠ .always → (bench []).core 0 = CoreRegs.zero ∧ CoreRegs.zero.poisS.contains 6 = false
          ∧ CoreRegs.zero.svalPois (.reg 7) = false))
    ∧ (condHolds .eq (CoreRegs.zero.sget 6) (CoreRegs.zero.sval (.reg 7)) = true
        ∧ condHolds .ne (CoreRegs.zero.sget 6) (CoreRegs.zero.sval (.reg 7)) = false)
    ∧ (let x := { disp [kW 0x51 3 0 0 0 4] with laps := [⟨0, 5, 0, 9, none, 0⟩, ⟨1, 5, 0, 9, none, 0⟩, ⟨2, 5, 0, 9, none, 0⟩] }
      Stands (benchAt x) d0 (.lap d0 3 (.reg 0) 4) { Use.none with rs := svalRegs (.reg 0) } x ctx1 1
        ∧ CoreRegs.zero.svalPois (.reg 0) = false ∧ (CoreRegs.zero.sval (.reg 0)).toNat = 0 ∧ x.laps.length < 4
        ∧ x.laps.all (fun l => l.ln != 3) = true ∧ x.readsLoop 3 = false)
    ∧ Stands (bench [long (kW 0x51 3 0 0 64 4), 0xFFFFFFFF]) d0 (.lap d0 3 (.imm 0xFFFFFFFF) 4)
        { Use.none with rs := svalRegs (.imm 0xFFFFFFFF) } (disp [long (kW 0x51 3 0 0 64 4), 0xFFFFFFFF]) ctx1 2
    ∧ (∀ count, count ∈ [1, 2] → (benchAt { disp [0, 0] with pc := 1, laps := [⟨0, count, 0, 1, none, 0⟩] }).acts d0
          = some { disp [0, 0] with pc := 1, laps := [⟨0, count, 0, 1, none, 0⟩] }
        ∧ ({ disp [0, 0] with pc := 1, laps := [⟨0, count, 0, 1, none, 0⟩] } : Dispatch).atLapEnd = some ⟨0, count, 0, 1, none, 0⟩
        ∧ ({ disp [0, 0] with pc := 1, laps := [⟨0, count, 0, 1, none, 0⟩] } : Dispatch).readsLoop 0 = false)
    ∧ (let x := { disp [kW 0x52 0 0 0 0 4] with calls := List.replicate 15 0 }
      Stands (benchAt x) d0 (.call d0 4) Use.none x ctx1 1 ∧ x.calls.length < 16)
    ∧ Stands (bench [kW 0x53 0 0 0 0 0]) d0 (.ret d0) Use.none (disp [kW 0x53 0 0 0 0 0]) ctx1 1
    ∧ (let x := { disp [kW 0x53 0 0 0 0 0] with calls := [5] }
      Stands (benchAt x) d0 (.ret d0) Use.none x ctx1 1 ∧ x.calls = 5 :: []
        ∧ lapsHeld x (fun l => l.depth == x.calls.length) = false) := by
  refine ⟨?_, by decide +kernel, ⟨stands_of rfl rfl ?_, ?_⟩, stands_of rfl rfl ?_, ?_, ⟨stands_of rfl rfl ?_, ?_⟩, stands_of rfl rfl ?_, stands_of rfl rfl ?_, rfl, ?_⟩
  case refine_1 =>
    intro cd sub h
    simp only [List.mem_cons, List.not_mem_nil, or_false, Prod.mk.injEq] at h
    rcases h with ⟨rfl, rfl⟩ | ⟨rfl, rfl⟩ | ⟨rfl, rfl⟩ | ⟨rfl, rfl⟩ | ⟨rfl, rfl⟩ | ⟨rfl, rfl⟩ | ⟨rfl, rfl⟩ <;>
      exact ⟨stands_of rfl rfl (by decide +kernel), by decide +kernel, fun _ => by decide +kernel⟩
  case refine_5 =>
    intro count h
    simp only [List.mem_cons, List.not_mem_nil, or_false] at h
    rcases h with rfl | rfl <;> decide +kernel
  all_goals decide +kernel

/-- RingStageAndRelTakeEffect: both rings, the effect of a pending one, the ends of a stage with and without a redivision, with another placement free and without, a
release that reaches the last register and the last tile. -/
theorem wit_ring_stage_rel :
    (Stands (bench [kW 0x54 0 0 0 0 0]) d0 (.ring d0 false) Use.none (disp [kW 0x54 0 0 0 0 0]) ctx1 1
        ∧ (if false then hasGate ctx1.param else !gateOnly ctx1.param) = true)
    ∧ (Stands (bench [kW 0x54 0 0 0 1 0]) d0 (.ring d0 true) Use.none (disp [kW 0x54 0 0 0 1 0]) ctx1 1
        ∧ (if true then hasGate ctx1.param else !gateOnly ctx1.param) = true)
    ∧ (let x := { disp [] with ringPend := some true }
      (benchAt x).acts d0 = some x ∧ x.ringPend = some true ∧ x.inflight = [] ∧ x.streams = [])
    ∧ Stands (bench [kW 0x60 0 0 0 0 0]) d0 (.stageBegin d0) Use.none (disp [kW 0x60 0 0 0 0 0]) ctx1 1
    ∧ Stands (bench [kW 0x61 0 0 0 0 0]) d0 (.stageEnd d0) Use.none (disp [kW 0x61 0 0 0 0 0]) ctx1 1
    ∧ (∀ again : Bool, (benchAt { disp [] with stage := .ending, redivide := again }).acts d0
        = some { disp [] with stage := .ending, redivide := again })
    ∧ (let x := { disp [] with redivide := true, stage := .between, relays := [0], cores := [0, 1, 2, 3] }
      shapeFree (benchAt x) x = true)
    ∧ (let x := { disp [] with redivide := true, stage := .between, relays := List.range 32, cores := List.range 128 }
      shapeFree (benchAt x) x = false)
    ∧ (let w := 0x62 * 2 ^ 57 + 63 * 2 ^ 48 + 1 * 2 ^ 41 + 8 * 2 ^ 37
      Stands (bench [w]) d0 (.rel d0 63 1 8) { Use.none with wv := rangeFrom 63 1, wt := (List.range 4).filter (bit 8) } (disp [w]) ctx1 1) := by
  refine ⟨⟨stands_of rfl rfl ?_, ?_⟩, ⟨stands_of rfl rfl ?_, ?_⟩, ?_, stands_of rfl rfl ?_, stands_of rfl rfl ?_, ?_, ?_, ?_, stands_of rfl rfl ?_⟩ <;> decide +kernel

/-! ## Vector and object forms -/

/-- A vector form over one element group (R218). -/
def vf (ety : EType) (vd va vb vc mod cnt : Nat) : VForm :=
  { ety := ety, vd := vd, va := va, vb := vb, vc := vc, tileA := false, scalB := false, colStep := false, mod := mod, ml := none,
    cnt := cnt, subop := 0, ob3 := 0 }

/-- Its word. -/
def vW (op ety vd va vb vc mod cnt : Nat) : Nat :=
  op * 2 ^ 57 + ety * 2 ^ 54 + vd * 2 ^ 48 + va * 2 ^ 42 + vb * 2 ^ 36 + vc * 2 ^ 30 + mod * 2 ^ 21 + (cnt - 1) * 2 ^ 6

/-- VectorFormsComputeLaneByLane: each operation on 256 modular words with the last prime, and on one BF16 and one INT8 element. -/
theorem wit_vector_forms :
    (∀ op n, (op, n) ∈ [(VOp.add, 0x18), (.sub, 0x19), (.mul, 0x1A), (.mac, 0x1B)] →
      let f := vf .mod32 4 5 6 7 2 256
      let x := disp [vW n 0 4 5 6 7 2 256]
      Stands (benchAt x) d0 (op.instr d0 f) (vUse x f (groupRegs f.vd (etBytes f.ety) f.cnt) (op == .mac)) x ctx1 1
        ∧ x.engineFree 3 = true ∧ vCheck x ctx1 (benchAt x) ((benchAt x).core 0) f = .ok ())
    ∧ (∀ ety e, (ety, e) ∈ [(EType.fp32, 1), (.bf16, 2), (.int8, 3)] →
      let f := vf ety 4 5 6 7 0 1
      let x := disp [vW 0x18 e 4 5 6 7 0 1]
      Stands (benchAt x) d0 (VOp.add.instr d0 f) (vUse x f (groupRegs f.vd (etBytes f.ety) f.cnt) (VOp.add == .mac)) x ctx1 1
        ∧ x.engineFree 3 = true ∧ vCheck x ctx1 (benchAt x) ((benchAt x).core 0) f = .ok ()) := by
  refine ⟨?_, ?_⟩ <;> intro a b h <;>
    simp only [List.mem_cons, List.not_mem_nil, or_false, Prod.mk.injEq] at h
  · rcases h with ⟨rfl, rfl⟩ | ⟨rfl, rfl⟩ | ⟨rfl, rfl⟩ | ⟨rfl, rfl⟩ <;>
      exact ⟨stands_of rfl rfl (by decide +kernel), by decide +kernel, ok_of (by decide +kernel)⟩
  · rcases h with ⟨rfl, rfl⟩ | ⟨rfl, rfl⟩ | ⟨rfl, rfl⟩ <;>
      exact ⟨stands_of rfl rfl (by decide +kernel), by decide +kernel, ok_of (by decide +kernel)⟩

/-- VectorReductionAndConversion: v.red of one group, v.cvt.bf and v.cvt.f. -/
theorem wit_vector_reduction :
    (let f := vf .mod32 4 5 0 0 2 256
     let x := disp [vW 0x1C 0 4 5 0 0 2 256]
     let g : VForm := { f with subop := 0 }
     Stands (benchAt x) d0 (.vRed d0 f)
        { Use.none with rv := if f.tileA then [] else groupRegs f.va (etBytes f.ety) f.cnt, rt := if f.tileA then [f.va] else [], ws := [f.vd], rl := vLoops f } x ctx1 1
      ∧ x.engineFree 3 = true ∧ vCheck x ctx1 (benchAt x) ((benchAt x).core 0) g = .ok ())
    ∧ (let f := vf .fp32 4 8 0 0 0 256
      let x := disp [vW 0x1D 1 4 8 0 0 0 256]
      Stands (benchAt x) d0 (.vCvtBf d0 f)
        { Use.none with rv := groupRegs f.va 4 f.cnt, wv := groupRegs f.vd 2 f.cnt, rt := [], rl := vLoops f } x ctx1 1
      ∧ x.engineFree 3 = true ∧ vCheck x ctx1 (benchAt x) ((benchAt x).core 0) { f with subop := 0 } = .ok ())
    ∧ (let f : VForm := { vf .fp32 4 8 0 0 0 256 with subop := 1 }
      let x := disp [vW 0x1D 1 4 8 0 0 0 256 + 8]
      Stands (benchAt x) d0 (.vCvtF d0 f)
        { Use.none with rv := groupRegs f.va 2 f.cnt, wv := groupRegs f.vd 4 f.cnt, rt := [], rl := vLoops f } x ctx1 1
      ∧ x.engineFree 3 = true ∧ vCheck x ctx1 (benchAt x) ((benchAt x).core 0) { f with subop := 0 } = .ok ()) := by
  refine ⟨⟨stands_of rfl rfl ?_, ?_, ok_of ?_⟩, ⟨stands_of rfl rfl ?_, ?_, ok_of ?_⟩, ⟨stands_of rfl rfl ?_, ?_, ok_of ?_⟩⟩ <;> decide +kernel

/-- The two words of format M (R219): OPCODE, RD, RA, OPX, RB, RC, PARAM. -/
def mW (op rd ra opx rb rc param : Nat) : List Nat :=
  [op * 2 ^ 57 + 2 ^ 56 + rd * 2 ^ 32 + ra * 2 ^ 10 + opx, rb * 2 ^ 42 + rc * 2 ^ 20 + param]

/-- The null handle reference. -/
def nul : Nat := 2 * 2 ^ 20

/-- The bench of two words at a format M instruction. -/
def benchM (w : List Nat) : State := benchAt (disp w)

/-- The destination of descriptor 6. -/
def opnd6 : Opnd := ⟨6, mkDesc 16384 1 0 0 3 [(6, 256)] (0xE100 + 2 ^ 48)⟩

/-- The words of a sum, difference or product of objects 4 and 5 into 6. -/
def objW (op : OOp) : List Nat := mW (match op with
  | .add => 0x20
  | .sub => 0x21
  | .mul => 0x22) 6 4 0 5 nul 0

/-- ObjectFormsWriteBodyAndHeader, sums, differences and products of two objects. -/
theorem wit_object_sum (op : OOp) :
    let w := objW op
    let s := benchM w
    let x := disp w
    ∃ oa, objSrc s x ctx1 (s.core 0) (.lit 4) = .ok oa ∧ ∃ ob, objSrc s x ctx1 (s.core 0) (.lit 5) = .ok ob
      ∧ ∃ f, fund x ctx1 (valOf s params oa) (valOf s params ob) (objOpBudget op x params) = .ok f
      ∧ ∃ dd, objDst { s with freeCtr := s.freeCtr + 3 } x ctx1 opnd6 (objOpHdr op s.freeCtr params f) = .ok dd
      ∧ Stands s d0 (op.instr d0 (.lit 6) (.lit 4) (.lit 5))
          { Use.none with rd := oa.body ++ oa.hdrAt ++ ob.body ++ ob.hdrAt, wr := dd.body ++ dd.hdrAt, rs := hrefRegs (.lit 6) ++ hrefRegs (.lit 4) ++ hrefRegs (.lit 5) } x ctx1 2
      ∧ resolve x ctx1 (s.core 0) (.lit 6) true true = .ok opnd6
      ∧ objOpOk op (valOf s params oa) (valOf s params ob) = true ∧ (valOf s params oa).h.spent = false
      ∧ (valOf s params ob).h.spent = false
      ∧ x.engineFree 3 = true ∧ inWindow s (dd.body ++ dd.hdrAt) = false := by
  cases op
  all_goals
    refine ex_ok ?_ (ex_ok ?_ (ex_ok ?_ (ex_ok ?_ ⟨stands_of rfl rfl ?_, ok_of ?_, ?_⟩)))
    all_goals decide +kernel

/-- The bench with two scalars: S1 holds 50 and S2 holds 1. -/
def benchS (x : Dispatch) : State := { benchAt x with cores := [(0, { CoreRegs.zero with s := [(1, 50), (2, 1)] })] }

/-- ObjectFormsWriteBodyAndHeader, hdr.w: object 4 renamed to the lowest level into 6. -/
theorem wit_hdr_w :
    let x := disp (mW 0x49 6 4 (1 * 32 + 2) nul nul 0)
    let s := benchS x
    let level := ((s.core 0).sget 2).toNat % 256
    ∃ t, hdrSrc s x ctx1 (s.core 0) (.lit 4) = .ok t
      ∧ ∃ dd, objDst s x ctx1 opnd6 { t.h with level := level, budget := ((s.core 0).sget 1).toNat % 65536 } = .ok dd
      ∧ Stands s d0 (.hdrW d0 (.lit 6) (.lit 4) 1 2) { Use.none with rd := t.hdrAt ++ dd.body, wr := dd.hdrAt, rs := hrefRegs (.lit 6) ++ hrefRegs (.lit 4) ++ [1, 2] } x ctx1 2
      ∧ resolve x ctx1 (s.core 0) (.lit 6) true true = .ok opnd6 ∧ 1 ≤ level ∧ level ≤ pL ctx1.param
      ∧ inWindow s dd.hdrAt = false := by
  refine ex_ok ?_ (ex_ok ?_ ⟨stands_of rfl rfl ?_, ok_of ?_, ?_⟩) <;> decide +kernel

/-- A plain operand of the bench. -/
def opndP (i base cnt : Nat) : Opnd := ⟨i, mkDesc base 1 0 0 1 [(cnt, 1)] 0⟩

/-- The destination of descriptor 13. -/
def opnd13 : Opnd := ⟨13, mkDesc 40960 1 0 0 3 [(4, 256)] (0xE280 + 2 ^ 48)⟩

/-- ObjectFormsWriteBodyAndHeader, xpose of object 4 into 13. -/
theorem wit_xpose_object :
    let x := disp (mW 0x28 13 4 0 nul nul 0)
    let s := benchAt x
    let perm := [0, 0, 0, 0, 0]
    ∃ src, resolveAny x ctx1 (s.core 0) (.lit 4) false = .ok src
      ∧ ∃ dst, resolveAny x ctx1 (s.core 0) (.lit 13) true = .ok dst
      ∧ ∃ o, objSrc s x ctx1 (s.core 0) (.lit 4) = .ok o
      ∧ ∃ fh, copyVal x ctx1 (valOf s params o) = .ok fh
      ∧ ∃ dd, objDst s x ctx1 opnd13 fh.2 = .ok dd
      ∧ Stands s d0 (.xpose d0 (.lit 13) (.lit 4) perm) { Use.none with rd := o.body ++ o.hdrAt, wr := dd.body ++ dd.hdrAt, rs := hrefRegs (.lit 13) ++ hrefRegs (.lit 4) } x ctx1 2
      ∧ resolve x ctx1 (s.core 0) (.lit 13) true true = .ok opnd13
      ∧ bodyReach s x ctx1 o.raw opnd13.raw (bodyLen params o.h) (bodyLen params o.h / stagedTile + 2) 0 = (bodyLen params o.h, none)
      ∧ dObj src.raw = true ∧ dObj dst.raw = true ∧ permOk 1 perm = true ∧ dSize opnd13.raw 0 = dSize o.raw 0
      ∧ extentsMeet o.raw opnd13.raw = false ∧ spansMeet o.body dd.body = false ∧ spansMeet o.body dd.hdrAt = false
      ∧ spansMeet o.hdrAt dd.body = false ∧ inWindow s (dd.body ++ dd.hdrAt) = false ∧ x.inflight = [] := by
  refine ex_ok ?_ (ex_ok ?_ (ex_ok ?_ (ex_ok ?_ (ex_ok ?_ ⟨stands_of rfl rfl ?_, ok_of ?_, ?_, ?_⟩)))) <;> decide +kernel

/-- ObjectFormsWriteBodyAndHeader, xpose of plain words. -/
theorem wit_xpose_plain :
    let x := disp (mW 0x28 2 1 0 nul nul 0)
    let s := benchAt x
    let perm := [0, 0, 0, 0, 0]
    let src := opndP 1 0 512
    let dst := opndP 2 2048 512
    ∃ da, elemSpans s x ctx1 .write dst.raw (List.range (dCount dst.raw)) = .ok da
      ∧ ∃ sa, elemSpans s x ctx1 .read src.raw ((List.range (dCount dst.raw)).map (permSrc src.raw dst.raw perm)) = .ok sa
      ∧ Stands s d0 (.xpose d0 (.lit 2) (.lit 1) perm)
          { Use.none with rd := sa, wr := da, rs := hrefRegs (.lit 2) ++ hrefRegs (.lit 1) } x ctx1 2
      ∧ resolveAny x ctx1 (s.core 0) (.lit 1) false = .ok src ∧ resolveAny x ctx1 (s.core 0) (.lit 2) true = .ok dst
      ∧ dObj src.raw = false ∧ dObj dst.raw = false ∧ dRank src.raw = dRank dst.raw ∧ dElem src.raw = dElem dst.raw
      ∧ dSpace src.raw ≠ 4 ∧ dSpace dst.raw ≠ 4 ∧ permOk (dRank src.raw) perm = true
      ∧ (∀ i, i < dRank src.raw → dSize dst.raw i = dSize src.raw (nth perm i 0))
      ∧ xposeReach s x ctx1 src.raw dst.raw perm (stagedTile / dE dst.raw) (dCount dst.raw + 1) 0 = (dCount dst.raw, none)
      ∧ extentsMeet src.raw dst.raw = false ∧ inWindow s da = false ∧ x.inflight = [] := by
  refine ex_ok ?_ (ex_ok ?_ ⟨stands_of rfl rfl ?_, ok_of ?_, ok_of ?_, ?_⟩) <;> decide +kernel

/-! ## Transforms, automorphisms and conversions -/

/-- The field of i0, nl and EV in RC (R219). -/
def limbsRc (i0 nl ev : Nat) : Nat := i0 * 2 ^ 16 + nl * 2 ^ 9 + ev * 2 ^ 8

/-- TransformsAndAutomorphismsMapLimbs, regions: both transforms of two limbs with a staging limb, auto in both forms. -/
theorem wit_region_transforms :
    (∀ inv : Bool,
      let x := disp (mW (if inv then 2 else 1) 2 1 0 3 (limbsRc 0 2 0) 0)
      let s := benchAt x
      let i := if inv then Instr.nttI d0 (.lit 2) (.lit 1) (.lit 3) 0 2 else Instr.nttF d0 (.lit 2) (.lit 1) (.lit 3) 0 2
      ∃ sa, regionSpans s x ctx1 .read (opndP 1 0 512).raw 2048 = .ok sa
      ∧ ∃ da, regionSpans s x ctx1 .write (opndP 2 2048 512).raw 2048 = .ok da
      ∧ ∃ ga, stagingSpans s x ctx1 (s.core 0) (.lit 3) 256 = .ok ga
      ∧ Stands s d0 i { Use.none with rd := sa, wr := da ++ ga, rs := hrefRegs (.lit 2) ++ hrefRegs (.lit 1) ++ hrefRegs (.lit 3) } x ctx1 2
      ∧ RegionOperands s x ctx1 (.lit 2) (.lit 1) (.lit 3) 0 2 true sa da ga ∧ x.engineFree 0 = true)
    ∧ (∀ ev : Bool,
      let x := disp (mW 3 2 1 0 nul (limbsRc 1 2 (if ev then 1 else 0)) (3 * 4))
      let s := benchAt x
      ∃ sa, regionSpans s x ctx1 .read (opndP 1 0 512).raw 2048 = .ok sa
      ∧ ∃ da, regionSpans s x ctx1 .write (opndP 2 2048 512).raw 2048 = .ok da
      ∧ Stands s d0 (.auto d0 (.lit 2) (.lit 1) 1 2 ev (.imm 3))
          { Use.none with rd := sa, wr := da ++ [], rs := hrefRegs (.lit 2) ++ hrefRegs (.lit 1) ++ [] } x ctx1 2
      ∧ galois x (s.core 0) (.imm 3) = .ok 3 ∧ RegionOperands s x ctx1 (.lit 2) (.lit 1) .null 1 2 false sa da []
      ∧ x.engineFree 1 = true) := by
  refine ⟨fun inv => ?_, fun ev => ?_⟩
  · cases inv <;>
      refine ex_ok ?_ (ex_ok ?_ (ex_ok ?_ ⟨stands_of rfl rfl ?_, ⟨opndP 1 0 512, opndP 2 2048 512, ok_of ?_, ok_of ?_, ?_,
        val_eq _ _, val_eq _ _, val_eq _ _, ?_⟩, ?_⟩)) <;> decide +kernel
  · cases ev <;>
      refine ex_ok ?_ (ex_ok ?_ ⟨stands_of rfl rfl ?_, ok_of ?_, ⟨opndP 1 0 512, opndP 2 2048 512, ok_of ?_, ok_of ?_, ?_,
        val_eq _ _, val_eq _ _, ok_of ?_, ?_⟩, ?_⟩) <;> decide +kernel

/-- TransformsAndAutomorphismsMapLimbs, objects: ntt.f of 7, ntt.i of 4, auto of 4 in evaluation form, each into 6. -/
theorem wit_object_transforms :
    (∀ inv : Bool,
      let src := if inv then 4 else 7
      let x := disp (mW (if inv then 2 else 1) 6 src 0 3 (limbsRc 0 0 0) 0)
      let s := benchAt x
      let i := if inv then Instr.nttI d0 (.lit 6) (.lit src) (.lit 3) 0 0 else Instr.nttF d0 (.lit 6) (.lit src) (.lit 3) 0 0
      ∃ o, objSrc s x ctx1 (s.core 0) (.lit src) = .ok o
      ∧ ∃ f, fundKeep x ctx1 (valOf s ctx1.param o) = .ok f
      ∧ (let h := { f.a.h with repr := 1 - o.h.repr, flags := hdrFlags false false f.spent,
                               budget := if o.h.kind == kindRlwe then clampBudget f.budget else o.h.budget }
         ∃ dd, objDst s x ctx1 opnd6 h = .ok dd
         ∧ ∃ ga, stagingSpans s x ctx1 (s.core 0) (.lit 3) (2 ^ h.logN) = .ok ga
         ∧ Stands s d0 i { Use.none with rd := o.body ++ o.hdrAt, wr := dd.body ++ dd.hdrAt ++ ga, rs := hrefRegs (.lit 6) ++ hrefRegs (.lit 3) } x ctx1 2
         ∧ ObjectOperands s x ctx1 (.lit 6) (.lit 3) o (1 - o.h.repr) f dd h ga
         ∧ o.h.kind ≠ kindLwe ∧ (s.core 0).gate = false ∧ o.h.repr = (if inv then 1 else 0) ∧ x.engineFree 0 = true))
    ∧ (let x := disp (mW 3 6 4 0 nul (limbsRc 0 0 1) (511 * 4))
      let s := benchAt x
      ∃ o, objSrc s x ctx1 (s.core 0) (.lit 4) = .ok o
      ∧ ∃ f, fundKeep x ctx1 (valOf s ctx1.param o) = .ok f
      ∧ (let h := { f.a.h with repr := o.h.repr, flags := hdrFlags false false f.spent,
                               budget := if o.h.kind == kindRlwe then clampBudget f.budget else o.h.budget }
         ∃ dd, objDst s x ctx1 opnd6 h = .ok dd
         ∧ Stands s d0 (.auto d0 (.lit 6) (.lit 4) 0 0 true (.imm 511)) { Use.none with rd := o.body ++ o.hdrAt, wr := dd.body ++ dd.hdrAt ++ [], rs := hrefRegs (.lit 6) ++ [] } x ctx1 2
         ∧ galois x (s.core 0) (.imm 511) = .ok 511 ∧ 511 % 2 = 1 ∧ 511 < 2 * 2 ^ (activeRing x ctx1 s).logN
         ∧ ObjectOperands s x ctx1 (.lit 6) .null o o.h.repr f dd h []
         ∧ o.h.kind ≠ kindLwe ∧ (s.core 0).gate = false ∧ o.h.repr = (if true then 1 else 0) ∧ x.engineFree 1 = true)) := by
  refine ⟨fun inv => ?_, ?_⟩
  · cases inv <;>
      refine ex_ok ?_ (ex_ok ?_ (ex_ok ?_ (ex_ok ?_ ⟨stands_of rfl rfl ?_, ⟨opnd6, ok_of ?_, ?_, val_eq _ _, rfl, val_eq _ _,
        val_eq _ _, ?_⟩, ?_⟩))) <;> decide +kernel
  · refine ex_ok ?_ (ex_ok ?_ (ex_ok ?_ ⟨stands_of rfl rfl ?_, ok_of ?_, ?_, ?_, ⟨opnd6, ok_of ?_, ?_, val_eq _ _, rfl, val_eq _ _,
        ok_of ?_, ?_⟩, ?_⟩)) <;> decide +kernel

/-- BasisConversionsWriteTheirLimbs: cvt.up of one limb to the next prime, cvt.down of one limb by the special prime, cvt.rescale of
object 4 into 6. -/
theorem wit_conversions :
    (let x := disp (mW 8 2 1 0 nul (limbsRc 0 1 0 + 2 * 2 ^ 3) (1 * 2 ^ 13))
     let s := benchAt x
     ∃ sa, regionSpans s x ctx1 .read (opndP 1 0 512).raw (1 * 256 * 4) = .ok sa
      ∧ ∃ da, regionSpans s x ctx1 .write (opndP 2 2048 512).raw (1 * 256 * 4) = .ok da
      ∧ Stands s d0 (.cvtUp d0 (.lit 2) (.lit 1) 0 1 2 1)
          { Use.none with rd := sa, wr := da ++ ownBuffers x, rs := hrefRegs (.lit 2) ++ hrefRegs (.lit 1) } x ctx1 2
      ∧ resolve x ctx1 (s.core 0) (.lit 1) false false = .ok (opndP 1 0 512)
      ∧ resolve x ctx1 (s.core 0) (.lit 2) true false = .ok (opndP 2 2048 512)
      ∧ 1 * 2 ^ (activeRing x ctx1 s).logN ≤ dCount (opndP 1 0 512).raw
      ∧ 1 * 2 ^ (activeRing x ctx1 s).logN ≤ dCount (opndP 2 2048 512).raw ∧ 0 + 1 ≤ (activeRing x ctx1 s).qs.length
      ∧ 2 + 1 ≤ (activeRing x ctx1 s).qs.length ∧ inWindow s da = false ∧ x.engineFree 2 = true)
    ∧ (let x := disp (mW 9 2 1 0 nul (limbsRc 2 1 0) (1 * 2 ^ 13))
      let s := benchAt x
      ∃ sa, regionSpans s x ctx1 .read (opndP 1 0 512).raw ((1 + 1) * 256 * 4) = .ok sa
      ∧ ∃ da, regionSpans s x ctx1 .write (opndP 2 2048 512).raw (1 * 256 * 4) = .ok da
      ∧ Stands s d0 (.cvtDown d0 (.lit 2) (.lit 1) 2 1 0 1)
          { Use.none with rd := sa, wr := da ++ ownBuffers x, rs := hrefRegs (.lit 2) ++ hrefRegs (.lit 1) } x ctx1 2
      ∧ resolve x ctx1 (s.core 0) (.lit 1) false false = .ok (opndP 1 0 512)
      ∧ resolve x ctx1 (s.core 0) (.lit 2) true false = .ok (opndP 2 2048 512)
      ∧ (1 + 1) * 2 ^ (activeRing x ctx1 s).logN ≤ dCount (opndP 1 0 512).raw
      ∧ 1 * 2 ^ (activeRing x ctx1 s).logN ≤ dCount (opndP 2 2048 512).raw ∧ 2 + 1 ≤ (activeRing x ctx1 s).qs.length
      ∧ 0 + 1 ≤ (activeRing x ctx1 s).qs.length ∧ inWindow s da = false ∧ x.engineFree 2 = true)
    ∧ (let x := disp (mW 0x0A 6 4 0 nul nul 0)
      let s := benchAt x
      ∃ o, objSrc s x ctx1 (s.core 0) (.lit 4) = .ok o
      ∧ ∃ f, fund x ctx1 (valOf s params o) (valOf s params o) (fun a _ => if a.h.level > 1 then
          some (resultBudget .rescale params (x.set 0x0102) a.h a.h (a.h.level - 1)) else none) = .ok f
      ∧ ∃ dd, objDst { s with freeCtr := s.freeCtr + 1 } x ctx1 opnd6 (rescaleHdr s.freeCtr params f) = .ok dd
      ∧ Stands s d0 (.cvtRescale d0 (.lit 6) (.lit 4))
          { Use.none with rd := o.body ++ o.hdrAt, wr := dd.body ++ dd.hdrAt ++ ownBuffers x, rs := hrefRegs (.lit 6) ++ hrefRegs (.lit 4) } x ctx1 2
      ∧ resolve x ctx1 (s.core 0) (.lit 6) true true = .ok opnd6 ∧ o.h.kind = kindRlwe ∧ (o.h.scheme = 0 ∨ o.h.scheme = 2)
      ∧ o.h.pPresent = 0 ∧ 1 < o.h.level ∧ o.h.spent = false ∧ x.engineFree 2 = true ∧ inWindow s (dd.body ++ dd.hdrAt) = false) := by
  refine ⟨ex_ok ?_ (ex_ok ?_ ⟨stands_of rfl rfl ?_, ok_of ?_, ok_of ?_, ?_⟩),
    ex_ok ?_ (ex_ok ?_ ⟨stands_of rfl rfl ?_, ok_of ?_, ok_of ?_, ?_⟩),
    ex_ok ?_ (ex_ok ?_ (ex_ok ?_ ⟨stands_of rfl rfl ?_, ok_of ?_, ?_⟩))⟩ <;> decide +kernel

/-- A cvt.mm of one group and one k-step into tile 1 with the last prime. -/
def mm (rdr : HRef) : MmForm :=
  { rdr := rdr, ta := 1, tb := 2, acc := false, clr := false, mod := 2, k := 1, g := 1, xoff := 0, woff := 0, narrow := false }

/-- Its words. -/
def mmW (rdr : Nat) : List Nat := [0x0B * 2 ^ 57 + 2 ^ 56 + rdr * 2 ^ 32 + 1 * 2 ^ 30 + 2 * 2 ^ 28 + 2 * 2 ^ 20, 0]

/-- ConverterTilesAccumulateAndDrain: cvt.mm without and with a drain, cvt.drain of an unused tile. -/
theorem wit_converter :
    (let f := mm .null
     let x := disp (mmW nul)
     let s := benchAt x
     Stands s d0 (.cvtMm d0 f) { Use.none with rt := [], wt := mmTiles f, rd := mmReads x f, wr := [], rs := hrefRegs f.rdr } x ctx1 2
      ∧ (f.clr = true ∨ f.mod < (activeRing x ctx1 s).qs.length) ∧ f.rdr = .null ∧ x.engineFree 2 = true)
    ∧ (let f := mm (.lit 2)
      let x := disp (mmW 2)
      let s := benchAt x
      ∃ da, drainDst s x ctx1 (s.core 0) f.rdr (512 * f.g) (if f.clr then (if f.narrow then 2 else 1) else 0) = .ok da
      ∧ Stands s d0 (.cvtMm d0 f) { Use.none with rt := [], wt := mmTiles f, rd := mmReads x f, wr := da, rs := hrefRegs f.rdr } x ctx1 2
      ∧ (f.clr = true ∨ f.mod < (activeRing x ctx1 s).qs.length) ∧ f.rdr ≠ .null ∧ x.engineFree 2 = true)
    ∧ (let x := disp [0x0C * 2 ^ 57 + 2 * 2 ^ 32 + 3 * 2 ^ 30]
      let s := benchAt x
      let o := opndP 2 2048 512
      ∃ da, elemSpans s x ctx1 .write o.raw (List.range 512) = .ok da
      ∧ Stands s d0 (.cvtDrain d0 (.lit 2) 3 false) { Use.none with rt := [3], wr := da, rs := hrefRegs (.lit 2) } x ctx1 1
      ∧ resolve x ctx1 (s.core 0) (.lit 2) true false = .ok o ∧ dSpace o.raw = 1 ∧ 512 ≤ dCount o.raw
      ∧ (if false && (((s.core 0).tStored 3).mode == .clear || !(s.core 0).useA.contains 3) then dElem o.raw = 2 else dE o.raw = 4)
      ∧ inWindow s da = false ∧ x.engineFree 2 = true) := by
  refine ⟨⟨stands_of rfl rfl ?_, ?_⟩, ex_ok ?_ ⟨stands_of rfl rfl ?_, ?_⟩,
    ex_ok ?_ ⟨stands_of rfl rfl ?_, ok_of ?_, ?_⟩⟩ <;> decide +kernel

/-- The digit tensor of the bench. -/
def opnd8 : Opnd := ⟨8, mkDesc 28672 1 0 0 1 [(768, 1)] 0⟩

/-- KeySwitchStepsComplete: ks.prep of component 1 of object 4 into 8, ks.ip of 8 with the key of element 3, ks.fin of 9 and 4. -/
theorem wit_key_switch :
    (let x := disp (mW 0x10 8 4 1 nul nul 0)
     let s := benchAt x
     ∃ o, objSrc s x ctx1 (s.core 0) (.lit 4) = .ok o
      ∧ ∃ f, fund x ctx1 (valOf s params o) (valOf s params o) (fun a _ => if a.h.level == o.h.level && 1 < a.h.comps
          then some (resultBudget .keep params (x.set 0x0102) a.h a.h o.h.level) else none) = .ok f
      ∧ ∃ da, tensorSpans s x ctx1 .write opnd8.raw (digitWords params o.h.level) = .ok da
      ∧ Stands s d0 (.ksPrep d0 (.lit 8) (.lit 4) 1)
          { Use.none with rd := o.body ++ o.hdrAt, wr := da ++ ownBuffers x, rs := hrefRegs (.lit 8) ++ hrefRegs (.lit 4) } x ctx1 2
      ∧ resolve x ctx1 (s.core 0) (.lit 8) true false = .ok opnd8 ∧ o.h.kind = kindRlwe ∧ o.h.repr = 1 ∧ o.h.pPresent = 0
      ∧ 1 < o.h.comps ∧ dElem opnd8.raw = 0 ∧ dSpace opnd8.raw ≠ 4 ∧ dCount opnd8.raw = digitWords params o.h.level
      ∧ o.h.spent = false ∧ inWindow s da = false ∧ x.engineFree 0 = true)
    ∧ (let x := disp (mW 0x11 6 8 0 10 4 (3 * 4))
      let s := benchAt x
      let kh := keySpans key3 0 64
      ∃ o, hdrSrc s x ctx1 (s.core 0) (.lit 4) = .ok o
      ∧ ∃ v, ipSource s x ctx1 (.lit 4) o = .ok v
      ∧ ∃ f, fund x ctx1 v v (fun a _ => if a.h.level == o.h.level
          then some (resultBudget .keep params (x.set 0x0102) a.h a.h o.h.level) else none) = .ok f
      ∧ (let h : Hdr := { o.h with comps := 2, pPresent := 1, repr := 1, budget := clampBudget f.budget, flags := hdrFlags false false f.spent }
         ∃ dd, objDst s x ctx1 opnd6 h = .ok dd
         ∧ ∃ ta, tensorSpans s x ctx1 .read opnd8.raw (digitWords params o.h.level) = .ok ta
         ∧ Stands s d0 (.ksIp d0 (.lit 6) (.lit 8) (.lit 10) (.lit 4) (.imm 3))
            { Use.none with
              rd := ta ++ o.hdrAt ++ (kh ++ ((List.range (digitsAt params o.h.level)).map (fun kk =>
                ((List.range (o.h.level + pK params)).map (fun t => keySpans key3 (keyLimbOff params kk (limbIndex params o.h.level t))
                  (2 ^ pLogN params * 4))).flatten)).flatten)
              wr := dd.body ++ dd.hdrAt ++ ownBuffers x
              rs := hrefRegs (.lit 6) ++ hrefRegs (.lit 8) ++ hrefRegs (.lit 10) ++ hrefRegs (.lit 4) } x ctx1 2
         ∧ resolve x ctx1 (s.core 0) (.lit 6) true true = .ok opnd6 ∧ resolve x ctx1 (s.core 0) (.lit 8) false false = .ok opnd8
         ∧ (∃ key, resolve x ctx1 (s.core 0) (.lit 10) false false = .ok key
            ∧ keyFind ctx1 key.raw = some (⟨3, [key3], zeros 48⟩, key3))
         ∧ keyReader s ctx1 3 key3 (ipDie x ctx1) = none
         ∧ galois x (s.core 0) (.imm 3) = .ok 3 ∧ ksGalois params 3 = true ∧ o.h.kind = kindRlwe ∧ o.h.repr = 1 ∧ o.h.pPresent = 0
         ∧ dElem opnd8.raw = 0 ∧ dSpace opnd8.raw ≠ 4 ∧ dCount opnd8.raw = digitWords params o.h.level
         ∧ keyCheck (spansPeek s.mem kh) true o.h 3 = none ∧ o.h.spent = false ∧ x.engineFree 2 = true
         ∧ inWindow s (dd.body ++ dd.hdrAt) = false))
    ∧ (let x := disp (mW 0x12 6 9 0 4 nul (3 * 4))
      let s := benchAt x
      ∃ oa, objSrc s x ctx1 (s.core 0) (.lit 9) = .ok oa ∧ ∃ ob, objSrc s x ctx1 (s.core 0) (.lit 4) = .ok ob
      ∧ ∃ f, fund x ctx1 (valOf s params ob) (valOf s params ob) (fun b _ => if finOk params oa.h b.h 3 false
          then some (resultBudget .fin params (x.set 0x0102) b.h b.h ob.h.level) else none) = .ok f
      ∧ (let h : Hdr := { f.a.h with comps := 2, level := ob.h.level, budget := clampBudget f.budget, flags := hdrFlags false false f.spent,
                                     scale := if ob.h.scheme == 0 then field32 s.freeCtr (resultScale .fin params f.a.h f.a.h) else 0 }
         ∃ dd, objDst { s with freeCtr := s.freeCtr + 1 } x ctx1 opnd6 h = .ok dd
         ∧ Stands s d0 (.ksFin d0 (.lit 6) (.lit 9) (.lit 4) (.imm 3) false)
            { Use.none with
              rd := oa.body ++ oa.hdrAt ++ ob.body ++ ob.hdrAt, wr := dd.body ++ dd.hdrAt ++ ownBuffers x
              rs := hrefRegs (.lit 6) ++ hrefRegs (.lit 9) ++ hrefRegs (.lit 4) } x ctx1 2
         ∧ resolve x ctx1 (s.core 0) (.lit 6) true true = .ok opnd6 ∧ galois x (s.core 0) (.imm 3) = .ok 3
         ∧ finOk params oa.h ob.h 3 false = true ∧ oa.h.spent = false ∧ ob.h.spent = false ∧ x.engineFree 0 = true
         ∧ inWindow s (dd.body ++ dd.hdrAt) = false)) := by
  refine ⟨ex_ok ?_ (ex_ok ?_ (ex_ok ?_ ⟨stands_of rfl rfl ?_, ok_of ?_, ?_⟩)),
    ex_ok ?_ (ex_ok ?_ (ex_ok ?_ (ex_ok ?_ (ex_ok ?_ ⟨stands_of rfl rfl ?_, ok_of ?_, ok_of ?_, ex_ok ?_ ?_, ?_, ok_of ?_, ?_⟩)))),
    ex_ok ?_ (ex_ok ?_ (ex_ok ?_ (ex_ok ?_ ⟨stands_of rfl rfl ?_, ok_of ?_, ok_of ?_, ?_⟩)))⟩ <;> decide +kernel

/-! ## Streams, windows and atomics -/

/-- The words of a stream between descriptor m and register group v (R221). -/
def sW (op m v count conv mod w1 : Nat) : List Nat :=
  [op * 2 ^ 57 + 2 ^ 56 + m * 2 ^ 32 + v * 2 ^ 26 + 2 ^ 25 + conv * 2 ^ 24 + count, w1 + mod * 2 ^ 3]

/-- A stream of the bench. -/
def sf (m v count : Nat) (conv : Bool) (mod window tcore : Nat) : SForm :=
  { rm := .lit m, other := .vr v, conv := conv, count := count, window := window, tcore := tcore, tmod := 0, xmod := false, mod := mod }

/-- StreamsAndWindowsOpenAndClose: a stream of each kind, a window with an arrival Mark and its closing. -/
theorem wit_streams :
    (let f := sf 11 8 32 true 2 0 0
     let x := disp (sW 0x30 11 8 32 1 2 0)
     ∃ t, streamPlan .ld (benchAt x) f x ctx1 = .ok t ∧ Stands (benchAt x) d0 (.sLd d0 f) (streamIssueUse f t) x ctx1 2)
    ∧ (let f := sf 11 8 32 false 0 0 0
      let x := disp (sW 0x31 11 8 32 0 0 0)
      ∃ t, streamPlan .st (benchAt x) f x ctx1 = .ok t ∧ Stands (benchAt x) d0 (.sSt d0 f) (streamIssueUse f t) x ctx1 2)
    ∧ (let f := sf 1 8 512 false 0 1 5
      let x := disp (sW 0x32 1 8 512 0 0 (1 * 2 ^ 30 + 5 * 2 ^ 23))
      ∃ t, streamPlan .put (benchAt x) f x ctx1 = .ok t ∧ Stands (benchAt x) d0 (.sPut d0 f) (streamIssueUse f t) x ctx1 2)
    ∧ (let f := sf 1 8 512 false 0 1 0
      let x := disp (sW 0x33 1 8 512 0 0 (1 * 2 ^ 30))
      ∃ t, streamPlan .get (benchAt x) f x ctx1 = .ok t ∧ Stands (benchAt x) d0 (.sGet d0 f) (streamIssueUse f t) x ctx1 2) := by
  refine ⟨ex_ok ?_ (stands_of rfl rfl ?_), ex_ok ?_ (stands_of rfl rfl ?_), ex_ok ?_ (stands_of rfl rfl ?_),
    ex_ok ?_ (stands_of rfl rfl ?_)⟩ <;> decide +kernel

/-- A window over descriptor 1. -/
def window1 : Window :=
  { num := 9, ctx := 1, owner := d0, base := 0, swz := 0, blocks := [.empty, .empty], scoreLo := 0, scoreHi := 127, smod := none,
    mark := some 107, epoch := 1 }

/-- The bench with that window open. -/
def benchW (x : Dispatch) : State := { benchAt x with mgrs := [(.core 0, ⟨[window1], [], 1, 0, 0⟩)] }

/-- StreamsAndWindowsOpenAndClose: win.open of the last Mark of the dispatch, win.close. -/
theorem wit_windows :
    (let f : WForm := { rm := .lit 1, window := 9, scoreLo := 0, scoreHi := 127, smod := 0, xmod := false, markEn := true, arriveMark := 7 }
     let x := disp [0x34 * 2 ^ 57 + 2 ^ 56 + 1 * 2 ^ 32 + 7 * 2 ^ 18 + 2 ^ 17, 9 * 2 ^ 30 + 127 * 2 ^ 16]
     let s := benchAt x
     let o := opndP 1 0 512
     let lo := (dExtent o.raw).1
     let hi := (dExtent o.raw).2
     ∃ xs, spaceSpans s ctx1 (some x.id) x.lead .write 0 (dSpace o.raw) 0 lo.toNat (hi - lo).toNat = .ok xs
      ∧ Stands s d0 (.winOpen d0 f) { Use.none with rs := hrefRegs f.rm } x ctx1 2
      ∧ resolveAny x ctx1 (s.core 0) f.rm false = .ok o ∧ (dSpace o.raw = 1 ∨ dSpace o.raw = 2) ∧ dBase o.raw % 1024 = 0
      ∧ lo.toNat % 1024 = 0 ∧ (hi - lo).toNat % 1024 = 0
      ∧ (s.mgr (mgrOf x (dSpace o.raw))).windows.any (fun y => y.num == f.window) = false
      ∧ (s.mgr (mgrOf x (dSpace o.raw))).windows.length < mgrCap (mgrOf x (dSpace o.raw))
      ∧ mgrTesting s (mgrOf x (dSpace o.raw)) = false ∧ x.markNum f.arriveMark = some 107)
    ∧ (let x := disp [0x35 * 2 ^ 57 + 2 ^ 56 + 1 * 2 ^ 32, 9 * 2 ^ 30]
      let s := benchW x
      let o := opndP 1 0 512
      Stands s d0 (.winClose d0 (.lit 1) 9) { Use.none with rs := hrefRegs (.lit 1) } x ctx1 2
      ∧ resolveAny x ctx1 (s.core 0) (.lit 1) false = .ok o ∧ (dSpace o.raw = 1 ∨ dSpace o.raw = 2)
      ∧ (s.mgr (mgrOf x (dSpace o.raw))).windows.any (fun w => w.num == 9 && w.ctx == ctx1.num) = true
      ∧ x.streams.any (fun t => t.kind == .get && t.window == 9) = false) := by
  refine ⟨ex_ok ?_ ⟨stands_of rfl rfl ?_, ok_of ?_, ?_⟩, stands_of rfl rfl ?_, ok_of ?_, ?_⟩ <;> decide +kernel

/-- An atomic over 32 elements of 4 bytes that fetches into V13. -/
def af (m mod vc : Nat) : AForm :=
  { rm := .lit m, vs := 12, vf := 13, fetch := true, w64 := false, mod := mod, cnt := 32, vc := vc }

/-- Its words. -/
def aW (op ety m mod : Nat) : Nat :=
  op * 2 ^ 57 + ety * 2 ^ 54 + m * 2 ^ 32 + 12 * 2 ^ 26 + 13 * 2 ^ 20 + 2 ^ 19 + mod * 2 ^ 12 + 31

/-- AtomicsUpdateEachElementInOrder: each operation over the 32 words of descriptor 11 or 12, the last of each extent. -/
theorem wit_atomics :
    (∀ op f code n, (op, f, code, n) ∈ [(AtOp.addM, af 11 2 0, [aW 0x38 0 11 2], 1), (.addI, af 11 0 0, [aW 0x39 3 11 0], 1),
        (.addF, af 12 0 0, [aW 0x3A 1 12 0], 1), (.cas, af 11 0 14, [aW 0x3B 3 11 0 + 2 ^ 56, 14 * 2 ^ 58], 2)] →
      let x := disp code
      let s := benchAt x
      ∃ o, resolve x ctx1 (s.core 0) f.rm true false = .ok o
      ∧ ∃ at_, atPlaces s ctx1 f o.raw (List.range f.cnt) = .ok at_
      ∧ Stands s d0 (op.instr d0 f)
          { Use.none with
            rv := groupRegs f.vs (atBytes f) f.cnt ++ (if op == .cas then groupRegs f.vc (atBytes f) f.cnt else [])
            wv := if f.fetch then groupRegs f.vf (atBytes f) f.cnt else []
            rs := hrefRegs f.rm
            wr := (at_.zip (List.range f.cnt)).map (fun a => ⟨0, a.1, atBytes f, 3, some (atAddr f o.raw a.2)⟩) } x ctx1 n
      ∧ dSpace o.raw = 0 ∧ atElemOk op o.raw = true ∧ atElemsOk f o.raw = true
      ∧ (op = .addM → f.mod < (activeRing x ctx1 s).qs.length) ∧ x.engineFree 5 = true) := by
  intro op f code n h
  simp only [List.mem_cons, List.not_mem_nil, or_false, Prod.mk.injEq] at h
  rcases h with ⟨rfl, rfl, rfl, rfl⟩ | ⟨rfl, rfl, rfl, rfl⟩ | ⟨rfl, rfl, rfl, rfl⟩ | ⟨rfl, rfl, rfl, rfl⟩ <;>
    refine ex_ok ?_ (ex_ok ?_ ⟨stands_of rfl rfl ?_, ?_⟩) <;> decide +kernel


/-! ## Vault and gate routines -/

/-- A record of 14 primes and one special prime with a gate section: the routines of a bootstrapping context read it. -/
def vparams (id scheme tmpl t : Nat) : Bytes :=
  leBytes 4 id ++ leBytes 1 tmpl ++ leBytes 1 scheme ++ leBytes 1 8 ++ leBytes 1 14 ++ leBytes 1 1 ++ leBytes 1 14 ++ zeros 2
    ++ leBytes 4 t ++ leBytes 1 9 ++ leBytes 1 3 ++ leBytes 2 16 ++ leBytes 4 8404993 ++ leBytes 4 512 ++ zeros 4
    ++ ((List.range 15).map (fun i => leBytes 4 (8392193 + 512 * i))).flatten ++ zeros 228

/-- A Galois or gate key of the bench. -/
def vkey (n : Nat × Nat) : KeyObj := { kind := n.1, galois := n.2, va := 0x10000, header := zeros 64, bodyLen := 65536, frames := [0x20] }

/-- A gate key of the bench, in a frame of its own. -/
def gkey (kind galois frame : Nat) : KeyObj :=
  { kind := kind, galois := galois, va := 0x10000, header := zeros 64, bodyLen := 1024, frames := [frame] }

/-- Key set 3: the gate keys, then every key that one routine lists. -/
def vset (routine slots : Nat) (p : Bytes) : KeySet :=
  ⟨3, [gkey 0x10 0 0x23, gkey 0x11 512 0x24, gkey 0x11 256 0x25] ++ (vaultList p routine slots).map vkey, zeros 48⟩

/-- The descriptors: 1 and 2 an input and an output of level 14, 3 and 4 LWE batches, 5 a test vector. -/
def vdescs : List (Nat × DescEntry) :=
  [(1, ⟨true, 1, mkDesc 0 1 0 0 2 [(28, 256)] (0xE000 + 2 ^ 48)⟩), (2, ⟨true, 1, mkDesc 28672 1 0 0 3 [(28, 256)] (0xE080 + 2 ^ 48)⟩),
   (3, ⟨true, 1, mkDesc 0x10000 1 0 0 2 [(2, 256)] (0xE100 + 2 ^ 48)⟩), (4, ⟨true, 1, mkDesc 0x11000 1 0 0 3 [(2, 256)] (0xE180 + 2 ^ 48)⟩),
   (5, ⟨true, 1, mkDesc 0x12000 1 0 0 1 [(512, 1)] 0⟩)]

/-- Bytes of a header that are not 0, laid out from an address. -/
def vcells (a : Nat) (xs : List (Nat × Nat)) : Mem := xs.map (fun c => (a + c.1, BitVec.ofNat 8 c.2))

/-- The header of a gate key of set 3 in its frame (R109). -/
def gcells (kind galois frame : Nat) : Mem :=
  vcells (0x10000 * frame) ([(0, 0xCB), (1, 0xA2), (2, 0x60), (3, 0x09), (4, 1), (5, kind), (8, 3), (13, galois / 256)].filter (·.2 != 0))

/-- The CKKS header of level 14, 64 slots, and the header of one LWE ciphertext. -/
def vstore : Scratch :=
  { data := vcells 0xE000 [(0, 199), (1, 162), (2, 96), (3, 9), (4, 1), (5, 1), (7, 8), (8, 8), (12, 3), (16, 1), (24, 2), (25, 14), (27, 1),
        (30, 100), (35, 64), (36, 64), (124, 167), (125, 117), (126, 103), (127, 75)]
      ++ vcells 0xE100 [(0, 199), (1, 162), (2, 96), (3, 9), (4, 1), (5, 3), (6, 3), (7, 9), (8, 8), (12, 3), (16, 1), (25, 1), (30, 255),
        (31, 255), (48, 16), (52, 1), (124, 220), (125, 17), (126, 58), (127, 161)]
    written := [0, 56], marked := [] }

/-- The BGV header of level 14. -/
def vstoreBgv : Scratch :=
  { data := vcells 0xE000 [(0, 199), (1, 162), (2, 96), (3, 9), (4, 1), (5, 1), (6, 2), (7, 8), (8, 9), (12, 3), (16, 1), (24, 2), (25, 14),
        (27, 1), (30, 100), (40, 97), (44, 1), (124, 247), (125, 17), (126, 195), (127, 65)]
    written := [0, 56], marked := [] }

/-- The context of a routine. -/
def vctx (p : Bytes) (routine slots : Nat) : Ctx :=
  { ctx1 with
    param := p
    descs := vdescs
    keysets := [vset routine slots p] }

/-- The dispatch that stands at the call of a routine. -/
def vdisp (routine : Nat) : Dispatch := disp [kW 0x52 0 0 0 1 routine]

/-- A core whose S1, S2, S3 and S5 hold values. -/
def vcore (s1 s2 s3 s5 : Nat) : CoreRegs :=
  { CoreRegs.zero with s := [(1, BitVec.ofNat 64 s1), (2, BitVec.ofNat 64 s2), (3, BitVec.ofNat 64 s3), (5, BitVec.ofNat 64 s5)] }

/-- The bench of a routine. -/
def vbench (c : Ctx) (st : Scratch) (routine : Nat) (r : CoreRegs) : State :=
  { up with
    ctxs := [c]
    disps := [vdisp routine]
    cores := [(0, r)]
    mem := { MemState.reset with hbm := tables ++ gcells 0x10 0 0x23 ++ gcells 0x11 512 0x24 ++ gcells 0x11 256 0x25, cs := st, csMap := [⟨0, 1, some d0, 0, 0, false⟩, ⟨0, 1, some d0, 1, 1, false⟩] } }

/-- The key set holds every key of its routine. -/
theorem vset_held (p : Bytes) (routine slots : Nat) : vaultKeysHeld (vctx p routine slots) 3 routine slots = true := by
  simp only [vaultKeysHeld, vctx, vset, List.find?, beq_self_eq_true, List.all_eq_true, List.any_append, Bool.or_eq_true,
    List.any_eq_true, List.mem_map, Bool.and_eq_true, beq_iff_eq]
  intro n hn
  exact Or.inr ⟨vkey n, ⟨n, hn, rfl⟩, rfl, rfl⟩

/-- The bench of a CKKS routine: one list of keys serves all five (R127). -/
def cb (routine : Nat) : State :=
  vbench (vctx (vparams 8 0 3 0) 5 64) vstore routine (vcore (2 ^ 24 + 1) 0 (2 ^ 24 + 2) 0)

/-- A CKKS routine on a ciphertext that is not full has an outcome once everything it asks holds. -/
theorem ckks_ok {k level : Nat} {s : State} {x : Dispatch} {c : Ctx} {a : Obj} {d : Opnd} {dd : ObjDst} (hc : vaultCtx c = true)
    (hp : (s.core x.lead).poisS.contains 1 = false) (ha : vaultIn s x c (s.core x.lead) 1 = .ok a)
    (hf : (a.h.slots == 2 ^ pLogN c.param / 2) = false) (hr : vaultArgs x (s.core x.lead) [2, 4, 5] = .ok ())
    (hk : vaultKeysHeld c a.h.keyset 5 a.h.slots = true)
    (hu : (if k == 2 || k == 4 then 3 else if k == 3 then 7 else 0) < a.h.level)
    (hl : (if k == 1 then pL c.param else if k == 5 then pL c.param - 13
      else a.h.level - (if k == 2 || k == 4 then 3 else if k == 3 then 7 else 0)) = level)
    (hd : resolve x c (s.core x.lead) (.reg 3) true true = .ok d)
    (ho : objDst (vaultPre s).2 x c d (vaultHdr x c.param a.h level) = .ok dd) :
    ∃ v, vaultCkks k s x c = .ok v := by
  subst hl
  unfold vaultCkks
  simp only [hc, need, hp, ha, hf, hr, vaultKeysOk, hk, hu, bind, Except.bind, Bool.false_and, if_true, pure,
    Except.pure, Bool.false_eq_true, if_false, List.nil_append, List.cons_append, decide_true, hd, ho]
  exact ⟨_, rfl⟩

/-- No receive window is open on the bench. -/
theorem no_window {s : State} (h : s.mgrs = []) (xs : List Span) : inWindow s xs = false := by simp [inWindow, h]

/-- VaultRoutinesCompleteAndKeepHighScalars: the CKKS routines on a ciphertext of 64 slots at level 14. -/
theorem wit_vault_ckks : ∀ k i, (k, i) ∈ [(1, Instr.vltModraise d0), (2, .vltCts d0), (3, .vltEvalmod d0), (4, .vltStc d0), (5, .vltBoot d0)] →
    ∃ v, vaultCkks k (cb k) (vdisp k) (vctx (vparams 8 0 3 0) 5 64) = .ok v ∧ inWindow (cb k) v.writes = false
      ∧ Stands (cb k) d0 i (v.use (vdisp k)) (vdisp k) (vctx (vparams 8 0 3 0) 5 64) 1 := by
  intro k i h
  have hs : standsB (cb k) d0 i (vdisp k) (vctx (vparams 8 0 3 0) 5 64) 1 = true := by
    simp only [List.mem_cons, List.not_mem_nil, or_false, Prod.mk.injEq] at h
    rcases h with ⟨rfl, rfl⟩ | ⟨rfl, rfl⟩ | ⟨rfl, rfl⟩ | ⟨rfl, rfl⟩ | ⟨rfl, rfl⟩ <;> decide +kernel
  have hv : ∃ a, vaultIn (cb k) (vdisp k) (vctx (vparams 8 0 3 0) 5 64) ((cb k).core 0) 1 = .ok a
      ∧ (a.h.slots = 64 ∧ a.h.keyset = 3 ∧ a.h.level = 14 ∧ okIs (vaultArgs (vdisp k) ((cb k).core 0) [2, 4, 5]) () = true)
      ∧ ∃ d, resolve (vdisp k) (vctx (vparams 8 0 3 0) 5 64) ((cb k).core 0) (.reg 3) true true = .ok d
      ∧ ∃ dd, objDst (vaultPre (cb k)).2 (vdisp k) (vctx (vparams 8 0 3 0) 5 64) d (vaultHdr (vdisp k) (vparams 8 0 3 0) a.h
        (if k == 1 then 14 else if k == 5 then 1 else 14 - (if k == 2 || k == 4 then 3 else if k == 3 then 7 else 0)))
        = .ok dd ∧ 1 = 1 := by
    simp only [List.mem_cons, List.not_mem_nil, or_false, Prod.mk.injEq] at h
    rcases h with ⟨rfl, rfl⟩ | ⟨rfl, rfl⟩ | ⟨rfl, rfl⟩ | ⟨rfl, rfl⟩ | ⟨rfl, rfl⟩ <;>
      refine ex_ok ?_ ⟨?_, ex_ok ?_ (ex_ok ?_ ?_)⟩ <;> decide +kernel
  obtain ⟨a, ha, ⟨h1, h2, h3, h4⟩, d, hd, dd, ho, -⟩ := hv
  have hu : (if k == 2 || k == 4 then 3 else if k == 3 then 7 else 0) < a.h.level := by
    rw [h3]; split <;> [omega; (split <;> omega)]
  have hf : (64 == 2 ^ pLogN (vparams 8 0 3 0) / 2) = false := by decide +kernel
  have hL : pL (vparams 8 0 3 0) = 14 := by decide +kernel
  obtain ⟨v, hv⟩ := ckks_ok (s := cb k) (x := vdisp k) (c := vctx (vparams 8 0 3 0) 5 64) (k := k) rfl rfl ha
    (by rw [h1]; exact hf) (ok_of h4) (by rw [h1, h2]; exact vset_held _ _ _) hu (by rw [h3, ← hL]) hd
    (by rw [← hL] at ho; exact ho)
  exact ⟨v, hv, no_window rfl _, stands_of rfl rfl hs⟩

/-- The bench of VLT_EXTRACT, VLT_PBS and VLT_REPACK. -/
def gb (routine s1 s2 s3 s5 : Nat) : State :=
  vbench (vctx (vparams 8 0 3 0) routine 64) vstore routine (vcore (2 ^ 24 + s1) s2 (2 ^ 24 + s3) s5)

/-- VaultRoutinesCompleteAndKeepHighScalars: VLT_EXTRACT of position 0, VLT_PBS of one ciphertext. -/
theorem wit_vault_gate :
    (let c := vctx (vparams 8 0 3 0) 0x10 64
     let s := gb 0x10 1 0 4 0
     ∃ v, vaultExtract s (vdisp 0x10) c = .ok v ∧ inWindow s v.writes = false
      ∧ Stands s d0 (.vltExtract d0) (v.use (vdisp 0x10)) (vdisp 0x10) c 1)
    ∧ (let c := vctx (vparams 8 0 3 0) 0x11 64
     let s := gb 0x11 3 (2 ^ 24 + 5) 4 0
     ∃ v, vaultPbs s (vdisp 0x11) c = .ok v ∧ inWindow s v.writes = false
      ∧ Stands s d0 (.vltPbs d0) (v.use (vdisp 0x11)) (vdisp 0x11) c 1) := by
  refine ⟨ex_ok ?_ ⟨no_window rfl _, stands_of rfl rfl ?_⟩, ex_ok ?_ ⟨no_window rfl _, stands_of rfl rfl ?_⟩⟩ <;> decide +kernel

/-- VLT_REPACK has an outcome once everything it asks holds. -/
theorem repack_ok {s : State} {x : Dispatch} {c : Ctx} {o sec : Obj} {d : Opnd} {dd : ObjDst}
    (hc : (vaultCtx c && hasGate c.param) = true) (hr : vaultArgs x (s.core x.lead) [4] = .ok ())
    (ho : objSrc s x c (s.core x.lead) (.reg 1) = .ok o) (hs : vaultIn s x c (s.core x.lead) 2 = .ok sec)
    (hn : ((decide (((s.core x.lead).sget 5).toNat < 2 ^ 32) && o.h.kind == kindLwe && sec.h.keyset == o.h.keyset
      && isPow2 (((s.core x.lead).sget 5).toNat % 2 ^ 32) && decide (((s.core x.lead).sget 5).toNat % 2 ^ 32 ≤ 2 ^ pLogN c.param / 2)
      && decide (o.h.lweCount ≤ ((s.core x.lead).sget 5).toNat % 2 ^ 32))) = true)
    (hk : vaultKeysHeld c o.h.keyset 0x12 (((s.core x.lead).sget 5).toNat % 2 ^ 32) = true) (hl : 10 < pL c.param)
    (hd : resolve x c (s.core x.lead) (.reg 3) true true = .ok d)
    (hb : ∀ b sc f, objDst (vaultSeed s [o, sec]).2 x c d { sec.h with comps := 2, level := pL c.param - 10, repr := 1, pPresent := 0, scale := sc, slots := ((s.core x.lead).sget 5).toNat % 2 ^ 32, budget := b, flags := f } = .ok dd) :
    ∃ v, vaultRepack s x c = .ok v := by
  unfold vaultRepack
  simp only [hc, need, ho, hs, hr, hn, vaultKeysOk, hk, hl, bind, Except.bind, if_true, pure, Except.pure, hd, hb, decide_true]
  exact ⟨_, rfl⟩

/-- VLT_BOOT_EXACT has an outcome once everything it asks holds. -/
theorem boot_exact_ok {s : State} {x : Dispatch} {c : Ctx} {o : Obj} {d : Opnd} {dd : ObjDst}
    (hc : (hasGate c.param && (pScheme c.param == 1 || pScheme c.param == 2)) = true)
    (hr : vaultArgs x (s.core x.lead) [2, 4, 5] = .ok ()) (ho : objSrc s x c (s.core x.lead) (.reg 1) = .ok o)
    (hn : (o.h.kind == kindRlwe && o.h.comps == 2 && o.h.pPresent == 0 && o.h.slots == 0
      && decide (pT c.param ≤ 2 ^ pBrLogN c.param / 4)) = true)
    (hk : vaultKeysHeld c o.h.keyset 0x13 0 = true)
    (hd : resolve x c (s.core x.lead) (.reg 3) true true = .ok d)
    (hb : ∀ b f, objDst (vaultSeed s [o]).2 x c d { o.h with level := pL c.param, factor := if pScheme c.param == 2 then 1 else 0, budget := b, flags := f } = .ok dd) :
    ∃ v, vaultBootExact s x c = .ok v := by
  unfold vaultBootExact
  simp only [hc, need, ho, hr, hn, vaultKeysOk, hk, bind, Except.bind, if_true, pure, Except.pure, hd, hb]
  exact ⟨_, rfl⟩

/-- VaultRoutinesCompleteAndKeepHighScalars: VLT_REPACK of one LWE ciphertext into 64 slots, VLT_BOOT_EXACT of a BGV ciphertext. -/
theorem wit_vault_repack_exact :
    (let c := vctx (vparams 8 0 3 0) 0x12 64
     let s := gb 0x12 3 (2 ^ 24 + 1) 2 64
     ∃ v, vaultRepack s (vdisp 0x12) c = .ok v ∧ inWindow s v.writes = false
      ∧ Stands s d0 (.vltRepack d0) (v.use (vdisp 0x12)) (vdisp 0x12) c 1)
    ∧ (let c := vctx (vparams 9 2 0 97) 0x13 0
     let s := vbench c vstoreBgv 0x13 (vcore (2 ^ 24 + 1) 0 (2 ^ 24 + 2) 0)
     ∃ v, vaultBootExact s (vdisp 0x13) c = .ok v ∧ inWindow s v.writes = false
      ∧ Stands s d0 (.vltBootExact d0) (v.use (vdisp 0x13)) (vdisp 0x13) c 1) := by
  constructor
  · have h : ∃ o, objSrc (gb 0x12 3 (2 ^ 24 + 1) 2 64) (vdisp 0x12) (vctx (vparams 8 0 3 0) 0x12 64)
        ((gb 0x12 3 (2 ^ 24 + 1) 2 64).core 0) (.reg 1) = .ok o
      ∧ ∃ sec, vaultIn (gb 0x12 3 (2 ^ 24 + 1) 2 64) (vdisp 0x12) (vctx (vparams 8 0 3 0) 0x12 64)
        ((gb 0x12 3 (2 ^ 24 + 1) 2 64).core 0) 2 = .ok sec
      ∧ ∃ d, resolve (vdisp 0x12) (vctx (vparams 8 0 3 0) 0x12 64) ((gb 0x12 3 (2 ^ 24 + 1) 2 64).core 0) (.reg 3) true true = .ok d
      ∧ ∃ dd, objDst (vaultSeed (gb 0x12 3 (2 ^ 24 + 1) 2 64) [o, sec]).2 (vdisp 0x12) (vctx (vparams 8 0 3 0) 0x12 64) d
          { sec.h with comps := 2, level := pL (vparams 8 0 3 0) - 10, repr := 1, pPresent := 0, scale := 0, slots := 64, budget := 0, flags := 0 } = .ok dd
      ∧ (o.h.keyset = 3 ∧ (decide ((64 : Nat) < 2 ^ 32) && o.h.kind == kindLwe && sec.h.keyset == o.h.keyset && isPow2 64
        && decide (64 ≤ 2 ^ pLogN (vparams 8 0 3 0) / 2) && decide (o.h.lweCount ≤ 64)) = true
        ∧ okIs (vaultArgs (vdisp 0x12) ((gb 0x12 3 (2 ^ 24 + 1) 2 64).core 0) [4]) () = true) := by
      refine ex_ok ?_ (ex_ok ?_ (ex_ok ?_ (ex_ok ?_ ?_))) <;> decide +kernel
    obtain ⟨o, ho, sec, hs, d, hd, dd, hb, h1, h2, h3⟩ := h
    obtain ⟨v, hv⟩ := repack_ok (s := gb 0x12 3 (2 ^ 24 + 1) 2 64) (x := vdisp 0x12) (c := vctx (vparams 8 0 3 0) 0x12 64)
      (by decide +kernel) (ok_of h3) ho hs h2 (by rw [h1]; exact vset_held _ _ _) (by decide +kernel) hd (fun _ _ _ => hb)
    exact ⟨v, hv, no_window rfl _, stands_of rfl rfl (by decide +kernel)⟩
  · have h : ∃ o, objSrc (vbench (vctx (vparams 9 2 0 97) 0x13 0) vstoreBgv 0x13 (vcore (2 ^ 24 + 1) 0 (2 ^ 24 + 2) 0)) (vdisp 0x13)
        (vctx (vparams 9 2 0 97) 0x13 0) (vcore (2 ^ 24 + 1) 0 (2 ^ 24 + 2) 0) (.reg 1) = .ok o
      ∧ ∃ d, resolve (vdisp 0x13) (vctx (vparams 9 2 0 97) 0x13 0) (vcore (2 ^ 24 + 1) 0 (2 ^ 24 + 2) 0) (.reg 3) true true = .ok d
      ∧ ∃ dd, objDst (vaultSeed (vbench (vctx (vparams 9 2 0 97) 0x13 0) vstoreBgv 0x13 (vcore (2 ^ 24 + 1) 0 (2 ^ 24 + 2) 0)) [o]).2
          (vdisp 0x13) (vctx (vparams 9 2 0 97) 0x13 0) d
          { o.h with level := pL (vparams 9 2 0 97), factor := if pScheme (vparams 9 2 0 97) == 2 then 1 else 0, budget := 0, flags := 0 } = .ok dd
      ∧ (o.h.keyset = 3 ∧ (o.h.kind == kindRlwe && o.h.comps == 2 && o.h.pPresent == 0 && o.h.slots == 0
        && decide (pT (vparams 9 2 0 97) ≤ 2 ^ pBrLogN (vparams 9 2 0 97) / 4)) = true
        ∧ okIs (vaultArgs (vdisp 0x13) (vcore (2 ^ 24 + 1) 0 (2 ^ 24 + 2) 0) [2, 4, 5]) () = true) := by
      refine ex_ok ?_ (ex_ok ?_ (ex_ok ?_ ?_)) <;> decide +kernel
    obtain ⟨o, ho, d, hd, dd, hb, h1, h2, h3⟩ := h
    obtain ⟨v, hv⟩ := boot_exact_ok (s := vbench (vctx (vparams 9 2 0 97) 0x13 0) vstoreBgv 0x13 (vcore (2 ^ 24 + 1) 0 (2 ^ 24 + 2) 0))
      (x := vdisp 0x13) (c := vctx (vparams 9 2 0 97) 0x13 0)
      (by decide +kernel) (ok_of h3) ho h2 (by rw [h1]; exact vset_held _ _ _) hd (fun _ _ => hb)
    exact ⟨v, hv, no_window rfl _, stands_of rfl rfl (by decide +kernel)⟩

/-! ## Marks and hand-off -/

/-- Mark 107 of context 1 at a value, with the flags that let the host and peers signal it. -/
def mk (v : Nat) (host peer : Bool) : Nat × Mark := (107, { alloc := true, sat := false, hostSig := host, peerSig := peer, owner := 1, value := v })

/-- The bench with Mark 107 at a value. -/
def benchK (x : Dispatch) (v : Nat) : State := { benchAt x with marks := [mk v true true] }

/-- MarkInstructionsSignalAndWait: mark.sig on the last Mark with the greatest immediate, mark.wait satisfied, at timeout 0, and waiting. -/
theorem wit_mark_instructions :
    (let x := disp [0x58 * 2 ^ 57 + 2 ^ 56 + 7, 0xFFFFFFFF]
     let s := benchAt x
     Stands s d0 (.markSig d0 7 (.imm 0xFFFFFFFF)) { Use.none with rs := svalRegs (.imm 0xFFFFFFFF) } x ctx1 2
      ∧ 7 < x.markCount ∧ (s.core 0).svalPois (.imm 0xFFFFFFFF) = false ∧ writesDone s x = true)
    ∧ (let x := disp [kW 0x59 6 5 0 0 7]
      let s := benchK x 0
      Stands s d0 (.markWait d0 6 7 (.short 5)) { Use.none with ws := [6], rs := [5] } x ctx1 1 ∧ 7 < x.markCount
      ∧ (s.core 0).poisS.contains 5 = false ∧ ((s.core 0).sget 5).toNat % 2 ^ 32 ≤ (s.mark (x.markBase + 7)).value)
    ∧ (∀ lim, lim ∈ [0, 5, 0xFFFFFFFF] →
      let x := disp [kW 0x59 6 0 0 0 7 + 2 ^ 56, 1 + lim * 2 ^ 32]
      let s := benchK x 0
      Stands s d0 (.markWait d0 6 7 (.long 1 lim)) { Use.none with ws := [6], rs := [] } x ctx1 2
      ∧ (s.mark (x.markBase + 7)).value < 1) := by
  refine ⟨⟨stands_of rfl rfl ?_, ?_⟩, ⟨stands_of rfl rfl ?_, ?_⟩, ?_⟩
  any_goals decide +kernel
  intro lim h
  simp only [List.mem_cons, List.not_mem_nil, or_false] at h
  rcases h with rfl | rfl | rfl <;> exact ⟨stands_of rfl rfl (by decide +kernel), by decide +kernel⟩

/-- A unit's split counter is at most 2 ticks behind. -/
theorem unit_ticks {s : State} {n level unit : Nat} (h : s.now = n + 2) : n ≤ s.unitTicks level unit := by
  unfold State.unitTicks
  split <;> omega

/-- A dispatch that waits. -/
def waiter (w : WaitState) : Dispatch := { disp [] with wait := some w }

/-- MarkSignalsFollowOwnership: a stale signal, an accepted one, one refused to a program and one to the Starter; a timeout at its
first tick; a malformed host signal, one of no context and a good one; a peer and the answer to a signal of our own. -/
theorem wit_mark_signals :
    (let s := { benchK (disp []) 0 with markNet := [⟨107, 1, 1, .program d0 0⟩, ⟨107, 1, 1, .program d0 1⟩, ⟨200, 1, 1, .program d0 1⟩,
          ⟨200, 1, 1, .starter⟩] }
     (s.markNet[0]? = some ⟨107, 1, 1, .program d0 0⟩ ∧ sigStale { s with markNet := s.markNet.eraseIdx 0 } (.program d0 0) = some d0)
      ∧ (s.markNet[1]? = some ⟨107, 1, 1, .program d0 1⟩ ∧ sigStale { s with markNet := s.markNet.eraseIdx 1 } (.program d0 1) = none
        ∧ (s.mark 107).alloc = true ∧ (s.mark 107).owner = 1)
      ∧ (s.markNet[2]? = some ⟨200, 1, 1, .program d0 1⟩ ∧ sigStale { s with markNet := s.markNet.eraseIdx 2 } (.program d0 1) = none
        ∧ markOwned { s with markNet := s.markNet.eraseIdx 2 } 200 1 = false
        ∧ ({ s with markNet := s.markNet.eraseIdx 2 } : State).disp? d0 = some (disp []))
      ∧ (s.markNet[3]? = some ⟨200, 1, 1, .starter⟩ ∧ markOwned s 200 1 = false))
    ∧ (let x := waiter (.mark 6 107 1 900 (some 97))
      let s := benchK x 0
      s.disp? d0 = some x ∧ x.phase = .running ∧ x.fate = none ∧ 900 + 97 + 1 ≤ s.unitTicks 1 x.lead)
    ∧ (let s := benchK (disp []) 0
      let data := leBytes 4 1 ++ leBytes 2 7 ++ zeros 2 ++ leBytes 4 0xFFFFFFFF ++ zeros 4
      let u := { s with cfg := { s.cfg with values := [((0x0106, 1), 100), ((0x0107, 1), 8)] } }
      u.serves = true ∧ u.linkUp = true ∧ data.length = 16 ∧ allZero data 6 2 = true ∧ allZero data 12 4 = true
      ∧ u.ctx? (field data 0 4) = some ctx1 ∧ field data 4 2 < u.settingN 0x0107 (field data 0 4)
      ∧ u.settingN 0x0106 (field data 0 4) + field data 4 2 = 107 ∧ (u.mark 107).hostSig = true ∧ (u.mark 107).alloc = true
      ∧ (u.mark 107).owner = field data 0 4)
    ∧ (let s := benchK (disp []) 0
      let bad := leBytes 4 1 ++ leBytes 2 7 ++ [1, 0] ++ zeros 8
      let none_ := leBytes 4 2 ++ zeros 12
      s.serves = true ∧ s.linkUp = true ∧ bad.length = 16 ∧ allZero bad 6 2 = false ∧ none_.length = 16
      ∧ allZero none_ 6 2 = true ∧ allZero none_ 12 4 = true ∧ s.ctx? (field none_ 0 4) = none)
    ∧ (let s := { benchK (disp []) 0 with ports := [{ Port.reset with st := .active, peer := 3 }], cfg := { State.reset.cfg with values := [((0x0143, 1), 4)] } }
      carries (s.port 0) = true ∧ s.isUp = true ∧ (s.mark 107).alloc = true ∧ (s.mark 107).peerSig = true
      ∧ s.settingN (0x0140 + (s.port 0).peer) (s.mark 107).owner = 4 ∧ (s.mark 16383).alloc = false)
    ∧ (let b : Mailbox := { Mailbox.idle with busy := true, opcode := 0x32, wait := some (.ack 5) }
      let s : State := { up with sys := { up.sys with peerSigs := [⟨5, 0, 2⟩] }, mbs := [(2, b)] }
      s.sys.peerSigs.any (fun g => g.tag == 5 && g.port == 0) = true ∧ s.mbs.filter (fun y => y.2.wait == some (.ack 5)) = [(2, b)]
      ∧ s.mb 2 = b ∧ (∀ y ∈ ([] : List (Nat × Mailbox)), y.2.wait ≠ some (.ack 5))) := by
  refine ⟨?_, ⟨by decide +kernel, rfl, rfl, unit_ticks rfl⟩, ?_, ?_, ?_, ?_⟩ <;> decide +kernel

/-- The slot 0 of the bench: 64 KiB of page 0, in frame 0x22. -/
def slot0 : List Span := [⟨0, 0x220000, 65536, 3, some 0⟩]

/-- The header of a request that the bench's dispatch has placed in slot 0, with TAG 77, Marks 100 and 107, 5,120 bytes. -/
def req0 (state : Nat) : Bytes := patch (slotHeader ctx1 (disp []) 1 77 100 107 1 4096) 5 (leBytes 1 state)

/-- What the dispatch knows of it. -/
def hand0 : HandSlot := ⟨0, 1, 77, 3, 0, 107, 1⟩

/-- The answer half's header: the TAG again, under its CRC. -/
def ans0 : Bytes := let b := leBytes 8 77 ++ zeros 116; b ++ leBytes 4 (crc32c b)

/-- The bench with the request in its slot, and an object as its answer. -/
def benchH (x : Dispatch) (state v : Nat) : State :=
  slotWrite (slotWrite (slotWrite (benchK x v) slot0 0 (req0 state)) slot0 128 ans0) slot0 32768 (hdrBytes (rlwe 2 1))

/-- HandoffsFillWaitAndConsumeTheSlot: handoff.out of object 4 into an empty slot. -/
theorem wit_handoff_out :
    (let x := disp [kW 0x5C 0 0 0 0 0 + 2 ^ 56, 4 * 2 ^ 42 + 0 * 2 ^ 34 + 0 * 2 ^ 20 + 7 * 2 ^ 6]
     let s := benchK x 0
     ∃ o, objSrc s x ctx1 (s.core x.lead) (.lit 4) = .ok o
      ∧ Stands s d0 (.handoffOut d0 (.lit 4) 0 0 7) { Use.none with rd := o.body ++ o.hdrAt, wr := slot0, rs := hrefRegs (.lit 4) } x ctx1 2
      ∧ ((0 : Int) < x.set 0x0104 ∧ 1024 + bodyLen ctx1.param o.h ≤ slotSize x / 2 ∧ 7 < x.markCount
        ∧ (s.mark (x.markBase + 7)).value < 0xFFFFFFFF ∧ o.h.poisoned = false)
      ∧ slotSpans s x ctx1 0 = .ok slot0 ∧ field (slotRead s slot0 5 1) 0 1 = 0 ∧ ∃ tag s1, takeTag s x = some (tag, s1)) := by
  refine ex_ok ?_ ⟨stands_of rfl rfl ?_, ?_, ok_of ?_, ?_, ⟨_, _, rfl⟩⟩ <;> decide +kernel

/-- HandoffsFillWaitAndConsumeTheSlot: handoff.in that waits, at timeout 0 and at 9. -/
theorem wit_handoff_wait : ∀ lim, lim ∈ [0, 9] →
    let x := { disp [kW 0x5D 0 0 0 0 lim + 2 ^ 56, 6 * 2 ^ 42] with slots := [hand0] }
    let s := benchH x 2 0
    ∃ o, resolve x ctx1 (s.core x.lead) (.lit 6) true true = .ok o
      ∧ Stands s d0 (.handoffIn d0 (.lit 6) 0 (.imm lim)) { Use.none with rs := hrefRegs (.lit 6) ++ svalRegs (.imm lim), wr := slot0 ++ looseSpans s x ctx1 .write o.raw (256 * dSize o.raw 0) } x ctx1 2
      ∧ (s.core x.lead).svalPois (.imm lim) = false ∧ slotSpans s x ctx1 0 = .ok slot0 ∧ x.fin = false
      ∧ x.slots.find? (fun y => y.slot == 0) = some hand0 ∧ field (slotRead s slot0 0 256) 5 1 = hsOutReady
      ∧ slotOurs ctx1 (slotRead s slot0 0 256) hand0 = true ∧ (s.mark hand0.mark).value < hand0.value := by
  intro lim h
  simp only [List.mem_cons, List.not_mem_nil, or_false] at h
  rcases h with rfl | rfl <;>
    refine ex_ok ?_ ⟨stands_of ?_ ?_ ?_, ?_, ok_of ?_, ?_⟩ <;> decide +kernel

/-- HandoffsFillWaitAndConsumeTheSlot: handoff.in whose answer stands in the slot; a wait at its timeout. -/
theorem wit_handoff_in :
    (let x := { disp [kW 0x5D 0 0 0 0 9 + 2 ^ 56, 6 * 2 ^ 42] with slots := [hand0] }
     let s := benchH x 3 1
     let ah := slotRead s slot0 32768 128
     let h := answerHdr ctx1 (hdrOf ah)
     ∃ o, resolve x ctx1 (s.core x.lead) (.lit 6) true true = .ok o
      ∧ Stands s d0 (.handoffIn d0 (.lit 6) 0 (.imm 9)) { Use.none with rs := hrefRegs (.lit 6) ++ svalRegs (.imm 9), wr := slot0 ++ looseSpans s x ctx1 .write o.raw (256 * dSize o.raw 0) } x ctx1 2
      ∧ slotSpans s x ctx1 0 = .ok slot0 ∧ field (slotRead s slot0 0 256) 5 1 = hsAnswered
      ∧ slotOurs ctx1 (slotRead s slot0 0 256) hand0 = true ∧ hand0.value ≤ (s.mark hand0.mark).value
      ∧ answerFault ctx1 (slotRead s slot0 0 256) ah hand0 32768 (1024 * dSize o.raw 0) = none
      ∧ ∃ dd, objDst s x ctx1 ⟨0, o.raw⟩ h = .ok dd ∧ inWindow s (dd.body ++ dd.hdrAt) = false)
    ∧ (let x := { waiter (.handoff 0 (mkDesc 16384 1 0 0 3 [(6, 256)] (0xE100 + 2 ^ 48)) 900 97) with slots := [hand0] }
     let s := benchH x 2 0
     s.disp? d0 = some x ∧ s.ctx? x.ctx = some ctx1 ∧ x.phase = .running ∧ x.fate = none ∧ x.fin = false ∧ 900 + 97 + 1 ≤ s.unitTicks 1 x.lead
      ∧ x.slots.any (fun e => e.slot == 0 && decide ((s.mark e.mark).value ≥ e.value)) = false) := by
  refine ⟨ex_ok ?_ ⟨stands_of ?_ ?_ ?_, ok_of ?_, ?_, ?_, ?_, ?_, ex_ok ?_ ?_⟩,
    ⟨?_, ?_, rfl, rfl, rfl, ?_, ?_⟩⟩
  all_goals first
    | exact unit_ticks (by decide +kernel)
    | decide +kernel

/-! ## Work in flight, streams, credit -/

/-- A stream of 2 units in slot 0. -/
def strm (k : StreamKind) (st : StreamState) (mem : Bytes) (done grant : Nat) (openReq : Bool) : Stream :=
  { slot := 0, kind := k, state := st, instr := 5, mem := mem, other := .regs 8, conv := false, primes := [], limbWords := 256,
    count := 512, units := [⟨0, 256⟩, ⟨256, 256⟩], done := done, faultVa := 0, epoch := 1, tmod := none, tcore := 1, window := 9,
    grant := grant, gFirst := 0, gCount := 2, gSent := 2, gRet := 1, gBase := 0, reqOpen := openReq, port := none,
    noWindow := false, nextReq := 0, use := Use.none }

/-- 512 words of the Core Store, and the same number of device memory. -/
def csRaw : Bytes := mkDesc 0 1 0 0 1 [(512, 1)] 0
/-- Device memory. -/
def devRaw : Bytes := mkDesc 0x20000 0 0 0 1 [(512, 1)] 0

/-- A dispatch with one stream. -/
def streamer (t : Stream) : Dispatch := { disp [] with streams := [t] }

/-- An instruction in flight that reads V5 and writes V4. -/
def fly (e : Nat) (copy : Option Nat) : InFlight :=
  { instr := 0, engine := e, use := { Use.none with rv := [5], wv := [4], copy := copy }, body := [], heads := [], inPlace := false
    limb := 0, points := 0, start := 0, before := CoreRegs.zero, objs := [], calls := 0, ticks := 0 }

/-- A dispatch of a modular v.mul with one instruction in flight on an engine. -/
def flyer (e : Nat) (copy : Option Nat) : Dispatch := { disp [vW 0x1A 0 4 5 6 0 2 256] with inflight := [fly e copy] }

/-- A product that passes both identities of R72, and one that fails the first. -/
def goodProduct : Product := ⟨false, 3, 2, 3, 6, 3, 2⟩
/-- The failing one. -/
def badProduct : Product := ⟨false, 3, 2, 3, 7, 3, 6⟩

/-- A resident copy of a key at a stage. -/
def copyAt (stage : CopyStage) : KeyCopy :=
  { die := 0, ctx := 1, key := ⟨3, 2, 3⟩, bytes := 4096, stage := stage, pinned := false, users := [], order := 5, data := zeros 64
    marked := false }

/-- InFlightWorkRetiresAndStreamsMove: an instruction retires clean, after a product that passes, with an evicted copy that it alone
read, with a failed check, with an uncorrectable register error; the answer copy of a hand-off retires. -/
theorem wit_retire :
    (let x := flyer 3 (some 5)
     let s := { benchAt x with keyCopies := [copyAt .evicted] }
     let y := { x with inflight := x.inflight.eraseIdx 0 }
     s.disp? d0 = some x ∧ x.inflight[0]? = some (fly 3 (some 5)) ∧ x.phase = .running ∧ x.fate = none ∧ s.coresRun x = true
      ∧ s.isUp = true ∧ x.oldest 0 (fly 3 (some 5)) = true ∧ checksPass goodProduct = true
      ∧ (fly 3 (some 5)).multiplies y = true ∧ limbCore y (fly 3 (some 5)) 0 0 = true ∧ checksPass badProduct = false
      ∧ (s.fence.residues.filter (fun e => e.1 == 0)).length + 1 < s.settingN 0x031D 0
      ∧ y.cores.contains 0 = true ∧ (fly 3 (some 5)).use.rv ≠ [] ∧ s.fence.sramUe = []
      ∧ (∀ e ∈ s.disps, e.id ≠ d0 → e.inflight = []) ∧ y.inflight = []
      ∧ ∀ k ∈ ({ s with keyCopies := [copyAt .ready] } : State).keyCopies, k.stage ≠ .evicted ∧ k.stage ≠ .waiting)
    ∧ (let x := { flyer 8 none with wait := some (.answer 0) }
      let s := benchAt x
      s.disp? d0 = some x ∧ x.inflight[0]? = some (fly 8 none) ∧ s.coresRun x = true ∧ x.oldest 0 (fly 8 none) = true
        ∧ s.ctx? x.ctx = some ctx1) := by
  decide +kernel

/-- InFlightWorkRetiresAndStreamsMove: a unit of each kind of stream; a unit of a get without a window stops its dispatch; a request
is sent again to this module, to a peer, and to a module that is no peer; a stream resumes on a FULL block. -/
theorem wit_in_flight :
    (∀ k raw, (k, raw) ∈ [(StreamKind.ld, devRaw), (.st, devRaw), (.put, csRaw), (.get, csRaw)] →
      let t := strm k .running raw 1 0 false
      let s := benchAt (streamer t)
      s.running d0 = some (streamer t, ctx1) ∧ (streamer t).stream? 0 = some t ∧ t.units[t.done]? = some ⟨256, 256⟩ ∧ t.state = .running
        ∧ t.slot < 8)
    ∧ (let t := strm .ld .running devRaw 1 0 false
      let x := streamer t
      okB (moveUnit (benchAt x) x ctx1 t ⟨256, 256⟩ (.desc t.mem) t.other true .none) = true)
    ∧ (let t := strm .get .running csRaw 1 0 false
      let x := streamer t
      getUnit (benchAt x) x ctx1 t ⟨256, 256⟩ .none = .error (.fault .descInvalid))
    ∧ (∀ far, far ∈ [none, some 3, some 4] →
      let t := { strm .put .haltCredit csRaw 1 0 false with tmod := far }
      let s := { benchAt (streamer t) with ports := [{ Port.reset with st := .active, peer := 3 }] }
      s.running d0 = some (streamer t, ctx1) ∧ (streamer t).stream? 0 = some t ∧ t.reqOpen = false ∧ t.nextReq ≤ (streamer t).ck3
        ∧ (bundle s 3).head? = some 0 ∧ bundle s 4 = [])
    ∧ (let t := strm .get .haltEmpty csRaw 1 0 false
      let w := { window1 with blocks := [.empty, .full] }
      let s := { benchAt (streamer t) with mgrs := [(.core 0, ⟨[w], [], 1, 0, 0⟩)] }
      s.running d0 = some (streamer t, ctx1) ∧ (streamer t).stream? 0 = some t ∧ t.units[t.done]? = some ⟨256, 256⟩
        ∧ getBlock s (streamer t) t ⟨256, 256⟩ = some (.core 0, w, 1) ∧ w.blocks[1]? = some .full) := by
  refine ⟨?_, ?_, rfl, ?_, ?_⟩
  any_goals decide +kernel
  · intro k raw h
    simp only [List.mem_cons, List.not_mem_nil, or_false, Prod.mk.injEq] at h
    rcases h with ⟨rfl, rfl⟩ | ⟨rfl, rfl⟩ | ⟨rfl, rfl⟩ | ⟨rfl, rfl⟩ <;> decide +kernel

/-- StreamUnitsLandWholeAndOnce: a unit in the middle of a load into registers, and the last one. -/
theorem wit_stream_units : ∀ done, done < 2 →
    let t := strm .ld .running devRaw done 0 false
    let x := streamer t
    let s := benchAt x
    ∃ u, t.units[t.done]? = some u ∧ ∃ xs, unitSpans s x ctx1 .read t.mem u = .ok xs ∧ spansMarked s.mem xs = false
      ∧ s.running d0 = some (x, ctx1) ∧ x.stream? 0 = some t ∧ t.state = .running ∧ t.slot < 8 ∧ (∀ z ∈ x.streams, z.slot < 8) ∧ t.kind = .ld ∧ t.other = .regs 8 ∧ x.cls ≠ .sprint := by
  intro done h
  obtain rfl | rfl : done = 0 ∨ done = 1 := by omega
  · exact ⟨_, rfl, ex_ok (by decide +kernel) (by decide +kernel)⟩
  · exact ⟨_, rfl, ex_ok (by decide +kernel) (by decide +kernel)⟩

/-- The sender of the bench's streams. -/
def snd0 : Sender := ⟨none, 0, 1, 1⟩

/-- Grant 1 of window 9 at the manager of core 0. -/
def grant1 : Grant := { num := 1, window := 9, sender := snd0, first := 0, count := 2, puts := [], returned := 0, lastTick := 0, port := none }

/-- The bench with window 9 and grants at the manager of core 0. -/
def benchG (x : Dispatch) (gs : List Grant) (mark : Option Nat) : State :=
  { benchAt x with mgrs := [(.core 0, ⟨[{ window1 with mark := mark }], gs, 2, 0, 0⟩)], cfg := { State.reset.cfg with values := [((0x0303, 0), 900)] } }

/-- The state once the only message of the module's fabric has arrived. -/
def arrived (s : State) : State := { s with net := [], staleDiscards := min (s.staleDiscards + 0) 0xFFFFFFFF }

/-- The only message of the fabric is the one that arrives. -/
theorem arrives_one {s : State} {m : Msg} {p : Msg → Prop} (hn : s.net = [m]) (hp : p m) : Arrives s p m (arrived s) :=
  ⟨[], [], hn, hp, by simp, by simp, rfl⟩

/-- CreditManagersGrantPutReturnAndCancel, requests: each answer of a manager to a request of this module, and a request of a peer. -/
theorem wit_requests :
    (∀ win gs, (win, gs) ∈ [(9, []), (9, [grant1]), (8, [])] →
      let s := { benchG (disp []) gs none with net := [.crReq none (.core 0) snd0 win 256] }
      s.isUp = true ∧ Reaches s snd0.module (fun m => m = .crReq none (.core 0) snd0 win 256) (arrived s))
    ∧ (let u := arrived (benchG (disp []) [] none)
      let w := { window1 with mark := none }
      (u.mgr (.core 0)).windows.find? (fun w => w.num == 9) = some w ∧ mgrServes u (.core 0) = true ∧ windowAccepts u w snd0 = true
        ∧ (u.mgr (.core 0)).grants.length < 1024 ∧ freeFirst (u.mgr (.core 0)) w = some 0
        ∧ (u.mgr (.core 0)).windows.find? (fun w => w.num == 8) = none)
    ∧ (let u := arrived (benchG (disp []) [grant1] none)
      ∀ b, b < 2 → ({ window1 with mark := none } : Window).blocks[b]? = some .empty ∧ blockLent (u.mgr (.core 0)) 9 b = true)
    ∧ (let s := { benchG (disp []) [] none with ports := [{ Port.reset with st := .active, peer := 3 }] }
      Reaches s (some 3) (fun _ => False) (s.heardFrom 3)) := by
  refine ⟨fun win gs h => ?_, ?_, ?_, ?_⟩
  · simp only [List.mem_cons, List.not_mem_nil, or_false, Prod.mk.injEq] at h
    rcases h with ⟨rfl, rfl⟩ | ⟨rfl, rfl⟩ | ⟨rfl, rfl⟩ <;> exact ⟨by decide +kernel, _, arrives_one rfl rfl⟩
  · decide +kernel
  · decide +kernel
  · exact ⟨by decide +kernel, rfl⟩

/-- The bench with a stream of its dispatch and one message on its way to it. -/
def benchN (x : Dispatch) (m : Msg) : State := { benchAt x with net := [m] }

/-- CreditManagersGrantPutReturnAndCancel, the sender: grants of every status and of another epoch, returns that leave the grant open,
that close it after the last unit, in a saved and in a running dispatch, cancels of every kind. -/
theorem wit_sender :
    (∀ st e ph, (st, e, ph) ∈ [(GrantStatus.granted, 1, Phase.running), (.granted, 1, .saved), (.wait, 1, .running), (.noWindow, 1, .running),
        (.granted, 0, .running)] →
      let t := strm .put .haltCredit csRaw 0 0 true
      let x := { streamer t with phase := ph }
      let s := benchN x (.crGrant ⟨none, 0, 1, e⟩ (putMgr t) t.window 1 0 2 st)
      s.holding d0 = some x ∧ x.stream? 0 = some t ∧ t.kind = .put ∧ t.reqOpen = true ∧ x.epoch = 1
        ∧ ReachesStream s t (fun m => ∃ y, m = .crGrant y (putMgr t) t.window 1 0 2 st ∧ y.ctx = x.ctx ∧ y.epoch = e) (arrived s))
    ∧ (∀ done count e ph, (done, count, e, ph) ∈ [(2, 0, 1, Phase.running), (2, 1, 1, .running), (1, 1, 1, .saved), (1, 1, 1, .running),
        (1, 1, 0, .running)] →
      let t := strm .put .running csRaw done 1 false
      let x := { streamer t with phase := ph }
      let s := benchN x (.crReturn ⟨none, 0, 1, e⟩ (putMgr t) 1 count)
      s.holding d0 = some x ∧ x.stream? 0 = some t ∧ t.kind = .put ∧ t.grant = 1 ∧ t.gRet + count ≤ t.gSent
        ∧ (count = 0 → t.gRet + count < t.gCount) ∧ (count = 1 → t.gCount ≤ t.gRet + count) ∧ (∀ z ∈ x.streams, z.slot < 8)
        ∧ ReachesStream s t (fun m => ∃ y, m = .crReturn y (putMgr t) 1 count ∧ y.ctx = x.ctx ∧ y.epoch = e) (arrived s))
    ∧ (∀ r ph, (r, ph) ∈ [(CancelReason.link, Phase.running), (.closed, .running), (.epoch, .saved), (.epoch, .running)] →
      let t := strm .put .running csRaw 1 1 false
      let x := { streamer t with phase := ph }
      let s := benchN x (.crCancel snd0 (putMgr t) 1 r)
      s.holding d0 = some x ∧ x.stream? 0 = some t ∧ t.kind = .put ∧ t.grant = 1
        ∧ ReachesStream s t (fun m => ∃ y, m = .crCancel y (putMgr t) 1 r ∧ y.ctx = x.ctx ∧ y.epoch = x.epoch) (arrived s)) := by
  refine ⟨fun st e ph h => ?_, fun done count e ph h => ?_, fun r ph h => ?_⟩ <;>
    simp only [List.mem_cons, List.not_mem_nil, or_false, Prod.mk.injEq] at h
  · rcases h with ⟨rfl, rfl, rfl⟩ | ⟨rfl, rfl, rfl⟩ | ⟨rfl, rfl, rfl⟩ | ⟨rfl, rfl, rfl⟩ | ⟨rfl, rfl, rfl⟩ <;>
      exact ⟨by decide +kernel, rfl, rfl, rfl, rfl, Or.inl ⟨rfl, _, arrives_one rfl ⟨_, rfl, rfl, rfl⟩⟩⟩
  · rcases h with ⟨rfl, rfl, rfl, rfl⟩ | ⟨rfl, rfl, rfl, rfl⟩ | ⟨rfl, rfl, rfl, rfl⟩ | ⟨rfl, rfl, rfl, rfl⟩ | ⟨rfl, rfl, rfl, rfl⟩ <;>
      exact ⟨by decide +kernel, rfl, rfl, rfl, by decide, by decide, by decide, by decide +kernel,
        Or.inl ⟨rfl, _, arrives_one rfl ⟨_, rfl, rfl, rfl⟩⟩⟩
  · rcases h with ⟨rfl, rfl⟩ | ⟨rfl, rfl⟩ | ⟨rfl, rfl⟩ | ⟨rfl, rfl⟩ <;>
      exact ⟨by decide +kernel, rfl, rfl, rfl, Or.inl ⟨rfl, _, arrives_one rfl ⟨_, rfl, rfl, rfl⟩⟩⟩

/-- CreditManagersGrantPutReturnAndCancel, the manager: a PUT of the first block with and without a Mark, a stale one, a PUT of a peer;
a cancel by a sender of another module, a timeout. -/
theorem wit_manager :
    (∀ m, m ∈ [none, some 107] →
      let s := { benchG (disp []) [grant1] m with net := [.put none (.core 0) snd0 1 0 (zeros 1024) false] }
      Reaches s none (fun y => y = .put none (.core 0) snd0 1 0 (zeros 1024) false) (arrived s)
      ∧ ((arrived s).mgr (.core 0)).grants.find? (fun y => y.num == 1) = some grant1 ∧ grant1.sender.epoch = 1
      ∧ 0 = grant1.first + grant1.puts.length ∧ grant1.puts.length < grant1.count ∧ (zeros 1024).length = 1024
      ∧ ((arrived s).mgr (.core 0)).windows.find? (fun y => y.num == grant1.window) = some { window1 with mark := m }
      ∧ ∃ xs, windowSpans (arrived s) (.core 0) { window1 with mark := m } 0 = .ok xs ∧ 1 = 1)
    ∧ (∀ g, ((arrived (benchG (disp []) [grant1] none)).mgr (.core 0)).grants.find? (fun y => y.num == 1) = some g → g.sender.epoch ≠ 2)
    ∧ (let s := { benchG (disp []) [] none with ports := [{ Port.reset with st := .active, peer := 3 }] }
      lanes s 3 ≠ [] ∧ s.isUp = true)
    ∧ (let y : Sender := ⟨some 3, 0, 1, 1⟩
      ((benchG (disp []) [{ grant1 with sender := y }] none).mgr (.core 0)).grants.find? (fun z => z.num == 1 && z.sender == y)
        = some { grant1 with sender := y })
    ∧ ((benchG (disp []) [grant1] none).mgr (.core 0)).grants.find? (fun z => z.num == 1) = some grant1
    ∧ (let s := benchG (disp []) [grant1] none
      grant1.lastTick + s.settingN 0x0303 0 + 1 ≤ mgrTicks s (.core 0) grant1.sender) := by
  refine ⟨fun m h => ?_, ?_, ?_, ?_, ?_, ?_⟩
  · simp only [List.mem_cons, List.not_mem_nil, or_false] at h
    rcases h with rfl | rfl <;> exact ⟨⟨_, arrives_one rfl rfl⟩, by decide +kernel, rfl, by decide +kernel, by decide +kernel, by decide +kernel,
      by decide +kernel, ex_ok (by decide +kernel) rfl⟩
  · intro g h
    have e : some g = some grant1 := h ▸ (by decide +kernel)
    cases e
    decide
  · decide +kernel
  · decide +kernel
  · decide +kernel
  · show 0 + 900 + 1 ≤ (benchG (disp []) [grant1] none).unitTicks 1 0
    exact unit_ticks (n := 998) (by decide +kernel) |> Nat.le_trans (by omega)

/-! ## Paging, admission, placement, commit -/

/-- A FILL entry (R344): page 3 of context 1, read and write, frame 0x23, backing copy 1. -/
def fillE : Nat := 2 + 24 + 0x23 * 2 ^ 12 + 1 * 2 ^ 34

/-- A wait for page 3 of context 1, whose entry lies at 0x103018. -/
def wait3 (fill started posted : Bool) (e : Nat) : PageWait :=
  { ctx := 1, page := 0x30000, fill := fill, started := started, entryPa := 0x103018, entry := e, posted := posted, since := 10,
    limit := 989, lastWalk := 875, req := 1, unit := 0, who := d0, acc := .read, va := 0x30008 }

/-- The bench with one page wait and an entry in the tables. -/
def benchP (w : PageWait) (e : Nat) (dma : List DmaBusy) : State :=
  { benchAt (disp []) with pageWaits := [w], dma := dma, mem := { MemState.reset with hbm := memPut tables 0x103018 (leBytes 8 e), cs := store } }

/-- PagingFillsWaitsAndEnds: a walk; a fill that starts, completes, or finds another entry; an absent page that waits, is walked again,
in each way it can end, and expires at its first tick; a DMA engine that ends with and without a transfer waiting. -/
theorem wit_paging :
    (walk (bench []) ctx1 0x2FFFF .write = .leaf 0x20000 65536 0x210000 true true [16384, 16448, 16512, 16576] ∧ (bench []).isUp = true
      ∧ xunitServes (bench []) (.core 0) = true ∧ (bench []).ctx? 1 = some ctx1)
    ∧ (let w := wait3 true false false fillE
      let s := benchP w fillE []
      pageWait? s 1 0x3FFFF = some w ∧ s.isUp = true ∧ frameOk s 1 w.entry = true ∧ s.linkUp = true
      ∧ (s.pageWaits.filter (fun v => v.fill && v.started)).length < 64)
    ∧ (let w := wait3 true false false (2 + 24 + 0xFFFFFF * 2 ^ 12)
      pageWait? (benchP w 0 []) 1 0x30000 = some w ∧ (benchP w 0 []).isUp = true ∧ frameOk (benchP w 0 []) 1 w.entry = false)
    ∧ (let w := wait3 true false false fillE
      let s := { benchP w fillE [] with linkUp := false }
      pageWait? s 1 0x30000 = some w ∧ s.isUp = true ∧ frameOk s 1 w.entry = true)
    ∧ (let w := wait3 false false false 0
      pageWait? (benchP w 0 []) 1 0x30000 = some w ∧ (benchP w 0 []).isUp = true)
    ∧ (∀ e, e ∈ [fillE, 0] →
      let w := wait3 true true false fillE
      let s := benchP w e [⟨0, some 0, .fill 1 0x30000⟩]
      pageWait? s 1 0x30000 = some w ∧ s.dma.any (fun b => b.job == .fill 1 w.page && b.engine.isNone) = false ∧ s.linkUp = true
      ∧ (e = fillE → entryNow (endDma s (fun b => b.job == .fill 1 w.page)) w = w.entry)
      ∧ (e = 0 → entryNow (endDma s (fun b => b.job == .fill 1 w.page)) w ≠ w.entry))
    ∧ (let w := wait3 false true true 0
      pageWait? (benchP w 0 []) 1 0x30000 = some w ∧ w.lastWalk + 125 ≤ (benchP w 0 []).now ∧ entryNow (benchP w fillE []) w ≠ w.entry
      ∧ (benchP w 0 []).ctx? 1 = some ctx1 ∧ walk (benchP w 0 []) ctx1 w.va w.acc = .absent 3 0x103018 0
      ∧ walk (benchP w fillE []) ctx1 w.va w.acc = .absent 3 0x103018 fillE
      ∧ walk (benchP w 0x21001D []) ctx1 w.va w.acc = .leaf 0x30000 65536 0x210000 true true [16384, 16448, 16512, 16576]
      ∧ walk (benchP w 0x21001F []) ctx1 w.va w.acc = .bad .accessDenied 3
      ∧ pageWait? (benchP w fillE []) 1 0x30000 = some w ∧ pageWait? (benchP w 0x21001D []) 1 0x30000 = some w
      ∧ pageWait? (benchP w 0x21001F []) 1 0x30000 = some w ∧ entryNow (benchP w 0x21001F []) w ≠ w.entry
      ∧ w.since + w.limit + 1 ≤ (benchP w 0 []).now)
    ∧ (let b : DmaBusy := ⟨0, some 3, .fill 1 0x30000⟩
      let v : DmaBusy := ⟨0, none, .fill 1 0x40000⟩
      let y : DmaBusy := ⟨0, some 2, .fill 1 0x50000⟩
      [y, b, v].find? (fun y => y.die == 0 && y.engine == some 3) = some b ∧ [y, b, v].erase b = [y] ++ v :: []
      ∧ v.die = 0 ∧ v.engine = none ∧ (∀ z ∈ [y], z.die = 0 → z.engine ≠ none) ∧ v ∉ ([] : List DmaBusy)
      ∧ (∀ z ∈ [y, b].erase b, z.die = 0 → z.engine ≠ none)) := by
  decide +kernel

/-- A queue of MIDDLE whose ring lies in page 0: one record doorbelled, none read. -/
def queue0 (cls : Class3) : Queue :=
  { num := 0, ctx := 1, cls := cls, ringVa := 0, k := 4, prod := 1, consumed := 0, bells := [(1, 5)], results := [], alive := true }

/-- The bench with that queue, a loaded program, and a record of it in the ring: no Marks, no deadline, the shape given, FLAGS given. -/
def benchQ (flags shape : Nat) : State :=
  { bench [] with
    ctxs := [{ ctx1 with programs := [prog [0x53 * 2 ^ 57]] }]
    queues := [queue0 .middle]
    disps := []
    mem := { MemState.reset with hbm := memPut tables 0x220000 (zeros 6 ++ leBytes 1 flags ++ leBytes 1 shape ++ zeros 4 ++ leBytes 4 0xFFFFFFFF ++ zeros 48) } }

/-- A read that succeeds gives its state, its spans and its bytes. -/
theorem read_ok {e : State × Except (FaultCode × Nat) (List Span × Bytes × Bool)} {p : State → Bytes → Prop} (h : okB e.2 = true)
    (hf : (val e.2 h).2.2 = false) (hp : p e.1 (val e.2 h).2.1) : ∃ u xs b, e = (u, .ok (xs, b, false)) ∧ p u b := by
  obtain ⟨u, r⟩ := e
  refine ⟨u, (val r h).1, (val r h).2.1, ?_, hp⟩
  rw [← hf]
  exact congrArg _ (val_eq r h)

/-- DoorbellsCountAndRecordsBecomeDispatches: the last count in range and the first beyond; a record that becomes a dispatch, and one
refused for its FLAGS. -/
theorem wit_queues :
    (let s := benchQ 0 1
     s.linkUp = true ∧ s.isUp = true ∧ bellWaits s = false ∧ s.queue? 0 = some (queue0 .middle)
      ∧ (∀ v, v ∈ [1, 16] → (v % 2 ^ 32 + 2 ^ 32 - 0 % 2 ^ 32) % 2 ^ 32 ≤ 2 ^ 4) ∧ 2 ^ 4 < (17 % 2 ^ 32 + 2 ^ 32 - 0 % 2 ^ 32) % 2 ^ 32
      ∧ (0 % 2 ^ 32 + 2 ^ 32 - 0 % 2 ^ 32) % 2 ^ 32 < 1 - 0)
    ∧ (∀ fl, fl ∈ [0, 2] →
      let s := benchQ fl 32
      let x := queue0 .middle
      let c : Ctx := { ctx1 with programs := [prog [0x53 * 2 ^ 57]] }
      s.ctx? x.ctx = some c ∧ s.queue? 0 = some x ∧ s.admits = true ∧ recordReady x = true
      ∧ (∀ m w, (m, w) ∈ s.mbs → w.wait ≠ some (.abort ⟨0, x.consumed + 1⟩))
      ∧ ∃ u xs b, readerRead s c ⟨9, some (newDispatch s c x [])⟩ (x.ringVa + x.consumed % 2 ^ x.k * 64) 64 = (u, .ok (xs, b, false))
      ∧ u.queue? 0 = some x ∧ u.disp? ⟨0, x.consumed + 1⟩ = none ∧ recordOk u c x b = (fl == 0)
      ∧ (newDispatch u c x b).prog.pins.all (keyLoaded c) = true ∧ shapeOf (newDispatch u c x b) ≤ unitsInService u x.cls) := by
  refine ⟨by decide +kernel, ?_⟩
  intro fl h
  simp only [List.mem_cons, List.not_mem_nil, or_false] at h
  rcases h with rfl | rfl <;>
    exact ⟨by decide +kernel, by decide +kernel, by decide +kernel, by decide +kernel, by simp [benchQ, bench, up, State.reset],
      read_ok (by decide +kernel) (by decide +kernel) (by decide +kernel)⟩

/-- A dispatch of MIDDLE that waits. -/
def waiting0 : Dispatch := { disp [] with phase := .waiting, relays := [], cores := [], cfg := [] }

/-- A dispatch that holds the Relays given, with their cores in rank order. -/
def holds (n : Nat) (cls : Class3) (relays : List Nat) : Dispatch :=
  { disp [] with id := ⟨n, 1⟩, cls := cls, relays := relays, cores := (relays.map (fun r => (List.range 4).map (4 * r + ·))).flatten }

/-- Choosing among equal candidates gives that candidate. -/
theorem fold_same {α : Type} {f : Option α → α → Option α} (a : α) (h0 : f none a = some a) (h1 : f (some a) a = some a) :
    (l : List α) → (∀ y ∈ l, y = a) → l ≠ [] → l.foldl f none = some a := by
  have hs : ∀ l : List α, (∀ y ∈ l, y = a) → l.foldl f (some a) = some a := by
    intro l
    induction l with
    | nil => intro _; rfl
    | cons y l ih =>
      intro h
      rw [List.foldl_cons, h y (by simp), h1]
      exact ih (fun z hz => h z (by simp [hz]))
  intro l h hl
  cases l with
  | nil => exact absurd rfl hl
  | cons y l =>
    rw [List.foldl_cons, h y (by simp), h0]
    exact hs l (fun z hz => h z (by simp [hz]))

/-- PlacementsRunResumeAndMove: a first placement on the last Relay, one that pre-empts, a resume, migrations of a saved dispatch and of
one that a soft fence concerns. -/
theorem wit_placements :
    (let s := { benchAt waiting0 with disps := [waiting0, holds 1 .middle (List.range 31)] }
     waiting? s d0 = some waiting0 ∧ s.ctx? 1 = some ctx1 ∧ s.admits = true ∧ someoneFirst s waiting0 = false
      ∧ policyMet s waiting0 [31] = true
      ∧ mayTake s waiting0 [31] = true ∧ orderMet s waiting0 = true ∧ verdict s waiting0 (coresOf s [31]) = .ok)
    ∧ (let s := { benchAt waiting0 with disps := [waiting0, holds 1 .distance [0], holds 2 .middle (rangeFrom 1 31)], cfg := { State.reset.cfg with values := [((0x030E, 0), 998)] } }
      let u := preemptOn s [0] (fun y => y.cls == .distance)
      waiting? s d0 = some waiting0 ∧ s.admits = true ∧ s.now ≥ waiting0.waitSince + s.settingN 0x030E 0 + 1 ∧ someoneFirst s waiting0 = false
      ∧ policyMet (preemptOn s (List.range 32) (fun y => y.cls == .distance)) waiting0 [0] = true
      ∧ u.ctx? 1 = some ctx1 ∧ mayTake u waiting0 [0] = true ∧ orderMet u waiting0 = true ∧ verdict u waiting0 (coresOf u [0]) = .ok
      ∧ u.disp? d0 = some waiting0)
    ∧ (let x := { disp [] with phase := .saved, relays := [0], cores := [0, 1, 2, 3], frame := some ⟨CoreRegs.zero, ⟨[], [], []⟩⟩ }
      let s := benchAt x
      s.disp? d0 = some x ∧ s.ctx? x.ctx = some ctx1 ∧ s.isUp = true ∧ x.fate = none ∧ x.wait = none ∧ x.streams = []
      ∧ x.relays.all (relayFree s d0) = true ∧ coresOf s x.relays = x.cores
      ∧ x.cls ≠ .sprint ∧ sameShape s x [31] = true)
    ∧ (let x := { disp [] with relays := [0], cores := [0, 1, 2, 3], redivide := true }
      let s := benchAt x
      s.disp? d0 = some x ∧ s.ctx? x.ctx = some ctx1 ∧ s.isUp = true ∧ x.fate = none ∧ sameShape s x [31] = true) := by
  decide +kernel

/-- A dispatch whose ck per stage has been 0 percent of its table since tick 1. -/
def slow0 : Dispatch := { holds 0 .middle [0] with runCk := 5, slow := some 1 }

/-- The bench with that dispatch, REBAL_PERCENT 50, REBAL_HOLD 999 and PLACE_WINDOW 999; only Relay 31 has been free so long. -/
def benchSlow : State :=
  { benchAt slow0 with relayBusy := 0 :: List.replicate 30 1000 ++ [0], cfg := { State.reset.cfg with values := [((0x030F, 0), 999), ((0x0310, 0), 50), ((0x0311, 0), 999)] } }

/-- That state once the window has ended. -/
def endedSlow : State :=
  { benchSlow.modMeter 0 (fun m => { m with placeSince := benchSlow.now, keyCur := 0, keyRate := m.keyCur / max 1 (benchSlow.now - m.placeSince) }) with
    disps := benchSlow.disps.map (fun x => if (measuredOn benchSlow 0).any (fun y => y.id == x.id) then measured benchSlow x else x) }

/-- The table of a program without stages, where the translator gives its shape one. -/
theorem no_stages (h : Config.stageCk (zeros 48) (zeros 16) (zeros 48) [4] = some []) (x : Dispatch) (hx : x.prog = prog []) :
    costTable ctx1 x [4] = some [] := by
  unfold costTable
  rw [hx, if_neg (by decide +kernel)]
  show (match Config.stageCk (zeros 48) (zeros 16) (zeros 48) [4] with
    | none => none
    | some cks => _) = _
  rw [h]
  rfl

/-- PlacementsRunResumeAndMove: a measurement window that ends on die 1, where nothing runs; one on die 0 with a dispatch placed too lately
to move; and, where the translator has a table for the shape, one that moves a dispatch whose rate has been low. -/
theorem wit_place_windows :
    (benchSlow.isUp = true ∧ 1 < benchSlow.meters.length ∧ (benchSlow.meter 1).placeSince + benchSlow.settingN 0x030F 0 + 1 ≤ benchSlow.now
      ∧ measuredOn benchSlow 1 = [])
    ∧ (let s := { benchAt { slow0 with lastMove := 2 } with cfg := benchSlow.cfg }
      (s.meter 0).placeSince + s.settingN 0x030F 0 + 1 ≤ s.now ∧ (∀ x ∈ measuredOn s 0, s.disp? x.id = some x)
      ∧ measuredOn s 0 ≠ [] ∧ ∀ x ∈ measuredOn s 0, s.now < x.lastMove + s.settingN 0x0311 0)
    ∧ ((benchSlow.meter 0).placeSince + benchSlow.settingN 0x030F 0 + 1 ≤ benchSlow.now ∧ measuredOn benchSlow 0 = [slow0]
      ∧ benchSlow.disp? slow0.id = some slow0 ∧ benchSlow.ctx? slow0.ctx = some ctx1 ∧ slow0.cls ≠ .sprint ∧ slow0.redivide = false
      ∧ slow0.fate = none ∧ 1 + benchSlow.settingN 0x0311 0 ≤ benchSlow.now ∧ slow0.lastMove + benchSlow.settingN 0x0311 0 ≤ benchSlow.now
      ∧ (Config.stageCk (zeros 48) (zeros 16) (zeros 48) [4] = some [] →
        ratePercent benchSlow slow0 = some 0 ∧ (measured benchSlow slow0).slow = some 1
        ∧ rebalanceTo endedSlow ctx1 (measured benchSlow slow0) 0 = some [31])) := by
  refine ⟨by decide +kernel, by decide +kernel, by decide +kernel, by decide +kernel, by decide +kernel, by decide +kernel, by decide +kernel,
    by decide +kernel, by decide +kernel, by decide +kernel, by decide +kernel, ?_⟩
  intro h
  have hr : ratePercent benchSlow slow0 = some 0 := by
    have ho : ownTable benchSlow slow0 = some [] := no_stages h slow0 rfl
    unfold ratePercent
    rw [ho]
    rfl
  have hm : (measured benchSlow slow0).slow = some 1 := by
    show (match ratePercent benchSlow slow0 with
      | none => slow0.slow
      | some p => if p < benchSlow.settingN 0x0310 0 then some (slow0.slow.getD benchSlow.now) else none) = _
    rw [hr]
    decide +kernel
  refine ⟨hr, hm, ?_⟩
  have hp : ∀ cores relays, shapeOfCores relays cores = [4] → predict endedSlow ctx1 (measured benchSlow slow0) relays cores = some 0 := by
    intro cores relays hs
    unfold predict
    rw [hs, no_stages h (measured benchSlow slow0) rfl]
    rfl
  unfold rebalanceTo
  dsimp only
  rw [hp _ _ (by decide +kernel), fold_same [31] rfl (ite_self _) _ (by decide +kernel) (by decide +kernel)]
  show (match some 0, predict endedSlow ctx1 (measured benchSlow slow0) [31] (coresOf endedSlow [31]) with
    | some own, some t => if 2 * 0 * t ≤ 100 * own then some [31] else none
    | _, _ => none) = _
  rw [hp _ _ (by decide +kernel)]
  rfl

/-- PlacementsRunResumeAndMove: a stage that ends with nothing left of it; one whose dispatch a soft fence concerns, with Relay 31 free and
with none. -/
theorem wit_stage_end :
    (let x := { holds 0 .middle [0] with stage := .ending }
     (benchAt x).acts d0 = some x ∧ x.stage = .ending ∧ x.streams = [] ∧ x.inflight = [] ∧ x.redivide = false)
    ∧ (∀ n, n ∈ [30, 31] →
      let x := { holds 0 .middle [0] with stage := .ending, redivide := true }
      let s := { benchAt x with disps := [x, holds 1 .middle (rangeFrom 1 n)] }
      s.acts d0 = some x ∧ x.stage = .ending ∧ x.streams = [] ∧ x.inflight = [] ∧ x.redivide = true
      ∧ shapeFree (releaseDead s { x with stage := .between, doneCk := x.doneCk + stageCount s x, runCk := x.runCk + (x.ck3 - x.stageCk3) / 3 })
        { x with stage := .between, doneCk := x.doneCk + stageCount s x, runCk := x.runCk + (x.ck3 - x.stageCk3) / 3 } = decide (n = 30)) := by
  decide +kernel

/-- CommitWritesOneCompletionRecord: a program that has ended, one that has been aborted, with the queue there. -/
theorem wit_commit :
    (let x := { disp [] with fin := true }
     let s := { benchAt x with queues := [queue0 .middle] }
     s.disp? d0 = some x ∧ outcomeOf x = some ⟨1, 0, 0, noInstr⟩ ∧ x.phase ≠ .ended ∧ s.queue? 0 = some (queue0 .middle) ∧ (queue0 .middle).ctx = x.ctx)
    ∧ (let x := { disp [] with fate := some ⟨2, 0, 1, 7⟩ }
     (benchAt x).disp? d0 = some x ∧ outcomeOf x = some ⟨2, 14, 1, 7⟩ ∧ x.phase ≠ .ended) := by
  decide +kernel

/-! ## Mailbox commands -/

/-- A request for a context. -/
def rq (ctx : Nat) (p : Bytes) : MbReq := { wellFormed := true, flags := 1, seq := 5, ctx := ctx, txn := 0, payload := p }

/-- MailboxProtocolHoldsForEveryRow: a busy mailbox, the last one; a refusal at a free one; a request in its slot. -/
theorem wit_mailbox :
    (let s := (bench []).setMb 63 { (bench []).mb 63 with busy := true }
     63 < 64 ∧ s.linkUp = true ∧ marshalUp s = true ∧ s.rsp.restartDue = false ∧ bellWaits s = false ∧ (s.mb 63).busy = true)
    ∧ (let s := { bench [] with atLink := [.hostWindowAccess 0 0 (.write [])] }
      s.linkUp = true ∧ marshalUp s = true ∧ s.rsp.restartDue = false ∧ bellWaits s = true)
    ∧ (let s := bench []
      mailboxRow 0x1D 63 (rq 9 (zeros 4)) = some (.descFree 63 (rq 9 (zeros 4))) ∧ bellWaits s = false ∧ (s.mb 63).busy = false
      ∧ generalRefusal s 0x1D 63 (rq 9 (zeros 4)) = some .accessDenied ∧ generalRefusal s 0x1D 63 (rq 1 (zeros 5)) = some .descInvalid)
    ∧ (let s := (bench []).setMb 63 { (bench []).mb 63 with req := reqBytes 0x1D (rq 1 (zeros 4)) }
      parseReq (s.mb 63).req = (0x1D, rq 1 (zeros 4))) := by
  decide +kernel

/-- A record of the gate template P1K-GATE that the module accepts (R30, R32). -/
def gateRec : Bytes :=
  leBytes 4 7 ++ leBytes 1 0x10 ++ leBytes 1 3 ++ zeros 10 ++ leBytes 1 10 ++ leBytes 1 3 ++ leBytes 2 1024 ++ leBytes 4 8404993
    ++ leBytes 4 8388617 ++ zeros 292

/-- ContextsAndDescriptorsAreManaged: the first context of a module, one destroyed, its figures, a descriptor set at each end of its
table and freed. -/
theorem wit_contexts :
    (let p := gateRec ++ leBytes 4 64 ++ zeros 4 ++ leBytes 8 0x100000 ++ zeros 12
     let r := rq 0xFFFFFFFF p
     Carried up 0x01 63 r ∧ allZero p 337 3 = true ∧ lcState (taken up 0x01 63 r) ≠ 0 ∧ lcState (taken up 0x01 63 r) ≠ 3
      ∧ paramOk (slice p 0 320) = true ∧ up.ctxs = [] ∧ 2 ≤ field p 320 4 ∧ field p 320 4 ≤ 2 ^ 24 ∧ field p 336 1 = 0
      ∧ ptRootOk (field p 328 8) = true)
    ∧ (Carried (bench []) 0x02 0 (rq 1 []) ∧ (bench []).ctx? 1 = some ctx1)
    ∧ Carried (bench []) 0x03 0 (rq 1 (zeros 4 ++ leBytes 1 0x13))
    ∧ (∀ i, i ∈ [1, 63] →
      let p := leBytes 4 i ++ zeros 4 ++ mkDesc 0 1 0 0 1 [(512, 1)] 0
      Carried (bench []) 0x1C 0 (rq 1 p) ∧ allZero p 4 4 = true ∧ 1 ≤ field p 0 4 ∧ field p 0 4 < ctx1.descEntries
      ∧ descCheck (slice p 8 64) = none)
    ∧ (let p := leBytes 4 (2 ^ 24 + 12)
      Carried (bench []) 0x1D 0 (rq 1 p) ∧ field p 0 4 ≠ 0 ∧ field p 0 4 % 2 ^ 24 < ctx1.descEntries
      ∧ (ctx1.desc (field p 0 4 % 2 ^ 24)).valid = true ∧ (ctx1.desc (field p 0 4 % 2 ^ 24)).gen = field p 0 4 / 2 ^ 24) := by
  unfold Carried
  decide +kernel

/-- Context 1 with no key set loaded and no program. -/
def ctxBare : Ctx := { ctx1 with keysets := [] }

/-- The smallest program image: one code section that holds ret (R212, R213). -/
def image0 : Bytes :=
  leBytes 4 0x0960A2E1 ++ [1, 0, 0, 0xFF] ++ leBytes 4 320 ++ leBytes 4 0 ++ leBytes 1 1 ++ zeros 15
    ++ leBytes 1 1 ++ zeros 3 ++ leBytes 4 256 ++ leBytes 4 8 ++ leBytes 4 1 ++ zeros 208 ++ leBytes 8 (0x53 * 2 ^ 57) ++ zeros 56

/-- The bench with that image at address 0, no dispatch, and KEY_RES_MIB 16 on both dies. -/
def benchL (c : Ctx) : State :=
  { bench [] with
    ctxs := [c]
    disps := []
    mem := { MemState.reset with hbm := memPut tables 0x220000 image0 }
    cfg := { State.reset.cfg with values := [((0x0200, 0), 16), ((0x0200, 1), 16)] } }

/-- Reading what a load reads succeeds. -/
theorem load_ok {α ε σ : Type} {e : σ × Except ε α} {p : σ → α → Prop} (h : okB e.2 = true) (hp : p e.1 (val e.2 h)) :
    ∃ u a, e = (u, .ok a) ∧ p u a := by
  obtain ⟨u, r⟩ := e
  exact ⟨u, val r h, congrArg _ (val_eq r h), hp⟩

/-- A resident copy of the bench's key. -/
def copy0 (die : Nat) (complete : Bool) : KeyCopy :=
  { die := die, ctx := 1, key := ⟨3, 2, 3⟩, bytes := 4096, stage := if complete then .ready else .copying, pinned := false, users := [],
    order := 0, data := [], marked := false }

/-- KeysAndProgramsLoadAndUnload: a key set of one key; unloading; pinning with copies complete and to be made; the end of a copy; a
program loaded and unloaded. -/
theorem wit_keys_programs :
    (let p := leBytes 4 3 ++ leBytes 4 1 ++ zeros 8 ++ leBytes 8 0x10000
     let s := benchL ctxBare
     Carried s 0x10 0 (rq 1 p) ∧ s.ctx? 1 = some ctxBare ∧ 1 ≤ field p 4 4 ∧ field p 4 4 ≤ 500 ∧ allZero p 8 8 = true
      ∧ ctxBare.keysets.any (fun k => k.id == field p 0 4) = false
      ∧ ∃ u ks, loadKeys (taken s 0x10 0 (rq 1 p)) ctxBare (field p 0 4) [] 0 ((List.range (field p 4 4)).map (fun i => field p (16 + 8 * i) 8)) = (u, .ok ks)
      ∧ keyMib ctxBare ((ks.map (fun k => k.1.bodyLen)).sum + 1024 * field p 4 4) ≤ ctxBare.quotaKeyMib ∧ ctxBare.measCount < 512)
    ∧ (Carried (benchL ctx1) 0x11 0 (rq 1 (leBytes 4 3)) ∧ ctx1.keysets.any (fun k => k.id == 3) = true ∧ (benchL ctx1).disps = [])
    ∧ (∀ pin, pin < 2 → ∀ cs, cs ∈ [[copy0 0 true, copy0 1 true], []] →
      let p := leBytes 4 3 ++ leBytes 1 2 ++ leBytes 1 3 ++ leBytes 1 pin ++ zeros 1 ++ leBytes 4 3
      let s := { benchL ctx1 with keyCopies := cs }
      Carried s 0x12 0 (rq 1 p) ∧ field p 5 1 < 4 ∧ allZero p 7 1 = true ∧ loadedKey ctx1 (pinKey p) = some key3 ∧ field p 6 1 = pin
      ∧ ∃ u, (pinDies p).foldl (fun (v : Option State) die => v.bind (fun v => pinOn v 1 (pinKey p) (1024 + key3.bodyLen) die)) (some (taken s 0x12 0 (rq 1 p))) = some u
        ∧ (pin = 1 → [0, 1].all (fun die => (copyOn u 1 (pinKey p) die).any (fun e => e.complete == !cs.isEmpty)) = true))
    ∧ (let s := { benchL ctx1 with keyCopies := [copy0 0 false], dma := [⟨0, some 0, .keyCopy 1 ⟨3, 2, 3⟩⟩] }
      s.dma.any (fun b => b.die == 0 && b.job == .keyCopy 1 ⟨3, 2, 3⟩ && b.engine.isSome) = true ∧ ∀ b ∈ s.mbs, b.2.wait ≠ some .keyCopy)
    ∧ (let s := { bench [] with cfg := { State.reset.cfg with values := [((0x0300, 0), 999)] } }
      s.isUp = true ∧ 1 < s.meters.length ∧ (s.meter 1).resSince + s.settingN 0x0300 0 + 1 ≤ s.now)
    ∧ (let p := leBytes 8 0 ++ leBytes 4 320
      let s := benchL ctxBare
      Carried s 0x18 0 (rq 1 p) ∧ 256 ≤ field p 8 4 ∧ field p 8 4 ≤ 67108864 ∧ ctxBare.weightsUsed = false
      ∧ ∃ u xs img, readerRead (taken s 0x18 0 (rq 1 p)) ctxBare cmdReader (field p 0 8) (field p 8 4) = (u, .ok (xs, img, false))
      ∧ (imageFault ctxBare img 320 = none ∧ (u.ctxs.map (fun c => c.sealed) = [[]])))
    ∧ (ctxBare.programs.length < ctxBare.quotaPrograms ∧ freeProgram ctxBare = some 1)
    ∧ (let c := { ctx1 with programs := [{ prog [] with num := 1 }] }
      Carried (benchL c) 0x19 0 (rq 1 (leBytes 2 1)) ∧ c.programs.any (fun p => p.num == 1) = true ∧ (benchL c).disps = []) := by
  unfold Carried
  refine ⟨⟨?_, ?_, ?_, ?_, ?_, ?_, load_ok ?_ ?_⟩, ?_, ?_, ?_, ?_, ⟨?_, ?_, ?_, ?_, read_ok ?_ ?_ ?_⟩, ?_, ?_⟩
  any_goals decide +kernel

/-- Queue 0 with results: 1 written, 2 pending, 3 not read. -/
def queueR : Queue := { queue0 .middle with prod := 3, consumed := 2, results := [(1, .written (zeros 14 ++ [1] ++ zeros 113)), (2, .pending)] }

/-- The bench with that queue, Marks 100 to 107 as the range of context 1, a HELD segment on a core and a die, one dispatch that waits. -/
def benchR : State :=
  { bench [] with
    queues := [queueR]
    disps := [{ disp [] with phase := .waiting, id := ⟨0, 2⟩ }]
    marks := [mk 3 true false]
    cfg := { State.reset.cfg with values := [((0x0106, 1), 100), ((0x0107, 1), 8)] }
    mem := { MemState.reset with csMap := [⟨127, 1, none, 31, 0, true⟩], ifMap := [⟨1, 1, none, 255, 0, true⟩] } }

/-- QueuesResultsMarksAndWindowsAreManaged: the hypotheses of each clause at a boundary of its range. -/
theorem wit_results :
    (let p := leBytes 8 4096 ++ leBytes 1 16 ++ leBytes 1 2
     Carried benchR 0x20 0 (rq 1 p) ∧ classOf (field p 9 1) = some .distance ∧ field p 0 8 % 4096 = 0 ∧ 4 ≤ field p 8 1 ∧ field p 8 1 ≤ 16
      ∧ (queuesOf benchR 1).length < ctx1.quotaQueues ∧ storeBytes benchR + 128 * 2 ^ field p 8 1 ≤ 2 ^ 30 ∧ benchR.queue? 1 = none
      ∧ (∀ k, k < 1 → benchR.queue? k ≠ none))
    ∧ (let s := { benchR with disps := [] }
      Carried s 0x21 0 (rq 1 (leBytes 2 0)) ∧ (queuesOf s 1).any (fun x => x.num == 0) = true)
    ∧ (let r := rq 1 (zeros 8 ++ leBytes 8 1)
      seqState benchR r = .written (zeros 14 ++ [1] ++ zeros 113) ∧ Carried benchR 0x48 0 r ∧ Carried benchR 0x49 0 r ∧ Carried benchR 0x4A 0 r
      ∧ queueOf benchR 1 0 = some queueR)
    ∧ (let r := rq 1 (zeros 8 ++ leBytes 8 2)
      seqState benchR r = .notYet ∧ Carried benchR 0x4A 0 r ∧ benchR.disp? ⟨0, 2⟩ = some { disp [] with phase := .waiting, id := ⟨0, 2⟩ })
    ∧ (let p := leBytes 2 0 ++ leBytes 2 8
      Carried benchR 0x30 0 (rq 1 p) ∧ 1 ≤ field p 2 2 ∧ field p 2 2 ≤ 500 ∧ field p 0 2 + field p 2 2 ≤ benchR.settingN 0x0107 1)
    ∧ (∀ a b, (a, b) ∈ [(0, 1), (1, 0xFF)] →
      let p := leBytes 2 7 ++ leBytes 1 a ++ leBytes 1 b ++ leBytes 1 b
      Carried benchR 0x31 0 (rq 1 p) ∧ ctxMark benchR 1 (field p 0 2) = some 107 ∧ field p 2 1 < 2 ∧ (field p 3 1 < 2 ∨ field p 3 1 = 0xFF)
      ∧ (field p 4 1 < 2 ∨ field p 4 1 = 0xFF))
    ∧ (∀ l u g, (l, u, g) ∈ [(1, 127, 31), (2, 1, 255)] →
      let p := leBytes 1 l ++ zeros 1 ++ leBytes 2 u ++ leBytes 2 g
      Carried benchR 0x24 0 (rq 1 p) ∧ (field p 0 1 = 1 ∨ field p 0 1 = 2) ∧ allZero p 1 1 = true ∧ benchR.colls = []
      ∧ (benchR.disps.map (fun x => x.phase) = [.waiting])
      ∧ (if field p 0 1 = 1 then benchR.mem.csMap else benchR.mem.ifMap).map (fun e => (e.unit, e.ctx, e.logical, e.held)) = [(field p 2 2, 1, field p 4 2, true)])
    ∧ (∀ perm va size, (perm, va, size) ∈ [(0, 5, 5), (3, 2 ^ 48 - 2 ^ 30, 2 ^ 30), (1, 0, 65536)] →
      let p := leBytes 1 63 ++ leBytes 1 perm ++ zeros 6 ++ leBytes 8 va ++ leBytes 8 size
      Carried benchR 0x28 0 (rq 1 p) ∧ field p 0 1 < 64 ∧ field p 1 1 < 4 ∧ allZero p 2 6 = true
      ∧ (field p 1 1 = 0 ∨ (field p 8 8 % 65536 = 0 ∧ field p 16 8 % 65536 = 0 ∧ 0 < field p 16 8 ∧ field p 16 8 ≤ 2 ^ 30
        ∧ field p 8 8 + field p 16 8 ≤ 2 ^ 48)))
    ∧ (let p := leBytes 8 (2 ^ 46 - 8192) ++ leBytes 1 6
      Carried benchR 0x5A 0 (rq 0xFFFFFFFF p) ∧ field p 0 8 % 4096 = 0 ∧ 6 ≤ field p 8 1 ∧ field p 8 1 ≤ 16
      ∧ field p 0 8 + 64 * 2 ^ field p 8 1 + 4096 ≤ 2 ^ 46) := by
  unfold Carried
  refine ⟨?_, ?_, ?_, ?_, ?_, ?_, ?_, ?_, ?_⟩
  any_goals decide +kernel
  · intro a b h
    simp only [List.mem_cons, List.not_mem_nil, or_false, Prod.mk.injEq] at h
    rcases h with ⟨rfl, rfl⟩ | ⟨rfl, rfl⟩ <;> decide +kernel
  · intro l u g h
    simp only [List.mem_cons, List.not_mem_nil, or_false, Prod.mk.injEq] at h
    rcases h with ⟨rfl, rfl, rfl⟩ | ⟨rfl, rfl, rfl⟩ <;> decide +kernel
  · intro a b c h
    simp only [List.mem_cons, List.not_mem_nil, or_false, Prod.mk.injEq] at h
    rcases h with ⟨rfl, rfl, rfl⟩ | ⟨rfl, rfl, rfl⟩ | ⟨rfl, rfl, rfl⟩ <;> decide +kernel

/-- The bench with transaction 3 open, begun at tick 0, with an entry staged. -/
def benchX (order : Nat) : State :=
  { bench [] with cfg := { State.reset.cfg with txns := [⟨3, 0, order, [((0x0310, 0), 40)]⟩], lastTxn := 3, order := 5, changes := [((0x0310, 0), 4)], decided := [((0x0310, 0), 30)] } }

/-- A request under transaction 3. -/
def rqT (p : Bytes) : MbReq := { rq 0xFFFFFFFF p with txn := 3 }

/-- A CFG_SET payload of one entry. -/
def setP (id target v : Nat) : Bytes := leBytes 4 1 ++ zeros 12 ++ leBytes 2 id ++ zeros 2 ++ leBytes 4 target ++ leBytes 8 v

/-- TransactionsDecideSettings: a transaction begun, an entry staged, one refused, a commit that decides and one in conflict, a
rollback, a read, an expiry at its first tick, a setting that takes effect. -/
theorem wit_transactions :
    (Carried (benchX 5) 0x40 0 (rq 0xFFFFFFFF []) ∧ (benchX 5).cfg.txns.length < 64)
    ∧ (∀ v, v ∈ [30, 200] →
      let p := setP 0x0310 0 v
      let t : Txn := ⟨3, 0, 5, [((0x0310, 0), 40)]⟩
      let staged := ((List.range 1).map (cfgEntry p)).foldl (fun l e => assocSet e.1 e.2 l) t.staged
      Carried (benchX 5) 0x41 0 (rqT p) ∧ txn? (benchX 5) 3 = some t ∧ field p 0 4 = 1 ∧ allZero p 4 12 = true
      ∧ entryFault (benchX 5) 0 p staged 0 = if v = 30 then none else some .descInvalid)
    ∧ (∀ o, o ∈ [3, 5] →
      let t : Txn := ⟨3, 0, o, [((0x0310, 0), 40)]⟩
      Carried (benchX o) 0x42 0 (rqT []) ∧ txn? (benchX o) 3 = some t
      ∧ commitFault (dropTxn (taken (benchX o) 0x42 0 (rqT [])) 3) t = if o = 5 then none else some (.txnConflict, 0))
    ∧ Carried (benchX 5) 0x43 0 (rqT [])
    ∧ (let p := leBytes 2 0x0310 ++ zeros 2 ++ leBytes 4 0
      Carried (benchX 5) 0x44 0 (rq 0xFFFFFFFF p) ∧ allZero p 2 2 = true ∧ targetOk (benchX 5) (field p 0 2) (field p 4 4) = true)
    ∧ (let s := { benchX 5 with pwr := { up.pwr with ticks := 125000001 } }
      txn? s 3 = some ⟨3, 0, 5, [((0x0310, 0), 40)]⟩ ∧ 0 + 125000001 ≤ s.now)
    ∧ (assoc (0x0310, 0) (benchX 5).cfg.decided = some 30 ∧ mayChange (benchX 5) 0x0310 30 = true) := by
  unfold Carried
  refine ⟨?_, ?_, ?_, ?_, ?_, ?_, ?_⟩
  any_goals decide +kernel


/-! ## Power, pins, sensors, Hammer, management -/

/-- A module at a power state. -/
def atSt (st : ModState) : State := { up with pwr := { up.pwr with st := st } }

/-- PinsAndTripsMoveTheModulePowerState: every pin edge in each state that its clauses tell apart, voltages at the limits, a trip. -/
theorem wit_pins :
    (atSt .off).pwr.st = .off ∧ up.pwr.en = true ∧ { (atSt .off) with pwr := { (atSt .off).pwr with en := false } }.pwr.en = false
    ∧ (let s := { (atSt .standby) with pwr := { (atSt .standby).pwr with en := false } }
      s.pwr.en = false ∧ s.pwr.st = .standby ∧ enAccepted s = true)
    ∧ (let s := { (atSt .standby) with pwr := { (atSt .standby).pwr with en := false, standbyTick := some 900 } }
      s.pwr.en = false ∧ enAccepted s = false)
    ∧ (up.pwr.st ≠ .off ∧ railsUp up = true ∧ (-500 ≤ (-500 : Int) ∧ (-500 : Int) ≤ 60000) ∧ ¬ (29000 ≤ (28999 : Int)) ∧ up.pwr.refOk = true)
    ∧ (sensorOk (.hbm 11) = true ∧ sensorOk (.die 1) = true ∧ sensorOk (.field 7) = true) := by
  decide +kernel

/-- StartUpWalksItsEightSteps: the first step and the last; images that fail in their active bank, with and without another. -/
theorem wit_startup :
    (atSt (.starting 1)).pwr.st = .starting 1 ∧ (atSt (.starting 8)).pwr.st = .starting 8 ∧ (atSt (.starting 3)).pwr.st = .starting 3
    ∧ (∃ i, i < 5 ∧ ([1].contains (i + 1) = true ∧ ((atSt (.starting 3)).rsp.images[i]?).bind otherBank = none))
    ∧ (∀ i, i < 5 → ([] : List Nat).contains (i + 1) = false ∧ (([] : List Nat).contains (i + 1) = true →
      ((atSt (.starting 3)).rsp.images[i]?).bind otherBank ≠ none)) := by
  refine ⟨rfl, rfl, rfl, ⟨0, by decide, by decide, ?_⟩, by simp⟩
  simp [atSt, up, State.reset, Rsp.reset, otherBank]

/-- The module with the Fields given. -/
def withFields (fs : List FieldState) (vs : List ((Nat × Nat) × Int)) : State :=
  { up with fields := fs, cfg := { State.reset.cfg with values := vs }, pwr := { up.pwr with dieT := [0, 0] } }

/-- A Field that has idled since tick 10. -/
def idleF (st : FieldSt) : FieldState := { FieldState.reset with st := st, idleSince := 10 }

/-- ThermalEmergencyAndPacer: entry at its limit, exit at its first tick, refresh at each stack's end, a sample, each case of the
procedure, a step, sleep and off at their first ticks, an entry and a wake that complete. -/
theorem wit_thermal :
    (sensorOk (.hbm 11) = true ∧ rspPowered up = true ∧ emergLimit up (.hbm 11) ≤ 105 ∧ up.pwr.emerg = false)
    ∧ (let s := { up with pwr := { up.pwr with emerg := true, coolSince := some 10, ticks := 12511 } }
      s.pwr.emerg = true ∧ s.pwr.coolSince = some 10 ∧ 10 + 12501 ≤ s.now)
    ∧ (up.pwr.doubled.length = 12 ∧ up.pwr.hbmT.length = 12)
    ∧ (7 < up.fields.length ∧ up.isUp = true ∧ (up.field 7).sampledAt + (withFields [] [((0x0317, 0), 1000)]).settingN 0x0317 0 ≤ up.now)
    ∧ (let x := { disp [] with cls := .sprint }
      runsSprint (benchAt x) 0 = true ∧ runsSprint up 0 = false)
    ∧ (let s := withFields [{ idleF .run with tj := 95 }] [((0x0315, 0), 95)]
      s.settingN 0x0315 0 ≤ (s.field 0).tj)
    ∧ (let s := withFields [{ idleF .run with tj := 90, step := 3 }] [((0x0315, 0), 95), ((0x0314, 0), 500)]
      runsSprint s 0 = false ∧ (s.field 0).tj + 5 ≤ s.settingN 0x0315 0 ∧ s.pwr.inputW + 50 ≤ s.settingN 0x0314 0)
    ∧ (let s := { withFields [{ idleF .run with tj := 94 }, { idleF .run with util := 3 }] [((0x0315, 0), 95), ((0x0314, 0), 500)] with pwr := { up.pwr with inputW := 501 } }
      runsSprint s 1 = false ∧ (s.field 1).tj < s.settingN 0x0315 0 ∧ s.settingN 0x0314 0 < s.pwr.inputW ∧ (cappedField s).isSome = true)
    ∧ (let s := withFields [{ idleF .run with toStep := some 4 }] []
      0 < s.fields.length ∧ (s.field 0).toStep = some 4)
    ∧ (let s := withFields [idleF .warm] [((0x031A, 0), 989), ((0x031B, 0), 989)]
      mayDeepen s 0 = true ∧ (s.field 0).st = .warm ∧ (s.field 0).idleSince + s.settingN 0x031A 0 + 1 ≤ s.now ∧ segHold s 0 = false
      ∧ (s.field 0).idleSince + s.settingN 0x031B 0 + 1 ≤ s.now)
    ∧ (∀ l, l ∈ [[], [SegMap.mk 0 1 none 0 0 true]] →
      let s := { withFields [{ idleF .warm with entering := some .off }] [] with mem := { MemState.reset with csMap := l } }
      0 < s.fields.length ∧ (s.field 0).entering = some .off ∧ segHold s 0 = !l.isEmpty)
    ∧ (∀ l, l ∈ [[], [disp []]] →
      let s := { withFields [{ idleF .off with waking := true }] [] with disps := l }
      0 < s.fields.length ∧ s.isUp = true ∧ (s.field 0).waking = true ∧ (s.field 0).entering = none ∧ fieldBusy s 0 = !l.isEmpty) := by
  decide +kernel

/-- RestIsEnteredAndLeft: a quiet module at the first tick, and each state of the way. -/
theorem wit_rest :
    (let s := withFields up.fields [((0x0313, 0), 1), ((0x031A, 0), 999)]
     s.isUp = true ∧ s.settingN 0x0313 0 = 1 ∧ quiet s = true ∧ s.pwr.quietSince + s.settingN 0x031A 0 + 1 ≤ s.now)
    ∧ (atSt .restEntry).pwr.st = .restEntry ∧ (atSt .restEntry).fields.length = 8 ∧ (atSt .rest).pwr.st = .rest
    ∧ (up.pwr.st ≠ .rest ∧ up.pwr.st ≠ .restEntry) ∧ (atSt .restWake).pwr.st = .restWake
    ∧ (∃ t, exec (.hostWindowAccess 0 5 (.read 1)) (atSt .restWake) = .next t) := by
  refine ⟨by decide +kernel, rfl, by decide +kernel, rfl, by decide +kernel, rfl, _, rfl⟩

/-- The module with two slots of the Hammer: slot 0 of words 0 to 1 with values, slot 1 sealed. -/
def upH : State :=
  { up with ham := { State.reset.ham with slots := [(0, BitVec.ofNat 32 (2 ^ 31 + 1)), (1, BitVec.ofNat 32 (2 ^ 31 + 2 ^ 30 + 2 * 32))],
                                          words := [(0, BitVec.ofNat 256 (2 ^ 256 - 1)), (1, 3)] } }

/-- A HAMMER_CMD of A, B, C and D in slot 0. -/
def macCmd (kind add out a b c d : Nat) : DWord :=
  BitVec.ofNat 64 (kind * 2 ^ 60 + add * 2 ^ 58 + out * 2 ^ 57 + a * 2 ^ 45 + b * 2 ^ 34 + c * 2 ^ 23 + d * 2 ^ 12)

/-- HammerAndEntropySourceFollowTheirRegisters: products with and without output, commands refused, slots written, in the way, sealed,
loaded; each state of the entropy source. -/
theorem wit_hammer :
    (rspPowered upH = true ∧ (∀ add, add < 2 → ∀ out, out < 2 → bits (macCmd 1 add out 0 1 0 1).toNat 63 60 = 1)
      ∧ hoperand upH.ham (bits (macCmd 1 1 1 0 1 0 1).toNat 55 45) = some 0 ∧ hoperand upH.ham (bits (macCmd 1 1 1 0 1 0 1).toNat 44 34) = some 1
      ∧ hoperand upH.ham (bits (macCmd 1 1 1 0 1 0 1).toNat 33 23) = some 0 ∧ hoperand upH.ham (bits (macCmd 1 1 1 0 1 0 1).toNat 22 12) = some 1)
    ∧ (bits (macCmd 2 0 0 0 1 0 1).toNat 63 60 ≠ 1 ∧ hoperand upH.ham (bits (macCmd 1 0 0 2 1 0 1).toNat 55 45) = none)
    ∧ (hSealed (hslot upH.ham 1) = true ∧ hSealed (hslot upH.ham 127) = false
      ∧ meets (hBase (2 ^ 31 + 32)) (hLen (2 ^ 31 + 32)) (hBase (hslot upH.ham 0)) (hLen (hslot upH.ham 0)) = true
      ∧ (∀ k, k < 128 → hValid (hslot upH.ham k) = true → meets (hBase (2 ^ 31 + 2047 * 32)) (hLen (2 ^ 31 + 2047 * 32)) (hBase (hslot upH.ham k)) (hLen (hslot upH.ham k)) = false))
    ∧ (hValid (hslot upH.ham 0) = true ∧ ([3, 4] : List (BitVec 256)).length ≤ hLen (hslot upH.ham 0) ∧ hBase (hslot upH.ham 0) + 2 ≤ 2048)
    ∧ upH.ham.privLock = false ∧ up.serves = true ∧ up.rsp.drbgOk = true
    ∧ (let s := { up with rsp := { up.rsp with drbgOk := false, drbgFailTick := 5, tagPools := [0, 7] }, pwr := { up.pwr with ticks := 1250006 } }
      s.rsp.drbgOk = false ∧ s.rsp.drbgFailTick + 1250001 ≤ s.now ∧ 0 ∈ s.rsp.tagPools ∧ s.serves = true)
    ∧ (up.pwr.st ≠ .off ∧ (atSt .standby).pwr.st = .standby ∧ up.pwr.st ≠ .standby) := by
  refine ⟨⟨?_, ?_, ?_, ?_, ?_, ?_⟩, ?_, ?_, ?_, ?_, ?_, rfl, ⟨rfl, ?_, ?_, ?_⟩, ?_⟩ <;> decide +kernel

/-! ## Debug, lifecycle, firmware, SPDM. Where a clause asks a signature or a key hash to verify, the verdict of the Config function
is the witness's own hypothesis: nothing evaluates it. -/

/-- A module in LC_STATE 0 to 3 with a live nonce of zeros and a serial number of zeros. -/
def upLc (lc : Nat) : State :=
  { up with rsp := { up.rsp with serial := zeros 16, nonces := [(zeros 32, 1000)], fuses := { up.rsp.fuses with prov := (decide (1 ≤ lc), decide (1 ≤ lc)), sec := (lc == 2, lc == 2), ret := (lc == 3, lc == 3) } } }

/-- DebugReachesWhatTheLifecycleAllows: reach in each state; targets reached and not; a challenge; units halted. -/
theorem wit_debug :
    debugReach (upLc 0) = .opened ∧ debugReach (upLc 1) = .locked ∧ debugReach (atSt .standby) = .closed
    ∧ drbgReady up = true
    ∧ (∀ x, x ∈ [DbgTarget.hbm 0x200000, .coreStore 15 (2 ^ 21 - 8), .scalar 15 31, .loop 15 3, .arith 15, .rspRam 0, .hammerWord 2047] → dbgReaches (upLc 0) x = true)
    ∧ (dbgReaches (upLc 0) (.coreStore 127 0) = false ∧ dbgReaches (upLc 0) (.loop 15 4) = false ∧ dbgReaches (upLc 0) (.scalar 0 32) = false)
    ∧ (dbgHalts (upLc 0) (.core 15) = true ∧ dbgHalts (upLc 0) (.core 16) = false)
    ∧ wordSealed upH.ham 2 = true := by
  refine ⟨?_, ?_, ?_, ?_, ?_, ?_, ?_, ?_⟩
  all_goals decide +kernel

/-- A token of a KIND under KEY_SET 0 for the bench's serial number and nonce. -/
def tok (kind : Nat) : Bytes :=
  leBytes 4 0x0960A292 ++ leBytes 1 1 ++ leBytes 1 kind ++ zeros 98 ++ zeros 4 ++ (if kind = 4 then sha384 [] else zeros 48)

/-- A token passes the checks of R366. -/
theorem token_ok {s : State} {t : Bytes}
    (h1 : (field t 0 4 == 0x0960A292 && field t 4 1 == 1 && [1, 2, 3, 4, 0x10].contains (field t 5 1) && allZero t 7 1 && allZero t 156 100
      && allZero t 17300 108 && (field t 6 1 != 0x20 || field t 5 1 == 0x10) && (field t 5 1 == 4 || (field t 104 4 == 0 && allZero t 108 48)) && decide (field t 104 4 ≤ 4096)
      && (field t 5 1 == 2 || allZero t 56 48)) = true)
    (h2 : (slice t 8 16 == slice s.rsp.serial 0 16 && nonceLive s (slice t 24 32)) = true)
    (h3 : (if field t 6 1 == 0x20 then !s.rsp.fuses.ownerDebug.isEmpty && keyHash t == s.rsp.fuses.ownerDebug
      else decide (field t 6 1 < 4) && !bit s.rsp.fuses.tokenRevoke (field t 6 1) && keyHash t == Config.tokenKeyHash (field t 6 1)) = true)
    (h4 : signed2 t = true) (h5 : (field t 5 1 == 4 && slice t 108 48 != sha384 (slice t 17408 (field t 104 4))) = false) :
    tokenFault s t = none := by
  unfold tokenFault
  simp only [h1, h2, h3, h4, h5, Bool.not_true, Bool.false_eq_true, if_false]

/-- LifecycleTokensBlowTheirFuses, DebugReachesWhatTheLifecycleAllows: a token of each kind in the state that takes it, where its
signatures verify and its key is that of KEY_SET 0. -/
theorem wit_tokens (kind lc : Nat) (h : (kind, lc) ∈ [(1, 0), (2, 1), (3, 2), (4, 1), (0x10, 2)]) (hs : signed2 (tok kind) = true)
    (hk : keyHash (tok kind) = Config.tokenKeyHash 0) :
    let s := { upLc lc with rsp := { (upLc lc).rsp with devCert := if kind = 4 then none else some [] } }
    tokenFault s (tok kind) = none ∧ debugReach s ≠ .closed ∧ s.rsp.restartDue = false ∧ field (tok kind) 5 1 = kind ∧ lcState s = lc
      ∧ s.ctxs = [] ∧ s.sys.joined = false ∧ hasIdentity s = (lc == 1 || lc == 2) ∧ s.rsp.fuses.udsLock = true ∧ s.rsp.fuses.udsOk = true
      ∧ s.rsp.devCert.isSome = (kind != 4) := by
  simp only [List.mem_cons, List.not_mem_nil, or_false, Prod.mk.injEq] at h
  have e : field (tok kind) 6 1 = 0 := by
    rcases h with ⟨rfl, rfl⟩ | ⟨rfl, rfl⟩ | ⟨rfl, rfl⟩ | ⟨rfl, rfl⟩ | ⟨rfl, rfl⟩ <;> decide +kernel
  refine ⟨token_ok ?_ ?_ ?_ hs ?_, ?_⟩
  · rcases h with ⟨rfl, rfl⟩ | ⟨rfl, rfl⟩ | ⟨rfl, rfl⟩ | ⟨rfl, rfl⟩ | ⟨rfl, rfl⟩ <;> decide +kernel
  · rcases h with ⟨rfl, rfl⟩ | ⟨rfl, rfl⟩ | ⟨rfl, rfl⟩ | ⟨rfl, rfl⟩ | ⟨rfl, rfl⟩ <;> decide +kernel
  · simp only [e, hk, beq_self_eq_true, Bool.and_true]
    rfl
  · rcases h with ⟨rfl, rfl⟩ | ⟨rfl, rfl⟩ | ⟨rfl, rfl⟩ | ⟨rfl, rfl⟩ | ⟨rfl, rfl⟩ <;> decide +kernel
  · rcases h with ⟨rfl, rfl⟩ | ⟨rfl, rfl⟩ | ⟨rfl, rfl⟩ | ⟨rfl, rfl⟩ | ⟨rfl, rfl⟩ <;> decide +kernel

/-- The bytes of an image of a class with an empty body, under KEY_SET 0, for every lifecycle state. -/
def imgHead (cls : Nat) : Bytes :=
  leBytes 4 0x0960A291 ++ leBytes 1 1 ++ leBytes 1 cls ++ zeros 2 ++ leBytes 4 3 ++ zeros 12 ++ leBytes 1 15 ++ zeros 7 ++ sha384 [] ++ zeros 20

/-- An image passes the checks of R366. -/
theorem fw_ok {s : State} {b : Bank}
    (h1 : (field b.head 0 4 == 0x0960A291 && field b.head 4 1 == 1 && decide (1 ≤ field b.head 5 1) && decide (field b.head 5 1 ≤ 5)
      && decide (field b.head 7 1 < 2) && allZero b.head 25 7 && allZero b.head 96 160 && allZero b.head 17300 108 && decide (field b.head 8 4 ≤ 64)
      && field b.head 12 4 % 64 == 0 && decide (field b.head 12 4 ≤ 2 ^ 24) && b.body.length == field b.head 12 4) = true)
    (h2 : (bit (field b.head 24 1) (lcState s) && (allZero b.head 80 16 || slice b.head 80 16 == slice s.rsp.serial 0 16)) = true)
    (h3 : (imageKeyOk s (field b.head 6 1) && keyHash b.head == Config.imageKeyHash (field b.head 6 1)) = true) (h4 : signed2 b.head = true)
    (h5 : (slice b.head 32 48 != sha384 b.body) = false) (h6 : ¬ field b.head 8 4 < s.rsp.fuses.minSvn) : fwFault s b false = none := by
  unfold fwFault
  simp only [h1, h2, h3, h4, h5, h6, Bool.not_true, Bool.false_eq_true, if_false, Bool.or_false]

/-- A bank of a class. -/
def bank (cls : Nat) : Bank := ⟨imgHead cls, []⟩

/-- The module whose classes each hold an image in their other bank. -/
def upFw : State :=
  { up with rsp := { up.rsp with images := (List.range 5).map (fun i => ⟨some (bank (i + 1)), some (bank (i + 1)), false⟩) } }

/-- FirmwareIsStagedActivatedAndNeverOlder: an image in companion memory; activation of a class that restarts and of one that swaps
live; the live swap; where the signatures verify and the key is that of KEY_SET 0. -/
theorem wit_firmware (cls : Nat) (h : cls ∈ [1, 3, 4, 5]) (hs : signed2 (bank cls).head = true)
    (hk : keyHash (bank cls).head = Config.imageKeyHash 0) :
    (let r := rq 0xFFFFFFFF (imageMeas (bank cls))
     let s := if cls = 1 then { upFw with rsp := { upFw.rsp with images := [⟨some (bank 1), some (bank 1), false⟩] } }
       else { upFw with rsp := { upFw.rsp with images := List.replicate (cls - 1) ⟨none, none, false⟩ ++ [⟨some (bank cls), some (bank cls), false⟩] } }
     Carried s 0x61 0 r ∧ s.rsp.restartDue = false ∧ stagedClass (taken s 0x61 0 r) (slice r.payload 0 48) = some (cls - 1, bank cls)
      ∧ fwFault (taken s 0x61 0 r) (bank cls) false = none ∧ s.ctxs = [] ∧ s.sys.joined = false)
    ∧ (let s := upFw.setMb 0 { upFw.mb 0 with wait := some (.fwSwap cls) }
      s.mbs.any (fun x => x.2.wait == some (.fwSwap cls)) = true ∧ (s.rsp.images[cls - 1]?).bind otherBank = some (bank cls)) := by
  simp only [List.mem_cons, List.not_mem_nil, or_false] at h
  have e : field (bank cls).head 6 1 = 0 := by rcases h with rfl | rfl | rfl | rfl <;> decide +kernel
  refine ⟨⟨?_, ?_, ?_, fw_ok ?_ ?_ ?_ hs ?_ ?_, ?_⟩, ?_⟩
  · unfold Carried
    rcases h with rfl | rfl | rfl | rfl <;> decide +kernel
  · rcases h with rfl | rfl | rfl | rfl <;> decide +kernel
  · rcases h with rfl | rfl | rfl | rfl <;> decide +kernel
  · rcases h with rfl | rfl | rfl | rfl <;> decide +kernel
  · rcases h with rfl | rfl | rfl | rfl <;> decide +kernel
  · simp only [e, hk, beq_self_eq_true, Bool.and_true]
    rcases h with rfl | rfl | rfl | rfl <;> rfl
  · rcases h with rfl | rfl | rfl | rfl <;> decide +kernel
  · rcases h with rfl | rfl | rfl | rfl <;> decide +kernel
  · rcases h with rfl | rfl | rfl | rfl <;> decide +kernel
  · rcases h with rfl | rfl | rfl | rfl <;> decide +kernel

/-- Companion memory that holds an image of class 1 at offset 0; COMP_WAYS is 0, so that the caches keep no line of it. -/
def compImg : State :=
  { up with mem := { MemState.reset with comp := memPut [] 0 (imgHead 1) }, cfg := { State.reset.cfg with values := [((0x0203, 0), 0), ((0x0203, 1), 0)] } }

/-- Reads of companion memory that no cache holds or keeps change nothing. -/
theorem quiet_reads (m : MemState) (w : Ways) (hc : m.cache = []) (hw : ∀ n, w.compAt n = 0) (ps : List (Nat × Nat × Nat)) (acc : Bytes)
    (h : ∀ p, p ∈ ps → isCompLine p.1 = true) :
    ps.foldl (fun (acc : Bytes × MemState) p =>
      let (d, m) := lineRead acc.2 w hintNormal p.1
      (acc.1 ++ slice d p.2.1 p.2.2, m)) (acc, m)
      = (acc ++ (ps.map (fun p => slice (memRead m.comp (p.1 * 64 - compBase) 64) p.2.1 p.2.2)).flatten, m) := by
  induction ps generalizing acc with
  | nil => simp
  | cons p ps ih =>
    have e : lineRead m w hintNormal p.1 = (memRead m.comp (p.1 * 64 - compBase) 64, m) := by
      simp [lineRead, hc, cacheAlloc, backRead, hw, h p (by simp), hintNormal, hintKeep]
    simp only [List.foldl_cons, e]
    rw [ih _ (fun q hq => h q (by simp [hq]))]
    simp

/-- The bytes of that image. -/
def imgBytes : Bytes := imgHead 1 ++ zeros 17308

/-- A line of that image. -/
def imgLine (p : Nat × Nat × Nat) : Bytes := slice (memRead compImg.mem.comp (p.1 * 64 - compBase) 64) p.2.1 p.2.2

/-- The lines of that image: two, and zeros. -/
theorem staged_lines : ([] ++ ((linePieces (17408 / 64 + 2) compBase 17408).map imgLine).flatten : Bytes) = imgBytes := by
  have h : (linePieces (17408 / 64 + 2) compBase 17408).map imgLine = [slice (imgHead 1) 0 64, slice (imgHead 1) 64 64] ++ List.replicate 270 (zeros 64) := by
    decide +kernel
  have e : slice (imgHead 1) 0 64 ++ slice (imgHead 1) 64 64 = imgHead 1 ++ zeros 28 := by decide +kernel
  rw [h]
  simp only [List.flatten_append, zeros, List.flatten_replicate_replicate, List.nil_append, List.flatten_cons, List.flatten_nil, List.append_nil]
  rw [e, List.append_assoc]
  simp only [imgBytes, zeros, List.replicate_append_replicate]

/-- No way of either die keeps a line of companion memory. -/
theorem comp_ways (n : Nat) : compImg.ways.compAt n = 0 := by
  have h : compImg.ways.comp = [0, 0] := by decide +kernel
  unfold Ways.compAt
  rw [h]
  match lineDie n with
  | 0 | 1 | _ + 2 => rfl

/-- The bytes of that image read back. -/
theorem staged : devRead compImg.mem (compImg.ways) hintNormal compBase 17408 = (imgBytes, compImg.mem) := by
  unfold devRead
  rw [quiet_reads _ _ rfl comp_ways _ _ (by decide +kernel)]
  exact congrArg (fun x => (x, compImg.mem)) staged_lines

/-- FirmwareIsStagedActivatedAndNeverOlder: FW_STAGE of that image, the smallest one. -/
theorem wit_stage (hs : signed2 (bankOf imgBytes).head = true) (hk : keyHash (bankOf imgBytes).head = Config.imageKeyHash 0) :
    let r := rq 0xFFFFFFFF (leBytes 8 0 ++ leBytes 4 17408)
    let t := taken compImg 0x60 0 r
    Carried compImg 0x60 0 r ∧ inComp (compBase + field r.payload 0 8) 17408 = true ∧ field r.payload 8 4 = 17408
      ∧ devRead t.mem (t.ways) hintNormal (compBase + field r.payload 0 8) (field r.payload 8 4) = (imgBytes, t.mem)
      ∧ fwFault t (bankOf imgBytes) false = none := by
  have e : field (bankOf imgBytes).head 6 1 = 0 := by decide +kernel
  have ea : compBase + field (leBytes 8 0 ++ leBytes 4 17408) 0 8 = compBase := by decide +kernel
  have en : field (leBytes 8 0 ++ leBytes 4 17408) 8 4 = 17408 := by decide +kernel
  refine ⟨?_, ?_, ?_, ?_, fw_ok ?_ ?_ ?_ hs ?_ ?_⟩
  · unfold Carried
    decide +kernel
  · decide +kernel
  · decide +kernel
  · show devRead compImg.mem (compImg.ways) hintNormal (compBase + field (leBytes 8 0 ++ leBytes 4 17408) 0 8)
      (field (leBytes 8 0 ++ leBytes 4 17408) 8 4) = _
    rw [ea, en]
    exact staged
  · decide +kernel
  · decide +kernel
  · simp only [e, hk, beq_self_eq_true, Bool.and_true]
    decide +kernel
  · decide +kernel
  · decide +kernel

/-! ## SPDM and vendor requests -/

/-- A module that has its certificates and holds the connections and sessions given; Mailbox 0 carries an SPDM request. -/
def upSp (conns : List SpdmConn) (ss : List Session) : State :=
  ({ upLc 2 with
      ctxs := [ctx1, { ctx1 with num := 2, secClass := 1, weightsKeys := [(3, zeros 32)] }]
      ports := [{ Port.reset with st := .attest }]
      fields := { FieldState.reset with st := .run } :: List.replicate 7 { FieldState.reset with st := .warm }
      mem := { MemState.reset with hbm := tables }
      pwr := { up.pwr with ticks := 2000000000 }
      rsp := { (upLc 2).rsp with devCert := some [7], aliasCert := some [1], keysPresent := true, drbgTick := 2000000000, conns := conns, sessions := ss } } : State).setMb 0
    { up.mb 0 with wait := some (.spdm none []) }

/-- A session on Mailbox 0 with the module. -/
def sess (n : Nat) (st : SpdmStep) : Session :=
  { num := n, via := .mailbox 0, ctx := none, step := st, lastTick := 400000000, lastBeat := 400000000, key := [], requester := false }

/-- The base point of P-384. -/
def basePoint : Bytes :=
  (leBytes 48 0xaa87ca22be8b05378eb1c71ef320ad746e1d3b628ba79b9859f741e082542a385502f25dbf55296c3a545e3872760ab7).reverse
    ++ (leBytes 48 0x3617de4a96262c6f5d9e98bf9292dc29f8f41dbd289a147ce9da3113b5f0b8c00a60b1ce1d7e819d7a431d7c90ea0e5f).reverse

/-- SpdmHandshakeAndSessionsAdvance: each connection step on a mailbox and on the last trained port, a chain, a signature, a share. -/
theorem wit_spdm_handshake :
    (∀ st, st ∈ [SpdmStep.start, .version, .caps, .algs] →
      let s := upSp [⟨.mailbox 0, st, [], none⟩] []
      spdmScope s (.mailbox 0) = some none ∧ (s.conn (.mailbox 0)).step = st)
    ∧ spdmScope (upSp [] []) (.port 0) = some none
    ∧ (let s := upSp [⟨.mailbox 0, .algs, [], none⟩] []
      chain s = some (Config.caChain ++ [7] ++ [1]) ∧ 0 < (Config.caChain ++ [7] ++ [1]).length ∧ canSign s = true
      ∧ drbgReady s = true ∧ onCurve basePoint = true ∧ sessionLeft s (.mailbox 0) = true
      ∧ sessionLeft s (.port 0) = true) := by
  refine ⟨?_, ?_, rfl, by simp, ?_⟩
  · intro st h
    simp only [List.mem_cons, List.not_mem_nil, or_false] at h
    rcases h with rfl | rfl | rfl | rfl <;> decide +kernel
  · decide +kernel
  · decide +kernel

/-- The length of zeros. -/
theorem many_zeros (n : Nat) : (zeros n).length = n := by simp [zeros]

/-- The chunk buffer of a carrier. -/
theorem chunk_of (c : Bytes) : ((upSp [⟨.mailbox 0, .algs, c, none⟩] []).conn (.mailbox 0)).chunk = c := rfl

/-- SpdmHandshakeAndSessionsAdvance: sessions in each step, the longest chunk, both parts of a deferred response, both timeouts at
their first ticks, an SPDM message carried by ATTEST_GET. -/
theorem wit_spdm_sessions :
    (∀ st, st ∈ [SpdmStep.session, .finished, .mixed] →
      let s := upSp [] [sess 9 st]
      spdmScope s (.mailbox 0) = some none ∧ session? s (.mailbox 0) none 9 = some (sess 9 st))
    ∧ (let s := upSp [⟨.mailbox 0, .algs, zeros 61508, none⟩] []
      (zeros 4028).length ≤ 4028 ∧ (s.conn (.mailbox 0)).chunk.length + (zeros 4028).length ≤ 65536)
    ∧ (let r := SpdmRsp.certificate (zeros 4029) 0
      let s := upSp [⟨.mailbox 0, .algs, [], some r⟩] []
      (s.conn (.mailbox 0)).deferred = some r ∧ 0 < partCount r ∧ 0 + 1 ≠ partCount r ∧ 1 < partCount r ∧ 1 + 1 = partCount r)
    ∧ (let x := { sess 9 .finished with requester := true, lastTick := 499999999, lastBeat := 1250000000 }
      let s := upSp [] [x]
      s.rsp.sessions.find? (fun y => y.num == 9) = some x ∧ x.lastTick + 1500000001 ≤ s.now ∧ x.requester = true
      ∧ x.lastBeat + 750000000 ≤ s.now)
    ∧ (Carried (upSp [] []) 0x50 1 (rq noCtx (zeros 4)) ∧ field (rq noCtx (zeros 4)).payload 2 2 = 0) := by
  refine ⟨?_, ?_, ?_, ?_, ?_, ?_⟩
  · intro st h
    simp only [List.mem_cons, List.not_mem_nil, or_false] at h
    rcases h with rfl | rfl | rfl <;> decide +kernel
  · have a := many_zeros 61508
    have b := many_zeros 4028
    exact ⟨by omega, by rw [chunk_of]; omega⟩
  · decide +kernel
  · decide +kernel
  · unfold Carried
    decide +kernel
  · decide +kernel

/-- LifecycleTokensBlowTheirFuses: the token of KIND 2 and DEBUG_CLOSE in a session with the module on Mailbox 0. -/
theorem wit_lc_session (hs : signed2 (tok 2) = true) (hk : keyHash (tok 2) = Config.tokenKeyHash 0) :
    let s := { upSp [] [sess 9 .mixed] with ctxs := [], rsp := { (upLc 1).rsp with devCert := some [], sessions := [sess 9 .mixed], nonces := [(zeros 32, 2000000000)] } }
    spdmScope s (.mailbox 0) = some none ∧ session? s (.mailbox 0) none 9 = some (sess 9 .mixed)
      ∧ moduleMail (.mailbox 0) (sess 9 .mixed) = true
      ∧ (∃ w, lcTokenOut (setSession s { sess 9 .mixed with lastTick := s.now }) (tok 2) false = some ⟨w, .ok []⟩)
      ∧ 2 ≤ lcState (upSp [] [sess 9 .mixed]) ∧ (upSp [] [sess 9 .mixed]).rsp.fuses.debugDisable = false := by
  intro s
  have e : field (tok 2) 6 1 = 0 := by decide +kernel
  have k : field (tok 2) 5 1 = 2 := by decide +kernel
  have t : tokenFault (setSession s { sess 9 .mixed with lastTick := s.now }) (tok 2) = none := by
    refine token_ok ?_ ?_ ?_ hs ?_
    · decide +kernel
    · decide +kernel
    · simp only [e, hk, beq_self_eq_true, Bool.and_true]
      decide +kernel
    · decide +kernel
  refine ⟨?_, ?_, ?_, ?_, ?_⟩
  · decide +kernel
  · decide +kernel
  · decide +kernel
  · simp only [lcTokenOut, t, k, beq_self_eq_true, if_true]
    exact ⟨_, rfl⟩
  · decide +kernel

/-- VendorRequestsProtectKeysAndWeights: each request in a session of the module or of a context of SEC_CLASS 1, the last key number,
a range of one record, frames that wait to be zeroed; both verdicts of decapsulation. -/
theorem wit_vendor :
    (let s := upSp [] [sess 9 .finished]
     session? s (.mailbox 0) none 9 = some (sess 9 .finished) ∧ (zeros 1568).length = 1568
      ∧ ((∃ ss, Config.kemDecaps s.rsp.fuses.uds (summary s) (zeros 1568) = some ss) ∨ Config.kemDecaps s.rsp.fuses.uds (summary s) (zeros 1568) = none))
    ∧ (let s := upSp [] [sess 9 .mixed]
      session? s (.mailbox 0) none 9 = some (sess 9 .mixed) ∧ moduleMail (.mailbox 0) (sess 9 .mixed) = true ∧ drbgReady s = true)
    ∧ (let x := { sess 9 .mixed with ctx := some 2 }
      let s := (upSp [] [x]).setMb 0 { up.mb 0 with wait := some (.spdm (some 2) []) }
      spdmScope s (.mailbox 0) = some (some 2) ∧ session? s (.mailbox 0) (some 2) 9 = some x
      ∧ ∃ c, weightsCtx s x = some c ∧ assoc 3 c.weightsKeys = some (zeros 32) ∧ (65536 * 8191) % 65536 = 0
        ∧ ∃ u f, unwrapFrom (zeros 32) c.num 0 0 65536 1 0 (dropOthersXlate (setSession s { x with lastTick := s.now }) c.num) = (u, f))
    ∧ (let s := { upSp [] [] with rsp := { (upSp [] []).rsp with zeroing := [(2, [0x20, 0x21])] } }
      s.rsp.zeroing.find? (fun y => y.1 == 2) = some (2, [0x20, 0x21])) := by
  refine ⟨⟨?_, ?_, ?_⟩, ?_, ⟨?_, ?_, ⟨{ ctx1 with num := 2, secClass := 1, weightsKeys := [(3, zeros 32)] }, ?_, ?_, ?_, _, _, Prod.mk.eta.symm⟩⟩, ?_⟩
  · decide +kernel
  · decide +kernel
  · cases Config.kemDecaps (upSp [] [sess 9 .finished]).rsp.fuses.uds (summary (upSp [] [sess 9 .finished])) (zeros 1568) with
    | none => exact .inr rfl
    | some ss => exact .inl ⟨ss, rfl⟩
  all_goals decide +kernel

/-! ## The host, links and ports -/

/-- The bench with window 63 over the 65,536 bytes of page 1 (the frame of the key) and a window of no rights. -/
def benchHw : State :=
  { bench [] with hwins := [(63, ⟨1, 0x10000, 65536, true, true⟩), (0, ⟨1, 0x10000, 65536, false, false⟩)], hwinStatus := [(63, ⟨5, 3⟩)] }

/-- HostWindowsRegistersAndSnoops: a read, a write and compare-and-swaps of each size at the end of a window, a refusal of each. -/
theorem wit_host_windows :
    (benchHw.linkUp = true ∧ benchHw.isUp = true ∧ marshalUp benchHw = true)
    ∧ (∃ xs, hwinSpans benchHw 63 65535 1 true false = .ok xs ∧ True)
    ∧ (∃ xs, hwinSpans benchHw 63 65534 2 false true = .ok xs ∧ True)
    ∧ (hwinSpans benchHw 0 0 8 true false = .error .accessDenied ∧ hwinSpans benchHw 63 65536 2 false true = .error .accessDenied)
    ∧ (oneLine 65535 1 = true ∧ oneLine 65534 2 = true ∧ oneLine 0 8 = true ∧ oneLine 65536 2 = true)
    ∧ (∀ n, n ∈ [1, 4, 8] → ∃ xs, hwinSpans benchHw 63 (65536 - n) n true true = .ok xs ∧ (xs.all (fun x => !inComp x.addr x.len) = true)
      ∧ (65536 - n) % n = 0)
    ∧ assoc 63 benchHw.hwinStatus = some ⟨5, 3⟩ := by
  refine ⟨?_, ex_ok ?_ trivial, ex_ok ?_ trivial, ⟨?_, ?_⟩, ?_, ?_, ?_⟩
  any_goals decide +kernel
  · intro n h
    simp only [List.mem_cons, List.not_mem_nil, or_false] at h
    rcases h with rfl | rfl | rfl <;> exact ex_ok (by decide +kernel) (by decide +kernel)

/-- HostWindowsRegistersAndSnoops: an access of a whole line that wakes a module in REST; the last port; a size that no register has. -/
theorem wit_host_rest :
    (let s := { benchHw with pwr := { up.pwr with st := .rest } }
     s.linkUp = true ∧ s.serves = true ∧ s.isUp = false ∧ oneLine 64 (hwBytes (.write (zeros 64))) = true ∧ oneLine 0 (hwBytes (.read 64)) = true)
    ∧ 15 < up.ports.length ∧ rspPowered up = true
    ∧ ¬ ((16 = 4 ∨ 16 = 8 ∨ 16 = 16) ∧ 8 % 16 = 0) := by
  decide +kernel

/-- HostWindowsRegistersAndSnoops: the last doorbell, the ends of a request slot, a status bit, snoops of the first and the last line. -/
theorem wit_host_registers :
    (32767 < 32768 ∧ 4095 + 1 ≤ 4096 ∧ bit 4 2 = true ∧ (1 : Nat) % 2 ^ 32 ≠ 0)
    ∧ (∀ line, line ∈ [compBase / 64, compEnd / 64 - 1] → isCompLine line = true ∧ line * 64 + 64 ≤ compEnd ∧ (zeros 64).length = 64) := by
  decide +kernel

/-- LinkErrorsRetryThenFall: a link up before its last retry and at its fall; a link that may retrain at its first tick and at the first of all. -/
theorem wit_link :
    (up.linkUp = true ∧ { up with linkRetry := 7 }.linkRetry < 8 ∧ 8 ≤ { up with linkRetry := 8 }.linkRetry)
    ∧ (let s := { up with linkUp := false, linkTick := 10, pwr := { up.pwr with ticks := 125011 } }
      s.linkUp = false ∧ linkPowered s = true ∧ s.linkTick + 125001 ≤ s.now)
    ∧ (let s := { up with linkUp := false, linkTick := 0 }
      s.linkUp = false ∧ linkPowered s = true ∧ s.linkTick = 0) := by
  decide +kernel

/-- A module of System 5 as module 2, all sixteen of whose ports are the one given. -/
def upPort (p : Port) : State :=
  { up with
    ports := List.replicate 16 p
    sys := { State.reset.sys with joined := true, systemId := 5, modNum := 2, anchor := zeros 48, digests := [zeros 48] }
    cfg := { State.reset.cfg with values := [((0x0305, 0), 0xFFFF), ((0x0306, 0), 97), ((0x0307, 0), 97), ((0x0308, 0), 97)] }
    fields := { FieldState.reset with st := .run } :: List.replicate 7 { FieldState.reset with st := .warm } }

/-- A port in a state. -/
def pt (st : PortSt) : Port := { Port.reset with st := st, peer := 3, since := 10, peerJoined := true, peerSystem := 5 }

/-- LinkErrorsRetryThenFall: ports that are trained, at the first failed flit and at the last; active ones, silent and not. -/
theorem wit_link_ports :
    (∀ st, st ∈ [PortSt.ident, .attest, .admitting, .active, .refused, .leaving] → ∀ k, k ∈ [0, 7, 8] →
      let s := upPort { pt st with flitFails := k }
      (15 < 16 ∧ 15 < s.ports.length) ∧ serPowered s = true ∧ trained (s.port 15) = true ∧ (s.port 15).flitFails = k)
    ∧ (let s := upPort { pt .active with lastGood := 900 }
      (s.port 15).st = .active ∧ (s.port 15).lastGood + s.settingN 0x0306 0 + 1 ≤ s.unitTicks 4 (15 / 8)) := by
  refine ⟨by decide +kernel, by decide +kernel, unit_ticks (by decide +kernel)⟩

/-- An IDENT message of a peer that has joined, for port 15 (R253). -/
def peerIdent : Bytes :=
  leBytes 4 0x0960A2F1 ++ leBytes 1 1 ++ leBytes 1 1 ++ leBytes 1 1 ++ leBytes 1 63 ++ leBytes 8 5 ++ zeros 64 ++ leBytes 2 15 ++ zeros 14

/-- PortsAreDiscoveredAdmittedAndLeft: training from DOWN, each outcome of training, of IDENT, of attestation and of admission, the
timeouts at their first ticks. -/
theorem wit_ports :
    (let s := { upPort (pt .down) with pwr := { up.pwr with ticks := 125011 } }
     15 < s.ports.length ∧ serPowered s = true ∧ portEnabled s 15 = true ∧ (s.port 15).st = .down ∧ (s.port 15).since + 125001 ≤ s.now)
    ∧ (let s := { upPort (pt .training) with pwr := { up.pwr with ticks := 6250010 } }
      (s.port 15).st = .training ∧ s.now ≤ (s.port 15).since + 6250000)
    ∧ (((upPort (pt .ident)).port 15).st = .ident ∧ identOk 15 peerIdent = true ∧ identOk 14 peerIdent = false)
    ∧ (let s := { upPort (pt .ident) with pwr := { up.pwr with ticks := 12511 } }
      (s.port 15).st = .ident ∧ (s.port 15).since + 12501 ≤ s.now)
    ∧ (let s := { upPort (pt .attest) with pwr := { up.pwr with ticks := 107 }, sys := State.reset.sys }
      (s.port 15).st = .attest ∧ s.now ≤ (s.port 15).since + s.settingN 0x0307 0 ∧ s.sys.joined = false)
    ∧ (let s := { upPort (pt .attest) with pwr := { up.pwr with ticks := 108 } }
      (s.port 15).since + s.settingN 0x0307 0 + 1 ≤ s.now)
    ∧ (let s := upPort { pt .admitting with attested := some ⟨true, zeros 48, zeros 48⟩ }
      (s.port 15).st = .admitting ∧ s.sys.joined = true ∧ (s.port 15).peerJoined = true ∧ s.sys.leaving = none ∧ Sys2Proof.Machine.admits s 15 = true)
    ∧ (let s := upPort { pt .admitting with attested := none }
      Sys2Proof.Machine.admits s 15 = false)
    ∧ (let s := { upPort (pt .ident) with pwr := { up.pwr with ticks := 12510 } }
      (s.port 15).st = .ident ∧ s.now ≤ (s.port 15).since + 12500)
    ∧ (let s := { upPort (pt .refused) with ports := List.replicate 15 (pt .refused) ++ [pt .active] }
      s.ports.length = 16 ∧ carries (s.port 15) = true ∧ carries (s.port 0) = false) := by
  decide +kernel

/-- PortsAreDiscoveredAdmittedAndLeft: joining, leaving drained and not, the drain's end at its first tick, Mark signals here and to a peer. -/
theorem wit_systems :
    (let p := leBytes 8 5 ++ leBytes 1 63 ++ leBytes 1 8 ++ zeros 6 ++ zeros 48 ++ zeros 384
     let s := { up with sys := State.reset.sys }
     Carried s 0x58 0 (rq noCtx p) ∧ field p 0 8 ≠ 0 ∧ field p 8 1 < 64 ∧ 1 ≤ field p 9 1 ∧ field p 9 1 ≤ 8 ∧ allZero p 10 6 = true
      ∧ lcState s ≠ 0 ∧ lcState s ≠ 3 ∧ s.sys.joined = false)
    ∧ (let s := upPort (pt .active)
      Carried s 0x59 0 (rq noCtx []) ∧ drained (beginLeave (taken s 0x59 0 (rq noCtx []))) = true)
    ∧ (let s := { upPort (pt .active) with mgrs := [(.core 0, ⟨[], [{ num := 1, window := 9, sender := ⟨some 3, 0, 1, 1⟩, first := 0, count := 8, puts := [], returned := 0, lastTick := 0, port := some 15 }], 1, 0, 0⟩)] }
      Carried s 0x59 0 (rq noCtx []) ∧ drained (beginLeave (taken s 0x59 0 (rq noCtx []))) = false)
    ∧ (let s := upPort (pt .leaving)
      let t := { s with sys := { s.sys with leaving := some 902 } }
      t.sys.leaving = some 902 ∧ 902 + t.settingN 0x0308 0 + 1 ≤ t.now)
    ∧ (let p := leBytes 2 7 ++ leBytes 1 0 ++ leBytes 1 0 ++ leBytes 4 1
      let s := { benchK (disp []) 0 with cfg := { State.reset.cfg with values := [((0x0106, 1), 100), ((0x0107, 1), 8)] } }
      Carried s 0x32 0 (rq 1 p) ∧ field p 2 1 = 0 ∧ ctxMark s 1 (field p 0 2) = some 107 ∧ markOwned s 107 1 = true ∧ (s.mark 107).hostSig = true)
    ∧ (let p := leBytes 2 7 ++ leBytes 1 1 ++ leBytes 1 3 ++ leBytes 4 1
      let s := { upPort (pt .active) with ctxs := [ctx1] }
      Carried s 0x32 0 (rq 1 p) ∧ field p 2 1 = 1 ∧ field p 3 1 < 64 ∧ (bundle s (field p 3 1)).head? = some 0) := by
  unfold Carried
  decide +kernel

/-! ## Collectives, errors, and the arithmetic of words -/

/-- The record of an exact reduction with id 9 over modules 2 and 3, of 1,024 words of the first prime of the context, that a Mark
triggers at 1 and another tells done (R271): KIND, the home, the parent, the children. -/
def cRec (kind home parent children : Nat) : Bytes :=
  leBytes 4 9 ++ leBytes 1 kind ++ leBytes 1 0 ++ leBytes 1 0 ++ leBytes 1 home ++ leBytes 8 12 ++ leBytes 1 parent ++ zeros 7
    ++ leBytes 8 children ++ leBytes 4 1024 ++ leBytes 4 0 ++ leBytes 4 8192 ++ leBytes 4 1024 ++ leBytes 1 0 ++ leBytes 1 1
    ++ zeros 6 ++ leBytes 2 6 ++ leBytes 2 7 ++ leBytes 4 1 ++ leBytes 4 16384 ++ zeros 60

/-- A collective of context 1 in a state. -/
def coll (st : CollSt) (r : Bytes) : Coll :=
  { ref := ⟨1, 9⟩, record := r, st := st, fault := none, attempt := 1, round := 4, members := 12, answered := [], chunks := [],
    doneChunks := [], sentDown := [], credits := [], acks := [], poisoned := false, lent := true, since := 10 }

/-- Module 2 with module 3 beside it and the collectives given. -/
def upC (ks : List Coll) : State :=
  { upPort (pt .active) with
    ctxs := [ctx1], colls := ks
    cfg := { State.reset.cfg with values := [((0x0143, 1), 4), ((0x0106, 1), 100), ((0x0107, 1), 8), ((0x0309, 0), 97)] }
    mem := { MemState.reset with ifMap := [⟨0, 1, none, 0, 5, true⟩] } }

/-- A message from module 3 for the round in progress. -/
def cm (ahead : Nat) : CMsg := { fromMod := 3, fromCtx := 4, coll := ⟨1, 9⟩, round := 5, attempt := 1 + ahead }

/-- CollectivesAreCreatedSetUpAndCommitted: creation at home and below it; the answer to SETUP of a parent and of a child. -/
theorem wit_coll_create :
    (Carried (upC []) 0x38 0 (rq 1 (cRec 1 2 0xFF 8)) ∧ collFault (upC []) ctx1 (cRec 1 2 0xFF 8) = none)
    ∧ (let r := rq 1 (leBytes 4 9)
      let s := upC [coll .idle (cRec 1 2 0xFF 8)]
      s.coll? ⟨1, field r.payload 0 4⟩ = some (coll .idle (cRec 1 2 0xFF 8)) ∧ Carried s 0x3A 0 r ∧ Carried s 0x39 0 r)
    ∧ (let k := coll .setup (cRec 1 3 3 0)
      let s := upC [k]
      s.isUp = true ∧ isPeer s 3 = true ∧ s.coll? ⟨1, 9⟩ = some k ∧ (neighbours k.record).contains 3 = true ∧ s.settingN (0x0140 + 3) 1 = 4
      ∧ (0xFF = s.sys.modNum ↔ bit (cChildren k.record) 3 = true) ∧ (bit 4 s.sys.modNum = true ↔ cParent k.record = 3))
    ∧ (let k := coll .setup (cRec 1 2 0xFF 8)
      let s := upC [k]
      s.coll? ⟨1, 9⟩ = some k ∧ (neighbours k.record).contains 3 = true
      ∧ (2 = s.sys.modNum ↔ bit (cChildren k.record) 3 = true) ∧ (bit 0 s.sys.modNum = true ↔ cParent k.record = 3)) := by
  unfold Carried
  decide +kernel

/-- CollectivesAreCreatedSetUpAndCommitted, CollectivesReFormAfterADeparture: messages from the parent and from a child that are taken,
and ones of another attempt; each state and attempt that the clauses tell apart. -/
theorem wit_coll_messages :
    (∀ st, st ∈ [CollSt.idle, .running, .reforming] → ∀ a, a ∈ [1, 255] →
      let k := { coll st (cRec 1 3 3 0) with attempt := a }
      CollTaken (upC [k]) { cm 0 with attempt := a } k true current ∧ collFor (upC [k]) { cm 0 with attempt := 2 } = some k ∧ lives k = true
        ∧ (2 ≠ k.attempt) ∧ cMulti k.record = false ∧ cParent k.record = 3 ∧ atHome k = false)
    ∧ (let k := coll .running (cRec 1 2 0xFF 8)
      let s := upC [k]
      CollTaken s (cm 0) k (cMulti k.record) inAttempt ∧ k.lent = true ∧ k.st = .running ∧ s.ctx? k.ref.ctx = some ctx1 ∧ 0 < chunkCount k.record
        ∧ chunkLen k.record 0 = 1024 ∧ atHome k = true ∧ (maskMods (cChildren k.record)).contains 3 = true)
    ∧ (let k := coll .running (cRec 2 3 3 0)
      let s := upC [k]
      CollTaken s (cm 0) k (cMulti k.record) inAttempt ∧ cMulti k.record = true)
    ∧ (let k := coll .running (cRec 2 2 0xFF 8)
      CollTaken (upC [k]) (cm 0) k (!cMulti k.record) inAttempt)
    ∧ (let k := coll .running (cRec 1 1 1 8)
      CollTaken (upC [k]) (cm 0) k false inAttempt ∧ atHome k = false)
    ∧ (let k := coll .reforming (cRec 1 3 3 0)
      CollTaken (upC [k]) (cm 1) k true nextAttempt ∧ k.st = .reforming)
    ∧ (let k := coll .reforming (cRec 1 2 0xFF 8)
      let s := upC [k]
      s.coll? ⟨1, 9⟩ = some k ∧ s.isUp = true ∧ atHome k = true ∧ k.since + s.settingN 0x0309 0 + 1 ≤ s.now ∧ armed s k = false
      ∧ (kids { k with members := 12 }).all (isPeer s) = true) := by
  unfold CollTaken
  decide +kernel

/-- CollectivesAreCreatedSetUpAndCommitted, CollectivesReFormAfterADeparture: a DEPART of the attempt in progress and of the round before,
messages that are stale, a module in REST, neighbours that are peers and ones that are not. -/
theorem wit_coll_stale :
    (∀ home, home ∈ [1, 2] →
      let k := coll .running (cRec 1 home (if home = 2 then 0xFF else 1) 8)
      CollTaken (upC [k]) (cm 0) k false departTime ∧ CollTaken (upC [k]) { cm 0 with round := 4 } k false departTime
        ∧ atHome k = (home == 2) ∧ k.members &&& 8 ≠ 0 ∧ k.members &&& 1 = 0
        ∧ current { cm 0 with round := 3 } k = false ∧ collFor (upC [k]) { cm 0 with round := 3 } = some k ∧ lives k = true)
    ∧ (let k := coll .reforming (cRec 2 2 0xFF 8)
      collFor (upC [k]) (cm 0) = some k ∧ lives k = true ∧ cMulti k.record = true ∧ (maskMods (cChildren k.record)).contains 3 = true)
    ∧ (let s := { upC [] with pwr := { up.pwr with st := .rest } }
      s.serves = true ∧ s.isUp = false ∧ lanes s 3 ≠ [] ∧ lanes s 4 = [] ∧ lanes (upC []) 3 ≠ []) := by
  unfold CollTaken
  refine ⟨?_, ?_, ?_⟩ <;> decide +kernel

/-- A cell, a lane and a load: the least and the greatest odd word primes' sizes and a prime of the tables. -/
theorem wit_words :
    (∀ q, q ∈ [2 ^ 23 + 1, 998244353, 2 ^ 31 - 1] → WordPrime q
      ∧ q + 1023 * ((q - 1) * (q - 1)) < 2 ^ 72 ∧ 2 * q - 1 < 2 * q)
    ∧ (let r := cRec 1 2 0xFF 8
      cPlain r = false ∧ WordPrime (elemPrime ctx1 r 1023))
    ∧ (1 % 2 = 1 ∧ 1 < 2 * 2 ^ 1 ∧ (2 ^ 18 - 1) % 2 = 1 ∧ 2 ^ 18 - 1 < 2 * 2 ^ 17 ∧ ([3, 4] : List Nat).length = 2 ^ 1) := by
  unfold WordPrime
  decide +kernel

/-- Redc at q itself, where the canonical residue is 0, and off it. -/
theorem wit_store :
    redc 998244353 (0 * (2 ^ 64 % 998244353)) ≠ 998244353 ∧ storeM 998244353 0 = 0 := by
  decide +kernel

/-- ModularLoadsAndStoresKeepResidues: a stream that converts, of two limbs of two words, and one that does not. -/
theorem wit_stream_words (t : Stream) :
    ({ t with conv := true, primes := [8392193, 8394753], limbWords := 2 } : Stream).conv = true ∧ (zeros 16).length = 4 * 4
      ∧ ({ t with conv := false } : Stream).conv = false := by
  exact ⟨rfl, by decide, rfl⟩

/-- A module whose Field 7 is fenced by hard fences, in service or under test. -/
def upFence (ph : FieldPhase) : State :=
  { up with
    fields := List.replicate 7 { FieldState.reset with st := .run } ++ [{ FieldState.reset with st := .warm, phase := ph }]
    fence := { up.fence with fields := [⟨7, true, true⟩] } }

/-- ErrorsAreRecordedFencedAndRecovered: the last unit of each kind, the first and the last corrected retry and the ninth, recovery, test, scrubbing at the
ends of device memory and of a Core Store, the mirror. -/
theorem wit_errors :
    (up.isUp = true ∧ coreOn up 15 = true ∧ coreOn up (4 * 3) = true ∧ (up.field 0).st ≠ .off ∧ rspPowered up = true
      ∧ (∀ y, y ∈ up.fence.fields → y.unit ≠ 0))
    ∧ ((bench []).ctx? 1 = some ctx1 ∧ (bench []).serves = true)
    ∧ ((upFence .service).fields.length = 8 ∧ mayRecover (upFence .service) 7 = true)
    ∧ (((upFence .test).field 7).phase = .test)
    ∧ (inHbm (1024 * 0) 1024 = true ∧ inHbm (1024 * 201326591) 1024 = true ∧ 2047 < 2048)
    ∧ (let s := { up with ev := { up.ev with on := true }, ports := [{ Port.reset with st := .active }] }
      s.ev.on = true ∧ s.linkUp = true ∧ s.serves = true ∧ 0 < s.ports.length) := by
  decide +kernel

/-- FirstInstructionStampsTheStart: a dispatch before its first instruction, one after it, none. -/
theorem wit_first :
    (let x := disp []
     (benchAt x).disp? d0 = some x ∧ x.tStart = none)
    ∧ (let x := { disp [] with tStart := some 3 }
      (benchAt x).disp? d0 = some x ∧ x.tStart ≠ none)
    ∧ (bench []).disp? ⟨1, 1⟩ = none := by
  decide +kernel

/-- CommandsLeaveTheQueueAlone, FusesOnlyMoveForward, StepsKeepTheMemoriesCanonical, StepRunsTheCommandInFront: a step that answers a
next state from a canonical memory. -/
theorem wit_steps :
    (∃ t, exec .restEntry up = .next t) ∧ (∃ t, step { up with pending := [.restEntry] } = .next t) ∧ MemState.ok (bench []).mem = true := by
  exact ⟨⟨_, rfl⟩, ⟨_, rfl⟩, by decide +kernel⟩

/-- OnlyRatingsStopTheModel: an input voltage at a rating and beyond it; nothing waits in a queue that idles. -/
theorem wit_limits :
    (∃ t, exec (.inputTrip 60000) up = .next t) ∧ (∃ f, exec (.inputTrip 60001) up = .fault f) ∧ up.pending = [] :=
  ⟨⟨_, rfl⟩, ⟨_, rfl⟩, rfl⟩

/-! ## Well-formedness: for each check a term that it refuses, and one at its edge that it lets through -/

/-- All of these are refused. -/
def refused (is : List Instr) : Bool := is.all (fun i => !wellFormed i)

/-- All of these are let through. -/
def allowed (is : List Instr) : Bool := is.all wellFormed

/-- A vector form and a tile form at the edges of their ranges. -/
def v0 : VForm :=
  { ety := .mod32, vd := 63, va := 63, vb := 63, vc := 63, tileA := false, scalB := false, colStep := false, mod := 63, ml := some 3,
    cnt := 4096, subop := 7, ob3 := 65535 }

/-- The same of a tile. -/
def m0 : MmForm :=
  { rdr := .lit 1, ta := 3, tb := 3, acc := false, clr := false, mod := 63, k := 4096, g := 256, xoff := 65535, woff := 65535, narrow := false }

/-- A message at the edges of its ranges. -/
def c0 : CMsg := ⟨63, 2 ^ 20 - 1, ⟨2 ^ 20 - 1, 2 ^ 32 - 1⟩, 2 ^ 32 - 1, 255⟩

/-- The dispatch, the handle and the scalar of an instruction. -/
theorem test_wf_operands :
    refused ([⟨32768, 1⟩, ⟨0, 0⟩, ⟨0, 2 ^ 64⟩].map Instr.ret) = true ∧ allowed ([⟨32767, 1⟩, ⟨0, 2 ^ 64 - 1⟩].map Instr.ret) = true
    ∧ refused ([HRef.lit 0, .lit (2 ^ 20), .reg 32].map (fun h => .cvtRescale d0 h .null)) = true
    ∧ allowed ([HRef.lit 1, .lit (2 ^ 20 - 1), .reg 31, .null].map (fun h => .cvtRescale d0 .null h)) = true
    ∧ refused [.scAdd d0 32 0 (.imm 0), .scAdd d0 0 32 (.imm 0), .scAdd d0 0 0 (.reg 32), .scLi d0 32 0 false, .scLd d0 0 (.lit 1) 0 (some 32),
      .scSt d0 0 (.lit 1) (2 ^ 32) none, .scHdr d0 0 (.lit 1) 9, .scArg d0 0 4, .scCtr d0 0 6, .scStat d0 0 (some 32), .scLrd d0 0 4,
      .scLwr d0 4 0, .hdrW d0 .null .null 32 0, .hdrW d0 .null .null 0 32] = true
    ∧ allowed [.scAdd d0 31 31 (.reg 31), .scHdr d0 31 (.reg 31) 8, .scCtr d0 31 5, .scLrd d0 31 3] = true := by
  decide +kernel

/-- The fields of the matrix, vector, transform and key-switch forms. -/
theorem test_wf_forms :
    refused [.nttF d0 .null .null .null 64 0, .nttI d0 .null .null .null 0 128, .auto d0 .null .null 0 0 true (.imm (2 ^ 18)),
      .auto d0 .null .null 0 0 true (.reg 32), .cvtUp d0 .null .null 64 0 0 0, .cvtUp d0 .null .null 0 128 0 0, .cvtDown d0 .null .null 0 0 64 0,
      .cvtDown d0 .null .null 0 0 0 128, .cvtDrain d0 .null 4 false, .ksPrep d0 .null .null 4, .ksIp d0 .null .null .null (.lit 0) (.imm 3),
      .ksFin d0 .null .null .null (.reg 32) false, .vMulObj d0 .null .null (.lit 0), .xpose d0 .null .null [0, 1, 2, 3],
      .xpose d0 .null .null [0, 1, 2, 3, 8]] = true
    ∧ refused ([{ v0 with vd := 64 }, { v0 with va := 64 }, { v0 with vb := 64 }, { v0 with vc := 64 }, { v0 with mod := 64 }, { v0 with ml := some 4 },
      { v0 with cnt := 0 }, { v0 with cnt := 4097 }, { v0 with subop := 8 }, { v0 with ob3 := 65536 }].map (Instr.vAdd d0)) = true
    ∧ refused ([{ m0 with rdr := .lit 0 }, { m0 with ta := 4 }, { m0 with tb := 4 }, { m0 with mod := 64 }, { m0 with k := 0 }, { m0 with k := 4097 },
      { m0 with g := 0 }, { m0 with g := 257 }, { m0 with xoff := 65536 }, { m0 with woff := 65536 }].map (Instr.cvtMm d0)) = true
    ∧ allowed [.vAdd d0 v0, .vRed d0 { v0 with cnt := 1, ml := none }, .cvtMm d0 m0, .xpose d0 .null .null [7, 7, 7, 7, 7]] = true := by
  decide +kernel

/-- The fields of streams, windows, atomics, control flow, Marks and hand-off. -/
theorem test_wf_moves :
    refused ([{ sf 1 0 0 false 0 0 0 with rm := .lit 0 }, { sf 1 0 0 false 0 0 0 with other := .vr 64 }, { sf 1 0 0 false 0 0 0 with other := .rn (.lit 0) },
      sf 1 0 (2 ^ 24) false 0 0 0, sf 1 0 0 false 64 0 0, sf 1 0 0 false 0 4096 0, sf 1 0 0 false 0 0 128,
      { sf 1 0 0 false 0 0 0 with tmod := 64 }].map (Instr.sLd d0)) = true
    ∧ refused ([(⟨.lit 1, 4096, 0, 0, 0, false, false, 0⟩ : WForm), ⟨.lit 1, 0, 128, 0, 0, false, false, 0⟩, ⟨.lit 1, 0, 0, 128, 0, false, false, 0⟩,
      ⟨.lit 1, 0, 0, 0, 64, false, false, 0⟩, ⟨.lit 1, 0, 0, 0, 0, false, false, 16384⟩, ⟨.lit 0, 0, 0, 0, 0, false, false, 0⟩].map (Instr.winOpen d0)) = true
    ∧ refused ([af 0 0 0, { af 1 0 0 with vs := 64 }, { af 1 0 0 with vf := 64 }, af 1 64 0, { af 1 0 0 with cnt := 0 }, { af 1 0 0 with cnt := 4097 },
      af 1 0 64].map (Instr.atAddM d0)) = true
    ∧ refused [.winClose d0 .null 4096, .br d0 .eq 0 (.imm 0) (2 ^ 31), .br d0 .eq 0 (.imm 0) (-(2 ^ 31) - 1), .lap d0 4 (.imm 0) 0, .call d0 (2 ^ 31),
      .markSig d0 16384 (.imm 0), .markWait d0 0 0 (.short 32), .markWait d0 0 0 (.long (2 ^ 32) 0), .markWait d0 0 0 (.long 0 (2 ^ 32)),
      .handoffOut d0 .null 256 0 0, .handoffOut d0 .null 0 16384 0, .handoffOut d0 .null 0 0 16384, .handoffIn d0 .null 256 (.imm 0), .rel d0 65 0 0,
      .rel d0 64 1 0, .rel d0 0 0 16] = true
    ∧ allowed [.sLd d0 { sf 1 63 (2 ^ 24 - 1) false 63 4095 127 with tmod := 63 }, .winOpen d0 ⟨.lit 1, 4095, 127, 127, 63, false, false, 16383⟩,
      .atCas d0 { af 1 63 63 with cnt := 4096 }, .br d0 .eq 31 (.imm 0) (-(2 ^ 31)), .rel d0 64 0 15, .handoffOut d0 .null 255 16383 16383] = true := by
  decide +kernel

/-- The numbers of units, queues, contexts, messages and requests. -/
theorem test_wf_events :
    refused [.streamUnitCommit d0 256 .none, .pageWalk (.core 128) 1 0 .read, .pageWalk (.die 2) 1 0 .read, .pageWalk (.core 0) (2 ^ 20) 0 .read,
      .pageWalk (.core 0) 1 (2 ^ 48) .read, .crReq (.core 128) ⟨none, 0, 1, 1⟩ 0 0, .crReq (.die 2) ⟨none, 0, 1, 1⟩ 0 0, .crReq (.core 0) ⟨some 64, 0, 1, 1⟩ 0 0,
      .crReq (.core 0) ⟨none, 128, 1, 1⟩ 0 0, .crReq (.core 0) ⟨none, 0, 2 ^ 20, 1⟩ 0 0, .crReq (.core 0) ⟨none, 0, 1, 2 ^ 32⟩ 0 0,
      .crReq (.core 0) ⟨none, 0, 1, 1⟩ 4096 0, .crReq (.core 0) ⟨none, 0, 1, 1⟩ 0 1025, .crReturn d0 0 0 0 0, .crReturn d0 0 (2 ^ 32) 0 1, .crGrant d0 0 (2 ^ 32) 0 0 1 .granted, .crGrant d0 0 0 0 0 257 .granted, .placeWindowExpiry 2, .pageFillComplete 1 0 [64], .creditTimeout (.core 0) (2 ^ 32),
      .crCancel (.stream d0 256) 0 .epoch, .crCancel (.manager (.core 128) ⟨none, 0, 1, 1⟩) 0 .epoch] = true
    ∧ refused [.queueDoorbell 32768 0, .queueDoorbell 0 (2 ^ 64), .dispatchRecordRead 32768, .dispatchPlace d0 [32], .dispatchPlace d0 [3, 3],
      .dispatchPlace d0 [3, 2], .hostMarkSig (zeros 15), .peerMarkSignal 16 0 0 0 0, .peerMarkSignal 0 0 16384 0 0, .peerMarkAck 0 (2 ^ 32) true,
      .keyCopyComplete 2 0 0 0 0, .resWindowExpiry 2, .cfgTxnExpiry (2 ^ 32), .fwLiveSwap 2, .fwLiveSwap 6] = true
    ∧ refused ([rq 1 (zeros 4033), { rq 1 [] with flags := 65536 }, { rq 1 [] with seq := 2 ^ 64 }, { rq 1 [] with ctx := 2 ^ 32 },
      { rq 1 [] with txn := 2 ^ 32 }].map (Instr.ctxInfo 0)) = true
    ∧ refused ([Instr.ctxCreate, .ctxDestroy, .ctxInfo, .keysetLoad, .keysetUnload, .keyPin, .progLoad, .progUnload, .descSet, .descFree, .queueCreate,
      .queueDestroy, .spadRelease, .hwinSet, .markRead, .markSet, .markSignal, .collCreate, .collDestroy, .collStatus, .cfgBegin, .cfgSet, .cfgCommit,
      .cfgRollback, .cfgGet, .resultGet, .resultRelease, .abort, .attestGet, .systemJoin, .systemLeave, .eventRing, .fwStage, .fwActivate].map
        (fun f => f 64 (rq 1 []))) = true
    ∧ allowed [.queueDoorbell 32767 (2 ^ 64 - 1), .dispatchPlace d0 [0, 31], .ctxInfo 63 (rq 1 (zeros 4032)), .fwLiveSwap 5] = true := by
  decide +kernel

/-- The numbers of windows, lines, ports, collectives, sensors, targets, SPDM messages and units. -/
theorem test_wf_outside :
    refused [.registerWrite (.aperture (2 ^ 26)) 4 0, .registerWrite (.aperture 0) 4097 0, .registerWrite (.aperture 4) 8 0, .registerWrite (.manager (.core 128)) 8 0, .registerWrite (.port 16) 8 0, .hostWindowAccess 64 0 (.read 1), .hostWindowAccess 0 (2 ^ 30) (.read 1),
      .hostWindowAccess 0 0 (.read 0), .hostWindowAccess 0 0 (.write []), .hostWindowCas 0 0 2 0 0, .companionSnoopInvalidate (2 ^ 42) (zeros 64),
      .companionSnoopInvalidate 0 (zeros 63), .flitCrcError (some 16), .ident 0 (zeros 95), .portAttestComplete 0 ⟨true, zeros 47, zeros 48⟩,
      .portAttestComplete 0 ⟨true, zeros 48, zeros 47⟩, .dmaTransferComplete 0 4, .startupStepComplete (.unitFails 256 0),
      .startupStepComplete (.unitFails 0 65536), .startupStepComplete (.images [0] []), .startupStepComplete (.images [] [6])] = true
    ∧ refused ([(⟨64, 0, ⟨1, 1⟩, 1, 1⟩ : CMsg), ⟨0, 2 ^ 20, ⟨1, 1⟩, 1, 1⟩, ⟨0, 0, ⟨2 ^ 20, 1⟩, 1, 1⟩, ⟨0, 0, ⟨1, 2 ^ 32⟩, 1, 1⟩, ⟨0, 0, ⟨1, 1⟩, 2 ^ 32, 1⟩,
      ⟨0, 0, ⟨1, 1⟩, 1, 256⟩].map Instr.collCommit) = true
    ∧ refused [.collSetup c0 (zeros 47) 0 0 0, .collSetup c0 (zeros 48) 256 0 0, .collChunkAck c0 64, .collDepart c0 (2 ^ 64),
      .thermalTrip (.die 2) 0, .thermalTrip (.field 8) 0, .thermalTrip (.hbm 12) 0, .thermalTrip (.die 0) 65536, .hbmDoubledRefresh 12 0,
      .dbgRead (.hbm (2 ^ 48)), .dbgRead (.coreStore 128 0), .dbgRead (.coreStore 0 (2 ^ 21)), .dbgRead (.scalar 0 32), .dbgRead (.hammerWord 2048),
      .dbgHalt (.core 128), .patrolScrub (.hbm 201326592) .none, .patrolScrub (.coreStore 0 2048) .none, .patrolScrub (.infield 2 0) .none,
      .patrolScrub (.opBuf 0 4 0) .none] = true
    ∧ refused [.getVersion (.mailbox 64), .getVersion (.port 16), .getCertificate (.port 0) 8 0 0, .challenge (.port 0) 0 (zeros 31),
      .getMeasurements (.port 0) 256 true (zeros 32), .keyExchange (.port 0) (zeros 95), .finish (.port 0) 0 (zeros 47), .heartbeat (.port 0) (2 ^ 32),
      .chunkSend (.port 0) true (zeros 4029), .kemMix (.port 0) 0 (zeros 1567), .weightsKey (.port 0) 0 256 (zeros 32), .weightsKey (.port 0) 0 0 (zeros 31),
      .weightsUnwrap (.port 0) 0 0 0 0 0 (2 ^ 32), .hslotWrite 128 0, .keyLoad 0 (List.replicate 17 0), .smbFieldPwr 8, .smbWrite 256, .fabricRetry 32 1,
      .fabricRetry 0 0, .fabricRetry 0 10, .controlUe 128, .contextUe (2 ^ 20), .fieldPllLoss 8, .moduleFault 256 0, .moduleFault 0 65536,
      .fieldRecovery 8, .relayControlUe 32, .sealedFrameZeroed (2 ^ 20)] = true
    ∧ allowed [.collChunkAck c0 63, .hostWindowCas 63 (2 ^ 30 - 1) 8 0 0, .thermalTrip (.hbm 11) 65535, .patrolScrub (.infield 1 262143) .none,
      .getVersion (.port 15), .fabricRetry 31 9, .keyLoad 127 (List.replicate 16 0)] = true := by
  decide +kernel

/-! ## Values that the spec's examples and the standards it names give -/

/-- The example under R12: at N = 2^16 position 259 holds k = 49,280; R93's example: k' = 2 lies at position 16,384. -/
theorem test_eval_positions : evalIndex 16 259 = 49280 ∧ evalIndex 16 0 = 0 ∧ evalPos 16 2 = 16384 ∧ evalPos 16 49280 = 259 := by
  decide +kernel

/-- The example under R37: core 94 is on die 1, in Field 5, in Relay 23. -/
theorem test_core_94 : dieOf 94 = 1 ∧ fieldOf 94 = 5 ∧ relayOf 94 = 23 := by decide

/-- The example under R58 on q = 998,244,353. -/
theorem test_lanes : addM 998244353 1500000000 1800000000 = 1303511294 ∧ subM 998244353 1500000000 1800000000 = 1696488706 := by decide

/-- The example under R52: 701 BF16 elements from V10 take V10 and V11. -/
theorem test_group : groupRegs 10 2 701 = [10, 11] := by decide

/-- The parameter record of the examples at N = 2^16: 48 Q-limbs, 12 P-limbs, 4 digits. -/
def p16 : Bytes := leBytes 4 7 ++ leBytes 1 0 ++ leBytes 1 0 ++ leBytes 1 16 ++ leBytes 1 48 ++ leBytes 1 12 ++ leBytes 1 4 ++ zeros 310

/-- The examples under R23, R25 and R27: bodies of 20 MiB, 26 MiB and 1,202 KiB, a key of 60 MiB. -/
theorem test_bodies :
    bodyLen p16 { rlwe 40 1 with logN := 16 } = 20971520 ∧ bodyLen p16 { rlwe 40 1 with logN := 16, pPresent := 1 } = 26 * 2 ^ 20
    ∧ bodyLen p16 { rlwe 0 0 with kind := kindLwe, lweN := 1024, lweCount := 300 } = 1202 * 1024
    ∧ keyBodyLen p16 (leBytes 4 0 ++ zeros 60) = 60 * 2 ^ 20 := by
  decide +kernel

/-- The example under R160: which of the descriptors are well nested. -/
theorem test_nesting :
    [[(256, 256), (256, 1)], [(4096, -1)]].all (fun d => wellNested (leBytes 8 0 ++ leBytes 2 0 ++ leBytes 1 d.length ++ zeros 5
        ++ slice ((d.map (fun x : Nat × Int => leBytes 8 (x.1 + (x.2 % 2 ^ 40).toNat * 2 ^ 24))).flatten) 0 40 ++ zeros 8)) = true
    ∧ [[(256, 1), (2, 128)], [(3, 2), (2, 3)]].all (fun d => !wellNested (mkDesc 0 1 0 0 1 d 0)) = true := by
  decide +kernel

/-- The example under R119: the fresh noise term is 19.5 bits, t = 65,537 counts 16.0625 bits, the modulus switch gives 47.8125. -/
theorem test_budget : nFresh 32768 = 312 ∧ log16Up 65537 = 257 ∧ nsum 763 506 = 765 := by decide +kernel

/-- R57: the Montgomery form of 1 is 2^32 mod q, and a store of it gives 1; a store never gives q. -/
theorem test_montgomery : loadM 998244353 1 % 998244353 = 2 ^ 32 % 998244353 ∧ storeM 998244353 (loadM 998244353 1) = 1
    ∧ storeM 998244353 0 = 0 := by
  decide

/-- IEEE 754 (R64): 1 + 1 = 2, the smallest ulp of 1 rounds to even, an infinity less itself is the quiet NaN. -/
theorem test_fp32 : (fAdd fbF32 0x3F800000 0x3F800000).1 = 0x40000000 ∧ (fAdd fbF32 0x3F800000 0x33800000).1 = 0x3F800000
    ∧ (fAdd fbF32 0x7F800000 0xFF800000).1 = 0x7FC00000 := by
  decide +kernel

/-- The check value of CRC-32C, of the nine digits. -/
theorem test_crc32c : crc32c [0x31, 0x32, 0x33, 0x34, 0x35, 0x36, 0x37, 0x38, 0x39] = 0xE3069283 := by decide +kernel

/-- FIPS 180-4: SHA-384 of the three letters abc. -/
theorem test_sha384 : beNat (sha384 [0x61, 0x62, 0x63]) =
    0xcb00753f45a35e8bb5a03d699ac65007272c32ab0eded1631a8b605a43ff5bed8086072ba1e7cc2358baeca134c825a7 := by
  decide +kernel

/-- R229 to R233: a step of sc.add wraps modulo 2^64, writes S5 and goes on; sc.shl counts by six bits. -/
theorem test_sc_step :
    (let s := { bench [kW 0x41 5 6 7 0 0] with cores := [] }
     match exec (.scAdd d0 5 6 (.reg 7)) { s with pending := [] } with
      | .next t => (t.core 0).sget 5 == 0
      | _ => false) = true
    ∧ scValue .shl 1 65 = 2 ∧ scValue .add 0xFFFFFFFFFFFFFFFF 2 = 1 := by
  decide +kernel

/-- A word of each family of AVIS, written bit by bit from its format (R217 to R225), decodes to its instruction. -/
theorem test_decode :
    decodeAvis d0 (0x41 * 2 ^ 57 + 5 * 2 ^ 49 + 6 * 2 ^ 44 + 7 * 2 ^ 39) 0 = some (.scAdd d0 5 6 (.reg 7), 1)
    ∧ decodeAvis d0 (0x53 * 2 ^ 57) 0 = some (.ret d0, 1)
    ∧ decodeAvis d0 (0x62 * 2 ^ 57 + 8 * 2 ^ 48 + 16 * 2 ^ 41 + 5 * 2 ^ 37) 0 = some (.rel d0 8 16 5, 1)
    ∧ decodeAvis d0 (0x7F * 2 ^ 57) 0 = none := by
  decide +kernel

end Sys2Proof.Tests
end

/-! SUPPORT. The host interface: what a slice of a patched record is, what a good flit leaves as it was, what each host window
access comes to, and what a write to each register of the aperture does (R4, R314, R316, R319 to R323). -/

namespace Sys2Proof.Machine

/-! Slices of records. -/

@[simp] theorem slice_length (bs : Bytes) (off n : Nat) : (slice bs off n).length = n := by
  simp only [slice, zeros, List.length_append, List.length_replicate, List.length_take, List.length_drop]
  omega

@[simp] theorem leBytes_length (n v : Nat) : (leBytes n v).length = n := by
  induction n generalizing v with
  | zero => rfl
  | succ n ih => simp [leBytes, ih]

/-- Byte i of a slice is byte off + i of the record, or zero past its end. -/
theorem slice_getD (bs : Bytes) (off n i : Nat) (h : i < n) : (slice bs off n).getD i 0 = bs.getD (off + i) 0 := by
  simp only [slice, zeros, List.getD_eq_getElem?_getD, List.getElem?_append, List.length_take, List.length_drop,
    List.getElem?_take, List.getElem?_drop, List.getElem?_replicate]
  split
  · simp
  · rw [List.getElem?_eq_none (by omega)]
    split <;> rfl

/-- A slice is determined by its bytes. -/
theorem slice_eq_of_getD {bs v : Bytes} {off : Nat} (h : ∀ i, i < v.length → bs.getD (off + i) 0 = v.getD i 0) :
    slice bs off v.length = v := by
  refine List.ext_getElem (slice_length ..) fun i _ hi => ?_
  have := (slice_getD bs off v.length i hi).trans (h i hi)
  rwa [List.getD_eq_getElem _ _ (by simpa using hi), List.getD_eq_getElem _ _ hi] at this

/-- The bytes of a patched record: those given where they were put, the record's own elsewhere. -/
theorem patch_getD (bs v : Bytes) (off i : Nat) :
    (patch bs off v).getD i 0 = if off ≤ i ∧ i < off + v.length then v.getD (i - off) 0 else bs.getD i 0 := by
  unfold patch
  by_cases h1 : i < off
  · rw [List.append_assoc, List.getD_append _ _ _ _ (by simpa using h1), slice_getD _ _ _ _ h1, Nat.zero_add,
      if_neg (by omega)]
  · rw [List.append_assoc, List.getD_append_right _ _ _ _ (by simpa using h1), slice_length]
    by_cases h2 : i < off + v.length
    · rw [if_pos ⟨by omega, h2⟩, List.getD_append _ _ _ _ (by omega)]
    · rw [if_neg (by omega), List.getD_append_right _ _ _ _ (by omega), List.getD_eq_getElem?_getD, List.getElem?_drop,
        ← List.getD_eq_getElem?_getD]
      congr 1
      omega

/-- What a patch has put reads back. -/
theorem slice_patch_self (bs v : Bytes) (off : Nat) : slice (patch bs off v) off v.length = v :=
  slice_eq_of_getD fun i hi => by rw [patch_getD, if_pos (by omega), Nat.add_sub_cancel_left]

/-- A patch leaves what lies outside it. -/
theorem slice_patch_outside {bs v : Bytes} {off k n : Nat} (h : k + n ≤ off ∨ off + v.length ≤ k) :
    slice (patch bs off v) k n = slice bs k n := by
  have := slice_eq_of_getD (bs := patch bs off v) (v := slice bs k n) (off := k) fun i hi => by
    rw [slice_length] at hi
    rw [patch_getD, if_neg (by omega), slice_getD _ _ _ _ hi]
  rwa [slice_length] at this

/-- A slice within the first bytes of a record is a slice of the record. -/
theorem slice_slice_zero {bs : Bytes} {k n m : Nat} (h : k + n ≤ m) : slice (slice bs 0 m) k n = slice bs k n := by
  have := slice_eq_of_getD (bs := slice bs 0 m) (v := slice bs k n) (off := k) fun i hi => by
    rw [slice_length] at hi
    rw [slice_getD _ _ _ _ (by omega), Nat.zero_add, slice_getD _ _ _ _ hi]
  rwa [slice_length] at this

/-! What a good flit leaves as it was (R311): translation does not look at the count of retries. -/

@[simp] theorem linkHeard_mem (s : State) : (linkHeard s).mem = s.mem := rfl
@[simp] theorem linkHeard_linkUp (s : State) : (linkHeard s).linkUp = s.linkUp := rfl
theorem linkHeard_isReserved (s : State) : (linkHeard s).isReserved = s.isReserved := rfl
theorem linkHeard_sealedOther (s : State) : (linkHeard s).sealedOther = s.sealedOther := rfl

theorem walkFrom_linkHeard (s : State) (c : Ctx) (va : Nat) (acc : Access) (fuel : Nat) :
    walkFrom (linkHeard s) c va acc fuel = walkFrom s c va acc fuel := by
  induction fuel with
  | zero => rfl
  | succ fuel ih =>
    funext l table lines
    rw [walkFrom, walkFrom, ih, linkHeard_mem, linkHeard_linkUp, linkHeard_isReserved, linkHeard_sealedOther]

theorem xlate_linkHeard (s : State) (c : Ctx) (va : Nat) (acc : Access) : xlate (linkHeard s) c va acc = xlate s c va acc := by
  rw [xlate, xlate, walk, walk, walkFrom_linkHeard, linkHeard_linkUp]

theorem vaSpans_linkHeard (s : State) (c : Ctx) (acc : Access) (hint fuel va n : Nat) :
    vaSpans (linkHeard s) c acc hint fuel va n = vaSpans s c acc hint fuel va n := by
  induction fuel generalizing va n with
  | zero => rfl
  | succ fuel ih => simp only [vaSpans, ih, xlate_linkHeard]

/-- A host window reaches the same spans after a good flit. -/
theorem hwinSpans_linkHeard (s : State) (w off n : Nat) (rd wr : Bool) :
    hwinSpans (linkHeard s) w off n rd wr = hwinSpans s w off n rd wr := by
  simp only [hwinSpans, vaRange, vaSpans_linkHeard]; rfl

/-! Host windows (R316, R320). -/

section HostWindow

variable {s : State} {w off : Nat}

/-- An access that the link carries to a module that is up is served behind a good flit. -/
theorem exec_hostWindowAccess_read_ok {n : Nat} {xs : List Span} (hl : s.linkUp = true) (hu : s.isUp = true) (hw : w < 64)
    (ho : oneLine off n = true) (hx : hwinSpans s w off n true false = .ok xs) :
    exec (.hostWindowAccess w off (.read n)) s
      = .next ((touchReads (hwinWalk (linkHeard s) w .read xs) xs).emit (.hostRead (spansPeek s.mem xs))) := by
  simp [exec, execHostWindowAccess, hwBytes, hl, hu, hw, ho, hwinSpans_linkHeard, hx]

theorem exec_hostWindowAccess_read_refused {n : Nat} {f : FaultCode} (hl : s.linkUp = true) (hu : s.isUp = true) (hw : w < 64)
    (ho : oneLine off n = true) (hx : hwinSpans s w off n true false = .error f) :
    exec (.hostWindowAccess w off (.read n)) s
      = .next ((hwinRefused (linkHeard s) w f).emit (.hostRead (List.replicate n 0xFF))) := by
  simp [exec, execHostWindowAccess, hwBytes, hl, hu, hw, ho, hwinSpans_linkHeard, hx]

theorem exec_hostWindowAccess_write_ok {data : Bytes} {xs : List Span} (hl : s.linkUp = true) (hu : s.isUp = true) (hw : w < 64)
    (ho : oneLine off data.length = true) (hx : hwinSpans s w off data.length false true = .ok xs) :
    exec (.hostWindowAccess w off (.write data)) s = .next ((hwinWalk (linkHeard s) w .write xs).writeSpans xs data false) := by
  simp [exec, execHostWindowAccess, hwBytes, hl, hu, hw, ho, hwinSpans_linkHeard, hx]

theorem exec_hostWindowAccess_write_refused {data : Bytes} {f : FaultCode} (hl : s.linkUp = true) (hu : s.isUp = true)
    (hw : w < 64) (ho : oneLine off data.length = true) (hx : hwinSpans s w off data.length false true = .error f) :
    exec (.hostWindowAccess w off (.write data)) s = .next (hwinRefused (linkHeard s) w f) := by
  simp [exec, execHostWindowAccess, hwBytes, hl, hu, hw, ho, hwinSpans_linkHeard, hx]

/-- A compare-and-swap on device memory writes exactly where the old value is the one expected. -/
theorem exec_hostWindowCas_ok {size expect new : Nat} {xs : List Span} (hl : s.linkUp = true) (hu : s.isUp = true) (hw : w < 64)
    (hs : size = 1 ∨ size = 4 ∨ size = 8) (ha : off % size = 0) (hx : hwinSpans s w off size true true = .ok xs)
    (hc : ∀ x, x ∈ xs → inComp x.addr x.len = false) :
    let t := touchReads (hwinWalk (linkHeard s) w .write xs) xs
    let old := leNat (spansPeek s.mem xs)
    exec (.hostWindowCas w off size expect new) s
      = .next ((if old = expect % 2 ^ (8 * size) then t.writeSpans xs (leBytes size new) false else t).emit (.casOld old)) := by
  have hsz : ((size == 1 || size == 4 || size == 8) && off % size == 0) = true := by simpa [ha, or_assoc] using hs
  have hdev : ¬ xs.any (fun x => inComp x.addr x.len) = true := by simpa using hc
  simp only [exec, execHostWindowCas, hl, hu, hw, hsz, hwinSpans_linkHeard, hx, if_neg hdev, linkHeard_mem]
  simp

/-- What HWIN_STATUS_w holds after a refusal: the fault, and one refusal more. -/
theorem assoc_hwinRefused_self (s : State) (w : Nat) (f : FaultCode) : assoc w (hwinRefused s w f).hwinStatus
    = some ⟨f.code, min (((assoc w s.hwinStatus).getD ⟨0, 0⟩).refused + 1) (2 ^ 32 - 1)⟩ := by
  simp [hwinRefused, satInc]

theorem assoc_hwinRefused_other (s : State) {k w : Nat} (h : k ≠ w) (f : FaultCode) :
    assoc k (hwinRefused s w f).hwinStatus = assoc k s.hwinStatus :=
  assoc_assocSet_other h _ _

end HostWindow

/-! Accesses in REST (R402). -/

theorem wakeRest_mem (s : State) : (wakeRest s).mem = s.mem := by unfold wakeRest; split <;> rfl

theorem holdAtLink_mem (s : State) (i : Instr) : (s.holdAtLink i).mem = s.mem := by
  unfold State.holdAtLink
  split
  · exact wakeRest_mem s
  · rfl

theorem holdAtLink_atLink {s : State} (hs : s.serves = true) (hu : s.isUp = false) (i : Instr) :
    (s.holdAtLink i).atLink = s.atLink ++ [i] := by
  simp [State.holdAtLink, hs, hu]

theorem exec_hostWindowAccess_held {s : State} {w off : Nat} {a : HwAccess} (hl : s.linkUp = true) (hs : s.serves = true)
    (hu : s.isUp = false) (hw : w < 64) (ho : oneLine off (hwBytes a) = true) :
    exec (.hostWindowAccess w off a) s = .next (s.holdAtLink (.hostWindowAccess w off a)) := by
  simp [exec, execHostWindowAccess, hl, hs, hu, hw, ho]

theorem exec_hostWindowCas_held {s : State} {w off size expect new : Nat} (hl : s.linkUp = true) (hs : s.serves = true)
    (hu : s.isUp = false) (hw : w < 64) :
    exec (.hostWindowCas w off size expect new) s = .next (s.holdAtLink (.hostWindowCas w off size expect new)) := by
  simp [exec, execHostWindowCas, hl, hs, hu, hw]

/-! The register aperture (R319 to R323). -/

/-- A write that the link carries to a serving Marshal reaches the aperture behind a good flit. -/
theorem exec_registerWrite_aperture {s : State} (hl : s.linkUp = true) (hm : marshalUp s = true) (off n v : Nat) :
    exec (.registerWrite (.aperture off) n v) s = writeRegister off n v (linkHeard s) := by
  simp [exec, execRegisterWrite, hl, hm]

theorem regIndex_at (base : Nat) {stride i : Nat} (hs : 0 < stride) (hi : i < 64) :
    regIndex (base + stride * i) base stride = some i := by
  simp [regIndex, Nat.mul_div_cancel_left _ hs, hi]

theorem regIndex_past {off base stride : Nat} (hs : 0 < stride) (h : base + stride * 64 ≤ off) : regIndex off base stride = none := by
  have : 64 ≤ (off - base) / stride := (Nat.le_div_iff_mul_le hs).2 (by rw [Nat.mul_comm]; omega)
  simp [regIndex, Nat.not_lt.2 this]

theorem regIndex_between {off base stride : Nat} (h : (off - base) % stride ≠ 0) : regIndex off base stride = none := by
  simp [regIndex, h]

theorem regAccess_of_dvd {off n : Nat} (hn : n = 4 ∨ n = 8 ∨ n = 16) (h : off % n = 0) : regAccess off n = true := by
  simpa [regAccess, h, or_assoc] using hn

theorem regAccess_eq_false {off n : Nat} (h : ¬ ((n = 4 ∨ n = 8 ∨ n = 16) ∧ off % n = 0)) : regAccess off n = false := by
  simpa [regAccess, or_assoc] using h

theorem clearRefused_of_ne (x : RefStatus) {v : Nat} (hv : v % 2 ^ 32 ≠ 0) : clearRefused x v = { x with refused := 0 } := by
  simp only [clearRefused, beq_iff_eq, if_neg hv]

theorem writeRegister_hostSig (v : Nat) (s : State) (hv : v % 2 ^ 32 ≠ 0) :
    writeRegister 0x8 8 v s = .next { s with hostSig := { s.hostSig with refused := 0 } } := by
  simp [writeRegister, regAccess, clearRefused_of_ne _ hv]

theorem writeRegister_hostMarkSig (v : Nat) (s : State) :
    writeRegister 0x10 16 v s = execHostMarkSig (leBytes 16 v) s := by
  simp [writeRegister, regAccess]

theorem writeRegister_evtCons (v : Nat) (s : State) :
    writeRegister 0x24 4 v s = .next { s with ev := { s.ev with cons := v % 2 ^ 32 } } := by
  simp [writeRegister, regAccess]

theorem writeRegister_evtLost (v : Nat) (s : State) :
    writeRegister 0x28 4 v s = .next { s with ev := { s.ev with lost := 0 } } := by
  simp [writeRegister, regAccess]

theorem writeRegister_doorbell {q n : Nat} (v : Nat) (s : State) (hq : q < 32768) (hn : n = 4 ∨ n = 8) :
    writeRegister (0x1000000 + 8 * q) n v s = execQueueDoorbell q (v % 2 ^ 32) s := by
  have ha : regAccess (0x1000000 + 8 * q) n = true := regAccess_of_dvd (by omega) (by rcases hn with rfl | rfl <;> omega)
  have hin : 0x1000000 ≤ 0x1000000 + 8 * q ∧ 0x1000000 + 8 * q < 0x1040000 ∧ (0x1000000 + 8 * q) % 8 = 0 := by omega
  have hd : (0x1000000 + 8 * q - 0x1000000) / 8 = q := by omega
  generalize 0x1000000 + 8 * q = off at *
  have hout : off ≠ 0x8 ∧ off ≠ 0x10 ∧ off ≠ 0x24 ∧ off ≠ 0x28 := by omega
  simp [writeRegister, ha, hin, hd, hout, hn]

theorem writeRegister_request {m o n : Nat} (v : Nat) (s : State) (hm : m < 64) (hn : n = 4 ∨ n = 8 ∨ n = 16) (ho : o % n = 0)
    (hb : o + n ≤ 4096) : writeRegister (0x100000 + 0x2000 * m + o) n v s = .next (putRequest s m o (leBytes n v)) := by
  have ha : regAccess (0x100000 + 0x2000 * m + o) n = true := regAccess_of_dvd hn (by rcases hn with rfl | rfl | rfl <;> omega)
  have hin : 0x100000 ≤ 0x100000 + 0x2000 * m + o ∧ 0x100000 + 0x2000 * m + o < 0x180000 := by omega
  have hd : (0x100000 + 0x2000 * m + o - 0x100000) / 0x2000 = m := by omega
  have hr : (0x100000 + 0x2000 * m + o - 0x100000) % 0x2000 = o := by omega
  generalize 0x100000 + 0x2000 * m + o = off at *
  have hout : off ≠ 0x8 ∧ off ≠ 0x10 ∧ off ≠ 0x24 ∧ off ≠ 0x28 ∧ ¬ 0x1000000 ≤ off := by omega
  simp [writeRegister, ha, hin, hd, hr, hb, hout]

/-- A write of 8 bytes between the counters and the request slots goes to one of the three tables of strides. -/
theorem writeRegister_table {off : Nat} (v : Nat) (s : State) (h8 : off % 8 = 0) (hlo : 0x100 ≤ off) (hhi : off < 0x100000) :
    writeRegister off 8 v s = (match regIndex off 0x100 8, regIndex off 0x10000 16, regIndex off 0x10008 16 with
      | some w, _, _ => .next (match assoc w s.hwinStatus with
        | some x => { s with hwinStatus := assocSet w (clearRefused x v) s.hwinStatus }
        | none => s)
      | none, some m, _ => runMailbox (parseReq (s.mb m).req).1 m (parseReq (s.mb m).req).2 s
      | none, none, some m => if bit v 2 then .next (s.setMb m { s.mb m with overrun := false }) else .next s
      | none, none, none => .next s) := by
  have ha : regAccess off 8 = true := regAccess_of_dvd (by omega) h8
  have hout : off ≠ 0x8 ∧ off ≠ 0x10 ∧ off ≠ 0x24 ∧ off ≠ 0x28 ∧ ¬ 0x1000000 ≤ off ∧ ¬ 0x100000 ≤ off := by omega
  simp [writeRegister, ha, hout] <;> rfl

theorem writeRegister_hwinStatus {w : Nat} {s : State} {x : RefStatus} (v : Nat) (hw : w < 64)
    (hx : assoc w s.hwinStatus = some x) :
    writeRegister (0x100 + 8 * w) 8 v s = .next { s with hwinStatus := assocSet w (clearRefused x v) s.hwinStatus } := by
  rw [writeRegister_table v s (by omega) (by omega) (by omega), regIndex_at 0x100 (by omega) hw]
  simp only [hx]

theorem writeRegister_mailbox {m : Nat} (v : Nat) (s : State) (hm : m < 64) :
    writeRegister (0x10000 + 16 * m) 8 v s = runMailbox (parseReq (s.mb m).req).1 m (parseReq (s.mb m).req).2 s := by
  rw [writeRegister_table v s (by omega) (by omega) (by omega), regIndex_past (base := 0x100) (by omega) (by omega),
    regIndex_at 0x10000 (by omega) hm]

theorem writeRegister_mbStatus {m v : Nat} (s : State) (hm : m < 64) (hv : bit v 2 = true) :
    writeRegister (0x10008 + 16 * m) 8 v s = .next (s.setMb m { s.mb m with overrun := false }) := by
  rw [writeRegister_table v s (by omega) (by omega) (by omega), regIndex_past (base := 0x100) (by omega) (by omega),
    regIndex_between (base := 0x10000) (by omega), regIndex_at 0x10008 (by omega) hm]
  simp only [hv, if_true]

/-- A size or an alignment that the link does not carry to a register changes nothing. -/
theorem writeRegister_unaligned {off n : Nat} (v : Nat) (s : State) (h : regAccess off n = false) :
    writeRegister off n v s = .next s := by
  simp [writeRegister, h]

theorem apertureRead_unaligned {off n : Nat} (s : State) (h : regAccess off n = false) : apertureRead s off n = 0 := by
  simp [apertureRead, h]

/-- What a write leaves in the request slot it goes to: the bytes written, and the others as they were. -/
theorem putRequest_spec (s : State) {m o : Nat} {bs : Bytes} :
    ∃ b, putRequest s m o bs = s.setMb m b ∧ b = { s.mb m with req := b.req } ∧ slice b.req o bs.length = bs
      ∧ ∀ k, k < 4096 → (k < o ∨ o + bs.length ≤ k) → slice b.req k 1 = slice (s.mb m).req k 1 := by
  refine ⟨_, rfl, rfl, slice_patch_self .., fun k hk hout => ?_⟩
  rw [slice_patch_outside (by omega), slice_slice_zero (by omega)]

/-! The registers that the Marshal and the RSP alone reach (R4, R181, R254, R303, R387). -/

theorem bits_eq (w hi lo : Nat) : bits w hi lo = w / 2 ^ lo % 2 ^ (hi + 1 - lo) := by
  rw [bits, Nat.shiftRight_eq_div_pow]

theorem getD_modNth_self {α : Type} (f : α → α) {i : Nat} {l : List α} (h : i < l.length) (d : α) :
    (modNth f i l).getD i d = f (l.getD i d) := by
  induction l generalizing i with
  | nil => simp at h
  | cons a t ih =>
    cases i with
    | zero => rfl
    | succ i => exact ih (by simpa using h)

theorem getD_modNth_other {α : Type} (f : α → α) {i j : Nat} (h : j ≠ i) (l : List α) (d : α) :
    (modNth f i l).getD j d = l.getD j d := by
  induction l generalizing i j with
  | nil => simp [modNth]
  | cons a t ih =>
    cases i with
    | zero => cases j with
      | zero => exact absurd rfl h
      | succ j => rfl
    | succ i => cases j with
      | zero => rfl
      | succ j => exact ih (by omega)

theorem port_modPort_self {s : State} {p : Nat} (hp : p < s.ports.length) (f : Port → Port) :
    (s.modPort p f).port p = f (s.port p) :=
  getD_modNth_self f hp _

theorem port_modPort_other (s : State) {p q : Nat} (h : q ≠ p) (f : Port → Port) : (s.modPort p f).port q = s.port q :=
  getD_modNth_other f h _ _

theorem exec_registerWrite_manager {s : State} (hm : marshalUp s = true) (m : Mgr) (v : Nat) :
    exec (.registerWrite (.manager m) 8 v) s = .next (s.setMgr m (clearCrm (s.mgr m) v)) := by
  simp [exec, execRegisterWrite, hm]

theorem exec_registerWrite_port {s : State} (hm : marshalUp s = true) {p : Nat} (hp : p < 16) (v : Nat) :
    exec (.registerWrite (.port p) 8 v) s = .next (s.modPort p (fun x => clearPort x v)) := by
  simp [exec, execRegisterWrite, hm, hp]

theorem exec_registerWrite_stale {s : State} (hm : marshalUp s = true) (v : Nat) :
    exec (.registerWrite .stale 8 v) s = .next (clearStale s v) := by
  simp [exec, execRegisterWrite, hm]

theorem exec_registerWrite_hammer {s : State} (hr : rspPowered s = true) (v : Nat) :
    exec (.registerWrite .hammer 8 v) s = .next { s with ham := clearHammer s.ham v } := by
  simp [exec, execRegisterWrite, hr]

/-- The HAMMER_STATUS bits that stay set: those set before and not written with 1. -/
theorem clearHammer_flags (h : Hammer) (v : Nat) :
    ((clearHammer h v).cfgErr = true ↔ h.cfgErr = true ∧ v / 2 ^ 33 % 2 = 0)
      ∧ ((clearHammer h v).cmdErr = true ↔ h.cmdErr = true ∧ v / 2 ^ 32 % 2 = 0) := by
  simp [clearHammer, bit, bits_eq]

theorem clearStale_eq (s : State) (v : Nat) :
    clearStale s v = { s with staleDiscards := if v / 2 ^ 32 % 2 ^ 32 = 0 then s.staleDiscards else 0 } := by
  unfold clearStale
  simp only [bits_eq, beq_iff_eq]
  split <;> rfl

/-! Companion snoops (R314, R346). -/

theorem exec_companionSnoopInvalidate {s : State} {line : Nat} {data : Bytes} (hl : isCompLine line = true)
    (he : line * 64 + 64 ≤ compEnd) (hd : data.length = 64) :
    exec (.companionSnoopInvalidate line data) s = .next { s with mem := { dropXlate (cacheDrop s.mem line false) line with
      comp := memPut (cacheDrop s.mem line false).comp (line * 64 - compBase) data } } := by
  have hok : (isCompLine line && line * 64 + 64 ≤ compEnd && data.length == 64) = true := by simp [hl, he, hd]
  simp only [exec, execCompanionSnoopInvalidate, hok]
  rfl

/-- No translation derived from a line outlives its removal. -/
theorem not_mem_lines_of_dropXlate {m : MemState} {line : Nat} {x : Xlate} (h : x ∈ (dropXlate m line).xlate) :
    line ∉ x.lines := by
  simpa using (List.mem_filter.1 h).2

/-! The statement, part by part. -/

/-- A refused access records its fault and counts; a read gives all ones, and no memory is touched. -/
theorem hostWindowAccess_refused (s : State) (w off n : Nat) (data : Bytes) (f : FaultCode) (hl : s.linkUp = true)
    (hu : s.isUp = true) (hw : w < 64) :
    ∃ l st, assoc w l = some st ∧ st.lastFault = f.code
      ∧ st.refused = min (((assoc w s.hwinStatus).getD ⟨0, 0⟩).refused + 1) (2 ^ 32 - 1)
      ∧ (∀ k, k ≠ w → assoc k l = assoc k s.hwinStatus)
      ∧ (oneLine off n = true → hwinSpans s w off n true false = .error f → exec (.hostWindowAccess w off (.read n)) s = .next
          { s with linkRetry := 0, hwinStatus := l, sent := .hostRead (List.replicate n 0xFF) :: s.sent })
      ∧ (oneLine off data.length = true → hwinSpans s w off data.length false true = .error f →
          exec (.hostWindowAccess w off (.write data)) s = .next { s with linkRetry := 0, hwinStatus := l }) :=
  ⟨_, _, assoc_hwinRefused_self s w f, rfl, rfl, fun _ hk => assoc_hwinRefused_other s hk f,
    fun ho hx => exec_hostWindowAccess_read_refused hl hu hw ho hx,
    fun ho hx => exec_hostWindowAccess_write_refused hl hu hw ho hx⟩

/-- Settles O46: each access, each register and the snoop has its lemma above. A good flit ends the count of retries (log entry
54), and a snoop brings the new bytes of its line (log entry 30). -/
theorem hostWindowsRegistersAndSnoops : Obligations.HostWindowsRegistersAndSnoops := by
  unfold Obligations.HostWindowsRegistersAndSnoops
  refine ⟨?_, ?_, ?_, ?_, ?_, ?_, ?_, ?_, ?_⟩
  · intro s w off n xs hl hu hw ho hx
    exact exec_hostWindowAccess_read_ok hl hu hw ho hx
  · intro s w off data xs hl hu hw ho hx
    exact exec_hostWindowAccess_write_ok hl hu hw ho hx
  · exact hostWindowAccess_refused
  · intro s w off size expect new xs hl hu hw hs ha hx hc t old
    have h := exec_hostWindowCas_ok (expect := expect) (new := new) hl hu hw hs ha hx hc
    exact ⟨fun heq => h.trans (by rw [if_pos heq]; rfl), fun hne => h.trans (by rw [if_neg hne]; rfl)⟩
  · intro s w off size expect new a hl hs hu hw
    exact ⟨fun ho => ⟨_, exec_hostWindowAccess_held hl hs hu hw ho, holdAtLink_mem s _, holdAtLink_atLink hs hu _⟩,
      _, exec_hostWindowCas_held hl hs hu hw, holdAtLink_mem s _, holdAtLink_atLink hs hu _⟩
  · intro s v hl hm t
    simp only [exec_registerWrite_aperture hl hm]
    refine ⟨fun hv => writeRegister_hostSig v _ hv, writeRegister_hostMarkSig v _, writeRegister_evtCons v _,
      writeRegister_evtLost v _, fun q n hq hn => writeRegister_doorbell v _ hq hn, fun m hm => writeRegister_mailbox v _ hm,
      ?_, fun m hm hv => writeRegister_mbStatus _ hm hv, ?_, ?_⟩
    · intro m o n hm hn ho hb
      obtain ⟨b, hput, hreq, hself, hout⟩ := putRequest_spec (linkHeard s) (m := m) (o := o) (bs := leBytes n v)
      rw [leBytes_length] at hself hout
      exact ⟨b, (writeRegister_request v _ hm hn ho hb).trans (congrArg _ hput), hreq, hself, hout⟩
    · intro w x hw hx hv
      refine ⟨_, writeRegister_hwinStatus v hw hx, ?_, fun k hk => assoc_assocSet_other hk _ _⟩
      rw [assoc_assocSet_self, clearRefused_of_ne x hv]
    · intro off n h
      have ha := regAccess_eq_false h
      exact ⟨writeRegister_unaligned v _ ha, apertureRead_unaligned s ha⟩
  · intro s v hm
    refine ⟨fun m => ⟨_, exec_registerWrite_manager hm m v, rfl, ?_, ?_⟩, fun p hp hlen =>
      ⟨_, exec_registerWrite_port hm hp v, rfl, ?_, fun q hq => port_modPort_other s hq _⟩, ?_⟩
    · simp [clearCrm, bits_eq]
    · simp [clearCrm, bits_eq]
    · rw [port_modPort_self hlen]; simp [clearPort, bits_eq]
    · rw [exec_registerWrite_stale hm, clearStale_eq]
  · intro s v hr
    exact ⟨_, exec_registerWrite_hammer hr v, rfl, clearHammer_flags s.ham v⟩
  · intro s line data hl he hd
    exact ⟨_, exec_companionSnoopInvalidate hl he hd, rfl, rfl, fun x hx => not_mem_lines_of_dropXlate hx, rfl⟩

end Sys2Proof.Machine

/-! SUPPORT. Mailbox commands on contexts and descriptors: what a carried command comes to, which operations keep the list of
context numbers, and what a destroyed context leaves (R150, R324, R329). -/

namespace Sys2Proof.Machine

/-! What a command that is carried out acts on (R324). -/

theorem wakeRest_ctxs (s : State) : (wakeRest s).ctxs = s.ctxs := by unfold wakeRest; split <;> rfl
theorem wakeRest_queues (s : State) : (wakeRest s).queues = s.queues := by unfold wakeRest; split <;> rfl
theorem wakeRest_cfg (s : State) : (wakeRest s).cfg = s.cfg := by unfold wakeRest; split <;> rfl

section Taken

variable (s : State) (op m : Nat) (r : MbReq)

@[simp] theorem taken_ctxs : (taken s op m r).ctxs = s.ctxs := by
  unfold taken
  split
  · rfl
  · exact wakeRest_ctxs _

@[simp] theorem taken_queues : (taken s op m r).queues = s.queues := by
  unfold taken
  split
  · rfl
  · exact wakeRest_queues _

@[simp] theorem taken_cfg : (taken s op m r).cfg = s.cfg := by
  unfold taken
  split
  · rfl
  · exact wakeRest_cfg _

@[simp] theorem taken_ctx? (n : Nat) : (taken s op m r).ctx? n = s.ctx? n := by
  rw [State.ctx?, taken_ctxs, State.ctx?]

end Taken

/-- A command that is carried out acts on the request taken, and its answer goes into the response slot. -/
theorem mbCommand_carried {s u : State} {op m : Nat} {r : MbReq} {h : State → Reply} {a : Answer} (hc : Carried s op m r)
    (hr : h (taken s op m r) = reply u a) : mbCommand op m r h s = .next (respond u m a) := by
  obtain ⟨hm, hl, hu, hb, hf, hg⟩ := hc
  have hgo : ¬ (!(decide (m < 64) && s.linkUp && marshalUp s)) = true := by simp [hm, hl, hu]
  have hbell : ¬ bellWaits s = true := by simp [hb]
  have hbusy : ¬ (s.mb m).busy = true := by simp [hf]
  have hnone : ∀ b, generalRefusal (s.setMb m b) op m r = none := fun _ => hg
  simp only [taken] at hr
  simp only [mbCommand, if_neg hgo, if_neg hbell, if_neg hbusy, hnone, hr, reply]

/-! Contexts: creation and the context entry (R329, R331). -/

/-- The lowest number without a context is the one that creation finds. -/
theorem lowestFree_eq {s : State} {n : Nat} (hn : n < 2 ^ 20) (hfree : s.ctx? n = none) (hlow : ∀ k, k < n → s.ctx? k ≠ none)
    (hle : n ≤ s.ctxs.length) :
    ((List.range (s.ctxs.length + 1)).find? (fun k => (s.ctx? k).isNone)).filter (· < 2 ^ 20) = some n := by
  have hfind : (List.range (s.ctxs.length + 1)).find? (fun k => (s.ctx? k).isNone) = some n := by
    rw [List.find?_range_eq_some]
    refine ⟨by simp [hfree], List.mem_range.2 (by omega), fun k hk => ?_⟩
    simpa [Option.isSome_iff_ne_none] using hlow k hk
  rw [hfind, Option.filter_some, if_pos (decide_eq_true hn)]

/-- A context record of class STANDARD that passes every check makes a context under the lowest free number. -/
theorem ctxCreate_standard {s : State} {n : Nat} {r : MbReq} (hz : allZero r.payload 337 3 = true) (hl0 : lcState s ≠ 0)
    (hl3 : lcState s ≠ 3) (hp : paramOk (slice r.payload 0 320) = true)
    (hsame : ∀ c, c ∈ s.ctxs → pId c.param = pId (slice r.payload 0 320) → c.psh = pshOf (slice r.payload 0 320))
    (h2 : 2 ≤ field r.payload 320 4) (h24 : field r.payload 320 4 ≤ 2 ^ 24) (hstd : field r.payload 336 1 = 0)
    (hroot : ptRootOk (field r.payload 328 8) = true)
    (hfree : ((List.range (s.ctxs.length + 1)).find? (fun k => (s.ctx? k).isNone)).filter (· < 2 ^ 20) = some n) :
    ctxCreate r s = reply { s with ctxs := s.ctxs ++ [newCtx n r.payload []] }
      (.ok (leBytes 4 n ++ zeros 12 ++ pshOf (slice r.payload 0 320))) := by
  have hid : s.ctxs.any (fun c => pId c.param == pId (slice r.payload 0 320) && c.psh != pshOf (slice r.payload 0 320)) = false := by
    simpa using hsame
  have hsizes : (decide (2 ≤ field r.payload 320 4) && decide (field r.payload 320 4 ≤ 2 ^ 24) && decide (field r.payload 336 1 < 2)
      && ptRootOk (field r.payload 328 8)) = true := by
    simp only [Bool.and_eq_true, decide_eq_true_eq]
    exact ⟨⟨⟨h2, h24⟩, by omega⟩, hroot⟩
  have hlc : ¬ (lcState s == 0 || lcState s == 3) = true := by simp [hl0, hl3]
  have hclass : (field r.payload 336 1 == 0) = true := by simp [hstd]
  simp only [ctxCreate, hz, hp, hid, hsizes, hfree, if_neg hlc, hclass]
  rfl

/-- The settings in force depend on the configuration and the contexts only. -/
theorem setting_congr {s t : State} (hc : t.ctxs = s.ctxs) (hg : t.cfg = s.cfg) : t.setting = s.setting := by
  funext id target
  simp only [State.setting, settingDefault, State.ctx?, hc, hg]

/-- The context entry shows contexts, settings and queues only. -/
theorem ctxEntry_congr {s t : State} (hc : t.ctxs = s.ctxs) (hg : t.cfg = s.cfg) (hq : t.queues = s.queues) (c : Ctx) :
    ctxEntry t c = ctxEntry s c := by
  have hn : queuesOf t c.num = queuesOf s c.num := by simp only [queuesOf, hq]
  unfold ctxEntry
  rw [setting_congr hc hg, hn]

@[simp] theorem zeros_length (n : Nat) : (zeros n).length = n := List.length_replicate

theorem ctxEntry_length (s : State) (c : Ctx) : (ctxEntry s c).length = 256 := by
  unfold ctxEntry
  simp only [List.length_append, leBytes_length, slice_length, zeros_length]

/-- CTX_INFO answers the entry followed by the figures of the routine, and clears HELD_LOST. -/
theorem ctxInfo_ok {s : State} {r : MbReq} {c : Ctx} (hc : s.ctx? r.ctx = some c)
    (hr : field r.payload 4 1 = 0x05 ∨ field r.payload 4 1 = 0x12 ∨ field r.payload 4 1 = 0x13) :
    ∃ l, ctxInfo r s = reply ({ s with freeCtr := s.freeCtr + 1 }.setCtx { c with heldLost := false })
      (.ok (ctxEntry { s with freeCtr := s.freeCtr + 1 } c ++ l)) := by
  have hok : (field r.payload 4 1 == 0x05 || field r.payload 4 1 == 0x12 || field r.payload 4 1 == 0x13) = true := by
    simpa [or_assoc] using hr
  simp only [ctxInfo, hc, hok, State.draw, List.append_assoc]
  exact ⟨_, rfl⟩

/-! Descriptors (R150). -/

/-- The context with one entry of its descriptor table replaced. -/
def Ctx.setDesc (c : Ctx) (i : Nat) (e : DescEntry) : Ctx := { c with descs := assocSet i e c.descs }

theorem Ctx.putDesc_eq (c : Ctx) (i : Nat) (raw : Bytes) :
    c.putDesc i raw = c.setDesc i ⟨true, genNext (c.desc i).gen, raw⟩ := rfl

@[simp] theorem Ctx.desc_setDesc_self (c : Ctx) (i : Nat) (e : DescEntry) : (c.setDesc i e).desc i = e := by
  simp [Ctx.desc, Ctx.setDesc]

theorem Ctx.desc_setDesc_other (c : Ctx) {i k : Nat} (h : k ≠ i) (e : DescEntry) : (c.setDesc i e).desc k = c.desc k := by
  simp [Ctx.desc, Ctx.setDesc, assoc_assocSet_other h]

/-- R150, R157: a descriptor that passes the checks is stored under the next generation of its entry. -/
theorem descSet_ok {s : State} {r : MbReq} {c : Ctx} (hc : s.ctx? r.ctx = some c) (hz : allZero r.payload 4 4 = true)
    (h1 : 1 ≤ field r.payload 0 4) (hi : field r.payload 0 4 < c.descEntries) (hd : descCheck (slice r.payload 8 64) = none) :
    descSet r s = reply (s.setCtx (c.setDesc (field r.payload 0 4)
        ⟨true, genNext (c.desc (field r.payload 0 4)).gen, slice r.payload 8 64⟩))
      (.ok (leBytes 4 (genNext (c.desc (field r.payload 0 4)).gen * 2 ^ 24 + field r.payload 0 4))) := by
  have hok : (allZero r.payload 4 4 && decide (1 ≤ field r.payload 0 4) && decide (field r.payload 0 4 < c.descEntries)) = true := by
    simp [hz, h1, hi]
  simp only [descSet, hc, hok, hd, Ctx.putDesc_eq, Ctx.desc_setDesc_self, handleOf]
  rfl

/-- R150: the entry that a live handle names is freed, its generation advanced. -/
theorem descFree_ok {s : State} {r : MbReq} {c : Ctx} {i : Nat} (hc : s.ctx? r.ctx = some c) (h0 : field r.payload 0 4 ≠ 0)
    (hidx : field r.payload 0 4 % 2 ^ 24 = i) (hi : i < c.descEntries) (hv : (c.desc i).valid = true)
    (hg : (c.desc i).gen = field r.payload 0 4 / 2 ^ 24) :
    descFree r s = reply (s.setCtx (c.setDesc i ⟨false, genNext (c.desc i).gen, []⟩)) (.ok []) := by
  have hlive : ¬ (field r.payload 0 4 == 0 || decide (i ≥ c.descEntries)) = true := by simp [h0, hi]
  have hgen : ((c.desc i).valid && (c.desc i).gen == field r.payload 0 4 / 2 ^ 24) = true := by simp [hv, hg]
  simp only [descFree, hc, hidx, if_neg hlive, hgen]
  rfl

/-! Which operations keep the numbers of the contexts: all but creation and the end of destruction. -/

/-- The numbers of the contexts of a module, in the order of the list. -/
def ctxNums (s : State) : List Nat := s.ctxs.map (·.num)

theorem ctx?_isSome_iff {s : State} {n : Nat} : (s.ctx? n).isSome = true ↔ n ∈ ctxNums s := by
  simp [State.ctx?, ctxNums]

theorem ctx?_num {s : State} {n : Nat} {c : Ctx} (h : s.ctx? n = some c) : c.num = n := by
  unfold State.ctx? at h
  simpa using List.find?_some h

theorem ctxNums_foldl {β : Type} {f : State → β → State} (h : ∀ s b, ctxNums (f s b) = ctxNums s) (l : List β) (s : State) :
    ctxNums (l.foldl f s) = ctxNums s :=
  foldl_keeps (fun t => ctxNums t = ctxNums s) f (fun t b ht => (h t b).trans ht) l s rfl

theorem ctxNums_of_ctxs {s t : State} (h : t.ctxs = s.ctxs) : ctxNums t = ctxNums s := congrArg (List.map Ctx.num) h

@[simp] theorem ctxNums_setCtx (s : State) (c : Ctx) : ctxNums (s.setCtx c) = ctxNums s := by
  simp only [ctxNums, State.setCtx, List.map_map]
  refine List.map_congr_left fun x _ => ?_
  simp only [Function.comp]
  split
  · next h => exact (beq_iff_eq.1 h).symm
  · rfl

@[simp] theorem ctxNums_heldLost (s : State) (ctx n : Nat) : ctxNums (s.heldLost ctx n) = ctxNums s := by
  unfold State.heldLost
  split
  · rfl
  · simp only [ctxNums, List.map_map]
    refine List.map_congr_left fun x _ => ?_
    simp only [Function.comp]
    split <;> rfl

/-! The operations on memory, cores and dispatches. -/

@[simp] theorem ctxNums_draw (s : State) : ctxNums s.draw.2 = ctxNums s := rfl
@[simp] theorem ctxNums_emit (s : State) (m : Msg) : ctxNums (s.emit m) = ctxNums s := rfl
@[simp] theorem ctxNums_signal (s : State) (x : MarkSig) : ctxNums (s.signal x) = ctxNums s := rfl
@[simp] theorem ctxNums_devWr (s : State) (a : Nat) (b : Bytes) : ctxNums (s.devWr a b) = ctxNums s := rfl
@[simp] theorem ctxNums_writeSpans (s : State) (xs : List Span) (b : Bytes) (p : Bool) :
    ctxNums (s.writeSpans xs b p) = ctxNums s := rfl
@[simp] theorem ctxNums_setCore (s : State) (n : Nat) (r : CoreRegs) : ctxNums (s.setCore n r) = ctxNums s := rfl
@[simp] theorem ctxNums_setDisp (s : State) (x : Dispatch) : ctxNums (s.setDisp x) = ctxNums s := rfl
@[simp] theorem ctxNums_setMgr (s : State) (m : Mgr) (x : Manager) : ctxNums (s.setMgr m x) = ctxNums s := rfl
@[simp] theorem ctxNums_setMb (s : State) (m : Nat) (b : Mailbox) : ctxNums (s.setMb m b) = ctxNums s := rfl
@[simp] theorem ctxNums_setQueue (s : State) (q : Queue) : ctxNums (s.setQueue q) = ctxNums s := rfl
@[simp] theorem ctxNums_dropWait (s : State) (w : PageWait) : ctxNums (dropWait s w) = ctxNums s := rfl
@[simp] theorem ctxNums_freeMarks (s : State) (l : List Nat) : ctxNums (freeMarks s l) = ctxNums s := rfl
@[simp] theorem ctxNums_unmapScratch (s : State) (d : DRef) : ctxNums (unmapScratch s d) = ctxNums s := rfl
@[simp] theorem ctxNums_releaseFields (s : State) : ctxNums (releaseFields s) = ctxNums s := rfl
@[simp] theorem ctxNums_dropGrantsOf (s : State) (p : Mgr → Grant → Bool) : ctxNums (dropGrantsOf s p) = ctxNums s := rfl
@[simp] theorem ctxNums_putBack (s : State) (w : Was) : ctxNums (putBack s w) = ctxNums s := rfl

@[simp] theorem ctxNums_endDma (s : State) (p : DmaBusy → Bool) : ctxNums (endDma s p) = ctxNums s := by
  unfold endDma
  split
  · rfl
  · dsimp only
    split <;> rfl

@[simp] theorem ctxNums_startCopies (n : Nat) (s : State) : ctxNums (startCopies n s) = ctxNums s := by
  induction n generalizing s with
  | zero => rfl
  | succ n ih =>
    unfold startCopies
    split
    · rfl
    · exact (ih _).trans rfl

@[simp] theorem ctxNums_settleCopies (s : State) : ctxNums (settleCopies s) = ctxNums s := ctxNums_startCopies ..

/-! Event records, interrupts and mailbox answers. -/

@[simp] theorem ctxNums_interrupt (s : State) (v : Nat) : ctxNums (s.interrupt v) = ctxNums s := by
  unfold State.interrupt
  split <;> rfl

@[simp] theorem ctxNums_ringPut (s : State) (e : Bytes) : ctxNums (s.ringPut e) = ctxNums s := by
  unfold State.ringPut
  dsimp only
  split
  · rfl
  · split
    · exact ctxNums_interrupt ..
    · rfl

@[simp] theorem ctxNums_post (s : State) (source : Nat) (record : Bytes) : ctxNums (s.post source record) = ctxNums s := by
  unfold State.post
  dsimp only
  split
  · split <;> rfl
  · split
    · split <;> rfl
    · exact ctxNums_ringPut ..

@[simp] theorem ctxNums_faultRec (s : State) (r : FRec) : ctxNums (s.faultRec r) = ctxNums s := ctxNums_post ..

@[simp] theorem ctxNums_settleWaits (s : State) (closed : Bool) : ctxNums (settleWaits s closed) = ctxNums s := by
  refine ctxNums_foldl (fun t w => ?_) _ s
  dsimp only
  split
  · exact ctxNums_faultRec ..
  · rfl

/-! Grants and windows. -/

@[simp] theorem ctxNums_credit (s : State) (m : Msg) : ctxNums (s.credit m) = ctxNums s := by
  unfold State.credit
  split <;> rfl

@[simp] theorem ctxNums_cancelGrant (s : State) (mgr : Mgr) (g : Grant) (r : CancelReason) :
    ctxNums (cancelGrant s mgr g r) = ctxNums s := ctxNums_credit ..

@[simp] theorem ctxNums_cancelGrants (s : State) (mgr : Mgr) (p : Grant → Bool) (r : CancelReason) :
    ctxNums (cancelGrants s mgr p r) = ctxNums s :=
  ctxNums_foldl (fun _ _ => ctxNums_cancelGrant ..) _ s

@[simp] theorem ctxNums_cancelAll (s : State) (p : Mgr → Grant → Bool) (r : CancelReason) :
    ctxNums (cancelAll s p r) = ctxNums s :=
  ctxNums_foldl (fun _ _ => ctxNums_cancelGrants ..) _ s

@[simp] theorem ctxNums_closeWindow (s : State) (mgr : Mgr) (win : Nat) : ctxNums (closeWindow s mgr win) = ctxNums s :=
  ctxNums_cancelGrants ..

@[simp] theorem ctxNums_closeWindowsOf (s : State) (d : DRef) : ctxNums (closeWindowsOf s d) = ctxNums s :=
  ctxNums_foldl (fun t _ => ctxNums_foldl (fun _ _ => ctxNums_closeWindow ..) _ t) _ s

@[simp] theorem ctxNums_cancelPlacement (s : State) (x : Dispatch) (r : CancelReason) :
    ctxNums (cancelPlacement s x r) = ctxNums s := by
  have htell : ∀ (u : State) (t : Stream), ctxNums (tellCancel u x t r) = ctxNums u := fun u t => by
    unfold tellCancel
    split <;> rfl
  simp only [cancelPlacement, ctxNums_cancelAll, ctxNums_dropGrantsOf, ctxNums_foldl htell]

/-! Fences. -/

@[simp] theorem ctxNums_setFences (s : State) (kind : Nat) (l : List Fence) : ctxNums (setFences s kind l) = ctxNums s := by
  unfold setFences
  split
  · rfl
  · split <;> rfl

@[simp] theorem ctxNums_loseCore (s : State) (n : Nat) : ctxNums (loseCore s n) = ctxNums s :=
  ctxNums_foldl (fun _ (_ : SegMap) => ctxNums_heldLost ..) _ s

@[simp] theorem ctxNums_fenceSenders (s : State) (cores : List Nat) : ctxNums (fenceSenders s cores) = ctxNums s := by
  refine ctxNums_foldl (fun t x => ?_) _ s
  split
  · split <;> rfl
  · rfl

@[simp] theorem ctxNums_actFence (s : State) (kind unit : Nat) : ctxNums (actFence s kind unit) = ctxNums s := by
  unfold actFence
  dsimp only
  split
  on_goal 1 => rw [ctxNums_of_ctxs (State.modField_ctxs ..)]
  all_goals simp only [ctxNums_setFences, ctxNums_foldl ctxNums_loseCore, ctxNums_fenceSenders, ctxNums_cancelAll,
    ctxNums_dropGrantsOf]

@[simp] theorem ctxNums_settleFences (s : State) : ctxNums (settleFences s) = ctxNums s := by
  simp only [settleFences, ctxNums_foldl (fun t (f : Fence) => ctxNums_actFence t _ f.unit)]

/-! What an abort leaves of the instructions and streams of a dispatch. -/

@[simp] theorem ctxNums_undoAll (s : State) (x : Dispatch) (f : InFlight) : ctxNums (undoAll s x f) = ctxNums s := by
  simp only [undoAll, ctxNums_setCore, ctxNums_foldl ctxNums_putBack]

@[simp] theorem ctxNums_cutAt (s : State) (x : Dispatch) (c : Ctx) (f : InFlight) (fr k : Nat) :
    ctxNums (cutAt s x c f fr k) = ctxNums s := by
  have hbody : ∀ (u : State) (w : Was), ctxNums (cutBody u fr f.limb k w) = ctxNums u := fun _ _ => rfl
  unfold cutAt
  split
  · exact ctxNums_undoAll ..
  · split
    · exact ctxNums_undoAll s x f
    · simp only [ctxNums_foldl hbody, ctxNums_foldl ctxNums_putBack]

@[simp] theorem ctxNums_setSlotState (s : State) (x : Dispatch) (c : Ctx) (slot st : Nat) (p : Nat → Bool) :
    ctxNums (setSlotState s x c slot st p) = ctxNums s := by
  unfold setSlotState
  split
  · split <;> rfl
  · rfl

@[simp] theorem ctxNums_answered (s : State) (x : Dispatch) : ctxNums (answered s x) = ctxNums s := by
  unfold answered
  split
  · simp only [ctxNums_setDisp, ctxNums_setSlotState]
  · rfl

theorem ctxNums_stopAnswer (s : State) (x : Dispatch) (c : Ctx) (f : InFlight) (fr : Nat) (a : StopAt) :
    ctxNums (stopAnswer s x c f fr a).1 = ctxNums s := by
  cases a with
  | complete => simp only [stopAnswer, ctxNums_answered, ctxNums_setDisp]
  | unstarted => exact ctxNums_undoAll ..
  | point k => exact ctxNums_cutAt ..

theorem ctxNums_stopOne (c : Ctx) (fr : Nat) (p : InFlight × StopAt) (a : State × Dispatch) :
    ctxNums (stopOne c fr p a).1 = ctxNums a.1 := by
  unfold stopOne
  dsimp only
  split
  · exact ctxNums_stopAnswer ..
  · split
    · rfl
    · exact ctxNums_undoAll ..
    · exact ctxNums_cutAt ..

@[simp] theorem ctxNums_stopEngines (s : State) (c : Ctx) (x : Dispatch) : ctxNums (stopEngines s c x).1 = ctxNums s := by
  have hfold : ∀ (l : List (InFlight × StopAt)) (fr : Nat) (a : State × Dispatch),
      ctxNums (l.foldr (stopOne c fr) a).1 = ctxNums a.1 := fun l fr a => by
    induction l with
    | nil => rfl
    | cons p l ih => exact (ctxNums_stopOne ..).trans ih
  exact hfold ..

@[simp] theorem ctxNums_tearHdr (s : State) (x : Dispatch) (xs : List Span) (b : Bytes) : ctxNums (tearHdr s x xs b) = ctxNums s := by
  unfold tearHdr
  dsimp only
  split <;> rfl

@[simp] theorem ctxNums_tearBegun (s : State) (x : Dispatch) (c : Ctx) (b : Begun) : ctxNums (tearBegun s x c b) = ctxNums s := by
  unfold tearBegun
  split
  · exact ctxNums_tearHdr ..
  · rfl

@[simp] theorem ctxNums_tearStream (s : State) (x : Dispatch) (c : Ctx) (t : Stream) : ctxNums (tearStream s x c t) = ctxNums s := by
  unfold tearStream
  split
  · rfl
  · split
    · exact ctxNums_tearHdr ..
    · rfl

@[simp] theorem ctxNums_cutOff (s : State) (x : Dispatch) (c : Ctx) : ctxNums (cutOff s x c) = ctxNums s := by
  simp only [cutOff, ctxNums_foldl (fun t (b : Begun) => ctxNums_tearBegun t x c b), ctxNums_stopEngines]

@[simp] theorem ctxNums_abandonSlots (s : State) (x : Dispatch) : ctxNums (abandonSlots s x) = ctxNums s := by
  unfold abandonSlots
  split
  · rfl
  · exact ctxNums_foldl (fun _ _ => ctxNums_setSlotState ..) _ s

@[simp] theorem ctxNums_abortEffects (s : State) (x : Dispatch) : ctxNums (abortEffects s x) = ctxNums s := by
  unfold abortEffects
  dsimp only
  rw [ctxNums_cancelPlacement]
  split
  · next c _ => simp only [ctxNums_foldl (fun t (y : Stream) => ctxNums_tearStream t x c y), ctxNums_cutOff, ctxNums_abandonSlots]
  · exact ctxNums_abandonSlots ..

/-! The end of a dispatch and its completion record. -/

@[simp] theorem ctxNums_settleMarks (s : State) (ctx : Nat) : ctxNums (settleMarks s ctx) = ctxNums s := by
  unfold settleMarks
  split
  · rfl
  · simp only [ctxNums_setCtx, ctxNums_freeMarks]

@[simp] theorem ctxNums_endDispatch (s : State) (x : Dispatch) : ctxNums (endDispatch s x) = ctxNums s := by
  simp only [endDispatch, ctxNums_settleFences, ctxNums_releaseFields, ctxNums_settleMarks, ctxNums_settleWaits,
    ctxNums_settleCopies]
  rfl

@[simp] theorem ctxNums_completionCopy (s : State) (x : Dispatch) (b : Bytes) : ctxNums (completionCopy s x b) = ctxNums s := by
  unfold completionCopy
  dsimp only
  split
  · rfl
  · split
    · rfl
    · split
      · rfl
      all_goals exact ctxNums_faultRec ..

@[simp] theorem ctxNums_doneMark (s : State) (x : Dispatch) : ctxNums (doneMark s x) = ctxNums s := by
  unfold doneMark
  split <;> rfl

@[simp] theorem ctxNums_writeResult (s : State) (x : Dispatch) (b : Bytes) : ctxNums (writeResult s x b) = ctxNums s := by
  unfold writeResult
  dsimp only
  rw [ctxNums_doneMark, ctxNums_completionCopy]
  split
  · split <;> rfl
  · rfl

@[simp] theorem ctxNums_commitDispatch (s : State) (x : Dispatch) (o : Fate) : ctxNums (commitDispatch s x o) = ctxNums s := by
  simp only [commitDispatch, ctxNums_writeResult, ctxNums_endDispatch, ctxNums_closeWindowsOf]
  split
  · exact ctxNums_abortEffects ..
  · rfl

/-! Answers to mailbox commands change mailboxes and messages only (R324). -/

/-- Two states differ at most in the mailboxes, the messages sent and the interrupts held for the link. -/
def OnlyAnswers (s t : State) : Prop := t = { s with mbs := t.mbs, sent := t.sent, ev := t.ev }

theorem OnlyAnswers.trans {s t u : State} (h : OnlyAnswers s t) (k : OnlyAnswers t u) : OnlyAnswers s u := by
  unfold OnlyAnswers at h k ⊢
  rw [k, h]

theorem OnlyAnswers.ctxs {s t : State} (h : OnlyAnswers s t) : t.ctxs = s.ctxs := by rw [h]
theorem OnlyAnswers.disps {s t : State} (h : OnlyAnswers s t) : t.disps = s.disps := by rw [h]
theorem OnlyAnswers.hwins {s t : State} (h : OnlyAnswers s t) : t.hwins = s.hwins := by rw [h]
theorem OnlyAnswers.mem {s t : State} (h : OnlyAnswers s t) : t.mem = s.mem := by rw [h]

theorem onlyAnswers_foldl {β : Type} {f : State → β → State} (h : ∀ s b, OnlyAnswers s (f s b)) (l : List β) (s : State) :
    OnlyAnswers s (l.foldl f s) :=
  foldl_keeps (OnlyAnswers s) f (fun t b ht => ht.trans (h t b)) l s rfl

theorem onlyAnswers_respond (s : State) (m : Nat) (a : Answer) : OnlyAnswers s (respond s m a) := by
  unfold respond
  dsimp only
  split
  · unfold State.interrupt
    split <;> rfl
  · rfl

theorem onlyAnswers_answerWaits (s : State) (p : MbWait → Option Answer) : OnlyAnswers s (answerWaits s p) := by
  refine onlyAnswers_foldl (fun t b => ?_) _ s
  split
  · exact onlyAnswers_respond ..
  · rfl

theorem onlyAnswers_settlePins (s : State) : OnlyAnswers s (settlePins s) := by
  refine onlyAnswers_foldl (fun t b => ?_) _ s
  dsimp only
  split
  · rfl
  · split
    · exact onlyAnswers_respond ..
    · split
      · exact onlyAnswers_respond ..
      · split
        · rfl
        · exact onlyAnswers_respond ..

/-! The destruction of a context (R329). -/

theorem ctxNums_destroyDispatch (s : State) (d : DRef) : ctxNums (destroyDispatch s d).1 = ctxNums s := by
  unfold destroyDispatch
  split
  · rfl
  · split
    · rfl
    · dsimp only
      split
      · rfl
      · rw [ctxNums_of_ctxs (onlyAnswers_answerWaits ..).ctxs, ctxNums_commitDispatch, ctxNums_setDisp]

theorem ctxNums_abandonFills (s : State) (ctx : Nat) : ctxNums (abandonFills s ctx) = ctxNums s := by
  refine ctxNums_foldl (fun t w => ?_) _ s
  dsimp only
  rw [ctxNums_endDma, ctxNums_dropWait]
  split <;> rfl

theorem ctxNums_destroyDispatches (l : List Dispatch) (a : State × Nat) :
    ctxNums (l.foldl (fun (acc : State × Nat) x =>
      let r := destroyDispatch acc.1 x.id
      (r.1, acc.2 + r.2)) a).1 = ctxNums a.1 := by
  refine foldl_keeps (fun b => ctxNums b.1 = ctxNums a.1) _ (fun b x hb => ?_) l a rfl
  exact (ctxNums_destroyDispatch b.1 x.id).trans hb

/-- Every dispatch of a context ends before the context does: the context is still there when what belongs to it goes. -/
theorem destroyContext_eq_dropContext {s : State} {c : Ctx} (hc : (s.ctx? c.num).isSome = true) :
    ∃ v e, e.num = c.num ∧ (destroyContext s c).1 = dropContext v e := by
  have hin : c.num ∈ ctxNums s := ctx?_isSome_iff.1 hc
  unfold destroyContext
  dsimp only
  split
  · next e he =>
    dsimp only
    exact ⟨_, e, ctx?_num he, rfl⟩
  · next he =>
    have hnone := Option.isSome_eq_false_iff.2 (Option.isNone_iff_eq_none.2 he)
    rw [← Bool.not_eq_true, ctx?_isSome_iff, ctxNums_destroyDispatches, ctxNums_abandonFills] at hnone
    exact absurd hin hnone

/-- Nothing that names the context is left once what belongs to it has gone. -/
theorem dropContext_gone (s : State) (c : Ctx) :
    (∀ x ∈ (dropContext s c).ctxs, x.num ≠ c.num) ∧ (∀ x ∈ (dropContext s c).disps, x.ctx ≠ c.num)
      ∧ (∀ w ∈ (dropContext s c).hwins, w.2.ctx ≠ c.num) ∧ (∀ e ∈ (dropContext s c).mem.csMap, e.ctx ≠ c.num)
      ∧ ∀ e ∈ (dropContext s c).mem.ifMap, e.ctx ≠ c.num := by
  have h : ∀ (t : State) (p : MbWait → Option Answer), OnlyAnswers t (settlePins (answerWaits t p)) := fun t p =>
    (onlyAnswers_answerWaits t p).trans (onlyAnswers_settlePins _)
  unfold dropContext
  dsimp only
  rw [(h _ _).ctxs, (h _ _).disps, (h _ _).hwins, (h _ _).mem]
  simp only [List.mem_filter, bne_iff_ne]
  exact ⟨fun _ hx => hx.2, fun _ hx => hx.2, fun _ hx => hx.2, fun _ hx => hx.2, fun _ hx => hx.2⟩

/-- R329: CTX_DESTROY answers the number of dispatches that the destruction aborted. -/
theorem ctxDestroy_ok {s u : State} {r : MbReq} {c : Ctx} {n : Nat} (hc : s.ctx? r.ctx = some c)
    (hd : destroyContext s c = (u, n)) : ctxDestroy r s = reply u (.ok (leBytes 4 n)) := by
  simp only [ctxDestroy, hc, hd]

/-- Settles O31: each row is carried out on the request taken (log entry 43 gives the order of the checks), and its lemma above
says what it answers. Creation finds the lowest free number (log entry 41). -/
theorem contextsAndDescriptorsAreManaged : Obligations.ContextsAndDescriptorsAreManaged := by
  unfold Obligations.ContextsAndDescriptorsAreManaged
  refine ⟨?_, ?_, ?_, ?_, ?_⟩
  · intro s m n r hC t p hz hl0 hl3 hp hsame h2 h24 hstd hroot hn hfree hlow hle
    have hnum : ((List.range (t.ctxs.length + 1)).find? (fun k => (t.ctx? k).isNone)).filter (· < 2 ^ 20) = some n := by
      simpa only [t, taken_ctxs, taken_ctx?] using lowestFree_eq hn hfree hlow hle
    have h := ctxCreate_standard hz hl0 hl3 hp (by simpa only [t, taken_ctxs] using hsame) h2 h24 hstd hroot hnum
    rw [taken_ctxs] at h
    exact mbCommand_carried hC h
  · intro s m n r c u hC hc hd
    have hnum : c.num = r.ctx := ctx?_num hc
    obtain ⟨v, e, he, hu⟩ := destroyContext_eq_dropContext (s := taken s 0x02 m r) (c := c) (by simp [hnum, hc])
    obtain ⟨hctxs, hgone⟩ := dropContext_gone v e
    rw [← hu, hd, he, hnum] at hctxs hgone
    exact ⟨mbCommand_carried hC (ctxDestroy_ok ((taken_ctx? ..).trans hc) hd), by simpa [State.ctx?] using hctxs, hgone⟩
  · intro s m r c hC hc hr t
    obtain ⟨l, h⟩ := ctxInfo_ok (s := t) ((taken_ctx? ..).trans hc) hr
    refine ⟨_, mbCommand_carried hC h, ?_⟩
    rw [List.take_append_of_le_length (ctxEntry_length ..).ge]
    exact congrArg (List.take 256) (ctxEntry_congr (taken_ctxs ..) (taken_cfg ..) (taken_queues ..) c)
  · intro s m r c hC hc i raw hz h1 hi hd
    exact ⟨_, mbCommand_carried hC (descSet_ok ((taken_ctx? ..).trans hc) hz h1 hi hd), rfl, Ctx.desc_setDesc_self ..,
      fun k hk => Ctx.desc_setDesc_other _ hk _⟩
  · intro s m r c hC hc h i h0 hi hv hg
    refine ⟨_, mbCommand_carried hC (descFree_ok ((taken_ctx? ..).trans hc) h0 rfl hi hv hg), rfl, ?_, ?_,
      fun k hk => Ctx.desc_setDesc_other _ hk _⟩
    all_goals rw [Ctx.desc_setDesc_self]

end Sys2Proof.Machine

/-! SUPPORT. The object forms: with every operand resolved and every condition met, what the meanings of v.add.m, v.sub.m,
v.mul.m, hdr.w and xpose come to (R19, R120, R164, R226 to R228). -/

namespace Sys2Proof.Machine

/-- A form that goes on after a part has a value for that part. -/
theorem exists_of_bind_ok {α β : Type} {e : Except Halt α} {f : α → Except Halt β} {b : β} (h : e >>= f = .ok b) :
    ∃ a, e = .ok a ∧ f a = .ok b := by
  cases e with
  | error r => cases h
  | ok a => exact ⟨a, rfl, h⟩

theorem need_inv {b : Bool} {c : FaultCode} {u : Unit} (h : need b c = .ok u) : b = true := by
  cases b with
  | false => cases h
  | true => rfl

/-- An object operand that resolves has a header that does, and a body within its descriptor. -/
theorem hdrSrc_of_objSrc {s : State} {x : Dispatch} {c : Ctx} {r : CoreRegs} {h : HRef} {o : Obj} (ho : objSrc s x c r h = .ok o) :
    ∃ t, hdrSrc s x c r h = .ok t ∧ t.raw = o.raw ∧ t.h = o.h ∧ bodyLen c.param o.h ≤ 1024 * dSize o.raw 0 := by
  obtain ⟨t, ht, ho⟩ := exists_of_bind_ok ho
  obtain ⟨_, hn, ho⟩ := exists_of_bind_ok ho
  obtain ⟨body, _, ho⟩ := exists_of_bind_ok ho
  cases ho
  exact ⟨t, ht, rfl, rfl, by simpa using need_inv hn⟩

/-- Copies for the Vault go to the context, not to memory (R121). -/
@[simp] theorem keepCopies_mem (s : State) (c : Ctx) (f : Funded) : (s.keepCopies c f).mem = s.mem := by
  unfold State.keepCopies
  split
  · rfl
  · split <;> rfl

section Forms

variable {s : State} {rd ra rb : HRef} {x : Dispatch} {c : Ctx} {n : Nat}

/-- R226 and R227: the limbs of the result and its header, after the budget policy. -/
theorem objForm_ok {op : OOp} {od : Opnd} {oa ob : Obj} {f : Funded} {dd : ObjDst}
    (hd : resolve x c (s.core x.lead) rd true true = .ok od) (ha : objSrc s x c (s.core x.lead) ra = .ok oa)
    (hb : objSrc s x c (s.core x.lead) rb = .ok ob) (hop : objOpOk op (valOf s c.param oa) (valOf s c.param ob) = true)
    (hsa : (valOf s c.param oa).h.spent = false) (hsb : (valOf s c.param ob).h.spent = false)
    (hf : fund x c (valOf s c.param oa) (valOf s c.param ob) (objOpBudget op x c.param) = .ok f)
    (hdd : objDst { s with freeCtr := s.freeCtr + 3 } x c od (objOpHdr op s.freeCtr c.param f) = .ok dd)
    (hfree : free x { Use.none with rd := oa.body ++ oa.hdrAt ++ ob.body ++ ob.hdrAt, wr := dd.body ++ dd.hdrAt,
                                    rs := hrefRegs rd ++ hrefRegs ra ++ hrefRegs rb } = .ok ())
    (he : x.engineFree 3 = true) (hw : inWindow s (dd.body ++ dd.hdrAt) = false) :
    objForm op s rd ra rb x c n = .ok (finishObj (({ s with freeCtr := s.freeCtr + 3 } : State).keepCopies c f)
      (x.countVault c f) c n 3 [oa, ob] { Use.none with rs := hrefRegs rd ++ hrefRegs ra ++ hrefRegs rb } false dd (objOpHdr op s.freeCtr c.param f)
      (bodyOf (objOpHdr op s.freeCtr c.param f).comps (objOpHdr op s.freeCtr c.param f).level (objOpLimb op c.param f.a f.b))) := by
  have hw' : inWindow { s with freeCtr := s.freeCtr + 3 } (dd.body ++ dd.hdrAt) = false := hw
  simp only [objForm, hd, ha, hb, hop, hsa, hsb, hf, hdd, hfree, he, hw', run_eq, need_ok, State.draw3, Bool.not_false,
    Bool.and_self, Bool.not_true]
  rfl

/-- R228: LEVEL and BUDGET from the scalars, the rest of the header from the source, over the body as it stands. -/
theorem hdrWForm_ok {bs ls : Nat} {od : Opnd} {t : Obj} {dd : ObjDst} {level : Nat} {h : Hdr} {u : Use} {pois : Bool}
    (hlevel : ((s.core x.lead).sget ls).toNat % 256 = level)
    (hh : { t.h with level := level, budget := ((s.core x.lead).sget bs).toNat % 65536 } = h)
    (hpois : (t.poisoned || spansMarked s.mem dd.body
      || ((s.core x.lead).poisS.contains bs || (s.core x.lead).poisS.contains ls)) = pois)
    (hu : { Use.none with rd := t.hdrAt ++ dd.body, wr := dd.hdrAt, rs := hrefRegs rd ++ hrefRegs ra ++ [bs, ls] } = u)
    (hd : resolve x c (s.core x.lead) rd true true = .ok od) (ht : hdrSrc s x c (s.core x.lead) ra = .ok t)
    (h1 : 1 ≤ level) (hL : level ≤ pL c.param) (hdd : objDst s x c od h = .ok dd) (hfree : free x u = .ok ())
    (hw : inWindow s dd.hdrAt = false) :
    hdrWForm s rd ra bs ls x c n = .ok (((touchReads s t.hdrAt).writeSpans dd.hdrAt
        (hdrBytes (resultHdr x c { h with flags := hdrFlags false false t.h.spent } pois)) false).flown x n
      (s.flight x 5 u [] [(od.raw, dd.hdrAt)] 0 0) pois) := by
  have hlv : (decide (1 ≤ level) && decide (level ≤ pL c.param)) = true := by simp [h1, hL]
  subst hlevel hh hpois hu
  simp only [hdrWForm, hd, ht, hlv, hdd, hfree, hw, run_eq, need_ok, Bool.not_false]
  rfl

/-- R164: an object whose pages are all there is copied, or its refreshed copy written (R120, R121). -/
theorem xposeObj_ok {perm : List Nat} {od : Opnd} {o : Obj} {f : Funded} {h : Hdr} {dd : ObjDst}
    (ho : objSrc s x c (s.core x.lead) ra = .ok o) (hd : resolve x c (s.core x.lead) rd true true = .ok od)
    (hperm : permOk 1 perm = true) (hsize : dSize od.raw 0 = dSize o.raw 0) (hext : extentsMeet o.raw od.raw = false)
    (hreach : bodyReach s x c o.raw od.raw (bodyLen c.param o.h) (bodyLen c.param o.h / stagedTile + 2) 0 = (bodyLen c.param o.h, none))
    (hcopy : copyVal x c (valOf s c.param o) = .ok (f, h)) (hdd : objDst s x c od h = .ok dd)
    (hbb : spansMeet o.body dd.body = false) (hbh : spansMeet o.body dd.hdrAt = false) (hhb : spansMeet o.hdrAt dd.body = false)
    (hw : inWindow s (dd.body ++ dd.hdrAt) = false) (he : x.inflight.any (fun g => g.engine == 4) = false)
    (hfree : free x { Use.none with rd := o.body ++ o.hdrAt, wr := dd.body ++ dd.hdrAt, rs := hrefRegs rd ++ hrefRegs ra } = .ok ()) :
    xposeObj s rd ra perm x c n = .ok (finishObj (s.keepCopies c f) (x.countVault c f) c n 4 [o]
      { Use.none with rs := hrefRegs rd ++ hrefRegs ra } false dd h
      (if f.copies.isEmpty then spansPeek s.mem o.body else f.a.bytes)) := by
  obtain ⟨t, ht, hraw, hhdr, hlen⟩ := hdrSrc_of_objSrc ho
  simp only [xposeObj, ht, hraw, hhdr, ho, hd, hperm, hsize, hext, hreach, hcopy, hdd, hbb, hbh, hhb, hw, he, hfree, run_eq,
    need_ok, hlen, keepCopies_mem, beq_self_eq_true, decide_true, Bool.not_false, Bool.and_self]
  rfl

theorem xposeForm_obj {perm : List Nat} {src dst : Opnd} (hs : resolveAny x c (s.core x.lead) ra false = .ok src)
    (hd : resolveAny x c (s.core x.lead) rd true = .ok dst) (hso : dObj src.raw = true) (hdo : dObj dst.raw = true) :
    xposeForm s rd ra perm x c n = xposeObj s rd ra perm x c n := by
  simp only [xposeForm, hs, hd, hso, hdo, run_eq, need_ok, beq_self_eq_true, if_true]

theorem xposeForm_plain {perm : List Nat} {src dst : Opnd} (hs : resolveAny x c (s.core x.lead) ra false = .ok src)
    (hd : resolveAny x c (s.core x.lead) rd true = .ok dst) (hso : dObj src.raw = false) (hdo : dObj dst.raw = false) :
    xposeForm s rd ra perm x c n = xposePlain s src dst perm x c n (hrefRegs rd ++ hrefRegs ra) := by
  simp only [xposeForm, hs, hd, hso, hdo, run_eq, need_ok, beq_self_eq_true, Bool.false_eq_true, if_false]

/-- R164, R169: a plain tensor whose pages are all there is permuted into its destination. -/
theorem xposePlain_ok {perm : List Nat} {src dst : Opnd} {sa da : List Span} {rs : List Nat} {k : Nat} (hk : dCount dst.raw = k)
    (hrank : dRank src.raw = dRank dst.raw) (helem : dElem src.raw = dElem dst.raw) (hss : dSpace src.raw ≠ 4)
    (hds : dSpace dst.raw ≠ 4) (hperm : permOk (dRank src.raw) perm = true)
    (hsize : ∀ i, i < dRank src.raw → dSize dst.raw i = dSize src.raw (nth perm i 0))
    (hreach : xposeReach s x c src.raw dst.raw perm (stagedTile / dE dst.raw) (k + 1) 0 = (k, none))
    (hda : elemSpans s x c .write dst.raw (List.range k) = .ok da)
    (hsa : elemSpans s x c .read src.raw ((List.range k).map (permSrc src.raw dst.raw perm)) = .ok sa)
    (hext : extentsMeet src.raw dst.raw = false) (hw : inWindow s da = false)
    (he : x.inflight.any (fun g => g.engine == 4) = false)
    (hfree : free x { Use.none with rd := sa, wr := da, rs := rs } = .ok ()) :
    xposePlain s src dst perm x c n rs = .ok (((touchReads s sa).writeSpans da (slice (spansPeek s.mem sa) 0 (k * dE dst.raw))
        (spansMarked s.mem sa)).flown x n
      (s.flight x 4 { Use.none with rd := sa, wr := da, rs := rs } [da] [] stagedTile (ceilDiv (k * dE dst.raw) stagedTile))
      (spansMarked s.mem sa)) := by
  have hshape : (dRank src.raw == dRank dst.raw && dElem src.raw == dElem dst.raw && dSpace src.raw != 4 && dSpace dst.raw != 4
      && permOk (dRank src.raw) perm
      && (List.range (dRank src.raw)).all (fun d => dSize dst.raw d == dSize src.raw (nth perm d 0))) = true := by
    simp only [Bool.and_eq_true, beq_iff_eq, bne_iff_ne, List.all_eq_true, List.mem_range]
    exact ⟨⟨⟨⟨⟨hrank, helem⟩, hss⟩, hds⟩, hperm⟩, hsize⟩
  simp only [xposePlain, hshape, hext, hk, hreach, hda, hsa, lift, hw, hfree, he, run_eq, need_ok, Bool.not_false]
  rfl

end Forms
/-- An instruction of a dispatch that stands at it issues with the state its form completes with. -/
theorem issues_of_form {i : Instr} {s t : State} {d : DRef} {u : Use} {x : Dispatch} {c : Ctx} {n req : Nat}
    {f : Dispatch → Ctx → Nat → Except Halt State} (hs : Stands s d i u x c n) (hx : exec i s = issue s d i req f)
    (hf : f x c n = .ok t) : Issues i d s t := by
  obtain ⟨y, hy, hi⟩ := issue_ok hs f req hf
  exact ⟨y, c, n, hy, hx.trans hi⟩

theorem exec_objOp (op : OOp) (s : State) (d : DRef) (rd ra rb : HRef) :
    exec (op.instr d rd ra rb) s = issue s d (op.instr d rd ra rb) 1 (objForm op s rd ra rb) := by
  cases op <;> rfl

/-- Settles O12: every form meets each of its checks by a hypothesis of the clause, and ends in the state the clause gives. -/
theorem objectFormsWriteBodyAndHeader : Obligations.ObjectFormsWriteBodyAndHeader := by
  unfold Obligations.ObjectFormsWriteBodyAndHeader
  refine ⟨?_, ?_, ?_, ?_⟩
  · intro op s d rd ra rb x c n od oa ob f dd r a b s' h u hst hd ha hb hop hsa hsb hf hdd he hw
    exact issues_of_form hst (exec_objOp ..) (objForm_ok hd ha hb hop hsa hsb hf hdd (stands_free hst) he hw)
  · intro s d rd ra bs ls x c n od t dd r level h pois u hst hd ht h1 hL hdd hw
    exact issues_of_form hst rfl (hdrWForm_ok rfl rfl rfl rfl hd ht h1 hL hdd (stands_free hst) hw)
  · intro s d rd ra perm x c n src dst od o f h dd r u hst hs hd hso hdo ho hod hperm hsize hext hreach hcopy hdd hbb hbh hhb hw he
    exact issues_of_form hst rfl ((xposeForm_obj hs hd hso hdo).trans
      (xposeObj_ok ho hod hperm hsize hext hreach hcopy hdd hbb hbh hhb hw he (stands_free hst)))
  · intro s d rd ra perm x c n src dst sa da r u k hst hs hd hso hdo hrank helem hss hds hperm hsize hreach hda hsa hext hw he
    exact issues_of_form hst rfl ((xposeForm_plain hs hd hso hdo).trans
      (xposePlain_ok rfl hrank helem hss hds hperm hsize hreach hda hsa hext hw he (stands_free hst)))

end Sys2Proof.Machine

/-! SUPPORT. An idle step (R45, R398), and the credit messages of R177 to R181: which message arrives, what each answer does to the
manager or the stream it reaches, and what the end of a grant leaves. -/

namespace Sys2Proof.Machine

/-! An idle step. -/

/-- Without VAON the clock stands (R398). -/
theorem tick_off {s : State} (h : s.pwr.st = .off) : tick s = s := by simp [tick, h]

theorem step_idle {s : State} (h : s.pending = []) : step s = .next (tick s) := by simp only [step, h]

/-- Settles O2: an empty queue is the first branch of `step`, and OFF the first of `tick`. -/
theorem idleStepIsOneTick : Obligations.IdleStepIsOneTick := by
  unfold Obligations.IdleStepIsOneTick
  intro s h
  refine ⟨step_idle h, fun hoff => ?_⟩
  rw [step_idle h, tick_off hoff]

/-! Credit messages that arrive and that leave (R42, R178). -/

theorem Arrives.passes {s u : State} {p : Msg → Prop} {m : Msg} (h : Arrives s p m u) : p m := by
  obtain ⟨_, _, _, hp, _⟩ := h
  exact hp

theorem State.arrive_eq {s u : State} {p : Msg → Prop} {m : Msg} (h : Arrives s p m u) : s.arrive m = some u := by
  obtain ⟨a, b, hnet, hp, hfirst, hstale, rfl⟩ := h
  have hm : m ∉ a := fun hmem => hfirst m hmem hp
  have hi : s.net.idxOf m = a.length := by simp [hnet, List.idxOf_append_of_notMem hm]
  have htake : s.net.take a.length = a := by simp [hnet]
  have hdrop : s.net.drop (a.length + 1) = b := by simp [hnet]
  have hlt : a.length < s.net.length := by simp [hnet]
  have hall : (a.filter (fun y => y.path == m.path)).all (fun y => !awaited s y) = true := by
    simp only [List.all_eq_true, List.mem_filter, beq_iff_eq, Bool.not_eq_true']
    exact fun y hy => hstale y hy.1 hy.2
  simp only [State.arrive, hi, htake, hdrop, hlt, hall, decide_true, Bool.and_self, if_true]

/-- The message that passes the stream's test is the one that arrives. -/
theorem arriveFor_eq {s u : State} {t : Stream} {p : Msg → Prop} {q : Msg → Bool} (h : ReachesStream s t p u)
    (hq : ∀ m, q m = true ↔ p m) : s.arriveFor t q = some u := by
  obtain ⟨hnear, m, harr⟩ | ⟨hfar, rfl⟩ := h
  · have hfind : s.net.find? q = some m := by
      obtain ⟨a, b, hnet, hp, hfirst, -⟩ := harr
      have hnone : a.find? q = none := List.find?_eq_none.2 fun y hy => mt (hq y).1 (hfirst y hy)
      simp [hnet, hnone, (hq m).2 hp]
    simp [State.arriveFor, hnear, hfind, State.arrive_eq harr]
  · simp [State.arriveFor, Option.isSome_iff_ne_none.2 hfar]

theorem ReachesStream.disps {s u : State} {t : Stream} {p : Msg → Prop} (h : ReachesStream s t p u) : u.disps = s.disps := by
  obtain ⟨-, m, a, b, -, -, -, -, rfl⟩ | ⟨-, rfl⟩ := h
  · rfl
  · split <;> rfl

theorem ReachesStream.disp? {s u : State} {t : Stream} {p : Msg → Prop} (h : ReachesStream s t p u) (d : DRef) :
    u.disp? d = s.disp? d := by simp only [State.disp?, h.disps]

theorem credit_crGrant (s : State) (y : Sender) (mgr : Mgr) (win n b k : Nat) (st : GrantStatus) :
    s.credit (.crGrant y mgr win n b k st) = told s y.module.isSome (.crGrant y mgr win n b k st) := by
  cases h : y.module <;> simp [State.credit, Msg.path, told, State.emit, h]

theorem credit_crCancel (s : State) (y : Sender) (mgr : Mgr) (n : Nat) (r : CancelReason) :
    s.credit (.crCancel y mgr n r) = told s y.module.isSome (.crCancel y mgr n r) := by
  cases h : y.module <;> simp [State.credit, Msg.path, told, State.emit, h]

/-! The managers: requests (R178). -/

theorem onlyManager_setMgr (s : State) (m : Mgr) (x : Manager) : OnlyManager s (s.setMgr m x) m x :=
  ⟨rfl, s.mgr_setMgr_self m x, fun _ hk => s.mgr_setMgr_other hk x⟩

theorem freeRun_le (m : Manager) (w : Window) (n b : Nat) : freeRun m w n b ≤ n := by
  induction n generalizing b with
  | zero => exact Nat.le_refl 0
  | succ n ih =>
    simp only [freeRun]
    split
    · exact Nat.succ_le_succ (ih _)
    · exact Nat.zero_le _

/-- Every block of a free run is EMPTY and not lent. -/
theorem freeRun_free (m : Manager) (w : Window) {n b i : Nat} (h : i < freeRun m w n b) :
    w.blocks[b + i]? = some .empty ∧ blockLent m w.num (b + i) = false := by
  induction n generalizing b i with
  | zero => exact absurd h (Nat.not_lt_zero i)
  | succ n ih =>
    simp only [freeRun] at h
    split at h
    next hb =>
      cases i with
      | zero => simpa using hb
      | succ i =>
        rw [show b + (i + 1) = b + 1 + i by omega]
        exact ih (by omega)
    next => exact absurd h (Nat.not_lt_zero i)

/-- A free block is a run of one. -/
theorem freeRun_one_iff (m : Manager) (w : Window) (b : Nat) :
    freeRun m w 1 b = 1 ↔ w.blocks[b]? = some .empty ∧ blockLent m w.num b = false := by
  simp [freeRun]

theorem freeRun_pos {m : Manager} {w : Window} {n b : Nat} (hn : 1 ≤ n) (hb : freeFirst m w = some b) : 1 ≤ freeRun m w n b := by
  have hfree := (freeRun_one_iff m w b).1 (by simpa using List.find?_some hb)
  obtain ⟨k, rfl⟩ := Nat.exists_eq_add_of_le' hn
  simp [freeRun, hfree]

theorem freeFirst_eq_none {m : Manager} {w : Window} (h : ∀ b, w.blocks[b]? = some .empty → blockLent m w.num b = true) :
    freeFirst m w = none := by
  refine List.find?_eq_none.2 fun b _ hb => ?_
  obtain ⟨hempty, hlent⟩ := (freeRun_one_iff m w b).1 (by simpa using hb)
  simp [h b hempty] at hlent

theorem exec_crReq {s u : State} {mgr : Mgr} {y : Sender} {win want : Nat} (hup : s.isUp = true) (h1 : 1 ≤ want) (h2 : want ≤ 256)
    (hr : Reaches s y.module (fun m => m = .crReq none mgr y win want) u) :
    exec (.crReq mgr y win want) s = .next (answerReq u mgr y win want) := by
  show execCrReq mgr y win want s = _
  cases hm : y.module with
  | none =>
    rw [hm] at hr
    obtain ⟨m, harr⟩ := hr
    obtain rfl : m = .crReq none mgr y win want := harr.passes
    simp [execCrReq, h1, h2, hup, hm, State.arrive_eq harr]
  | some k =>
    rw [hm] at hr
    obtain ⟨hlanes, rfl⟩ := hr
    simp [execCrReq, h1, h2, hup, hm, hlanes]

/-- The grant of a run of blocks to a sender, as the manager enters it. -/
def newGrant (s : State) (mgr : Mgr) (y : Sender) (win b n : Nat) : Grant :=
  { num := (s.mgr mgr).nextGrant, window := win, sender := y, first := b, count := n, puts := [], returned := 0,
    lastTick := mgrTicks s mgr y, port := y.module.bind (fun k => grantPort s k (s.mgr mgr).nextGrant) }

section Answer

variable {s : State} {mgr : Mgr} {y : Sender} {win want : Nat}

theorem answerReq_granted {b n : Nat} (h : crAnswer s mgr y win want = (.granted, b, n)) :
    answerReq s mgr y win want = told (s.setMgr mgr { s.mgr mgr with grants := (s.mgr mgr).grants ++ [newGrant s mgr y win b n],
                                                                     nextGrant := (s.mgr mgr).nextGrant + 1 })
      y.module.isSome (.crGrant y mgr win (s.mgr mgr).nextGrant b n .granted) := by
  rw [← credit_crGrant]
  simp only [answerReq, h]
  rfl

theorem answerReq_refused {st : GrantStatus} (h : crAnswer s mgr y win want = (st, 0, 0)) (hst : st ≠ .granted) :
    answerReq s mgr y win want = told s y.module.isSome (.crGrant y mgr win 0 0 0 st) := by
  rw [← credit_crGrant]
  cases st with
  | granted => exact absurd rfl hst
  | wait => simp only [answerReq, h]
  | noWindow => simp only [answerReq, h]

variable {w : Window}

theorem crAnswer_granted {b : Nat} (hw : (s.mgr mgr).windows.find? (fun w => w.num == win) = some w) (hs : mgrServes s mgr = true)
    (ha : windowAccepts s w y = true) (hg : (s.mgr mgr).grants.length < 1024) (hb : freeFirst (s.mgr mgr) w = some b)
    (hwant : want ≤ 256) : crAnswer s mgr y win want = (.granted, b, freeRun (s.mgr mgr) w want b) := by
  simp [crAnswer, hw, hs, ha, hg, hb, hwant]

theorem crAnswer_wait (hw : (s.mgr mgr).windows.find? (fun w => w.num == win) = some w) (hs : mgrServes s mgr = true)
    (ha : windowAccepts s w y = true)
    (hn : 1024 ≤ (s.mgr mgr).grants.length ∨ ∀ b, w.blocks[b]? = some .empty → blockLent (s.mgr mgr) win b = true) :
    crAnswer s mgr y win want = (.wait, 0, 0) := by
  obtain rfl : w.num = win := by simpa using List.find?_some hw
  by_cases hg : 1024 ≤ (s.mgr mgr).grants.length
  · simp [crAnswer, hw, hs, ha, hg]
  · simp [crAnswer, hw, hs, ha, hg, freeFirst_eq_none (hn.resolve_left hg)]

theorem crAnswer_noWindow (h : ∀ w, (s.mgr mgr).windows.find? (fun w => w.num == win) = some w →
      mgrServes s mgr = false ∨ windowAccepts s w y = false) : crAnswer s mgr y win want = (.noWindow, 0, 0) := by
  cases hw : (s.mgr mgr).windows.find? (fun w => w.num == win) with
  | none => simp [crAnswer, hw]
  | some w =>
    have hno : (mgrServes s mgr && windowAccepts s w y) = false := Bool.and_eq_false_iff.2 (h w hw)
    simp [crAnswer, hw, hno]

end Answer

/-! The managers: blocks and PUT (R177 to R179). -/

/-- A search that a change of the elements does not touch finds the changed element. -/
theorem find?_map_of_comp {α : Type} {f : α → α} {p : α → Bool} (h : ∀ a, p (f a) = p a) (l : List α) :
    (l.map f).find? p = (l.find? p).map f := by
  rw [List.find?_map, show p ∘ f = p from funext h]

theorem find?_grant_replaced {l : List Grant} {n : Nat} {g g' : Grant} (hg : l.find? (fun g => g.num == n) = some g)
    (hn : g'.num = n) : (l.map (fun z => if z.num == n then g' else z)).find? (fun g => g.num == n) = some g' := by
  have hnum : g.num = n := by simpa using List.find?_some hg
  rw [find?_map_of_comp, hg]
  · simp [hnum]
  · intro z
    split
    next hz => rw [hn, beq_self_eq_true, hz]
    next => rfl

theorem getElem?_mapIdxFrom {α β : Type} (f : Nat → α → β) (k i : Nat) (l : List α) :
    (mapIdxFrom f k l)[i]? = (l[i]?).map (f (k + i)) := by
  induction l generalizing k i with
  | nil => simp [mapIdxFrom]
  | cons a t ih =>
    cases i with
    | zero => simp [mapIdxFrom]
    | succ i => simp [mapIdxFrom, ih, Nat.add_assoc, Nat.add_comm 1]

section Blocks

variable {m : Manager} {win : Nat} {w : Window}

/-- The window whose blocks are marked, and what they are then. -/
theorem setBlocks_window (hw : m.windows.find? (fun w => w.num == win) = some w) (p : Nat → Bool) (st : BlockState) :
    ∃ w', (setBlocks m win p st).windows.find? (fun w => w.num == win) = some w' ∧ w' = { w with blocks := w'.blocks }
      ∧ (∀ b, p b = true → b < w.blocks.length → w'.blocks[b]? = some st) ∧ ∀ b, p b = false → w'.blocks[b]? = w.blocks[b]? := by
  have hnum : w.num = win := by simpa using List.find?_some hw
  refine ⟨{ w with blocks := mapIdxFrom (fun b x => if p b then st else x) 0 w.blocks }, ?_, rfl, fun b hp hb => ?_, fun b hp => ?_⟩
  · rw [setBlocks, find?_map_of_comp, hw]
    · simp [hnum]
    · intro z
      split <;> rfl
  · simp [getElem?_mapIdxFrom, hp, hb]
  · simp [getElem?_mapIdxFrom, hp]

/-- The end of a grant at its manager (R180). -/
theorem grantEnded_dropGrant (m : Manager) (g : Grant) : GrantEnded m (dropGrant m g) g := by
  refine ⟨rfl, fun w hw => ?_⟩
  obtain ⟨w', hfind, hframe, hin, hout⟩ :=
    setBlocks_window hw (fun b => g.first + g.returned ≤ b && b < g.first + g.count) .empty
  refine ⟨w', hfind, hframe, fun b hlo hhi hb => hin b (by simp [hlo, hhi]) hb, fun b hb => hout b ?_⟩
  simp only [Bool.and_eq_false_iff, decide_eq_false_iff_not, Nat.not_le, Nat.not_lt]
  exact hb

end Blocks

/-- A PUT of a peer has passed on its grant's port, or on the lowest that leads to the peer where the grant names none (R257, R267). -/
def heardPut (s : State) (mgr : Mgr) (grant module : Nat) : State :=
  match ((s.mgr mgr).grants.find? (fun g => g.num == grant)).bind (fun g => g.port) with
  | some p => s.heardOn p
  | none => s.heardFrom module

/-- The arrival Mark of a window, where it has one, is signalled (R178). -/
def signalArrival (s : State) (w : Window) : State :=
  match w.mark with
  | some k => s.signal ⟨k, 1, w.ctx, .program w.owner w.epoch⟩
  | none => s

section Put

variable {s : State} {mgr : Mgr} {y : Sender} {grant block : Nat} {payload : Bytes} {marked : Bool}

theorem exec_put {u : State}
    (hr : (y.module = none ∧ Reaches s none (fun m => m = .put none mgr y grant block payload marked) u)
        ∨ (∃ k, y.module = some k ∧ lanes s k ≠ [] ∧ s.isUp = true ∧ u = heardPut s mgr grant k)) :
    exec (.put mgr y grant block payload marked) s = .next (takePut u mgr y grant block payload marked) := by
  show execPut mgr y grant block payload marked s = _
  obtain ⟨hm, m, harr⟩ | ⟨k, hm, hlanes, hup, rfl⟩ := hr
  · obtain rfl : m = .put none mgr y grant block payload marked := harr.passes
    simp only [execPut, hm, State.arrive_eq harr]
  · simp only [execPut, hm, List.isEmpty_eq_false_iff.2 hlanes, hup, Bool.not_true, Bool.false_eq_true, if_false]
    rfl

/-- A manager once a block of a grant has been written (R178). -/
def filled (s : State) (mgr : Mgr) (g : Grant) (block : Nat) : Manager :=
  let m := setBlocks (s.mgr mgr) g.window (· == block) .full
  { m with grants := m.grants.map (fun z => if z.num == g.num then
      { g with puts := g.puts ++ [block], lastTick := mgrTicks s mgr g.sender } else z) }

theorem filled_grant {g : Grant} (hg : (s.mgr mgr).grants.find? (fun g => g.num == grant) = some g) :
    ((filled s mgr g block).grants.find? (fun g => g.num == grant)).map (fun g => g.puts) = some (g.puts ++ [block]) := by
  obtain rfl : g.num = grant := by simpa using List.find?_some hg
  simp only [filled, setBlocks]
  rw [find?_grant_replaced hg]
  · rfl
  · rfl

/-- A PUT of an open grant, the next of its blocks (R178, R179). -/
theorem takePut_ok {g : Grant} {w : Window} {xs : List Span} (hg : (s.mgr mgr).grants.find? (fun g => g.num == grant) = some g)
    (he : g.sender.epoch = y.epoch) (hb : block = g.first + g.puts.length) (hc : g.puts.length < g.count)
    (hp : payload.length = 1024) (hw : (s.mgr mgr).windows.find? (fun w => w.num == g.window) = some w)
    (hx : windowSpans s mgr w block = .ok xs) :
    takePut s mgr y grant block payload marked =
      signalArrival ((s.setMgr mgr (filled s mgr g block)).writeSpans xs payload marked) w := by
  obtain rfl : g.num = grant := by simpa using List.find?_some hg
  have hwin : w.num = g.window := by simpa using List.find?_some hw
  subst hb
  simp only [takePut, hg, he, bne_self_eq_false, Bool.false_eq_true, if_false, beq_self_eq_true, hc, hp, decide_true, Bool.and_self,
    Bool.not_true, hw, hx, hwin]
  rfl

/-- A PUT that names no open grant or another epoch is counted (R179, R181). -/
theorem takePut_stale (h : ∀ g, (s.mgr mgr).grants.find? (fun g => g.num == grant) = some g → g.sender.epoch ≠ y.epoch) :
    takePut s mgr y grant block payload marked = countStalePut s mgr := by
  cases hg : (s.mgr mgr).grants.find? (fun g => g.num == grant) with
  | none => simp only [takePut, hg]
  | some g => simp [takePut, hg, h g hg]

end Put

/-! The sender: the dispatch and its stream (R178, R202, R205, R303). -/

theorem onlyDispatch_setDisp {s : State} {d : DRef} {x y : Dispatch} (hx : s.disp? d = some x) (hy : y.id = d) :
    OnlyDispatch s (s.setDisp y) d y :=
  ⟨rfl, s.disp?_setDisp_self hx hy, fun _ he => s.disp?_setDisp_other (hy.trans_ne he.symm)⟩

theorem holding_disp? {s : State} {d : DRef} {x : Dispatch} (h : s.holding d = some x) :
    s.disp? d = some x ∧ (x.phase = .running ∨ x.phase = .saved) ∧ x.fate = none := by
  unfold State.holding at h
  split at h
  next => cases h
  next z hz =>
    split at h
    next hc =>
      cases h
      simp only [Bool.and_eq_true, Bool.or_eq_true, beq_iff_eq, Option.isNone_iff_eq_none] at hc
      obtain ⟨⟨hphase, hfate⟩, -⟩ := hc
      exact ⟨hz, hphase, hfate⟩
    next => cases h

theorem disp?_id {s : State} {d : DRef} {x : Dispatch} (h : s.disp? d = some x) : x.id = d := by simpa using List.find?_some h

theorem setStream_ne_nil {x : Dispatch} {t : Stream} {slot : Nat} (h : x.stream? slot = some t) (t' : Stream) :
    (x.setStream t').streams ≠ [] := by
  have hmem : t ∈ x.streams := List.mem_of_find?_eq_some h
  simpa [Dispatch.setStream] using List.ne_nil_of_mem hmem

/-- A dispatch that holds a stream has not finished, so a fault wins its commit point (R307). -/
theorem stop_holding {s : State} {x : Dispatch} (hf : x.fate = none) (hp : x.phase ≠ .ended) (hs : x.streams ≠ []) (c : FaultCode)
    (i : Nat) : s.stop x c i = s.setDisp { x with fate := some ⟨2, c.code, 2, i⟩ } := by
  have hfin : x.finished = false := by simp [Dispatch.finished, hs]
  simp [State.stop, Dispatch.abort, hf, hp, hfin, causeFault]

theorem countStale_only {s : State} {d : DRef} {x : Dispatch} (hx : s.disp? d = some x) :
    OnlyDispatch { s with staleDiscards := min (s.staleDiscards + 1) (2 ^ 32 - 1) } (countStale s d) d
      { x with stale := min (x.stale + 1) (2 ^ 32 - 1) } := by
  have hfind : ∀ e, (countStale s d).disp? e
      = (s.disp? e).map (fun x => if x.id == d then { x with stale := satInc 32 x.stale } else x) := by
    refine fun e => find?_map_of_comp (fun a => ?_) s.disps
    split <;> rfl
  refine ⟨rfl, ?_, fun e he => ?_⟩
  · simp [hfind, hx, disp?_id hx, satInc]
  · rw [hfind]
    show _ = s.disp? e
    cases hz : s.disp? e with
    | none => rfl
    | some z => simp [disp?_id hz, he]

/-- A CR_REQ for a window of this module (R178). -/
theorem sendReq_near {s : State} {x : Dispatch} {t : Stream} (h : t.tmod = none) :
    sendReq s x t = told (s.setDisp (x.setStream { t with reqOpen := true, port := none })) false
      (.crReq none (putMgr t) ⟨none, x.lead, x.ctx, x.epoch⟩ t.window (min 256 (t.units.length - t.done))) := by
  simp [sendReq, h, State.credit, Msg.path, told, streamSender]

/-- With no stream in its queue nothing takes the slot that has become free (R192). -/
theorem fillSlot_none {s : State} {d : DRef} {x : Dispatch} (hx : s.disp? d = some x) (h : ∀ z ∈ x.streams, z.slot < 8) :
    fillSlot s d = s := by
  have hq : x.streams.find? (·.slot ≥ 8) = none := List.find?_eq_none.2 fun z hz => by simpa using h z hz
  simp only [fillSlot, hx, hq]
  split
  next h' => cases h'
  next => rfl

section Sender

variable {s u : State} {d : DRef} {slot epoch grant : Nat} {x : Dispatch} {t : Stream}

theorem exec_crGrant {first count : Nat} {st : GrantStatus} (hx : s.holding d = some x) (ht : x.stream? slot = some t)
    (hk : t.kind = .put)
    (hr : ReachesStream s t (fun m => ∃ y, m = .crGrant y (putMgr t) t.window grant first count st ∧ y.ctx = x.ctx ∧ y.epoch = epoch) u) :
    exec (.crGrant d slot epoch grant first count st) s = .next (
      if epoch != x.epoch then countStale (if t.tmod.isSome && st == .granted
        then u.emit (.senderCancel t.tmod (putMgr t) { streamSender u x t with epoch := epoch } grant .epoch) else u) d
      else if !t.reqOpen then u else takeGrant u x t grant first count st) := by
  show execCrGrant d slot epoch grant first count st s = _
  simp only [execCrGrant, hx, ht, hk, bne_self_eq_false, Bool.false_eq_true, if_false, apply_ite Host.Outcome.next]
  rw [arriveFor_eq hr]
  refine fun m => ⟨fun hq => ?_, ?_⟩
  · split at hq
    next y g w n f k q =>
      simp only [Bool.and_eq_true, beq_iff_eq] at hq
      obtain ⟨⟨⟨⟨⟨⟨⟨rfl, rfl⟩, hc⟩, he⟩, rfl⟩, rfl⟩, rfl⟩, rfl⟩ := hq
      exact ⟨y, rfl, hc, he⟩
    next => cases hq
  · rintro ⟨y, rfl, hc, he⟩
    simp [hc, he]

theorem exec_crReturn {count : Nat} (hx : s.holding d = some x) (ht : x.stream? slot = some t) (hk : t.kind = .put)
    (hr : ReachesStream s t (fun m => ∃ y, m = .crReturn y (putMgr t) grant count ∧ y.ctx = x.ctx ∧ y.epoch = epoch) u) :
    exec (.crReturn d slot epoch grant count) s = .next (
      if epoch != x.epoch then countStale u d
      else if !(grant != 0 && t.grant == grant && t.gRet + count ≤ t.gSent) then u else takeReturn u x t count) := by
  show execCrReturn d slot epoch grant count s = _
  simp only [execCrReturn, hx, ht, hk, bne_self_eq_false, Bool.false_eq_true, if_false, apply_ite Host.Outcome.next]
  rw [arriveFor_eq hr]
  refine fun m => ⟨fun hq => ?_, ?_⟩
  · split at hq
    next y g n k =>
      simp only [Bool.and_eq_true, beq_iff_eq] at hq
      obtain ⟨⟨⟨⟨rfl, hc⟩, he⟩, rfl⟩, rfl⟩ := hq
      exact ⟨y, rfl, hc, he⟩
    next => cases hq
  · rintro ⟨y, rfl, hc, he⟩
    simp [hc, he]

theorem exec_crCancel_stream {r : CancelReason} (hx : s.holding d = some x) (ht : x.stream? slot = some t) (hk : t.kind = .put)
    (h0 : grant ≠ 0) (hg : t.grant = grant)
    (hr : ReachesStream s t (fun m => ∃ y, m = .crCancel y (putMgr t) grant r ∧ y.ctx = x.ctx ∧ y.epoch = x.epoch) u) :
    exec (.crCancel (.stream d slot) grant r) s = .next (cancelStream u x t r) := by
  have hheld : (t.kind == .put && grant != 0 && t.grant == grant) = true := by simp [hk, h0, hg]
  show execCrCancel (.stream d slot) grant r s = _
  simp only [execCrCancel, cancelAtSender, hx, ht, hheld, if_true]
  rw [arriveFor_eq hr]
  refine fun m => ⟨fun hq => ?_, ?_⟩
  · split at hq
    next y g n q =>
      simp only [Bool.and_eq_true, beq_iff_eq] at hq
      obtain ⟨⟨⟨⟨rfl, hc⟩, he⟩, rfl⟩, rfl⟩ := hq
      exact ⟨y, rfl, hc, he⟩
    next => cases hq
  · rintro ⟨y, rfl, hc, he⟩
    simp [hc, he]

end Sender

/-! What the sender makes of a message under its own epoch. -/

section Answers

variable {s : State} {d : DRef} {x : Dispatch} {t : Stream} {count : Nat}

theorem holding_reached {s u : State} {p : Msg → Prop} (hx : s.holding d = some x) (hr : ReachesStream s t p u) :
    u.disp? d = some x := (hr.disp? d).trans (holding_disp? hx).1

theorem onlyDispatch_setStream (hx : s.disp? d = some x) (t' : Stream) :
    OnlyDispatch s (s.setDisp (x.setStream t')) d (x.setStream t') :=
  onlyDispatch_setDisp hx (show x.id = d from disp?_id hx)

theorem onlyDispatch_dropStream (hx : s.disp? d = some x) (t : Stream) :
    OnlyDispatch s (s.setDisp (x.dropStream t)) d (x.dropStream t) :=
  onlyDispatch_setDisp hx (show x.id = d from disp?_id hx)

/-- A fault at a stream stops its dispatch (R203). -/
theorem onlyDispatch_stop {s₀ : State} {slot : Nat} (h₀ : s₀.holding d = some x) (ht : x.stream? slot = some t)
    (hx : s.disp? d = some x) (t' : Stream) (c : FaultCode) (i : Nat) :
    OnlyDispatch s (s.stop (x.setStream t') c i) d { x.setStream t' with fate := some ⟨2, c.code, 2, i⟩ } := by
  obtain ⟨-, hphase, hfate⟩ := holding_disp? h₀
  have hopen : x.phase ≠ .ended := by obtain h | h := hphase <;> simp [h]
  rw [stop_holding (x := x.setStream t') hfate hopen (setStream_ne_nil ht t')]
  exact onlyDispatch_setDisp hx (show x.id = d from disp?_id hx)

theorem goesOn_eq (x : Dispatch) : goesOn x = if x.phase = .saved then .stopped else .running := by simp [goesOn]

theorem askAgain_saved (h : x.phase = .saved) : askAgain s x t = s.setDisp (x.setStream t) := by simp [askAgain, h]

theorem askAgain_near (h : x.phase = .running) (hn : t.tmod = none) :
    askAgain s x t = told (s.setDisp (x.setStream { t with reqOpen := true, port := none })) false
      (.crReq none (putMgr t) ⟨none, x.lead, x.ctx, x.epoch⟩ t.window (min 256 (t.units.length - t.done))) := by
  rw [← sendReq_near hn]
  simp [askAgain, h]

theorem takeReturn_open (h : t.gRet + count < t.gCount) :
    takeReturn s x t count = s.setDisp (x.setStream { t with gRet := t.gRet + count }) := by simp [takeReturn, h]

/-- The last grant of a stream that has written all its blocks (R199). -/
theorem takeReturn_last (hx : s.disp? d = some x) (h : t.gCount ≤ t.gRet + count) (hd : t.units.length ≤ t.done)
    (hq : ∀ z ∈ x.streams, z.slot < 8) : takeReturn s x t count = s.setDisp (x.dropStream t) := by
  obtain rfl := disp?_id hx
  have hfill : fillSlot (s.setDisp (x.dropStream t)) x.id = s.setDisp (x.dropStream t) :=
    fillSlot_none (s.disp?_setDisp_self hx rfl) fun z hz => hq z (List.mem_of_mem_filter hz)
  simp only [takeReturn, Nat.not_lt.2 h, if_false, ge_iff_le, hd, if_true]
  exact hfill

theorem takeReturn_more (h : t.gCount ≤ t.gRet + count) (hd : t.done < t.units.length) :
    takeReturn s x t count = askAgain s x { t with gRet := t.gRet + count, grant := 0 } := by
  simp only [takeReturn, Nat.not_lt.2 h, if_false, ge_iff_le, Nat.not_le.2 hd]

/-- A stream that held the grant goes back to its first unreturned block (R205). -/
theorem lostGrant_held (h : t.grant ≠ 0) :
    lostGrant t = { t with done := t.gBase + t.gRet, grant := 0, gFirst := 0, gCount := 0, gSent := 0, gRet := 0, reqOpen := false } := by
  simp [lostGrant, h]

theorem cancelStream_violation {r : CancelReason} (hl : r ≠ .link) (he : r ≠ .epoch) :
    cancelStream s x t r = s.stop (x.setStream (lostGrant t)) .creditViolation t.instr := by
  cases r with
  | link => exact absurd rfl hl
  | epoch => exact absurd rfl he
  | _ => rfl

end Answers

/-! Cancels and timeouts at the manager (R180). -/

/-- A cancel from another module has passed on its grant's port (R267). -/
def heardCancel (s : State) (g : Grant) : State :=
  match g.port with
  | some p => s.heardOn p
  | none => s

theorem exec_crCancel_manager {s : State} {m : Mgr} {y : Sender} {grant k : Nat} {r : CancelReason} {g : Grant}
    (hy : y.module = some k) (hg : (s.mgr m).grants.find? (fun z => z.num == grant && z.sender == y) = some g) :
    exec (.crCancel (.manager m y) grant r) s = .next ((heardCancel s g).setMgr m (dropGrant (s.mgr m) g)) := by
  show execCrCancel (.manager m y) grant r s = _
  simp only [execCrCancel, hy, Option.isSome_some, if_true, cancelAtManager, hg]
  unfold heardCancel
  cases g.port <;> rfl

theorem exec_creditTimeout {s : State} {mgr : Mgr} {grant : Nat} {g : Grant}
    (hg : (s.mgr mgr).grants.find? (fun y => y.num == grant) = some g)
    (hdue : g.lastTick + s.settingN 0x0303 0 + 1 ≤ mgrTicks s mgr g.sender) :
    exec (.creditTimeout mgr grant) s = .next (told (s.setMgr mgr (dropGrant (s.mgr mgr) g)) g.sender.module.isSome
      (.crCancel g.sender mgr grant .timeout)) := by
  obtain rfl : g.num = grant := by simpa using List.find?_some hg
  rw [← credit_crCancel]
  show execCreditTimeout mgr g.num s = _
  simp only [execCreditTimeout, hg, due, ge_iff_le, hdue, decide_true, if_true]
  rfl

/-- Settles O25: each message reaches its manager or its stream, and the lemmas above say what it comes to there. That a grant takes
the lowest run of EMPTY blocks is log entry 15's choice, the order in which messages arrive log entry 31's. -/
theorem creditManagersGrantPutReturnAndCancel : Obligations.CreditManagersGrantPutReturnAndCancel := by
  unfold Obligations.CreditManagersGrantPutReturnAndCancel
  refine ⟨?_, ?_, ?_, ?_, ?_, ?_, ?_⟩
  · intro s u mgr y win want hup h1 h256 hr
    rw [exec_crReq hup h1 h256 hr]
    refine ⟨fun w b hw hs ha hg hb => ?_, fun w hw hs ha hn => ?_, fun hn => ?_⟩
    · obtain rfl : w.num = win := by simpa using List.find?_some hw
      exact ⟨_, newGrant u mgr y w.num b (freeRun (u.mgr mgr) w want b), onlyManager_setMgr ..,
        congrArg Host.Outcome.next (answerReq_granted (crAnswer_granted hw hs ha hg hb h256)), rfl, rfl, rfl, rfl, rfl, rfl, rfl,
        freeRun_pos h1 hb, freeRun_le .., fun i hi => freeRun_free _ _ hi⟩
    · rw [answerReq_refused (crAnswer_wait hw hs ha hn) (by decide)]
    · rw [answerReq_refused (crAnswer_noWindow hn) (by decide)]
  · intro s u d slot epoch grant first count st x t hx ht hk hr act
    have hu := holding_reached hx hr
    rw [exec_crGrant hx ht hk hr]
    refine ⟨fun he ho => ?_, fun he hn => ?_⟩
    · simp only [he, ho, bne_self_eq_false, Bool.not_true, Bool.false_eq_true, if_false]
      refine ⟨?_, ?_, ?_⟩ <;> rintro rfl <;> refine ⟨_, rfl, ?_⟩
      · simp only [takeGrant, goesOn_eq]
        exact onlyDispatch_setStream hu _
      · exact onlyDispatch_setStream hu _
      · exact onlyDispatch_stop hx ht hu _ .creditViolation _
    · simp only [bne_iff_ne.2 he, hn, Option.isSome_none, Bool.false_and, Bool.false_eq_true, if_false, if_true]
      exact ⟨_, rfl, countStale_only hu⟩
  · intro s u mgr y grant block payload marked hr
    rw [exec_put hr]
    refine ⟨fun g w xs hg he hb hc hp hw hx => ?_, fun hg => ?_⟩
    · obtain ⟨w', hfind, hframe, hin, hout⟩ := setBlocks_window hw (· == block) .full
      rw [takePut_ok hg he hb hc hp hw hx]
      refine ⟨u.setMgr mgr (filled u mgr g block), filled u mgr g block, w', onlyManager_setMgr .., rfl, hfind, hframe,
        hin block (beq_self_eq_true block), fun b hb => hout b (beq_false_of_ne hb), filled_grant hg, fun hm => ?_, fun k hm => ?_⟩
      · simp only [signalArrival, hm]
      · simp only [signalArrival, hm]
    · rw [takePut_stale hg]
      exact ⟨_, rfl, onlyManager_setMgr ..⟩
  · intro s u d slot epoch grant count x t hx ht hk hr back
    have hu := holding_reached hx hr
    rw [exec_crReturn hx ht hk hr]
    refine ⟨fun he h0 hg hsent => ?_, fun he => ?_⟩
    · have hopen : (grant != 0 && t.grant == grant && t.gRet + count ≤ t.gSent) = true := by
        simpa [h0, hg] using hsent
      simp only [he, hopen, bne_self_eq_false, Bool.not_true, Bool.false_eq_true, if_false]
      refine ⟨fun hlt => ?_, fun hle hd hq => ?_, fun hle hd hs => ?_, fun hle hd hs hn => ?_⟩
      · exact ⟨_, congrArg _ (takeReturn_open hlt), onlyDispatch_setStream hu _⟩
      · exact ⟨_, congrArg _ (takeReturn_last hu hle hd hq), onlyDispatch_dropStream hu t⟩
      · exact ⟨_, congrArg _ ((takeReturn_more hle hd).trans (askAgain_saved hs)), onlyDispatch_setStream hu _⟩
      · exact ⟨_, congrArg _ ((takeReturn_more hle hd).trans (askAgain_near hs hn)), onlyDispatch_setStream hu _⟩
    · simp only [bne_iff_ne.2 he, if_true]
      exact ⟨_, rfl, countStale_only hu⟩
  · intro s u d slot grant r x t hx ht hk h0 hg hr back
    have hu := holding_reached hx hr
    have hback : lostGrant t = back := lostGrant_held (hg.trans_ne h0)
    rw [exec_crCancel_stream hx ht hk h0 hg hr]
    refine ⟨fun h => ?_, fun hl he => ?_, fun h hs => ?_, fun h hs hn => ?_⟩
    · subst h
      exact ⟨_, rfl, hback ▸ onlyDispatch_stop hx ht hu _ .linkLost _⟩
    · rw [cancelStream_violation hl he, hback]
      exact ⟨_, rfl, onlyDispatch_stop hx ht hu _ .creditViolation _⟩
    · subst h
      simp only [cancelStream, hback, askAgain_saved hs, goesOn_eq, hs, if_true]
      exact ⟨_, rfl, onlyDispatch_setStream hu _⟩
    · subst h
      have hgo : goesOn x = .running := by simp [goesOn, hs]
      simp only [cancelStream, hback, hgo]
      exact ⟨_, congrArg _ (askAgain_near hs hn), onlyDispatch_setStream hu _⟩
  · intro s m y grant k r g hy hg
    exact ⟨_, _, exec_crCancel_manager hy hg, onlyManager_setMgr .., grantEnded_dropGrant ..⟩
  · intro s mgr grant g hg hdue
    exact ⟨_, _, exec_creditTimeout hg hdue, onlyManager_setMgr .., grantEnded_dropGrant ..⟩

end Sys2Proof.Machine

/-! SUPPORT. Words of modular arithmetic (R56 to R59, R61): the inverse by Euclid, REDC, the residue a word stands for, the words of
a byte string, and the count of a product cell. -/

namespace Sys2Proof.Machine

/-! The inverse modulo m. -/

/-- Every pair that Euclid reaches answers its remainder to the multiple of `a`. -/
theorem egcd_snd_mul (a m : ℤ) (f : Nat) {r r' s s' : ℤ} (h : s * a ≡ r [ZMOD m]) (h' : s' * a ≡ r' [ZMOD m]) :
    (egcd f r r' s s').2 * a ≡ (egcd f r r' s s').1 [ZMOD m] := by
  induction f generalizing r r' s s' with
  | zero => exact h
  | succ f ih =>
    simp only [egcd]
    split
    · exact h
    · refine ih h' ?_
      have := h.sub (h'.mul_left (r / r'))
      rwa [← mul_assoc, ← sub_mul] at this

/-- Two steps of Euclid halve the second remainder, so 2k + 1 steps reach the divisor when it is below 2^k. -/
theorem egcd_fst (k f : Nat) {r r' : ℤ} (s s' : ℤ) (hr : 0 ≤ r) (h0 : 0 ≤ r') (hk : r' < 2 ^ k) (hf : 2 * k + 1 ≤ f) :
    (egcd f r r' s s').1 = Int.gcd r r' := by
  have hstep : ∀ {a b : ℤ}, a - a / b * b = a % b := fun {a b} => by rw [Int.emod_def, mul_comm]
  have hgcd : ∀ {a b : ℤ}, Int.gcd b (a % b) = Int.gcd a b := fun {a b} => by rw [Int.gcd_comm, Int.gcd_emod]
  induction k generalizing f r r' s s' with
  | zero =>
    obtain rfl : r' = 0 := by omega
    obtain ⟨f, rfl⟩ : ∃ g, f = g + 1 := ⟨f - 1, by omega⟩
    simp [egcd, abs_of_nonneg hr]
  | succ k ih =>
    obtain ⟨f, rfl⟩ : ∃ g, f = g + 3 := ⟨f - 3, by omega⟩
    by_cases h1 : r' = 0
    · simp [egcd, h1, abs_of_nonneg hr]
    have hpos : 0 < r' := by omega
    by_cases h2 : r % r' = 0
    · rw [← hgcd, h2]
      simp [egcd, hstep, h1, h2, abs_of_nonneg h0]
    have hm0 := Int.emod_nonneg r h1
    have hml := Int.emod_lt_of_pos r hpos
    have hn0 := Int.emod_nonneg r' h2
    have hhalf : r' % (r % r') < 2 ^ k := by
      have hnl := Int.emod_lt_of_pos r' (show 0 < r % r' by omega)
      have hq : 1 ≤ r' / (r % r') := Int.le_ediv_of_mul_le (by omega) (by omega)
      have hdiv := Int.emod_add_mul_ediv r' (r % r')
      have : r % r' ≤ r % r' * (r' / (r % r')) := le_mul_of_one_le_right (by omega) hq
      rw [pow_succ] at hk
      omega
    rw [egcd, if_neg h1, egcd, hstep, if_neg h2, hstep, ih (f + 1) _ _ hm0 hn0 hhalf (by omega), hgcd, hgcd]

theorem invMod_lt (a : Nat) {m : Nat} (hm : 0 < m) : invMod a m < m := by
  have := Int.emod_lt_of_pos (egcd (2 * Nat.log2 (m + 1) + 4) (a % m) m 1 0).2 (b := m) (by omega)
  simp only [invMod]
  split <;> omega

theorem mul_invMod {a m : Nat} (hm : 0 < m) (h : Nat.Coprime a m) : a * invMod a m ≡ 1 [MOD m] := by
  have hlt : (m : ℤ) < 2 ^ (Nat.log2 (m + 1) + 1) := by exact_mod_cast (Nat.lt_succ_self m).trans (Nat.lt_log2_self)
  have hfst := egcd_fst (Nat.log2 (m + 1) + 1) (2 * Nat.log2 (m + 1) + 4) (r := a % m) (r' := m) 1 0 (Int.emod_nonneg _ (by omega))
    (by omega) hlt (by omega)
  have hsnd := egcd_snd_mul a m (2 * Nat.log2 (m + 1) + 4) (r := a % m) (r' := m) (s := 1) (s' := 0)
    (by simpa using (Int.mod_modEq (a : ℤ) m).symm) (by simp [Int.ModEq])
  have hone : Int.gcd ((a : ℤ) % m) m = 1 := by
    rw [← Int.natCast_emod, Int.gcd_natCast_natCast, ← Nat.gcd_rec, Nat.gcd_comm]
    exact h
  rw [hone] at hfst
  rw [hfst] at hsnd
  have hcast : ((invMod a m : Nat) : ℤ) = (egcd (2 * Nat.log2 (m + 1) + 4) (a % m) m 1 0).2 % m := by
    simp only [invMod, hfst, Nat.cast_one, if_true]
    exact Int.toNat_of_nonneg (Int.emod_nonneg _ (by omega))
  rw [← Int.natCast_modEq_iff]
  push_cast
  rw [hcast, mul_comm]
  exact ((Int.mod_modEq _ _).mul_right _).trans hsnd

/-! REDC and the residue of a word (R56, R57). -/

theorem condSub_lt {x m : Nat} (h : x < 2 * m) : condSub x m < m := by
  unfold condSub
  split <;> omega

theorem condSub_modEq (x m : Nat) : condSub x m ≡ x [MOD m] := by
  unfold condSub
  split
  next h => exact (Nat.mod_eq_sub_mod h).symm
  next => rfl

/-- The exact result of a lane subtraction is not negative: it is a sum below 4q, reduced once. -/
theorem subM_eq {q b : Nat} (a : Nat) (hb : b < 2 * q) : subM q a b = condSub (a + (2 * q - b)) (2 * q) % 2 ^ 32 := by
  simp only [subM, unsignedOf, condSub]
  split <;> split <;> omega

section Words

variable {q : Nat} (hq : WordPrime q)
include hq

theorem WordPrime.coprime : Nat.Coprime (2 ^ 32) q := by
  obtain ⟨-, -, hodd⟩ := hq
  exact (Nat.coprime_two_left.2 (Nat.odd_iff.2 hodd)).pow_left 32

theorem WordPrime.pos : 0 < q := by
  obtain ⟨hlo, -, -⟩ := hq
  omega

/-- A factor of 2^32 cancels modulo q. -/
theorem modEq_of_mul_word {a b : Nat} (h : a * 2 ^ 32 ≡ b * 2 ^ 32 [MOD q]) : a ≡ b [MOD q] :=
  Nat.ModEq.cancel_right_of_coprime hq.coprime.symm h

theorem mul_qNegInv_add_one : q * qNegInv q + 1 ≡ 0 [MOD 2 ^ 32] := by
  have hinv := mul_invMod (a := q) (m := 2 ^ 32) (by norm_num) hq.coprime.symm
  have hlt := invMod_lt q (m := 2 ^ 32) (by norm_num)
  calc q * qNegInv q + 1
      ≡ q * (2 ^ 32 - invMod q (2 ^ 32)) + q * invMod q (2 ^ 32) [MOD 2 ^ 32] :=
        Nat.ModEq.add ((Nat.mod_modEq _ _).mul_left q) hinv.symm
    _ = q * 2 ^ 32 := by rw [← Nat.mul_add, Nat.sub_add_cancel hlt.le]
    _ ≡ 0 [MOD 2 ^ 32] := Nat.modEq_zero_iff_dvd.2 (dvd_mul_left ..)

/-- REDC divides exactly: the multiple of q that it adds clears the low word. -/
theorem redc_mul (t : Nat) : redc q t * 2 ^ 32 = t + t % 2 ^ 32 * qNegInv q % 2 ^ 32 * q := by
  refine Nat.div_mul_cancel (Nat.modEq_zero_iff_dvd.1 ?_)
  calc t + t % 2 ^ 32 * qNegInv q % 2 ^ 32 * q
      ≡ t + t * qNegInv q * q [MOD 2 ^ 32] :=
        (((Nat.mod_modEq _ _).trans ((Nat.mod_modEq t _).mul_right _)).mul_right q).add_left t
    _ = t * (q * qNegInv q + 1) := by ring
    _ ≡ t * 0 [MOD 2 ^ 32] := (mul_qNegInv_add_one hq).mul_left t

theorem redc_mul_modEq (t : Nat) : redc q t * 2 ^ 32 ≡ t [MOD q] := by
  rw [redc_mul hq]
  exact Nat.add_mul_mod_self_right ..

theorem redc_lt {t : Nat} (ht : t < 2 ^ 32 * q) : redc q t < 2 * q := by
  have hmul := redc_mul hq t
  have : t % 2 ^ 32 * qNegInv q % 2 ^ 32 * q < 2 ^ 32 * q := Nat.mul_lt_mul_of_pos_right (Nat.mod_lt _ (by norm_num)) hq.pos
  omega

theorem redc_word_le {t : Nat} (ht : t < 2 ^ 32) : redc q t ≤ q := by
  have hmul := redc_mul hq t
  have : t % 2 ^ 32 * qNegInv q % 2 ^ 32 * q ≤ (2 ^ 32 - 1) * q :=
    Nat.mul_le_mul_right q (Nat.le_sub_one_of_lt (Nat.mod_lt _ (by norm_num)))
  omega

theorem storeM_lt {w : Nat} (hw : w < 2 ^ 32) : storeM q w < q := by
  have hle := redc_word_le hq hw
  have := hq.pos
  simp only [storeM]
  split <;> omega

theorem storeM_mul_modEq (w : Nat) : storeM q w * 2 ^ 32 ≡ w [MOD q] := by
  refine Nat.ModEq.trans (Nat.ModEq.mul_right _ ?_) (redc_mul_modEq hq w)
  simp only [storeM]
  split
  next h => rw [h, Nat.ModEq, Nat.mod_self, Nat.zero_mod]
  next => rfl

/-- The store of a word is the one canonical residue whose Montgomery form it is (R57). -/
theorem storeM_eq {w r : Nat} (hw : w < 2 ^ 32) (hr : w ≡ r * 2 ^ 32 [MOD q]) : storeM q w = r % q := by
  have h : storeM q w ≡ r [MOD q] := modEq_of_mul_word hq ((storeM_mul_modEq hq w).trans hr)
  rw [← h, Nat.mod_eq_of_lt (storeM_lt hq hw)]

theorem redc_r2_lt {u : Nat} (hu : u < 2 ^ 32) : redc q (u * r2Of q) < 2 * q :=
  redc_lt hq (Nat.mul_lt_mul'' hu (Nat.mod_lt _ hq.pos))

theorem redc_r2_modEq (u : Nat) : redc q (u * r2Of q) ≡ u * 2 ^ 32 [MOD q] := by
  refine modEq_of_mul_word hq ((redc_mul_modEq hq _).trans ?_)
  calc u * r2Of q ≡ u * 2 ^ 64 [MOD q] := (Nat.mod_modEq _ _).mul_left u
    _ = u * 2 ^ 32 * 2 ^ 32 := by ring

/-- A lazy value is a word. -/
theorem WordPrime.lazy_lt {w : Nat} (h : w < 2 * q) : w < 2 ^ 32 := by
  obtain ⟨-, hhi, -⟩ := hq
  omega

theorem loadM_eq {u : Nat} (hu : u < 2 ^ 32) : loadM q u = redc q (u * r2Of q) :=
  Nat.mod_eq_of_lt (hq.lazy_lt (redc_r2_lt hq hu))

/-! The lanes (R58, R59). -/

variable {a b c : Nat}

theorem montMul_lt (ha : a < 2 * q) (hb : b < 2 * q) : montMul q a b < 2 * q := by
  have hword : q ≤ 2 ^ 32 := (hq.lazy_lt (w := q) (by have := hq.pos; omega)).le
  exact redc_lt hq ((Nat.mul_lt_mul'' (condSub_lt ha) (condSub_lt hb)).trans_le (Nat.mul_le_mul_right q hword))

theorem montMul_modEq : montMul q a b * 2 ^ 32 ≡ a * b [MOD q] :=
  (redc_mul_modEq hq _).trans ((condSub_modEq a q).mul (condSub_modEq b q))

/-- A lane that reduces a sum below 4q once gives a lazy value of it. -/
theorem storeM_condSub {x r : Nat} (hx : x < 2 * (2 * q)) (hr : x ≡ r * 2 ^ 32 [MOD q]) :
    condSub x (2 * q) % 2 ^ 32 < 2 * q ∧ storeM q (condSub x (2 * q) % 2 ^ 32) = r % q := by
  have hlt := condSub_lt hx
  rw [Nat.mod_eq_of_lt (hq.lazy_lt hlt)]
  exact ⟨hlt, storeM_eq hq (hq.lazy_lt hlt) (((condSub_modEq x (2 * q)).of_mul_left 2).trans hr)⟩

theorem addM_lazy (ha : a < 2 * q) (hb : b < 2 * q) :
    addM q a b < 2 * q ∧ storeM q (addM q a b) = (storeM q a + storeM q b) % q := by
  refine storeM_condSub hq (by omega) ?_
  rw [Nat.add_mul]
  exact (storeM_mul_modEq hq a).symm.add (storeM_mul_modEq hq b).symm

theorem subM_lazy (ha : a < 2 * q) (hb : b < 2 * q) :
    subM q a b < 2 * q ∧ storeM q (subM q a b) = (storeM q a + q - storeM q b) % q := by
  have hsb := storeM_lt hq (hq.lazy_lt hb)
  rw [subM_eq a hb]
  refine storeM_condSub hq (by omega) (Nat.ModEq.add_right_cancel (storeM_mul_modEq hq b).symm ?_)
  calc a + (2 * q - b) + b = a + 2 * q := by omega
    _ ≡ storeM q a * 2 ^ 32 + q * 2 ^ 32 [MOD q] := (storeM_mul_modEq hq a).symm.add (by simp [Nat.ModEq])
    _ = (storeM q a + q - storeM q b) * 2 ^ 32 + storeM q b * 2 ^ 32 := by
      rw [← Nat.add_mul, ← Nat.add_mul, Nat.sub_add_cancel (by omega)]

theorem storeM_mul_storeM_modEq : storeM q a * storeM q b * 2 ^ 32 * 2 ^ 32 ≡ a * b [MOD q] := by
  have := (storeM_mul_modEq hq a).mul (storeM_mul_modEq hq b)
  rwa [mul_mul_mul_comm, ← mul_assoc] at this

theorem montMul_modEq_store : montMul q a b ≡ storeM q a * storeM q b * 2 ^ 32 [MOD q] :=
  modEq_of_mul_word hq ((montMul_modEq hq).trans (storeM_mul_storeM_modEq hq).symm)

theorem mulM_lazy (ha : a < 2 * q) (hb : b < 2 * q) :
    mulM q a b < 2 * q ∧ storeM q (mulM q a b) = storeM q a * storeM q b % q := by
  have hlt := montMul_lt hq ha hb
  rw [mulM, Nat.mod_eq_of_lt (hq.lazy_lt hlt)]
  exact ⟨hlt, storeM_eq hq (hq.lazy_lt hlt) (montMul_modEq_store hq)⟩

theorem macM_lazy (ha : a < 2 * q) (hb : b < 2 * q) (hc : c < 2 * q) :
    macM q a b c < 2 * q ∧ storeM q (macM q a b c) = (storeM q a * storeM q b + storeM q c) % q := by
  have hlt := montMul_lt hq ha hb
  refine storeM_condSub hq (by omega) ?_
  rw [Nat.add_mul]
  exact (montMul_modEq_store hq).add (storeM_mul_modEq hq c).symm

theorem scalarM_lazy (x : Nat) : scalarM q x < 2 * q ∧ storeM q (scalarM q x) = x % q := by
  have hx := Nat.mod_lt x hq.pos
  have hr := Nat.mod_lt (r2Of q) hq.pos
  have hlt := montMul_lt hq (show x % q < 2 * q by omega) (show r2Of q % q < 2 * q by omega)
  refine ⟨hlt, storeM_eq hq (hq.lazy_lt hlt) (modEq_of_mul_word hq ((montMul_modEq hq).trans ?_))⟩
  calc x % q * (r2Of q % q) ≡ x * 2 ^ 64 [MOD q] := (Nat.mod_modEq x q).mul ((Nat.mod_modEq _ q).trans (Nat.mod_modEq _ q))
    _ = x * 2 ^ 32 * 2 ^ 32 := by ring

end Words

/-- Settles O53: each lane is a sum or a Montgomery product of its operands, reduced at most once. -/
theorem modularLanesComputeOnResidues : Obligations.ModularLanesComputeOnResidues := by
  unfold Obligations.ModularLanesComputeOnResidues
  refine ⟨fun q a b c hq ha hb hc => ?_, fun q x hq _ => scalarM_lazy hq x, by decide⟩
  exact ⟨addM_lazy hq ha hb, subM_lazy hq ha hb, mulM_lazy hq ha hb, macM_lazy hq ha hb hc⟩

/-! The words of a unit of a stream (R57). -/

theorem slice_drop (bs : Bytes) (k off n : Nat) : slice (bs.drop k) off n = slice bs (k + off) n := by
  simp only [slice, List.drop_drop]

theorem getElem?_wordsOf (e : Nat) {n j : Nat} (bs : Bytes) (h : j < n) :
    (wordsOf e bs n)[j]? = some (leNat (slice bs (j * e) e)) := by
  induction n generalizing j bs with
  | zero => exact absurd h (Nat.not_lt_zero j)
  | succ n ih =>
    cases j with
    | zero => simp [wordsOf]
    | succ j => simp [wordsOf, ih (bs.drop e) (Nat.lt_of_succ_lt_succ h), slice_drop, Nat.succ_mul, Nat.add_comm e]

/-- Word j of a string of words is its own slice. -/
theorem slice_bytesOf (e : Nat) {j w : Nat} {ws : List Nat} (h : ws[j]? = some w) : slice (bytesOf e ws) (j * e) e = leBytes e w := by
  induction ws generalizing j with
  | nil => simp at h
  | cons v t ih =>
    have hv : (leBytes e v).length = e := leBytes_length e v
    cases j with
    | zero =>
      obtain rfl : v = w := by simpa using h
      simp [slice, bytesOf, zeros, hv]
    | succ j =>
      have hdrop : slice (bytesOf e (v :: t)) ((j + 1) * e) e = slice (bytesOf e t) (j * e) e := by
        rw [Nat.succ_mul, Nat.add_comm, ← slice_drop]
        simp [bytesOf, hv]
      rw [hdrop, ih (by simpa using h)]

theorem leNat_leBytes (n v : Nat) : leNat (leBytes n v) = v % 256 ^ n := by
  induction n generalizing v with
  | zero => simp [leBytes, leNat, Nat.mod_one]
  | succ n ih =>
    rw [Nat.pow_succ', Nat.mod_mul, ← ih]
    rfl

/-- A converting stream converts each word of a unit with the prime of its limb (R57, R192). -/
theorem slice_convWords {t : Stream} {load : Bool} {u : SUnit} {bs : Bytes} {j : Nat} (hc : t.conv = true) (hj : j < u.count) :
    slice (convWords t load u bs) (4 * j) 4 = leBytes 4 (
      let q := nth t.primes ((u.first + j) / t.limbWords) 1
      let w := leNat (slice bs (4 * j) 4)
      if load then loadM q w else storeM q w) := by
  simp only [convWords, hc, Bool.not_true, Bool.false_eq_true, if_false]
  rw [Nat.mul_comm 4 j]
  exact slice_bytesOf 4 (by rw [getElem?_mapIdxFrom, getElem?_wordsOf 4 bs hj]; rfl)

/-- Settles O52: a load and a store are REDC of their word, with the residue that `storeM_eq` gives; a unit is converted word by
word. -/
theorem modularLoadsAndStoresKeepResidues : Obligations.ModularLoadsAndStoresKeepResidues := by
  unfold Obligations.ModularLoadsAndStoresKeepResidues
  refine ⟨fun q u hq hu => ?_, fun t load u bs hc _ j hj => ?_, fun t load u bs hc => ?_⟩
  · have hlt := redc_r2_lt hq hu
    have hload := loadM_eq hq hu
    rw [hload]
    exact ⟨rfl, hlt, redc_r2_modEq hq u, fun h => if_pos h, fun h => if_neg h, storeM_lt hq hu, storeM_mul_modEq hq u,
      storeM_eq hq (hq.lazy_lt hlt) (redc_r2_modEq hq u)⟩
  · rw [slice_convWords hc hj, leNat_leBytes]
    rfl
  · simp [convWords, hc]

/-! Product cells (R61). -/

/-- 1,024 products of residues below a prime of R7, above a folded value, stay below 2^72. -/
theorem cell_bound {q : Nat} (hq : WordPrime q) : q + 1024 * ((q - 1) * (q - 1)) < 2 ^ 72 := by
  obtain ⟨-, h31, -⟩ := hq
  have hle : (q - 1) * (q - 1) ≤ (2 ^ 31 - 2) * (2 ^ 31 - 2) := Nat.mul_le_mul (by omega) (by omega)
  omega

section Cells

variable {q p t n : Nat} (hq : WordPrime q) (hp : p ≤ (q - 1) * (q - 1))
include hq hp

theorem cellAdd_count (hn : n < 1024) (ht : t ≤ q + n * ((q - 1) * (q - 1))) : cellAdd q (t, n) p = (t + p, n + 1) := by
  have hb := cell_bound hq
  have hmul : (n + 1) * ((q - 1) * (q - 1)) ≤ 1024 * ((q - 1) * (q - 1)) := Nat.mul_le_mul_right _ hn
  rw [Nat.succ_mul] at hmul
  simp only [cellAdd, ge_iff_le, Nat.not_le.2 hn, if_false, Prod.mk.injEq, and_true]
  exact Nat.mod_eq_of_lt (by omega)

theorem cellAdd_fold : cellAdd q (t, 1024) p = (t % q + p, 1) := by
  have hb := cell_bound hq
  have hmod := Nat.mod_lt t hq.pos
  simp only [cellAdd, ge_iff_le, Nat.le_refl, if_true, Prod.mk.injEq, and_true]
  exact Nat.mod_eq_of_lt (by omega)

end Cells

/-- What a cell holds after a sum of products (R61): congruent to the sum, within the bound of its count. -/
def CellHolds (q sum : Nat) (c : Nat × Nat) : Prop :=
  c.1 % q = sum % q ∧ c.2 ≤ 1024 ∧ c.1 ≤ q + c.2 * ((q - 1) * (q - 1))

theorem CellHolds.cellAdd {q sum p : Nat} {c : Nat × Nat} (hq : WordPrime q) (hp : p ≤ (q - 1) * (q - 1)) (h : CellHolds q sum c) :
    CellHolds q (sum + p) (cellAdd q c p) := by
  obtain ⟨t, n⟩ := c
  obtain ⟨hmod, hn, ht⟩ := h
  rcases Nat.lt_or_eq_of_le hn with hlt | rfl
  · rw [cellAdd_count hq hp hlt ht]
    refine ⟨Nat.ModEq.add_right p hmod, hlt, ?_⟩
    rw [Nat.succ_mul]
    omega
  · rw [cellAdd_fold hq hp]
    refine ⟨Nat.ModEq.add_right p ((Nat.mod_modEq t q).trans hmod), by omega, ?_⟩
    have := Nat.mod_lt t hq.pos
    omega

theorem cellHolds_foldl {q sum : Nat} {c : Nat × Nat} (hq : WordPrime q) (ps : List Nat) (hp : ∀ p, p ∈ ps → p ≤ (q - 1) * (q - 1))
    (h : CellHolds q sum c) : CellHolds q (sum + ps.sum) (ps.foldl (cellAdd q) c) := by
  induction ps generalizing sum c with
  | nil => exact h
  | cons p ps ih =>
    rw [List.sum_cons, ← Nat.add_assoc]
    exact ih (fun r hr => hp r (List.mem_cons_of_mem _ hr)) (h.cellAdd hq (hp p List.mem_cons_self))

/-- Settles O54: `CellHolds` is kept by every product, and its bound leaves room for the next one. -/
theorem productCellsFoldAndNeverOverflow : Obligations.ProductCellsFoldAndNeverOverflow := by
  unfold Obligations.ProductCellsFoldAndNeverOverflow
  refine ⟨fun q t n p hq hp _ _ ht => ⟨fun hn => cellAdd_count hq hp hn (ht hn), ?_⟩, fun q ps hq hp => ?_, ?_⟩
  · rintro rfl
    exact cellAdd_fold hq hp
  · obtain ⟨hmod, hn, hle⟩ := cellHolds_foldl hq ps hp (c := (0, 0)) (sum := 0) ⟨rfl, Nat.zero_le _, Nat.zero_le _⟩
    have hmul := Nat.mul_le_mul_right ((q - 1) * (q - 1)) hn
    have hb := cell_bound hq
    exact ⟨by omega, by rwa [Nat.zero_add] at hmod, hn, hle⟩
  · intro s core q g row col ka kb f start
    rw [List.foldl_map]
    rfl

end Sys2Proof.Machine

/-! SUPPORT. Instructions of the vector engine and the converter that go in flight, and the Mark instructions: with every check met,
what their forms come to (R83, R88, R90, R220, R243, R244). -/

namespace Sys2Proof.Machine

/-! A write of the lead core's registers, with the poison that an instruction meets. -/

theorem assocSet_assocSet {α β : Type} [DecidableEq α] (k : α) (v w : β) (l : List (α × β)) :
    assocSet k v (assocSet k w l) = assocSet k v l := by
  induction l with
  | nil => simp [assocSet]
  | cons p t ih =>
    simp only [assocSet]
    split <;> simp_all [assocSet]

theorem State.setCore_setCore (s : State) (n : Nat) (r r' : CoreRegs) : (s.setCore n r).setCore n r' = s.setCore n r' := by
  simp only [State.setCore, assocSet_assocSet]

@[simp] theorem CoreRegs.raise_raise (r : CoreRegs) (a b : Nat) : (r.raise a).raise b = r.raise (a ||| b) := by
  have h : a % 32 ||| b % 32 = (a ||| b) % 32 := (Nat.or_mod_two_pow (n := 5)).symm
  simp only [CoreRegs.raise, BitVec.or_assoc, ← BitVec.ofNat_or, h]

@[simp] theorem Dispatch.poison_id (x : Dispatch) (c : FaultCode) (i : Nat) : (x.poison c i).id = x.id := by
  unfold Dispatch.poison
  split <;> rfl

@[simp] theorem Dispatch.poison_lead (x : Dispatch) (c : FaultCode) (i : Nat) : (x.poison c i).lead = x.lead := by
  unfold Dispatch.poison
  split <;> rfl

@[simp] theorem launched_id (x : Dispatch) (n : Nat) (f : InFlight) (pois : Bool) : (launched x n f pois).id = x.id := by
  cases pois
  · rfl
  · exact x.poison_id ..

@[simp] theorem launched_lead (x : Dispatch) (n : Nat) (f : InFlight) (pois : Bool) : (launched x n f pois).lead = x.lead := by
  cases pois
  · rfl
  · exact x.poison_lead ..

/-- An instruction that has written its lead core's registers goes in flight: POISON_SEEN is raised with the flags where it met
poison (R73). -/
theorem flown_raise (s : State) (x : Dispatch) (n : Nat) (f : InFlight) (pois : Bool) (r : CoreRegs) (flags : Nat) :
    (s.setCore x.lead (r.raise flags)).flown x n f pois
      = s.put2 (launched x n f pois) (r.raise (flags ||| if pois then stPoisonSeen else 0)) := by
  have hl := launched_lead x n f pois
  cases pois with
  | false =>
    rw [State.put2, hl, if_neg Bool.false_ne_true, Nat.or_zero]
    rfl
  | true =>
    calc (s.setCore x.lead (r.raise flags)).flown x n f true
        = ((s.setCore x.lead (r.raise flags)).setCore (launched x n f true).lead
            (((s.setCore x.lead (r.raise flags)).core (launched x n f true).lead).raise stPoisonSeen)).setDisp (launched x n f true) := rfl
      _ = _ := by rw [State.put2, hl, State.core_setCore_self, State.setCore_setCore, CoreRegs.raise_raise, if_pos rfl]

/-! v.red and v.cvt (R64, R90, R218). -/

theorem onlyCoreAndDispatch_vFinish {s : State} {d : DRef} {x y : Dispatch} (hy : s.disp? d = some y) (hx : x.id = d) (n : Nat)
    (u : Use) (r : CoreRegs) (flags : Nat) (pois : Bool) :
    OnlyCoreAndDispatch s (vFinish s x n u r flags pois) x.lead (r.raise (flags ||| if pois then stPoisonSeen else 0)) d
      (launched x n (s.flight x 3 u [] [] 0 0) pois) := by
  rw [vFinish, flown_raise]
  exact only_put2 hy ((launched_id ..).trans hx) (launched_lead ..)

section VectorForms

variable {s : State} {f : VForm} {x : Dispatch} {c : Ctx} {n : Nat} {u : Use} {pois : Bool}

theorem vecRed_ok {y : Nat × Nat}
    (hu : { Use.none with rv := if f.tileA then [] else groupRegs f.va (etBytes f.ety) f.cnt
                          rt := if f.tileA then [f.va] else [], ws := [f.vd], rl := vLoops f } = u)
    (hp : vPoisoned s (s.core x.lead) u = pois)
    (hy : redValue f (nth (activeRing x c s).qs (vIndex (s.core x.lead) f) 1)
      (vSrcA (s.core x.lead) (activeRing x c s).qs (vIndex (s.core x.lead) f) { f with subop := 0 } (etBytes f.ety)) = y)
    (hfree : free x u = .ok ()) (he : x.engineFree 3 = true) (hc : vCheck x c s (s.core x.lead) { f with subop := 0 } = .ok ()) :
    vecRed s f x c n = .ok (vFinish s x n u ((s.core x.lead).sput f.vd (BitVec.ofNat 64 y.1) pois) y.2 pois) := by
  subst hu hp hy
  simp only [vecRed, hfree, he, hc, run_eq, Bool.not_true]
  rfl

/-- An element narrowed or widened, with the flags it raises (R64, R218). -/
def cvtElem (narrow : Bool) (p : Nat × Nat) : Nat × Nat :=
  let y := if narrow then f32ToBF p.1 else bfToF32 p.1
  (y.1, y.2 ||| p.2)

theorem vecCvt_ok {narrow : Bool} {es ed : Nat} {res : List (Nat × Nat)} (hes : (if narrow then 4 else 2) = es)
    (hed : (if narrow then 2 else 4) = ed)
    (hu : { Use.none with rv := if f.tileA then [] else groupRegs f.va es f.cnt
                          wv := groupRegs f.vd ed f.cnt, rt := if f.tileA then [f.va] else [], rl := vLoops f } = u)
    (hp : vPoisoned s (s.core x.lead) u = pois)
    (hres : (vSrcA (s.core x.lead) [] 0 { f with subop := 0 } es).map (cvtElem narrow) = res)
    (hfree : free x u = .ok ()) (he : x.engineFree 3 = true) (hn : f.tileA = true → narrow = true)
    (hc : vCheck x c s (s.core x.lead) { f with subop := 0 } = .ok ()) :
    vecCvt narrow s f x c n = .ok (vFinish s x n u ((s.core x.lead).groupWrite f.vd ed (res.map (·.1)) pois)
      (res.foldl (fun m y => m ||| y.2) 0) pois) := by
  have hfits : (!f.tileA || narrow) = true := by simpa [Bool.or_eq_true, imp_iff_not_or] using hn
  subst hes hed hu hp hres
  cases narrow
  all_goals
    simp only [Bool.false_eq_true, if_false, if_true] at hfree
    simp only [vecCvt, hfree, he, hfits, hc, run_eq, need_ok, Bool.not_true, Bool.false_eq_true, if_false, if_true]
    rfl

end VectorForms

theorem exec_vCvt (narrow : Bool) (d : DRef) (f : VForm) (s : State) :
    exec (if narrow then .vCvtBf d f else .vCvtF d f) s
      = issue s d (if narrow then .vCvtBf d f else .vCvtF d f) 1 (vecCvt narrow s f) := by
  cases narrow <;> rfl

/-- Settles O11: both forms meet each of their checks by a hypothesis of the clause, and end as every vector form does. That the sum
is taken modulo entry i with column-step 1 is log entry 12's reading. -/
theorem vectorReductionAndConversion : Obligations.VectorReductionAndConversion := by
  unfold Obligations.VectorReductionAndConversion
  refine ⟨?_, ?_⟩
  · intro s d f x c n r g u qs pois y hst he hc
    obtain ⟨⟨z, hz⟩, hid⟩ := stands_disp hst
    exact ⟨_, _, issues_of_form hst rfl (vecRed_ok rfl rfl rfl (stands_free hst) he hc), onlyCoreAndDispatch_vFinish hz hid .., rfl⟩
  · intro s d f narrow x c n r g es ed u pois conv i hst he hn hc
    obtain ⟨⟨z, hz⟩, hid⟩ := stands_disp hst
    have hvals : (vSrcA r [] 0 g es).map (fun p => (conv p).1) = ((vSrcA r [] 0 g es).map (cvtElem narrow)).map (·.1) := by
      rw [List.map_map]
      rfl
    rw [hvals]
    exact ⟨_, _, _, issues_of_form hst (exec_vCvt ..) (vecCvt_ok rfl rfl rfl rfl rfl (stands_free hst) he hn hc),
      onlyCoreAndDispatch_vFinish hz hid .., rfl⟩

/-! mark.sig and mark.wait (R243, R244). -/

section MarkForms

variable {s : State} {x : Dispatch} {c : Ctx} {n mark : Nat}

theorem markOf_ok (h : mark < x.markCount) : markOf x mark = .ok (x.markBase + mark) := by
  simp only [markOf, Dispatch.markNum, h, if_true]
  rfl

theorem cleanS_ok {r : CoreRegs} {v : SVal} (h : r.svalPois v = false) : cleanS x r v = .ok () := by
  simp only [cleanS, h, Bool.false_eq_true, if_false]

theorem markSigForm_ok {amount : SVal} (hm : mark < x.markCount) (hfree : free x { Use.none with rs := svalRegs amount } = .ok ())
    (hp : (s.core x.lead).svalPois amount = false) (hw : writesDone s x = true) :
    markSigForm s mark amount x c n = .ok ((s.setDisp (x.adv n)).signal
      ⟨x.markBase + mark, ((s.core x.lead).sval amount).toNat % 2 ^ 32, x.ctx, .program x.id x.epoch⟩) := by
  simp only [markSigForm, markOf_ok hm, hfree, cleanS_ok hp, hw, run_eq, Bool.not_true]
  rfl

/-- What a wait on a Mark comes to: its result in SD where it is decided, a wait otherwise (R244). -/
def markWaited (s : State) (x : Dispatch) (sd k th : Nat) (left : Option Nat) : State :=
  if th ≤ (s.mark k).value then waitResult s x sd true
  else if left = some 0 then waitResult s x sd false
  else s.setDisp { x with wait := some (.mark sd k th (leadTicks s x) left) }

theorem markWaitForm_ok {sd th : Nat} {f : WaitForm} {left : Option Nat} {u : Use}
    (hu : { Use.none with ws := [sd], rs := match f with
      | .short sa => [sa]
      | .long _ _ => [] } = u)
    (hm : mark < x.markCount) (hfree : free x u = .ok ())
    (hs : ∀ sa, f = .short sa →
      (s.core x.lead).poisS.contains sa = false ∧ th = ((s.core x.lead).sget sa).toNat % 2 ^ 32 ∧ left = none)
    (hl : ∀ a b, f = .long a b → th = a ∧ left = (if b = 0xFFFFFFFF then none else some b)) :
    markWaitForm s sd mark f x c n = .ok (markWaited s (x.adv n) sd (x.markBase + mark) th left) := by
  subst hu
  cases f with
  | short sa =>
    obtain ⟨hp, rfl, rfl⟩ := hs sa rfl
    have hclean : cleanS x (s.core x.lead) (.reg sa) = .ok () := cleanS_ok hp
    simp only [markWaitForm, markOf_ok hm, hfree, hclean, run_eq, pure_ok, markWaited, ge_iff_le, apply_ite Except.ok]
    rfl
  | long a b =>
    obtain ⟨rfl, rfl⟩ := hl a b rfl
    simp only [markWaitForm, markOf_ok hm, hfree, run_eq, pure_ok, markWaited, ge_iff_le, beq_iff_eq, apply_ite Except.ok]

end MarkForms

/-- Settles O20: a signal goes to the end of the Mark network, and a wait comes to what `markWaited` says. -/
theorem markInstructionsSignalAndWait : Obligations.MarkInstructionsSignalAndWait := by
  unfold Obligations.MarkInstructionsSignalAndWait
  refine ⟨?_, ?_⟩
  · intro s d mark amount x c n hst hm hp hw
    obtain ⟨⟨z, hz⟩, hid⟩ := stands_disp hst
    obtain ⟨-, hself, hother⟩ := onlyDispatch_setDisp hz (y := x.adv n) hid
    exact ⟨_, issues_of_form hst rfl (markSigForm_ok hm (stands_free hst) hp hw), rfl, rfl, hself, hother⟩
  · intro s d sd mark f x c n th left hst hm hs hl
    obtain ⟨⟨z, hz⟩, hid⟩ := stands_disp hst
    refine ⟨_, issues_of_form hst rfl (markWaitForm_ok rfl hm (stands_free hst) hs hl), fun hle => ?_, fun hlt h0 => ?_,
      fun hlt h0 => ?_⟩
    · rw [markWaited, if_pos hle]
      exact ⟨_, only_put2 hz hid rfl, rfl⟩
    · rw [markWaited, if_neg (Nat.not_le.2 hlt), if_pos h0]
      exact ⟨_, only_put2 hz hid rfl, rfl⟩
    · rw [markWaited, if_neg (Nat.not_le.2 hlt), if_neg h0]
      exact onlyDispatch_setDisp hz hid

end Sys2Proof.Machine

/-! SUPPORT. The converter's tiles: which tiles the groups of cvt.mm write, and what cvt.mm and cvt.drain come to with every check met
(R83, R88, R220). -/

namespace Sys2Proof.Machine

/-! What a group of cvt.mm leaves (R83). -/

theorem CoreRegs.tStored_tWrite_other (r : CoreRegs) {k j : Nat} (h : k ≠ j) (t : Tile) (p : Bool) :
    (r.tWrite j t p).tStored k = r.tStored k := by
  simp only [CoreRegs.tStored, CoreRegs.tWrite, assoc_assocSet_other h]

/-- Only tiles of a list and their flags differ. -/
def OnlyTiles (r r' : CoreRegs) (ts : List Nat) : Prop :=
  r' = { r with a := r'.a, useA := r'.useA, poisA := r'.poisA }
    ∧ ∀ k, k ∉ ts → r'.tStored k = r.tStored k ∧ r'.useA.contains k = r.useA.contains k
        ∧ r'.poisA.contains k = r.poisA.contains k

theorem OnlyTiles.refl (r : CoreRegs) (ts : List Nat) : OnlyTiles r r ts := ⟨rfl, fun _ _ => ⟨rfl, rfl, rfl⟩⟩

theorem OnlyTiles.trans {r r' r'' : CoreRegs} {ts : List Nat} (h : OnlyTiles r r' ts) (h' : OnlyTiles r' r'' ts) :
    OnlyTiles r r'' ts := by
  obtain ⟨he, hk⟩ := h
  obtain ⟨he', hk'⟩ := h'
  refine ⟨by rw [he', he], fun k hn => ?_⟩
  obtain ⟨hs, hu, hp⟩ := hk k hn
  obtain ⟨hs', hu', hp'⟩ := hk' k hn
  exact ⟨hs'.trans hs, hu'.trans hu, hp'.trans hp⟩

theorem onlyTiles_tWrite (r : CoreRegs) {j : Nat} {ts : List Nat} (h : j ∈ ts) (t : Tile) (p : Bool) :
    OnlyTiles r (r.tWrite j t p) ts := by
  refine ⟨rfl, fun k hk => ?_⟩
  have hne : k ≠ j := fun e => hk (e ▸ h)
  refine ⟨r.tStored_tWrite_other hne t p, ?_, ?_⟩
  · simp [CoreRegs.tWrite, insert_mem, hne]
  · cases p <;> simp [CoreRegs.tWrite, insert_mem, removeNat, hne]

/-- Group g computes in a tile that the instruction names. -/
theorem groupTile_mem {f : MmForm} {g : Nat} (h : g < f.g) : (if g % 2 == 0 then f.ta else f.tb) ∈ mmTiles f := by
  unfold mmTiles
  split <;> split <;> simp_all

theorem foldl_onlyTiles {β : Type} {f : CoreRegs × β → Nat → CoreRegs × β} {ts l : List Nat}
    (h : ∀ a g, g ∈ l → OnlyTiles a.1 (f a g).1 ts) (a : CoreRegs × β) : OnlyTiles a.1 (l.foldl f a).1 ts := by
  induction l generalizing a with
  | nil => exact .refl ..
  | cons g l ih =>
    exact (h a g List.mem_cons_self).trans (ih (fun a g hg => h a g (List.mem_cons_of_mem _ hg)) _)

theorem mmGroups_onlyTiles (s : State) (core q : Nat) (qs : List Nat) (f : MmForm) (drain pois : Bool) (lo hi : Nat) (r : CoreRegs) :
    OnlyTiles r (mmGroups s core q qs f drain pois lo hi r).1 (mmTiles f) := by
  refine foldl_onlyTiles (fun a g hg => ?_) (r, ([], 0))
  exact onlyTiles_tWrite _ (groupTile_mem (List.mem_range.1 (List.mem_of_mem_filter hg))) _ _

/-! cvt.mm and cvt.drain (R220). -/

section Forms

variable {s : State} {x : Dispatch} {c : Ctx} {n : Nat}

theorem mmForm_ok {f : MmForm} {da : List Span} {u : Use} {pois : Bool} {y : CoreRegs × Bytes × Nat}
    (hu : { Use.none with rt := if f.acc then mmTiles f else [], wt := mmTiles f, rd := mmReads x f, wr := da, rs := hrefRegs f.rdr } = u)
    (hp : mmPoisoned s (s.core x.lead) f (mmReads x f) (mmTiles f) x.startPoint = pois)
    (hy : mmGroups s x.lead (nth (activeRing x c s).qs f.mod 1) (activeRing x c s).qs f (f.rdr != .null) pois x.startPoint (f.g * f.k)
      (s.core x.lead) = y)
    (hmod : f.clr = true ∨ f.mod < (activeRing x c s).qs.length) (h0 : f.rdr = .null → da = [])
    (hd : f.rdr ≠ .null → drainDst s x c (s.core x.lead) f.rdr (512 * f.g) (if f.clr then (if f.narrow then 2 else 1) else 0) = .ok da)
    (hfree : free x u = .ok ()) (he : x.engineFree 2 = true) :
    mmForm s f x c n = .ok (((s.writeSpans (mmDrained f da x.startPoint (f.g * f.k)) y.2.1 pois).setCore x.lead
      (y.1.raise y.2.2)).flown x n (s.flight x 2 u [da] [] (spansLen da / f.g) (f.g * f.k)) pois) := by
  have hm : (f.clr || decide (f.mod < (activeRing x c s).qs.length)) = true := by simpa using hmod
  have hdst : (if (f.rdr != .null) = true then
      drainDst s x c (s.core x.lead) f.rdr (512 * f.g) (if f.clr then (if f.narrow then 2 else 1) else 0) else pure []) = .ok da := by
    by_cases hn : f.rdr = .null
    · simp [hn, h0 hn, pure_ok]
    · simp [hn, hd hn]
  subst hu hp hy
  simp only [mmForm, hm, hdst, hfree, he, run_eq, need_ok, Bool.not_true]
  rfl

theorem drainForm_ok {rdr : HRef} {ta : Nat} {narrow nar : Bool} {o : Opnd} {da : List Span} {u : Use} {out : Bytes × Nat}
    (hnar : (narrow && (((s.core x.lead).tStored ta).mode == .clear || !(s.core x.lead).useA.contains ta)) = nar)
    (hu : { Use.none with rt := [ta], wr := da, rs := hrefRegs rdr } = u)
    (hout : (if (s.core x.lead).useA.contains ta then drainBytes (activeRing x c s).qs ((s.core x.lead).tStored ta) true nar
      else (zeros (if nar then 1024 else 2048), 0)) = out)
    (ho : resolve x c (s.core x.lead) rdr true false = .ok o) (hsp : dSpace o.raw = 1) (hc : 512 ≤ dCount o.raw)
    (hel : if nar then dElem o.raw = 2 else dE o.raw = 4) (hda : elemSpans s x c .write o.raw (List.range 512) = .ok da)
    (hw : inWindow s da = false) (hfree : free x u = .ok ()) (he : x.engineFree 2 = true) :
    drainForm s rdr ta narrow x c n = .ok (((s.writeSpans da out.1 ((s.core x.lead).poisA.contains ta)).setCore x.lead
      ((s.core x.lead).raise out.2)).flown x n (s.flight x 2 u [da] [] (spansLen da) 0) ((s.core x.lead).poisA.contains ta)) := by
  have hfits : (dSpace o.raw == 1 && decide (512 ≤ dCount o.raw) && (if nar then dElem o.raw == 2 else dE o.raw == 4)) = true := by
    cases nar <;> simpa [hsp, hc] using hel
  subst hu hout
  simp only [drainForm, hnar, ho, hfits, lift_ok hda, hw, hfree, he, run_eq, need_ok, Bool.not_true, Bool.not_false]
  rfl

end Forms

/-- Settles O15: both forms meet each of their checks by a hypothesis of the clause; `mmGroups_onlyTiles` is the frame. Which modulus
a drain uses after a ring change is log entry 55's choice. -/
theorem converterTilesAccumulateAndDrain : Obligations.ConverterTilesAccumulateAndDrain := by
  unfold Obligations.ConverterTilesAccumulateAndDrain
  refine ⟨?_, ?_⟩
  · intro s d f x c n da r qs rdS tiles hi u pois y hst hmod h0 hd he
    obtain ⟨hregs, htiles⟩ := mmGroups_onlyTiles s x.lead (nth qs f.mod 1) qs f (f.rdr != .null) pois x.startPoint hi r
    refine ⟨issues_of_form hst rfl (mmForm_ok rfl rfl rfl hmod h0 hd (stands_free hst) he), ?_, ?_, ?_, ?_, ?_, ?_, ?_, htiles⟩
    all_goals rw [hregs]
  · intro s d rdr ta narrow x c n o da r t nar u out pois hst ho hsp hc hel hda hw he
    exact issues_of_form hst rfl (drainForm_ok rfl rfl rfl ho hsp hc hel hda hw (stands_free hst) he)

end Sys2Proof.Machine

/-! SUPPORT. Units of streams (R196, R197, R202, R203): what their reads leave as it was, what a unit loaded into registers comes to,
and what a stream that halts or asks again leaves. -/

namespace Sys2Proof.Machine

/-! Reads, walks and slot states change memory only (R184, R345). -/

/-- Only the memories, their marks and the caches differ. -/
def OnlyMemory (s t : State) : Prop := t = { s with mem := t.mem }

theorem OnlyMemory.refl (s : State) : OnlyMemory s s := rfl

theorem OnlyMemory.trans {s t u : State} (h : OnlyMemory s t) (k : OnlyMemory t u) : OnlyMemory s u := by
  unfold OnlyMemory at *
  rw [k, h]

theorem OnlyMemory.cores {s t : State} (h : OnlyMemory s t) : t.cores = s.cores := by rw [h]
theorem OnlyMemory.disps {s t : State} (h : OnlyMemory s t) : t.disps = s.disps := by rw [h]

theorem onlyMemory_walkOne (s : State) (u : XUnit) (c : Ctx) (acc : Access) (va : Nat) : OnlyMemory s (walkOne s u c acc va) := by
  unfold walkOne
  split
  · rfl
  · split <;> rfl

theorem onlyMemory_walkSpans (s : State) (u : XUnit) (c : Ctx) (acc : Access) (xs : List Span) :
    OnlyMemory s (walkSpans s u c acc xs) := by
  induction xs generalizing s with
  | nil => rfl
  | cons x xs ih =>
    refine OnlyMemory.trans ?_ (ih _)
    dsimp only
    split
    · exact onlyMemory_walkOne ..
    · rfl

theorem onlyMemory_touchReads (s : State) (xs : List Span) : OnlyMemory s (touchReads s xs) := rfl

theorem onlyMemory_setSlotState (s : State) (x : Dispatch) (c : Ctx) (slot st : Nat) (p : Nat → Bool) :
    OnlyMemory s (setSlotState s x c slot st p) := by
  unfold setSlotState
  split
  · split <;> rfl
  · rfl

/-! A dispatch that runs, and its streams. -/

theorem running_disp? {s : State} {d : DRef} {x : Dispatch} {c : Ctx} (h : s.running d = some (x, c)) :
    s.disp? d = some x ∧ x.phase = .running ∧ x.fate = none := by
  unfold State.running at h
  split at h
  · cases h
  next z hz =>
    split at h
    · cases h
    · split at h
      next hc =>
        obtain ⟨rfl, rfl⟩ : z = x ∧ _ = c := by simpa using h
        simp only [Bool.and_eq_true, beq_iff_eq, Option.isNone_iff_eq_none] at hc
        obtain ⟨⟨⟨hphase, hfate⟩, -⟩, -⟩ := hc
        exact ⟨hz, hphase, hfate⟩
      · cases h

theorem stream?_ne_nil {x : Dispatch} {t : Stream} {slot : Nat} (h : x.stream? slot = some t) : x.streams ≠ [] :=
  List.ne_nil_of_mem (List.mem_of_find?_eq_some h)

/-- A fault at a stream of a running dispatch wins its commit point (R203, R307). -/
theorem onlyDispatch_stop_running {s : State} {d : DRef} {x y : Dispatch} {c : Ctx} (h : s.running d = some (x, c)) (hid : y.id = x.id)
    (hp : y.phase = x.phase) (hf : y.fate = x.fate) (hs : y.streams ≠ []) (e : FaultCode) (i : Nat) :
    OnlyDispatch s (s.stop y e i) d { y with fate := some ⟨2, e.code, 2, i⟩ } := by
  obtain ⟨hx, hphase, hfate⟩ := running_disp? h
  rw [stop_holding (hf.trans hfate) (by simp [hp, hphase]) hs]
  exact onlyDispatch_setDisp hx (hid.trans (disp?_id hx))

/-! STREAM_UNIT_COMMIT (R197). -/

/-- What the next unit of a stream comes to, by its kind (R197). -/
def unitResult (s : State) (x : Dispatch) (c : Ctx) (t : Stream) (u : SUnit) (err : MemErr) : Except Stop State :=
  match t.kind with
  | .ld => moveUnit s x c t u (.desc t.mem) t.other true err
  | .st => moveUnit s x c t u t.other (.desc t.mem) false err
  | .get => getUnit s x c t u err
  | .put => putUnit s x c t u err

/-- The state after the unit of a stream: its slot may become free, or the stream meets a reason not to go on (R192, R202, R203). -/
def unitCommitted (s : State) (d : DRef) (x : Dispatch) (t : Stream) (r : Except Stop State) : State :=
  match r with
  | .ok v => fillSlot v d
  | .error e => streamHalt s x t e

theorem exec_streamUnitCommit {s : State} {d : DRef} {slot : Nat} {x : Dispatch} {c : Ctx} {t : Stream} {u : SUnit}
    (hx : s.running d = some (x, c)) (ht : x.stream? slot = some t) (hu : t.units[t.done]? = some u) (hs : t.state = .running)
    (h8 : t.slot < 8) (err : MemErr) :
    exec (.streamUnitCommit d slot err) s = .next (unitCommitted s d x t (unitResult s x c t u err)) := by
  have hgo : (t.state != .running || decide (t.slot ≥ 8)) = false := by simp [hs, h8]
  show execStreamUnitCommit d slot err s = _
  simp only [execStreamUnitCommit, hx, ht, hu, hgo, Bool.false_eq_true, if_false, unitResult]
  cases t.kind <;> dsimp only <;> split <;> simp only [*, unitCommitted]

theorem reaches_of_not_sprint {x : Dispatch} (h : x.cls ≠ .sprint) (xs : List Span) : x.reaches xs = x := by
  simp only [Dispatch.reaches, beq_false_of_ne h, Bool.false_and, Bool.or_false]

/-- What is read, and what is written of registers, by a unit that goes to register `first + DONE` (R57, R184, R345). -/
def unitLanded (s : State) (x : Dispatch) (c : Ctx) (t : Stream) (u : SUnit) (xs : List Span) (first : Nat) : State :=
  (touchReads (walkSpans s (.core x.lead) c .read xs) xs).setCore x.lead
    ((s.core x.lead).vWrite (first + t.done) (convWords t true u (spansPeek s.mem xs)) false)

section Landed

variable (s : State) (x : Dispatch) (c : Ctx) (t : Stream) (u : SUnit) (xs : List Span) (first : Nat)

theorem onlyMemory_readSpans : OnlyMemory s (touchReads (walkSpans s (.core x.lead) c .read xs) xs) :=
  (onlyMemory_walkSpans ..).trans (onlyMemory_touchReads ..)

theorem unitLanded_core_other {k : Nat} (h : k ≠ x.lead) : (unitLanded s x c t u xs first).core k = s.core k := by
  rw [unitLanded, State.core_setCore_other _ h]
  simp only [State.core, (onlyMemory_readSpans s x c xs).cores]

theorem unitLanded_disp? (d : DRef) : (unitLanded s x c t u xs first).disp? d = s.disp? d := by
  simp only [State.disp?, unitLanded, State.setCore, (onlyMemory_readSpans s x c xs).disps]

end Landed

/-- A unit read without error and without poison goes to its register, and the stream has moved it (R57, R197). -/
theorem moveUnit_regs {s : State} {d : DRef} {x : Dispatch} {c : Ctx} {t : Stream} {u : SUnit} {xs : List Span} {first : Nat}
    (hx : s.disp? d = some x) (hxs : unitSpans s x c .read t.mem u = .ok xs) (hm : spansMarked s.mem xs = false) (hc : x.cls ≠ .sprint) :
    moveUnit s x c t u (.desc t.mem) (.regs first) true .none
      = .ok ((unitLanded s x c t u xs first).setDisp (advance x t)) := by
  have hwalk : walkSpans (walkSpans s (.core x.lead) c .read xs) (.core x.lead) c .write [] = walkSpans s (.core x.lead) c .read xs := rfl
  have hcore : (touchReads (walkSpans s (.core x.lead) c .read xs) xs).core x.lead = s.core x.lead := by
    simp only [State.core, (onlyMemory_readSpans s x c xs).cores]
  have hdisp : ((unitLanded s x c t u xs first).disp? x.id).getD x = x := by
    rw [unitLanded_disp?, disp?_id hx, hx, Option.getD_some]
  simp only [unitLanded] at hdisp
  simp only [moveUnit, takeUnit, hxs, goal, memError, hm, Bool.or_self, unitFails, hwalk, landUnit, unitReg, hcore, hdisp,
    reaches_of_not_sprint hc, unitDone, Bool.false_eq_true, if_false, unitLanded]

/-! A slot that becomes free (R192). -/

theorem sendReq_frame (s : State) (x : Dispatch) (t : Stream) :
    (sendReq s x t).mem = s.mem ∧ (sendReq s x t).cores = s.cores := by
  simp only [sendReq, State.credit]
  split
  · exact ⟨rfl, rfl⟩
  · split <;> exact ⟨rfl, rfl⟩

theorem fillSlot_frame (s : State) (d : DRef) : (fillSlot s d).mem = s.mem ∧ (fillSlot s d).cores = s.cores := by
  unfold fillSlot
  split
  · exact ⟨rfl, rfl⟩
  · split
    · dsimp only
      split
      · exact sendReq_frame ..
      · exact ⟨rfl, rfl⟩
    · exact ⟨rfl, rfl⟩

@[simp] theorem advance_id (x : Dispatch) (t : Stream) : (advance x t).id = x.id := by
  unfold advance
  dsimp only
  split <;> rfl

theorem setStream_slots {x : Dispatch} {t : Stream} (ht : t.slot < 8) (h : ∀ z ∈ x.streams, z.slot < 8) :
    ∀ z ∈ (x.setStream t).streams, z.slot < 8 := by
  intro z hz
  obtain ⟨y, hy, rfl⟩ := List.mem_map.1 hz
  split
  · exact ht
  · exact h y hy

/-- Settles O24: the unit moves as `moveUnit_regs` says, and a slot that becomes free leaves memory and registers. -/
theorem streamUnitsLandWholeAndOnce : Obligations.StreamUnitsLandWholeAndOnce := by
  unfold Obligations.StreamUnitsLandWholeAndOnce
  intro s d slot first x c t u xs hx ht hu hs h8 hk ho hxs hm hc
  obtain ⟨hdisp, -, -⟩ := running_disp? hx
  have hid : (advance x t).id = d := (advance_id x t).trans (disp?_id hdisp)
  have hr : unitResult s x c t u .none = .ok ((unitLanded s x c t u xs first).setDisp (advance x t)) := by
    simp only [unitResult, hk, ho]
    exact moveUnit_regs hdisp hxs hm hc
  have hself := State.disp?_setDisp_self _ ((unitLanded_disp? s x c t u xs first d).trans hdisp) hid
  have hexec := exec_streamUnitCommit hx ht hu hs h8 .none
  rw [hr, unitCommitted] at hexec
  refine ⟨_, hexec, ?_, ?_, fun k hkl => ?_, fun hq hlt => ?_, fun hq hle => ?_⟩
  · rw [(fillSlot_frame _ d).1]
    rfl
  · simp only [State.core, (fillSlot_frame _ d).2]
    exact State.core_setCore_self ..
  · simp only [State.core, (fillSlot_frame _ d).2]
    exact unitLanded_core_other s x c t u xs first hkl
  · have hadv : advance x t = x.setStream { t with done := t.done + 1, epoch := x.epoch } := by
      simp [advance, Nat.not_le.2 hlt]
    rw [fillSlot_none hself (hadv ▸ setStream_slots (by exact h8) hq), hself, hadv]
  · have hadv : advance x t = x.dropStream t := by
      simp [advance, hle, hk, Dispatch.dropStream]
    rw [fillSlot_none hself (hadv ▸ fun z hz => hq z (List.mem_of_mem_filter hz)), hself, hadv]

/-! STREAM_CREDIT_RETRY and STREAM_EMPTY_RESUME (R202). -/

section Resume

variable {s : State} {d : DRef} {slot : Nat} {x : Dispatch} {c : Ctx} {t : Stream}
  (hx : s.running d = some (x, c)) (ht : x.stream? slot = some t)
include hx ht

theorem exec_streamCreditRetry (hs : t.state = .haltCredit) (ho : t.reqOpen = false) (hn : t.nextReq ≤ x.ck3) :
    exec (.streamCreditRetry d slot) s = .next (sendReq s x t) := by
  show execStreamCreditRetry d slot s = _
  simp [execStreamCreditRetry, hx, ht, hs, ho, hn]

theorem exec_streamEmptyResume {u : SUnit} {m : Mgr} {w : Window} {b : Nat} (hs : t.state = .haltEmpty) (hu : t.units[t.done]? = some u)
    (hb : getBlock s x t u = some (m, w, b)) (hfull : w.blocks[b]? = some .full) :
    exec (.streamEmptyResume d slot) s = .next (s.setDisp (x.setStream { t with state := .running })) := by
  show execStreamEmptyResume d slot s = _
  simp [execStreamEmptyResume, hx, ht, hs, hu, hb, hfull]

end Resume

/-- A CR_REQ for a window of another module leaves on a port of its bundle (R178, R265). -/
theorem sendReq_far {s : State} {x : Dispatch} {t : Stream} {m p : Nat} (h : t.tmod = some m) (hp : (bundle s m).head? = some p) :
    sendReq s x t = told (s.setDisp (x.setStream { t with reqOpen := true, port := some p })) true
      (.crReq (some m) (putMgr t) ⟨some s.sys.modNum, x.lead, x.ctx, x.epoch⟩ t.window (min 256 (t.units.length - t.done))) := by
  simp [sendReq, h, hp, State.credit, Msg.path, told, streamSender, State.emit]

/-- Where the module is no peer the stream ends with LINK_LOST (R265). -/
theorem sendReq_lost {s : State} {x : Dispatch} {t : Stream} {m : Nat} (h : t.tmod = some m) (hp : bundle s m = []) :
    sendReq s x t = s.stop (x.setStream t) .linkLost t.instr := by
  simp [sendReq, h, hp]

end Sys2Proof.Machine

/-! SUPPORT. INSTRUCTION_RETIRE (R73, R77, R113, R145): key copies that are freed, event records, and what a failed residue check or an
uncorrectable register error leaves in the registers. -/

namespace Sys2Proof.Machine

/-! Key copies (R113, R353). -/

/-- Only key copies and the transfers that make them differ. -/
def OnlyCopies (s t : State) : Prop := t = { s with keyCopies := t.keyCopies, dma := t.dma }

theorem onlyCopies_startCopies (n : Nat) (s : State) : OnlyCopies s (startCopies n s) := by
  induction n generalizing s with
  | zero => rfl
  | succ n ih =>
    unfold startCopies
    split
    · rfl
    · exact (ih _).trans rfl

theorem onlyCopies_settleCopies (s : State) : OnlyCopies s (settleCopies s) := (onlyCopies_startCopies _ _).trans rfl

@[simp] theorem settleCopies_disp? (s : State) (d : DRef) : (settleCopies s).disp? d = s.disp? d := by
  rw [onlyCopies_settleCopies s]
  rfl

@[simp] theorem settleCopies_core (s : State) (n : Nat) : (settleCopies s).core n = s.core n := by
  rw [onlyCopies_settleCopies s]
  rfl

/-- Where no copy is evicted and none waits, nothing is freed and no transfer starts. -/
theorem settleCopies_idle {s : State} (h : ∀ k ∈ s.keyCopies, k.stage ≠ .evicted ∧ k.stage ≠ .waiting) : settleCopies s = s := by
  have hkeep : s.keyCopies.filter (fun e => e.stage != .evicted || copyRead s e) = s.keyCopies :=
    List.filter_eq_self.2 fun k hk => by simp [(h k hk).1]
  have hnext : nextCopy s = none := List.find?_eq_none.2 fun k hk => by simp [(h k hk).2]
  have hstart : ∀ n, startCopies n s = s := fun n => by
    cases n with
    | zero => rfl
    | succ n => simp only [startCopies, hnext]
  simp only [settleCopies, hkeep]
  exact hstart _

theorem evicted_of_mem_startCopies {n : Nat} {s : State} {k : KeyCopy} (h : k ∈ (startCopies n s).keyCopies) (he : k.stage = .evicted) :
    k ∈ s.keyCopies := by
  induction n generalizing s with
  | zero => exact h
  | succ n ih =>
    unfold startCopies at h
    split at h
    · exact h
    next e _ =>
      obtain ⟨k', hk', rfl⟩ := List.mem_map.1 (ih h)
      split at he
      · cases he
      next hne => rwa [if_neg hne]

/-- An evicted copy stays only while an instruction in flight reads it. -/
theorem evicted_of_mem_settleCopies {s : State} {k : KeyCopy} (h : k ∈ (settleCopies s).keyCopies) (he : k.stage = .evicted) :
    copyRead s k = true := by
  have hmem := evicted_of_mem_startCopies h he
  simpa [he] using (List.mem_filter.1 hmem).2

/-! Event and error records (R325, R411). -/

/-- Only the event ring, the memories and what leaves the module differ. -/
def OnlyPosted (s t : State) : Prop := t = { s with ev := t.ev, mem := t.mem, sent := t.sent }

theorem onlyPosted_ringPut (s : State) (e : Bytes) : OnlyPosted s (s.ringPut e) := by
  unfold State.ringPut State.interrupt
  dsimp only
  split
  · rfl
  · split
    · split <;> rfl
    · rfl

theorem onlyPosted_post (s : State) (source : Nat) (record : Bytes) : OnlyPosted s (s.post source record) := by
  unfold State.post
  dsimp only
  split
  · split <;> rfl
  · split
    · split <;> rfl
    · exact (onlyPosted_ringPut _ _).trans rfl

theorem onlyPosted_errRec (s : State) (r : ERec) : OnlyPosted s (s.errRec r) := onlyPosted_post ..

/-- A residue event below FENCE_RES fences nothing (R415). -/
theorem residueEvent_few {s : State} {core : Nat} (x : Dispatch)
    (h : (s.fence.residues.filter (fun e => e.1 == core)).length + 1 < s.settingN 0x031D 0) :
    (residueEvent s core x).disps = s.disps ∧ (residueEvent s core x).cores = s.cores := by
  generalize hu : s.errRec { cls := 5, action := 2, kind := ukCore, fault := FaultCode.residueCheck.code, unit := core, addr := 0
                             count := 1, ctx := x.ctx, dispatch := some x.id, tick := s.now } = u
  have hp : OnlyPosted s u := hu ▸ onlyPosted_errRec ..
  have hfence : u.fence = s.fence := by rw [hp]
  have hset : ∀ v : State, v.ctxs = u.ctxs → v.cfg = u.cfg → v.settingN 0x031D 0 = s.settingN 0x031D 0 := fun v hc hg => by
    have hcu : u.ctxs = s.ctxs := by rw [hp]
    have hgu : u.cfg = s.cfg := by rw [hp]
    simp only [State.settingN, setting_congr (hc.trans hcu) (hg.trans hgu)]
  have hle : (((core, u.now) :: u.fence.residues.filter (fun e => inPaceWindow u e.2)).filter (·.1 == core)).length
      ≤ (s.fence.residues.filter (fun e => e.1 == core)).length + 1 := by
    have hcons : ((core, u.now) :: u.fence.residues.filter (fun e => inPaceWindow u e.2)).filter (·.1 == core)
        = (core, u.now) :: (s.fence.residues.filter (fun e => inPaceWindow u e.2)).filter (·.1 == core) := by simp [hfence]
    rw [hcons, List.length_cons]
    exact Nat.succ_le_succ (List.filter_sublist.filter _).length_le
  have hfew : ¬ (((core, u.now) :: u.fence.residues.filter (fun e => inPaceWindow u e.2)).filter (·.1 == core)).length
      ≥ ({ u with fence := { u.fence with residues := (core, u.now) :: u.fence.residues.filter (fun e => inPaceWindow u e.2) } } :
          State).settingN 0x031D 0 := by
    rw [hset]
    · omega
    · rfl
    · rfl
  simp only [residueEvent, hu, if_neg hfew]
  exact ⟨by rw [hp], by rw [hp]⟩

/-- The first uncorrectable error at the storage of a core fences nothing (R415). -/
theorem sramUe_first {s : State} {core : Nat} (block : Nat) (h : ∀ e ∈ s.fence.sramUe, e.1 ≠ core) :
    (sramUe s core block).disps = s.disps ∧ (sramUe s core block).cores = s.cores := by
  generalize hu : s.plainErr 2 2 ukCore core FaultCode.eccUncorrectable.code 0 = u
  have hp : OnlyPosted s u := hu ▸ onlyPosted_errRec ..
  have hfence : u.fence = s.fence := by rw [hp]
  have hagain : u.fence.sramUe.any (fun e => e.1 == core && e.2.1 == block && inPaceWindow u e.2.2) = false := by
    rw [hfence, List.any_eq_false]
    intro e he
    simp [h e he]
  simp only [sramUe, hu, hagain, Bool.false_and, Bool.false_eq_true, if_false]
  exact ⟨by rw [hp], by rw [hp]⟩

/-! The registers after poison has been met (R67, R73). -/

theorem State.core_setCore (s : State) (n j : Nat) (r : CoreRegs) : (s.setCore n r).core j = if j = n then r else s.core j := by
  split
  next h => rw [h, s.core_setCore_self]
  next h => exact s.core_setCore_other h r

/-- POISON_SEEN is set, RESIDUE_EVENTS stays. -/
theorem raise_poisonSeen (r : CoreRegs) : (r.raise stPoisonSeen).status.toNat / 65536 = r.status.toNat / 65536
    ∧ (r.raise stPoisonSeen).status.toNat / 16 % 2 = 1 := by
  have hor : (r.raise stPoisonSeen).status.toNat = r.status.toNat ||| 16 := by simp [CoreRegs.raise, stPoisonSeen]
  rw [hor, show 65536 = 2 ^ 16 from rfl, Nat.or_div_two_pow, show 16 = 2 ^ 4 from rfl, Nat.or_div_two_pow]
  exact ⟨by simp, Nat.or_mod_two_eq_one.2 (.inr rfl)⟩

/-- RESIDUE_EVENTS counts one more and stops at 0xFFFF; the flags stay. -/
theorem residue_status (r : CoreRegs) : r.residue.status.toNat / 65536 = min (r.status.toNat / 65536 + 1) 65535
    ∧ r.residue.status.toNat / 16 % 2 = r.status.toNat / 16 % 2 := by
  have hlt := r.status.isLt
  have hres : r.residue.status.toNat = min (r.status.toNat / 65536 + 1) 65535 * 65536 + r.status.toNat % 65536 := by
    simp only [CoreRegs.residue, satInc, BitVec.toNat_ofNat]
    exact Nat.mod_eq_of_lt (by omega)
  rw [hres]
  constructor <;> omega

/-! A destination becomes poisoned (R73, R74). -/

theorem poisonReg_status (r : CoreRegs) (u : Use) (k : Nat) : (r.poisonReg u k).status = r.status := by
  unfold CoreRegs.poisonReg
  dsimp only
  split
  · rfl
  · split <;> rfl

theorem poisonReg_poisV {r : CoreRegs} {u : Use} {k v : Nat} (h : u.wv[k]? = some v) : (r.poisonReg u k).poisV.contains v = true := by
  obtain ⟨hk, hv⟩ := List.getElem?_eq_some_iff.1 h
  have hn : nth u.wv k 0 = v := by simp [nth, h]
  simp [CoreRegs.poisonReg, hk, hn, insert_mem]

/-- Only memories and registers differ, and no core's ARITH_STATUS does. -/
def OnlyPoison (s t : State) : Prop := t = { s with mem := t.mem, cores := t.cores } ∧ ∀ j, (t.core j).status = (s.core j).status

theorem OnlyPoison.of_memory {s t : State} (h : OnlyMemory s t) : OnlyPoison s t :=
  ⟨by rw [h], fun j => by simp only [State.core, h.cores]⟩

theorem onlyPoison_setCore (s : State) (n : Nat) {r : CoreRegs} (h : r.status = (s.core n).status) : OnlyPoison s (s.setCore n r) := by
  refine ⟨rfl, fun j => ?_⟩
  rw [s.core_setCore]
  split
  next hj => rw [h, hj]
  next => rfl

theorem onlyMemory_poisonLimb (s : State) (f : InFlight) (k : Nat) : OnlyMemory s (poisonLimb s f k) :=
  foldl_keeps (OnlyMemory s) poisonHdr (fun _ _ h => h.trans rfl) _ _ rfl

theorem onlyPoison_poisonDest (s : State) (x : Dispatch) (f : InFlight) (k : Nat) : OnlyPoison s (poisonDest s x f k) := by
  unfold poisonDest
  dsimp only
  split
  · split
    · exact onlyPoison_setCore _ _ (poisonReg_status ..)
    · exact .of_memory (onlyMemory_poisonLimb ..)
  · have hregs := foldl_keeps (fun r => r.status = (s.core x.lead).status) (fun r k => r.poisonReg f.use k)
      (fun r k h => (poisonReg_status r f.use k).trans h)
      (List.range (f.use.wv.length + f.use.wt.length + f.use.ws.length)) (s.core x.lead) rfl
    exact ⟨rfl, (onlyPoison_setCore s x.lead hregs).2⟩

theorem poisonDest_poisV {s : State} {x : Dispatch} {f : InFlight} {k v : Nat} (h : f.use.wv[k]? = some v) (ht : f.use.wt = []) :
    ((poisonDest s x f k).core x.lead).poisV.contains v = true := by
  obtain ⟨hk, -⟩ := List.getElem?_eq_some_iff.1 h
  have hlt : k < f.use.wv.length + ([] : List Nat).length + f.use.ws.length := by simp only [List.length_nil]; omega
  simp only [poisonDest, ht, List.isEmpty_nil, if_true, if_pos hlt, State.core_setCore_self]
  exact poisonReg_poisV h

/-- POISON_SEEN is raised on the core that met poison and on the lead core (R73, R233). -/
theorem meetsOn_core (s : State) (x : Dispatch) (f : InFlight) (core : Nat) (c : FaultCode) (j : Nat) :
    (meetsOn s x f core c).core j = if j = core ∨ j = x.lead then (s.core j).raise stPoisonSeen else s.core j := by
  have hcore : (meetsOn s x f core c).core j = ((s.setCore x.lead ((s.core x.lead).raise stPoisonSeen)).setCore core
      (((s.setCore x.lead ((s.core x.lead).raise stPoisonSeen)).core core).raise stPoisonSeen)).core j := rfl
  rw [hcore, State.core_setCore, State.core_setCore, State.core_setCore]
  by_cases hc : j = core <;> by_cases hl : j = x.lead
  · simp [← hc, ← hl]
  · simp [← hc, hl]
  · simp [hc, ← hl]
  · simp [hc, hl]

/-- What an error leaves where the destination k of an instruction is poisoned (R73): the first poisoning fault, POISON_SEEN, the
destination's flag, and RESIDUE_EVENTS as it was. -/
structure Poisoned (s t : State) (d : DRef) (x : Dispatch) (f : InFlight) (core k : Nat) (c : FaultCode) : Prop where
  disp : t.disp? d = some (x.poison c f.instr)
  events : ∀ j, (t.core j).status.toNat / 65536 = (s.core j).status.toNat / 65536
  seen : ∀ j, j = core ∨ j = x.lead → (t.core j).status.toNat / 16 % 2 = 1
  dest : ∀ r, f.use.wv[k]? = some r → f.use.wt = [] → (t.core x.lead).poisV.contains r = true

theorem Poisoned.congr {s t u : State} {d : DRef} {x : Dispatch} {f : InFlight} {core k : Nat} {c : FaultCode}
    (h : Poisoned s t d x f core k c) (hd : u.disps = t.disps) (hc : u.cores = t.cores) : Poisoned s u d x f core k c := by
  have hcore : u.core = t.core := funext fun j => by simp only [State.core, hc]
  have hdisp : u.disp? d = t.disp? d := by simp only [State.disp?, hd]
  exact ⟨hdisp ▸ h.disp, hcore ▸ h.events, hcore ▸ h.seen, hcore ▸ h.dest⟩

section Errors

variable {s : State} {d : DRef} {x : Dispatch} {f : InFlight} {core k : Nat}

theorem poisoned_meetsOn (c : FaultCode) (hx : s.disp? d = some x) :
    Poisoned s (meetsOn (poisonDest s x f k) x f core c) d x f core k c := by
  obtain ⟨honly, hstatus⟩ := onlyPoison_poisonDest s x f k
  have hdisp : (poisonDest s x f k).disp? d = some x := by rw [honly]; exact hx
  refine ⟨?_, fun j => ?_, fun j hj => ?_, fun r hr ht => ?_⟩
  · exact State.disp?_setDisp_self _ (y := x) hdisp ((x.poison_id ..).trans (disp?_id hx))
  · rw [meetsOn_core, ← hstatus j]
    split
    · exact (raise_poisonSeen _).1
    · rfl
  · rw [meetsOn_core, if_pos hj]
    exact (raise_poisonSeen _).2
  · rw [meetsOn_core, if_pos (.inr rfl)]
    exact poisonDest_poisV hr ht

theorem meetsOn_frame (c : FaultCode) : (meetsOn (poisonDest s x f k) x f core c).fence = s.fence
    ∧ (meetsOn (poisonDest s x f k) x f core c).setting = s.setting := by
  obtain ⟨honly, -⟩ := onlyPoison_poisonDest s x f k
  refine ⟨show (poisonDest s x f k).fence = s.fence by rw [honly], setting_congr ?_ ?_⟩
  · show (poisonDest s x f k).ctxs = s.ctxs
    rw [honly]
  · show (poisonDest s x f k).cfg = s.cfg
    rw [honly]

theorem registerUe_first (hx : s.disp? d = some x) (h : ∀ e ∈ s.fence.sramUe, e.1 ≠ core) :
    Poisoned s (registerUe s x f core k) d x f core k .eccUncorrectable := by
  have hfence := (meetsOn_frame (s := s) (x := x) (f := f) (core := core) (k := k) .eccUncorrectable).1
  obtain ⟨hd, hc⟩ := sramUe_first (s := meetsOn (poisonDest s x f k) x f core .eccUncorrectable) (3 * 2 ^ 32 + core) (hfence ▸ h)
  exact (poisoned_meetsOn _ hx).congr hd hc

/-- A failed residue check below FENCE_RES counts one event on its core (R67, R73). -/
theorem residueFail_few (hx : s.disp? d = some x)
    (h : (s.fence.residues.filter (fun e => e.1 == core)).length + 1 < s.settingN 0x031D 0) :
    (residueFail s x f core k).disp? d = some (x.poison .residueCheck f.instr)
      ∧ ((residueFail s x f core k).core core).status.toNat / 65536 = min ((s.core core).status.toNat / 65536 + 1) 65535
      ∧ ((residueFail s x f core k).core core).status.toNat / 16 % 2 = 1
      ∧ ((residueFail s x f core k).core x.lead).status.toNat / 16 % 2 = 1
      ∧ ∀ r, f.use.wv[k]? = some r → f.use.wt = [] → ((residueFail s x f core k).core x.lead).poisV.contains r = true := by
  generalize hm : meetsOn (poisonDest s x f k) x f core .residueCheck = m
  obtain ⟨hdisp, hevents, hseen, hdest⟩ : Poisoned s m d x f core k .residueCheck := hm ▸ poisoned_meetsOn _ hx
  obtain ⟨hfence, hset⟩ : m.fence = s.fence ∧ m.setting = s.setting := hm ▸ meetsOn_frame _
  have hfew : ((m.setCore core (m.core core).residue).fence.residues.filter (fun e => e.1 == core)).length + 1
      < (m.setCore core (m.core core).residue).settingN 0x031D 0 := by
    have hs : (m.setCore core (m.core core).residue).setting = s.setting := (setting_congr rfl rfl).trans hset
    rw [State.settingN, hs, State.setCore_fence, hfence]
    exact h
  obtain ⟨hd, hc⟩ := residueEvent_few x hfew
  have hcores : (residueFail s x f core k).cores = (m.setCore core (m.core core).residue).cores := by
    simp only [residueFail, hm, hc]
  have hcore : ∀ j, (residueFail s x f core k).core j = if j = core then (m.core core).residue else m.core j := fun j => by
    rw [← State.core_setCore]
    simp only [State.core, hcores]
  obtain ⟨hcount, hflags⟩ := residue_status (m.core core)
  refine ⟨?_, ?_, ?_, ?_, fun r hr ht => ?_⟩
  · simp only [residueFail, hm, State.disp?, hd]
    exact hdisp
  · rw [hcore, if_pos rfl, hcount, hevents]
  · rw [hcore, if_pos rfl, hflags, hseen core (.inl rfl)]
  · rw [hcore]
    split
    next hl => rw [hflags, hseen core (.inl rfl)]
    next => exact hseen x.lead (.inr rfl)
  · rw [hcore]
    split
    next hl => exact hl ▸ hdest r hr ht
    next => exact hdest r hr ht

end Errors

/-! INSTRUCTION_RETIRE (R73, R77, R145). -/

/-- What an error that an instruction meets leaves, where it meets one. -/
def upsets (s : State) (x : Dispatch) (f : InFlight) (met : Option Upset) : State :=
  match met with
  | some u => upset s x f u
  | none => s

theorem answered_eq {s : State} {x : Dispatch} {c : Ctx} {slot : Nat} (hw : x.wait = some (.answer slot)) (hc : s.ctx? x.ctx = some c) :
    answered s x = (setSlotState s x c slot hsConsumed (fun st => st == hsAnswered)).setDisp
      { x.adv 2 with wait := none, slots := x.slots.filter (·.slot != slot) } := by
  simp only [answered, hw, hc]

/-- A dispatch without the instruction numbered n of those it has in flight. -/
def Dispatch.retired (x : Dispatch) (n : Nat) : Dispatch := { x with inflight := x.inflight.eraseIdx n }

section Retire

variable {s : State} {d : DRef} {n : Nat} {x : Dispatch} {f : InFlight} (hx : s.disp? d = some x) (hf : x.inflight[n]? = some f)
  (hp : x.phase = .running) (ho : x.fate = none) (hr : s.coresRun x = true) (hu : s.isUp = true) (hold : x.oldest n f = true)
include hx hf hp ho hr hu hold

theorem exec_instructionRetire (met : Option Upset) :
    exec (.instructionRetire d n met) s = .next (settleCopies (upsets
      (if f.engine == 8 then answered (s.setDisp (x.retired n)) (x.retired n) else s.setDisp (x.retired n)) (x.retired n) f met)) := by
  have hgo : (x.phase == .running && x.fate.isNone && s.coresRun x && s.isUp && x.oldest n f) = true := by simp [hp, ho, hr, hu, hold]
  show execInstructionRetire d n met s = _
  simp only [execInstructionRetire, hx, hf, hgo, Bool.not_true, Bool.false_eq_true, if_false]
  cases met <;> rfl

theorem exec_instructionRetire_plain (h8 : f.engine ≠ 8) (met : Option Upset) :
    exec (.instructionRetire d n met) s = .next (settleCopies (upsets (s.setDisp (x.retired n)) (x.retired n) f met)) := by
  rw [exec_instructionRetire hx hf hp ho hr hu hold, if_neg (by simpa using h8)]

/-- An answer copy that retires sets CONSUMED, and the program goes on (R145). -/
theorem exec_instructionRetire_answer {slot : Nat} {c : Ctx} (h8 : f.engine = 8) (hw : x.wait = some (.answer slot))
    (hc : s.ctx? x.ctx = some c) :
    exec (.instructionRetire d n none) s = .next (settleCopies
      ((setSlotState (s.setDisp (x.retired n)) (x.retired n) c slot hsConsumed (fun st => st == hsAnswered)).setDisp
        { (x.retired n).adv 2 with wait := none, slots := x.slots.filter (·.slot != slot) })) := by
  rw [exec_instructionRetire hx hf hp ho hr hu hold, if_pos (by simpa using h8), upsets,
    answered_eq (s := s.setDisp (x.retired n)) (x := x.retired n) hw hc]
  rfl

end Retire

theorem upsets_none {s : State} {x : Dispatch} {f : InFlight} {met : Option Upset}
    (h : met = none ∨ ∃ core k p, met = some (.product core k p)
      ∧ (f.multiplies x = false ∨ limbCore x f k core = false ∨ checksPass p = true)) : upsets s x f met = s := by
  obtain rfl | ⟨core, k, p, rfl, h⟩ := h
  · rfl
  · refine if_neg ?_
    obtain h | h | h := h <;> simp [h]

theorem upsets_residueFail {s : State} {x : Dispatch} {f : InFlight} {core k : Nat} {p : Product} (hm : f.multiplies x = true)
    (hl : limbCore x f k core = true) (hp : checksPass p = false) :
    upsets s x f (some (.product core k p)) = residueFail s x f core k :=
  if_pos (by simp [hm, hl, hp])

theorem upsets_registerUe {s : State} {x : Dispatch} {f : InFlight} {core k : Nat} (hc : x.cores.contains core = true)
    (hr : f.use.rv ≠ []) : upsets s x f (some (.registerUe core k)) = registerUe s x f core k :=
  if_pos (Bool.and_eq_true_iff.2 ⟨hc, by simpa using hr⟩)

/-- An evicted copy that no instruction left in flight reads is freed (R113). -/
theorem evicted_freed {s : State} {d : DRef} {y : Dispatch} (hy : y.id = d) {k : KeyCopy} (he : k.stage = .evicted)
    (hothers : ∀ e ∈ s.disps, e.id ≠ d → ∀ g ∈ e.inflight, g.use.copy ≠ some k.order)
    (hown : ∀ g ∈ y.inflight, g.use.copy ≠ some k.order) : k ∉ (settleCopies (s.setDisp y)).keyCopies := by
  intro hmem
  obtain ⟨e, hemem, g, hg, hread⟩ : ∃ e ∈ (s.setDisp y).disps, ∃ g ∈ e.inflight, g.use.copy = some k.order := by
    simpa [copyRead] using evicted_of_mem_settleCopies hmem he
  obtain ⟨z, hz, rfl⟩ := List.mem_map.1 hemem
  split at hg
  · exact hown g hg hread
  next hne => exact hothers z hz (by simpa [hy] using hne) g hg hread

/-- Settles O23: an instruction retires through `upsets` and `settleCopies`, a unit commits through `unitResult`, and a stream that
asks again or goes on does so by its lemma of the streams. That poison is seen on the core and on the lead core is log entry 20's
reading, the ordinal of a destination log entry 34's, the port of a request log entry 31's. -/
theorem inFlightWorkRetiresAndStreamsMove : Obligations.InFlightWorkRetiresAndStreamsMove := by
  unfold Obligations.InFlightWorkRetiresAndStreamsMove
  refine ⟨?_, ?_, ?_, ?_⟩
  · intro s d n met x f hx hf hp ho hr hu hold y
    have hid : y.id = d := disp?_id (x := x) hx
    have hy : (s.setDisp y).disp? d = some y := s.disp?_setDisp_self hx hid
    refine ⟨fun h8 hmet => ?_, fun h8 core k p hmet hmul hlimb hpass hfew => ?_, fun h8 core k hmet hcore hrv hfirst => ?_,
      fun h8 hmet slot c hw hc => ?_⟩
    · have hexec := exec_instructionRetire_plain hx hf hp ho hr hu hold h8 met
      rw [upsets_none (x := x.retired n) hmet] at hexec
      refine ⟨_, hexec, ?_, ?_, fun e hne => ?_, fun hidle => ?_, fun k hk hev hothers hown => evicted_freed hid hev hothers hown⟩
      · rw [onlyCopies_settleCopies (s.setDisp _)]
        rfl
      · rw [settleCopies_disp?]
        exact hy
      · rw [settleCopies_disp?]
        exact s.disp?_setDisp_other (hid.trans_ne hne.symm)
      · rw [settleCopies_idle (s := s.setDisp _) hidle]
        exact ⟨rfl, rfl⟩
    · have hexec := exec_instructionRetire_plain hx hf hp ho hr hu hold h8 met
      rw [hmet, upsets_residueFail (x := x.retired n) hmul hlimb hpass] at hexec
      subst hmet
      refine ⟨_, hexec, ?_⟩
      simp only [settleCopies_disp?, settleCopies_core]
      exact residueFail_few hy hfew
    · have hexec := exec_instructionRetire_plain hx hf hp ho hr hu hold h8 met
      rw [hmet, upsets_registerUe (x := x.retired n) hcore hrv] at hexec
      subst hmet
      obtain ⟨hdisp, -, hseen, hdest⟩ := registerUe_first (f := f) (k := k) hy hfirst
      refine ⟨_, hexec, ?_⟩
      simp only [settleCopies_disp?, settleCopies_core]
      exact ⟨hdisp, hseen _ (.inr rfl), hdest⟩
    · subst hmet
      have hslot := onlyMemory_setSlotState (s.setDisp (x.retired n)) (x.retired n) c slot hsConsumed (fun st => st == hsAnswered)
      refine ⟨_, exec_instructionRetire_answer hx hf hp ho hr hu hold h8 hw hc, ?_, ?_⟩
      · rw [settleCopies_disp?]
        refine State.disp?_setDisp_self _ (y := x.retired n) ?_ hid
        rw [hslot]
        exact hy
      · rw [onlyCopies_settleCopies (State.setDisp _ _), hslot]
        rfl
  · intro s d slot err x c t u r hx ht hu hs h8 hr
    have hr : r = unitResult s x c t u err := hr
    subst hr
    have hexec := exec_streamUnitCommit hx ht hu hs h8 err
    refine ⟨fun v hv => ?_, fun e he => ?_, fun f hf => ?_⟩
    · rw [hexec, hv, unitCommitted]
    · rw [hexec, he, unitCommitted]
    · rw [hexec, hf, unitCommitted]
      exact ⟨_, rfl, onlyDispatch_stop_running hx rfl rfl rfl (stream?_ne_nil ht) f t.instr⟩
  · intro s d slot x c t hx ht hs ho hn want
    obtain ⟨hdisp, -, -⟩ := running_disp? hx
    have hexec := exec_streamCreditRetry hx ht hs ho hn
    refine ⟨fun hnear => ?_, fun m p hm hp => ?_, fun m hm hp => ?_⟩
    · rw [sendReq_near hnear] at hexec
      exact ⟨_, hexec, onlyDispatch_setStream hdisp _⟩
    · rw [sendReq_far hm hp] at hexec
      exact ⟨_, hexec, onlyDispatch_setStream hdisp _⟩
    · rw [sendReq_lost hm hp] at hexec
      exact ⟨_, hexec, onlyDispatch_stop_running (y := x.setStream t) hx rfl rfl rfl (setStream_ne_nil ht t) .linkLost t.instr⟩
  · intro s d slot x c t u m w b hx ht hs hu hb hfull
    obtain ⟨hdisp, -, -⟩ := running_disp? hx
    exact ⟨_, exec_streamEmptyResume hx ht hs hu hb hfull, onlyDispatch_setStream hdisp _⟩

end Sys2Proof.Machine

/-! SUPPORT. The engines' forms over regions and objects: with every operand resolved and every condition met, what ntt.f, ntt.i, auto
and the three conversions come to (R79, R80, R84, R91 to R93). -/

namespace Sys2Proof.Machine

section Forms

variable {s : State} {rd ra rb stage : HRef} {x : Dispatch} {c : Ctx} {n engine i0 nl : Nat}

/-! Limb-wise forms (R80, R93). -/

/-- With the operands that `RegionOperands` asks for, a limb-wise form writes the limbs of its destination and its staging region. -/
theorem regionForm_ok {rs : List Nat} {psi : Bool} {g : Nat → List Nat → List Nat} {sa da ga : List Span} {u : Use}
    (hu : { Use.none with rd := sa, wr := da ++ ga, rs := hrefRegs rd ++ hrefRegs ra ++ hrefRegs stage ++ rs } = u)
    (hops : RegionOperands s x c rd ra stage i0 nl psi sa da ga) (hfree : free x u = .ok ()) (he : x.engineFree engine = true) :
    regionForm s x c n engine rd ra stage rs i0 nl psi g = .ok (regionDone s x c n engine u sa da ga i0 nl g) := by
  obtain ⟨src, dst, hs, hd, hcount, hsa, hda, hga, hsd, hsg, hdg, hidx, hw⟩ := hops
  have hcountB : (if psi then dCount src.raw == nl * 2 ^ (activeRing x c s).logN && dCount dst.raw == nl * 2 ^ (activeRing x c s).logN
        && dBase src.raw % 1024 == 0 && dBase dst.raw % 1024 == 0
      else decide (dCount src.raw ≥ nl * 2 ^ (activeRing x c s).logN)
        && decide (dCount dst.raw ≥ nl * 2 ^ (activeRing x c s).logN)) = true := by
    cases psi <;> simpa [and_assoc] using hcount
  have hidxB : ((List.range nl).all (fun k => if psi then transformIdx (activeRing x c s) (s.core x.lead).gate (i0 + k)
      else decide (i0 + k < (activeRing x c s).qs.length))) = true := by
    cases psi <;> simpa using hidx
  subst hu
  simp only [regionForm, hs, hd, hcountB, hsa, hda, hga, hsd, hsg, hdg, hidxB, hw, hfree, he, run_eq, need_ok, Bool.not_false,
    Bool.not_true, Bool.and_self]
  rfl

/-- With the operands that `ObjectOperands` asks for, a limb-wise form writes its object, body before header, and its staging region. -/
theorem objectForm_ok {rs : List Nat} {o : Obj} {repr : Nat} {g : Nat → List Nat → List Nat} {f : Funded} {dd : ObjDst} {h : Hdr}
    {ga : List Span} {u : Use} (hu : { Use.none with wr := ga, rs := rs ++ hrefRegs rd ++ hrefRegs stage } = u)
    (hops : ObjectOperands s x c rd stage o repr f dd h ga)
    (hfree : free x { u with rd := o.body ++ o.hdrAt, wr := dd.body ++ dd.hdrAt ++ ga } = .ok ()) (he : x.engineFree engine = true) :
    objectForm s x c n engine rd stage rs o repr g = .ok (finishObj (writeStaging (s.keepCopies c f) ga (2 ^ h.logN))
      (x.countVault c f) c n engine [o] u false dd h (mapLimbs c.param f.a g)) := by
  obtain ⟨d, hd, hspent, hfund, rfl, hdd, hga, hbd, hbg, hdg, hw⟩ := hops
  subst hu
  simp only [objectForm, hd, hspent, hfund, hdd, hga, hbd, hbg, hdg, hw, hfree, he, run_eq, need_ok, Bool.not_false, Bool.not_true,
    Bool.and_self]
  rfl

/-! The transforms and the automorphism: which limb-wise form they are (R79, R91, R92). -/

/-- The function that a transform maps the limb of a modulus index by (R79). -/
def transformBy (inv : Bool) (ring : RingCfg) (k : Nat) (w : List Nat) : List Nat :=
  if inv then nttInv (nth ring.qs k 1) ring.logN w else nttFwd (nth ring.qs k 1) ring.logN w

theorem nttForm_region (inv : Bool) (h : nl ≠ 0) :
    nttForm inv s rd ra rb i0 nl x c n = regionForm s x c n 0 rd ra rb [] i0 nl true (transformBy inv (activeRing x c s)) := by
  simp only [nttForm, beq_iff_eq, h, if_false]
  rfl

/-- A transform takes an object of the other representation, outside the gate configuration (R79, R123). -/
theorem nttForm_object {inv : Bool} {o : Obj} (ho : objSrc s x c (s.core x.lead) ra = .ok o) (hk : o.h.kind ≠ kindLwe)
    (hg : (s.core x.lead).gate = false) (hr : o.h.repr = if inv then 1 else 0) :
    nttForm inv s rd ra rb i0 0 x c n
      = objectForm s x c n 0 rd rb (hrefRegs ra) o (1 - o.h.repr) (transformBy inv (activeRing x c s)) := by
  have hkind : (o.h.kind != kindLwe) = true := bne_iff_ne.2 hk
  simp only [nttForm, ho, hkind, hg, hr, run_eq, need_ok, beq_self_eq_true, if_true, Bool.not_false, Bool.and_self]
  rfl

section Auto

variable {gs : GSrc} {g : Nat} {ev : Bool} (hgs : galois x (s.core x.lead) gs = .ok g) (hodd : g % 2 = 1)
  (hlt : g < 2 * 2 ^ (activeRing x c s).logN)
include hgs hodd hlt

theorem autoForm_region (h : nl ≠ 0) :
    autoForm s rd ra i0 nl ev gs x c n = regionForm s x c n 1 rd ra .null (gsrcRegs gs) i0 nl false
      (fun k w => autoLimb ev (nth (activeRing x c s).qs k 1) (activeRing x c s).logN g w) := by
  simp only [autoForm, hgs, hodd, hlt, h, run_eq, need_ok, beq_iff_eq, beq_self_eq_true, decide_true, Bool.and_self, if_false]

/-- auto takes an object in the representation that its form names, outside the gate configuration (R93). -/
theorem autoForm_object {o : Obj} (ho : objSrc s x c (s.core x.lead) ra = .ok o) (hk : o.h.kind ≠ kindLwe)
    (hg : (s.core x.lead).gate = false) (hr : o.h.repr = if ev then 1 else 0) :
    autoForm s rd ra i0 0 ev gs x c n = objectForm s x c n 1 rd .null (hrefRegs ra ++ gsrcRegs gs) o o.h.repr
      (fun k w => autoLimb ev (nth (activeRing x c s).qs k 1) (activeRing x c s).logN g w) := by
  have hkind : (o.h.kind != kindLwe) = true := bne_iff_ne.2 hk
  simp only [autoForm, hgs, hodd, hlt, ho, hkind, hg, hr, run_eq, need_ok, beq_self_eq_true, decide_true, Bool.not_false,
    Bool.and_self, if_true]

end Auto

/-! The conversions (R78, R84). -/

section Convert

variable {ns t0 nt nn : Nat} {src dst : Opnd} {sa da : List Span} {u : Use} {out : Bytes} (hnn : 2 ^ (activeRing x c s).logN = nn)
  (hu : { Use.none with rd := sa, wr := da ++ ownBuffers x, rs := hrefRegs rd ++ hrefRegs ra } = u)
  (hs : resolve x c (s.core x.lead) ra false false = .ok src) (hd : resolve x c (s.core x.lead) rd true false = .ok dst)
  (hdc : nt * nn ≤ dCount dst.raw) (hi : i0 + ns ≤ (activeRing x c s).qs.length) (ht : t0 + nt ≤ (activeRing x c s).qs.length)
  (hda : regionSpans s x c .write dst.raw (nt * nn * 4) = .ok da) (hw : inWindow s da = false) (hfree : free x u = .ok ())
  (he : x.engineFree 2 = true)
include hnn hu hs hd hdc hi ht hda hw hfree he

theorem cvtUpForm_ok
    (hout : ((List.range nt).map (fun t => bytesOf 4 (convLimb nn (((activeRing x c s).qs.drop i0).take ns)
      ((List.range ns).map (regionLimb s sa nn)) (nth (activeRing x c s).qs (t0 + t) 1)))).flatten = out)
    (hsc : ns * nn ≤ dCount src.raw) (hsa : regionSpans s x c .read src.raw (ns * nn * 4) = .ok sa) :
    cvtUpForm s rd ra i0 ns t0 nt x c n = .ok (convFinish s x n nn u sa da nt out) := by
  subst hnn hu hout
  simp only [cvtUpForm, hs, hd, ge_iff_le, hsc, hdc, hi, ht, hsa, hda, hw, hfree, he, run_eq, need_ok, decide_true, Bool.not_false,
    Bool.not_true, Bool.and_self]
  rfl

/-- The source holds the NT Q-limbs and then the NS P-limbs (log entry 13). -/
theorem cvtDownForm_ok
    (hout : ((List.range nt).map (fun t => bytesOf 4 (downLimb nn (nth (activeRing x c s).qs (t0 + t) 1) (regionLimb s sa nn t)
      (((activeRing x c s).qs.drop i0).take ns) ((List.range ns).map (fun k => regionLimb s sa nn (nt + k)))))).flatten = out)
    (hsc : (nt + ns) * nn ≤ dCount src.raw) (hsa : regionSpans s x c .read src.raw ((nt + ns) * nn * 4) = .ok sa) :
    cvtDownForm s rd ra i0 ns t0 nt x c n = .ok (convFinish s x n nn u sa da nt out) := by
  subst hnn hu hout
  simp only [cvtDownForm, hs, hd, ge_iff_le, hsc, hdc, hi, ht, hsa, hda, hw, hfree, he, run_eq, need_ok, decide_true, Bool.not_false,
    Bool.not_true, Bool.and_self]
  rfl

end Convert

/-- cvt.rescale of an RLWE ciphertext of CKKS or BGV above level 1, whose header is computed after the budget policy (R84, R120). -/
theorem rescaleForm_ok {od : Opnd} {o : Obj} {f : Funded} {dd : ObjDst} {u : Use}
    (hu : { Use.none with wr := ownBuffers x, rs := hrefRegs rd ++ hrefRegs ra } = u)
    (hd : resolve x c (s.core x.lead) rd true true = .ok od) (ho : objSrc s x c (s.core x.lead) ra = .ok o)
    (hk : o.h.kind = kindRlwe) (hscheme : o.h.scheme = 0 ∨ o.h.scheme = 2) (hp : o.h.pPresent = 0) (hl : 1 < o.h.level)
    (hspent : o.h.spent = false)
    (hf : fund x c (valOf s c.param o) (valOf s c.param o) (fun a _ => if a.h.level > 1 then
      some (resultBudget .rescale c.param (x.set 0x0102) a.h a.h (a.h.level - 1)) else none) = .ok f)
    (hdd : objDst { s with freeCtr := s.freeCtr + 1 } x c od (rescaleHdr s.freeCtr c.param f) = .ok dd)
    (hfree : free x { u with rd := o.body ++ o.hdrAt, wr := dd.body ++ dd.hdrAt ++ ownBuffers x } = .ok ())
    (he : x.engineFree 2 = true) (hw : inWindow s (dd.body ++ dd.hdrAt) = false) :
    rescaleForm s rd ra x c n = .ok (finishObj
      (fillBuffers (({ s with freeCtr := s.freeCtr + 1 } : State).keepCopies c f) (x.countVault c f)) (x.countVault c f) c n 2 [o] u
      false dd (rescaleHdr s.freeCtr c.param f) (bodyOf (rescaleHdr s.freeCtr c.param f).comps (rescaleHdr s.freeCtr c.param f).level
        (rescaleOut c.param f.a))) := by
  have hkind : (o.h.kind == kindRlwe && (o.h.scheme == 0 || o.h.scheme == 2) && o.h.pPresent == 0) = true := by
    simpa [hk, hp] using hscheme
  have hw' : inWindow { s with freeCtr := s.freeCtr + 1 } (dd.body ++ dd.hdrAt) = false := hw
  subst hu
  simp only [rescaleForm, hd, ho, hkind, gt_iff_lt, hl, hspent, hf, State.draw, hdd, hfree, he, hw', run_eq, need_ok, decide_true,
    Bool.not_false, Bool.not_true]
  rfl

end Forms

theorem exec_ntt (inv : Bool) (d : DRef) (rd ra rb : HRef) (i0 nl : Nat) (s : State) :
    exec (if inv then .nttI d rd ra rb i0 nl else .nttF d rd ra rb i0 nl) s
      = issue s d (if inv then .nttI d rd ra rb i0 nl else .nttF d rd ra rb i0 nl) 1 (nttForm inv s rd ra rb i0 nl) := by
  cases inv <;> rfl

/-- Settles O13: a transform and an automorphism are the limb-wise form of a region or of an object, whose checks the operands meet.
What the staging region holds is free (log entry 1). -/
theorem transformsAndAutomorphismsMapLimbs : Obligations.TransformsAndAutomorphismsMapLimbs := by
  unfold Obligations.TransformsAndAutomorphismsMapLimbs
  refine ⟨?_, ?_, ?_, ?_⟩
  · intro inv s d rd ra rb i0 nl x c n sa da ga i ring u hst h0 hops he
    exact issues_of_form hst (exec_ntt ..) ((nttForm_region inv h0).trans (regionForm_ok rfl hops (stands_free hst) he))
  · intro inv s d rd ra rb i0 x c n o f dd h ga i ring u hst ho hk hg hr hops he
    exact issues_of_form hst (exec_ntt ..) ((nttForm_object ho hk hg hr).trans (objectForm_ok rfl hops (stands_free hst) he))
  · intro s d rd ra i0 nl ev gs g x c n sa da ring u hst h0 hgs hodd hlt hops he
    exact issues_of_form hst rfl ((autoForm_region hgs hodd hlt h0).trans (regionForm_ok rfl hops (stands_free hst) he))
  · intro s d rd ra i0 ev gs g x c n o f dd h ring u hst hgs hodd hlt ho hk hg hr hops he
    exact issues_of_form hst rfl ((autoForm_object hgs hodd hlt ho hk hg hr).trans (objectForm_ok rfl hops (stands_free hst) he))

/-- Settles O14: each conversion meets each of its checks by a hypothesis of the clause. The source layout of cvt.down is log entry
13's reading, and what OB1 to OB3 hold is free (log entry 14). -/
theorem basisConversionsWriteTheirLimbs : Obligations.BasisConversionsWriteTheirLimbs := by
  unfold Obligations.BasisConversionsWriteTheirLimbs
  refine ⟨?_, ?_, ?_⟩
  · intro s d rd ra i0 ns t0 nt x c n src dst sa da ring nn u out hst hs hd hsc hdc hi ht hsa hda hw he
    exact issues_of_form hst rfl (cvtUpForm_ok rfl rfl hs hd hdc hi ht hda hw (stands_free hst) he rfl hsc hsa)
  · intro s d rd ra i0 ns t0 nt x c n src dst sa da ring nn u out hst hs hd hsc hdc hi ht hsa hda hw he
    exact issues_of_form hst rfl (cvtDownForm_ok rfl rfl hs hd hdc hi ht hda hw (stands_free hst) he rfl hsc hsa)
  · intro s d rd ra x c n od o f dd s' v h y u hst hd ho hk hscheme hp hl hspent hf hdd he hw
    exact issues_of_form hst rfl (rescaleForm_ok rfl hd ho hk hscheme hp hl hspent hf hdd (stands_free hst) he hw)

end Sys2Proof.Machine

/-! SUPPORT. The coefficient automorphism (R91): multiplication by an odd g permutes the exponents modulo 2N, and modulo N. -/

namespace Sys2Proof.Machine

@[simp] theorem autoCoeff_length (q logN g : Nat) (a : List Nat) : (autoCoeff q logN g a).length = 2 ^ logN := by simp [autoCoeff]

theorem nth_autoCoeff (q g : Nat) (a : List Nat) {logN t : Nat} (ht : t < 2 ^ logN) :
    nth (autoCoeff q logN g a) t 0 =
      let j := t * invMod g (2 * 2 ^ logN) % (2 * 2 ^ logN)
      if j < 2 ^ logN then nth a j 0 % q else negMod q (nth a (j - 2 ^ logN) 0) := by
  simp [autoCoeff, nth, ht]

section Odd

variable {logN g : Nat} (hg : g % 2 = 1)
include hg

theorem coprime_two_pow_of_odd (k : Nat) : Nat.Coprime g (2 ^ k) := (Nat.coprime_two_right.2 (Nat.odd_iff.2 hg)).pow_right k

theorem mul_invMod_two_pow : g * invMod g (2 * 2 ^ logN) ≡ 1 [MOD 2 * 2 ^ logN] := by
  have hco := coprime_two_pow_of_odd hg (logN + 1)
  rw [Nat.pow_succ'] at hco
  exact mul_invMod (by positivity) hco

/-- The inverse leads from the exponent that a coefficient moves to back to the coefficient. -/
theorem exponent_back (j : Nat) : j * g % (2 * 2 ^ logN) * invMod g (2 * 2 ^ logN) ≡ j [MOD 2 * 2 ^ logN] :=
  calc j * g % (2 * 2 ^ logN) * invMod g (2 * 2 ^ logN)
      ≡ j * g * invMod g (2 * 2 ^ logN) [MOD 2 * 2 ^ logN] := (Nat.mod_modEq _ _).mul_right _
    _ = j * (g * invMod g (2 * 2 ^ logN)) := Nat.mul_assoc ..
    _ ≡ j * 1 [MOD 2 * 2 ^ logN] := (mul_invMod_two_pow hg).mul_left j
    _ = j := Nat.mul_one j

/-- The inverse is odd as well, so it moves exponent N to itself. -/
theorem half_turn_back : 2 ^ logN * invMod g (2 * 2 ^ logN) ≡ 2 ^ logN [MOD 2 * 2 ^ logN] := by
  have hone : g * invMod g (2 * 2 ^ logN) ≡ 1 [MOD 2] := (mul_invMod_two_pow hg).of_mul_right _
  have hodd : invMod g (2 * 2 ^ logN) ≡ 1 [MOD 2] := by
    have := (Nat.ModEq.mul_right (invMod g (2 * 2 ^ logN)) (show g ≡ 1 [MOD 2] from hg)).symm.trans hone
    rwa [Nat.one_mul] at this
  have := hodd.mul_left' (2 ^ logN)
  rwa [Nat.mul_one, Nat.mul_comm (2 ^ logN) 2] at this

/-- A coefficient whose exponent stays below N goes there as it is. -/
theorem autoCoeff_below (q : Nat) (a : List Nat) {j : Nat} (hj : j < 2 ^ logN) (ht : j * g % (2 * 2 ^ logN) < 2 ^ logN) :
    nth (autoCoeff q logN g a) (j * g % (2 * 2 ^ logN)) 0 = nth a j 0 % q := by
  have hback : j * g % (2 * 2 ^ logN) * invMod g (2 * 2 ^ logN) % (2 * 2 ^ logN) = j :=
    Nat.mod_eq_of_modEq (exponent_back hg j) (by omega)
  rw [nth_autoCoeff q g a ht, hback]
  exact if_pos hj

/-- A coefficient whose exponent reaches N goes N below, negated. -/
theorem autoCoeff_above (q : Nat) (a : List Nat) {j : Nat} (hj : j < 2 ^ logN) (ht : 2 ^ logN ≤ j * g % (2 * 2 ^ logN)) :
    nth (autoCoeff q logN g a) (j * g % (2 * 2 ^ logN) - 2 ^ logN) 0 = negMod q (nth a j 0) := by
  have hlt : j * g % (2 * 2 ^ logN) < 2 * 2 ^ logN := Nat.mod_lt _ (by positivity)
  have hback : (j * g % (2 * 2 ^ logN) - 2 ^ logN) * invMod g (2 * 2 ^ logN) % (2 * 2 ^ logN) = j + 2 ^ logN := by
    have hsum : (j * g % (2 * 2 ^ logN) - 2 ^ logN) * invMod g (2 * 2 ^ logN) + 2 ^ logN * invMod g (2 * 2 ^ logN)
        ≡ j + 2 ^ logN + 2 ^ logN [MOD 2 * 2 ^ logN] := by
      rw [← Nat.add_mul, Nat.sub_add_cancel ht, Nat.add_assoc, ← Nat.two_mul]
      exact (exponent_back hg j).trans (by simp [Nat.ModEq])
    have hcancel := Nat.ModEq.add_right_cancel (half_turn_back hg) hsum
    exact Nat.mod_eq_of_modEq hcancel (by omega)
  rw [nth_autoCoeff q g a (by omega), hback]
  simp

/-- Every position below N is that of exactly one coefficient, as g is coprime to N. -/
theorem exists_unique_source {p : Nat} (hp : p < 2 ^ logN) :
    ∃ j, j < 2 ^ logN ∧ j * g % (2 * 2 ^ logN) % 2 ^ logN = p
      ∧ ∀ k, k < 2 ^ logN → k * g % (2 * 2 ^ logN) % 2 ^ logN = p → k = j := by
  have hpos : 0 < 2 ^ logN := by positivity
  have hco := coprime_two_pow_of_odd hg logN
  have hposition : p * invMod g (2 ^ logN) % 2 ^ logN * g ≡ p [MOD 2 ^ logN] :=
    calc p * invMod g (2 ^ logN) % 2 ^ logN * g
        ≡ p * invMod g (2 ^ logN) * g [MOD 2 ^ logN] := (Nat.mod_modEq _ _).mul_right _
      _ = p * (g * invMod g (2 ^ logN)) := by ring
      _ ≡ p * 1 [MOD 2 ^ logN] := (mul_invMod hpos hco).mul_left p
      _ = p := Nat.mul_one p
  simp only [Nat.mod_mul_left_mod]
  refine ⟨p * invMod g (2 ^ logN) % 2 ^ logN, Nat.mod_lt _ hpos, Nat.mod_eq_of_modEq hposition hp, fun k hk hkp => ?_⟩
  have hsame : k * g ≡ p * invMod g (2 ^ logN) % 2 ^ logN * g [MOD 2 ^ logN] :=
    (show k * g ≡ p [MOD 2 ^ logN] by rw [Nat.ModEq, hkp, Nat.mod_eq_of_lt hp]).trans hposition.symm
  exact (hsame.cancel_right_of_coprime hco.symm).eq_of_lt_of_lt hk (Nat.mod_lt _ hpos)

end Odd

/-- Settles O55: the exponent of a coefficient leads back to it modulo 2N, and g is invertible modulo N. -/
theorem coefficientAutomorphismMovesEachCoefficientOnce : Obligations.CoefficientAutomorphismMovesEachCoefficientOnce := by
  unfold Obligations.CoefficientAutomorphismMovesEachCoefficientOnce
  intro q logN g a hq _ _ hg _ _ n
  refine ⟨autoCoeff_length .., fun j hj => ⟨autoCoeff_below hg q a hj, fun ht => ?_⟩, fun p hp => exists_unique_source hg hp⟩
  rw [autoCoeff_above hg q a hj ht, negMod]

end Sys2Proof.Machine

/-! SUPPORT. The key switch: with every operand resolved and every check met, what ks.prep, ks.ip and ks.fin come to (R98 to R101,
R104 to R107, R113, R120). -/

namespace Sys2Proof.Machine

section KeySwitch

variable {s : State} {rd ra rb rc : HRef} {gs : GSrc} {g : Nat} {x : Dispatch} {c : Ctx} {n : Nat} {od : Opnd} {o : Obj} {f : Funded}
  {u : Use}

/-- The digit limbs of a component in evaluation form (R98, R99). -/
def prepBody (p : Bytes) (level : Nat) (ev : List (List Nat)) : Bytes :=
  bodyOf (digitsAt p level) (level + pK p)
    (prepLimb p level ev ((List.range level).map (fun i => nttInv (pPrime p i) (pLogN p) (nth ev i []))))

/-- R98, R99: every digit limb of component j of an RLWE ciphertext in evaluation form is written. -/
theorem ksPrepForm_ok {j level : Nat} {da : List Span} (hlevel : o.h.level = level)
    (hu : { Use.none with rd := o.body ++ o.hdrAt, wr := da ++ ownBuffers x, rs := hrefRegs rd ++ hrefRegs ra } = u)
    (hd : resolve x c (s.core x.lead) rd true false = .ok od) (ho : objSrc s x c (s.core x.lead) ra = .ok o)
    (hkind : o.h.kind = kindRlwe) (hrepr : o.h.repr = 1) (hp : o.h.pPresent = 0) (h1 : 1 ≤ j) (hj : j < o.h.comps)
    (helem : dElem od.raw = 0) (hspace : dSpace od.raw ≠ 4) (hcount : dCount od.raw = digitWords c.param level)
    (hspent : o.h.spent = false)
    (hf : fund x c (valOf s c.param o) (valOf s c.param o) (fun a _ => if a.h.level == level && j < a.h.comps
      then some (resultBudget .keep c.param (x.set 0x0102) a.h a.h level) else none) = .ok f)
    (hda : tensorSpans s x c .write od.raw (digitWords c.param level) = .ok da) (hw : inWindow s da = false)
    (hfree : free x u = .ok ()) (he : x.engineFree 0 = true) :
    ksPrepForm s rd ra j x c n = .ok
      ((fillBuffers ((touchReads (s.keepCopies c f) (o.body ++ o.hdrAt)).writeSpans da
          (prepBody c.param level (nth f.a.limbs j [])) o.poisoned) (x.countVault c f)).flown (x.countVault c f) n
        ((s.keepCopies c f).flight (x.countVault c f) 0 u [da] [] (4 * 2 ^ pLogN c.param)
          (digitsAt c.param level * (level + pK c.param))) o.poisoned) := by
  have hsrc : (o.h.kind == kindRlwe && o.h.repr == 1 && o.h.pPresent == 0 && decide (1 ≤ j) && decide (j < o.h.comps)) = true := by
    simp [hkind, hrepr, hp, h1, hj]
  have hdst : (dElem od.raw == 0 && dSpace od.raw != 4 && dCount od.raw == digitWords c.param level) = true := by
    simp [helem, hspace, hcount]
  subst hlevel hu
  simp only [ksPrepForm, hd, ho, hsrc, hdst, hspent, hf, lift_ok hda, hw, hfree, he, run_eq, need_ok, Bool.not_false, Bool.not_true]
  rfl

/-- R101: the accumulator divided by P, or by P and the last prime, plus the base terms. -/
theorem ksFinForm_ok {rescale : Bool} {level : Nat} {oa ob : Obj} {dd : ObjDst} {h : Hdr}
    (hlevel : (if rescale then ob.h.level - 1 else ob.h.level) = level)
    (hh : { f.a.h with comps := 2, level := level, budget := clampBudget f.budget, flags := hdrFlags false false f.spent,
                       scale := if ob.h.scheme == 0 then field32 s.freeCtr
                         (resultScale (if rescale then .finRescale else .fin) c.param f.a.h f.a.h) else 0 } = h)
    (hu : { Use.none with wr := ownBuffers x, rs := hrefRegs rd ++ hrefRegs ra ++ hrefRegs rb ++ gsrcRegs gs } = u)
    (hd : resolve x c (s.core x.lead) rd true true = .ok od) (ha : objSrc s x c (s.core x.lead) ra = .ok oa)
    (hb : objSrc s x c (s.core x.lead) rb = .ok ob) (hgs : galois x (s.core x.lead) gs = .ok g)
    (hok : finOk c.param oa.h ob.h g rescale = true) (hunder : rescale = true → ob.h.level ≠ 1) (hsa : oa.h.spent = false)
    (hsb : ob.h.spent = false)
    (hf : fund x c (valOf s c.param ob) (valOf s c.param ob) (fun b _ => if finOk c.param oa.h b.h g rescale
      then some (resultBudget (if rescale then .finRescale else .fin) c.param (x.set 0x0102) b.h b.h level) else none) = .ok f)
    (hdd : objDst { s with freeCtr := s.freeCtr + 1 } x c od h = .ok dd)
    (hfree : free x { u with rd := oa.body ++ oa.hdrAt ++ ob.body ++ ob.hdrAt, wr := dd.body ++ dd.hdrAt ++ ownBuffers x } = .ok ())
    (he : x.engineFree 0 = true) (hw : inWindow s (dd.body ++ dd.hdrAt) = false) :
    ksFinForm s rd ra rb gs rescale x c n = .ok (finishObj
      (fillBuffers (({ s with freeCtr := s.freeCtr + 1 } : State).keepCopies c f) (x.countVault c f)) (x.countVault c f) c n 0
      [oa, ob] u false dd h (bodyOf 2 level (finLimb c.param (valOf s c.param oa) f.a g rescale))) := by
  have hlast : (rescale && ob.h.level == 1) = false := by simpa using hunder
  have hw' : inWindow { s with freeCtr := s.freeCtr + 1 } (dd.body ++ dd.hdrAt) = false := hw
  subst hlevel hh hu
  simp only [ksFinForm, hd, ha, hb, hgs, hok, hlast, hsa, hsb, hf, State.draw, hdd, hfree, he, hw', run_eq, need_ok, Bool.not_false,
    Bool.not_true, Bool.and_self]
  rfl

/-- The spans of HBM that ks.ip reads of a key that has no complete copy on its die: its header and the limbs used (R100, R113). -/
def ipKeySpans (p : Bytes) (level : Nat) (k : KeyObj) (copy : Option KeyCopy) : List Span :=
  if copy.isSome then [] else keySpans k 0 64 ++ ((List.range (digitsAt p level)).map (fun kk =>
    ((List.range (level + pK p)).map (fun t => keySpans k (keyLimbOff p kk (limbIndex p level t)) (2 ^ pLogN p * 4))).flatten)).flatten

/-- The two inner products of a digit tensor with a key (R100, R107). -/
def ipBody (s : State) (p : Bytes) (level g : Nat) (k : KeyObj) (copy : Option KeyCopy) (ta : List Span) : Bytes :=
  let nb := 2 ^ pLogN p * 4
  let hdr := spansPeek s.mem (keySpans k 0 64)
  bodyOf 2 (level + pK p) (ipLimb p level g (slice hdr 32 32) (field hdr 5 1)
    (fun kk t => wordsOf 4 (spansPeek s.mem (spansSlice ta ((kk * (level + pK p) + t) * nb) nb)) (2 ^ pLogN p))
    (fun kk i => wordsOf 4 (keyBytes s k copy (keyLimbOff p kk i) nb) (2 ^ pLogN p)))

/-- The reads of ks.ip, counted on its die for the placement and for the residency of the key (R111, R306). -/
def ipRead (s : State) (die ctx set : Nat) (k : KeyObj) (ta kb : List Span) : State :=
  touchKey ((touchReads s (ta ++ kb)).modMeter die (fun m => { m with keyCur := m.keyCur + spansLen kb })) die ctx (keyName set k)
    (1024 + k.bodyLen)

/-- R100, R105 to R107, R113: with a digit tensor and a loaded key that passes the checks of R106, ks.ip writes its two inner products
under a P_PRESENT header. -/
theorem ksIpForm_ok {level : Nat} {dig key : Opnd} {v : Val} {dd : ObjDst} {set : KeySet} {k : KeyObj} {ta kb : List Span}
    {copy : Option KeyCopy} {h : Hdr} (hlevel : o.h.level = level)
    (hcopy : keyReader s c set.id k (ipDie x c) = copy) (hkb : ipKeySpans c.param level k copy = kb)
    (hh : { o.h with comps := 2, pPresent := 1, repr := 1, budget := clampBudget f.budget, flags := hdrFlags false false f.spent } = h)
    (hu : { Use.none with rd := ta ++ o.hdrAt ++ kb, wr := ownBuffers x, copy := copy.map (fun e => e.order),
                          rs := hrefRegs rd ++ hrefRegs ra ++ hrefRegs rb ++ hrefRegs rc ++ gsrcRegs gs } = u)
    (hd : resolve x c (s.core x.lead) rd true true = .ok od) (hdig : resolve x c (s.core x.lead) ra false false = .ok dig)
    (hkey : resolve x c (s.core x.lead) rb false false = .ok key) (ho : hdrSrc s x c (s.core x.lead) rc = .ok o)
    (hgs : galois x (s.core x.lead) gs = .ok g) (hg : ksGalois c.param g = true) (hkind : o.h.kind = kindRlwe) (hrepr : o.h.repr = 1)
    (hp : o.h.pPresent = 0) (helem : dElem dig.raw = 0) (hspace : dSpace dig.raw ≠ 4)
    (hcount : dCount dig.raw = digitWords c.param level) (hfound : keyFind c key.raw = some (set, k))
    (hcheck : keyCheck (spansPeek s.mem (keySpans k 0 64)) true o.h g = none) (hspent : o.h.spent = false)
    (hv : ipSource s x c rc o = .ok v)
    (hf : fund x c v v (fun a _ => if a.h.level == level
      then some (resultBudget .keep c.param (x.set 0x0102) a.h a.h level) else none) = .ok f)
    (hdd : objDst s x c od h = .ok dd) (hta : tensorSpans s x c .read dig.raw (digitWords c.param level) = .ok ta)
    (hfree : free x { u with wr := dd.body ++ dd.hdrAt ++ ownBuffers x } = .ok ()) (he : x.engineFree 2 = true)
    (hw : inWindow s (dd.body ++ dd.hdrAt) = false) :
    ksIpForm s rd ra rb rc gs x c n = .ok (finishObj
      (fillBuffers ((ipRead s (ipDie x c) c.num set.id k ta kb).keepCopies c f) (x.countVault c f)) (x.countVault c f) c n 2 [o] u
      (spansMarked s.mem (ta ++ kb) || copy.any (fun e => e.marked)) dd h (ipBody s c.param level g k copy ta)) := by
  have hsrc : (ksGalois c.param g && o.h.kind == kindRlwe && o.h.repr == 1 && o.h.pPresent == 0) = true := by
    simp [hg, hkind, hrepr, hp]
  have htensor : (dElem dig.raw == 0 && dSpace dig.raw != 4 && dCount dig.raw == digitWords c.param level) = true := by
    simp [helem, hspace, hcount]
  subst hlevel hcopy hkb hh hu
  simp only [ipKeySpans] at hfree
  simp only [ksIpForm, hd, hdig, hkey, ho, hgs, hsrc, htensor, hfound, Option.isSome_some, hcheck, hspent, hv, hf, hdd, lift_ok hta,
    hfree, he, hw, run_eq, pure_ok, need_ok, Bool.not_false, Bool.not_true]
  rfl

end KeySwitch

/-- Settles O16: each step meets each of its checks by a hypothesis of its clause. What OB1 to OB3 hold afterwards is free (log entry
14). -/
theorem keySwitchStepsComplete : Obligations.KeySwitchStepsComplete := by
  unfold Obligations.KeySwitchStepsComplete
  refine ⟨?_, ?_, ?_⟩
  · intro s d rd ra j x c n od o f da p level u ev coeff out s' y hst hd ho hkind hrepr hp h1 hj helem hspace hcount hspent hf hda hw he
    exact issues_of_form hst rfl (ksPrepForm_ok rfl rfl hd ho hkind hrepr hp h1 hj helem hspace hcount hspent hf hda hw
      (stands_free hst) he)
  · intro s d rd ra rb rc gs g x c n od dig key o v f dd set k ta p level nb slots die copy kh hdr h kb u digit half read touched y
      hst hd hdig hkey ho hgs hg hkind hrepr hp helem hspace hcount hfound hcheck hspent hv hf hdd hta he hw
    exact issues_of_form hst rfl (ksIpForm_ok rfl rfl rfl rfl rfl hd hdig hkey ho hgs hg hkind hrepr hp helem hspace hcount hfound
      hcheck hspent hv hf hdd hta (stands_free hst) he hw)
  · intro s d rd ra rb gs rescale g x c n od oa ob f dd p s' op level h y u hst hd ha hb hgs hok hunder hsa hsb hf hdd he hw
    exact issues_of_form hst rfl (ksFinForm_ok rfl rfl rfl hd ha hb hgs hok hunder hsa hsb hf hdd (stands_free hst) he hw)

end Sys2Proof.Machine

/-! SUPPORT. The Vault and gate routines (R125, R126): the registers a call leaves, and that deciding on a call leaves them alone. -/

namespace Sys2Proof.Machine

/-! The registers after a routine (R126). -/

/-- Between the registers before a routine and after it: S0 is 0, S16 to S31 and the loop registers are kept, and no vector register
and no tile is in use or poisoned. -/
def VaultKept (r r' : CoreRegs) : Prop :=
  r'.sget 0 = 0 ∧ (∀ k, 16 ≤ k → r'.sget k = r.sget k) ∧ (∀ k, r'.lget k = r.lget k)
    ∧ r'.useV = [] ∧ r'.useA = [] ∧ r'.poisV = [] ∧ r'.poisA = []

/-- Scalars S1 to S(n) written with clean values: the others and the loop registers as they were. -/
def fillScalars (v : Nat → DWord) (n : Nat) (r : CoreRegs) : CoreRegs :=
  (List.range n).foldl (fun r k => r.sput (k + 1) (v k) false) r

theorem fillScalars_succ (v : Nat → DWord) (n : Nat) (r : CoreRegs) :
    fillScalars v (n + 1) r = (fillScalars v n r).sput (n + 1) (v n) false := by
  simp [fillScalars, List.range_succ]

theorem sget_fillScalars_other (v : Nat → DWord) {j n : Nat} (h : j = 0 ∨ n < j) (r : CoreRegs) :
    (fillScalars v n r).sget j = r.sget j := by
  induction n with
  | zero => rfl
  | succ n ih => rw [fillScalars_succ, CoreRegs.sget_sput_other _ (by omega), ih (by omega)]

theorem fillScalars_l (v : Nat → DWord) (n : Nat) (r : CoreRegs) : (fillScalars v n r).l = r.l := by
  induction n with
  | zero => rfl
  | succ n ih => rw [fillScalars_succ]; exact ih

/-- A routine writes S0 and S1 to S15, and no other scalar and no loop register (R126). -/
theorem vaultRegs_scalars (fr : Nat) (r : CoreRegs) : ∃ v, (vaultRegs fr r).s = (fillScalars v 15 (r.sput 0 0 false)).s
    ∧ (vaultRegs fr r).l = (fillScalars v 15 (r.sput 0 0 false)).l := by
  simp only [vaultRegs]
  exact ⟨fun k => BitVec.ofNat 64 (field (slice (Config.freeBytes fr 120) 0 120) (8 * k) 8), rfl, rfl⟩

theorem vaultKept_vaultRegs (fr : Nat) (r : CoreRegs) : VaultKept r (vaultRegs fr r) := by
  obtain ⟨v, hs, hl⟩ := vaultRegs_scalars fr r
  have hsget : ∀ k, (vaultRegs fr r).sget k = (fillScalars v 15 (r.sput 0 0 false)).sget k := fun k => by
    rw [CoreRegs.sget, hs, CoreRegs.sget]
  refine ⟨?_, fun k hk => ?_, fun k => ?_, rfl, rfl, rfl, rfl⟩
  · rw [hsget, sget_fillScalars_other _ (.inl rfl), CoreRegs.sget_sput_self]
  · rw [hsget, sget_fillScalars_other _ (.inr (by omega)), CoreRegs.sget_sput_other _ (by omega)]
  · rw [CoreRegs.lget, hl, fillScalars_l, CoreRegs.lget]
    rfl

/-- ARITH_STATUS is not among what a routine gives. -/
theorem VaultKept.raise {r r' : CoreRegs} (h : VaultKept r r') (flags : Nat) : VaultKept r (r'.raise flags) := h

/-- An instruction that goes in flight raises at most flags of ARITH_STATUS (R73). -/
theorem flown_core_keeps {p : CoreRegs → Prop} (hp : ∀ r flags, p r → p (r.raise flags)) {s : State} {k : Nat} (h : p (s.core k))
    (x : Dispatch) (n : Nat) (f : InFlight) (pois : Bool) : p ((s.flown x n f pois).core k) := by
  unfold State.flown
  dsimp only
  rw [State.core_setDisp]
  split
  · rw [State.core_setCore]
    split
    next hk => subst hk; exact hp _ _ h
    next => exact h
  · exact h

/-- An object form raises at most flags of ARITH_STATUS: it keeps what holds of registers whatever the flags. -/
theorem finishObj_core_keeps {p : CoreRegs → Prop} (hp : ∀ r flags, p r → p (r.raise flags)) {s : State} {k : Nat} (h : p (s.core k))
    (x : Dispatch) (c : Ctx) (n engine : Nat) (srcs : List Obj) (u : Use) (pois : Bool) (d : ObjDst) (hdr : Hdr) (body : Bytes) :
    p ((finishObj s x c n engine srcs u pois d hdr body).core k) := by
  unfold finishObj
  refine flown_core_keeps hp ?_ ..
  exact h

theorem touchReads_core (s : State) (xs : List Span) (k : Nat) : (touchReads s xs).core k = s.core k := rfl
theorem fillBuffers_core (s : State) (x : Dispatch) (k : Nat) : (fillBuffers s x).core k = s.core k := rfl

/-- What a call leaves in its lead core: the registers as R126 leaves them, and flags of ARITH_STATUS. -/
theorem vaultDone_core {v : VCall} {s : State} (hv : v.state.cores = s.cores) (x : Dispatch) (c : Ctx) (n : Nat) :
    VaultKept (s.core x.lead) ((vaultDone v x c n).core x.lead) := by
  have hcore : ({ v.state with freeCtr := v.state.freeCtr + 1 } : State).core x.lead = s.core x.lead := by
    simp only [State.core, hv]
  simp only [vaultDone, State.draw]
  refine foldl_keeps (fun a : State × Nat => VaultKept (s.core x.lead) (a.1.core x.lead)) _ (fun a o ha => ?_) v.outs _ ?_
  · exact finishObj_core_keeps (fun _ flags h => h.raise flags) ha ..
  · rw [State.core_setDisp, touchReads_core, fillBuffers_core, State.core_setCore_self, hcore]
    exact vaultKept_vaultRegs ..

/-! What deciding on a call leaves (log entry 1): it draws fresh numbers, and the registers stay. -/

/-- A call that is decided on has left the registers of every core. -/
def CallKeepsCores (s : State) (e : Except Halt VCall) : Prop := ∀ v, e = .ok v → v.state.cores = s.cores

theorem CallKeepsCores.bind {α : Type} {s : State} {e : Except Halt α} {f : α → Except Halt VCall}
    (h : ∀ a, CallKeepsCores s (f a)) : CallKeepsCores s (e >>= f) := fun v hv =>
  have ⟨a, _, ha⟩ := exists_of_bind_ok hv
  h a v ha

theorem CallKeepsCores.pure {s : State} {v : VCall} (h : v.state.cores = s.cores) : CallKeepsCores s (pure v) := by
  rintro _ ⟨⟩
  exact h

/-- A check that fails a call, in front of the rest of it. -/
theorem CallKeepsCores.guard {s : State} {b : Prop} [Decidable b] {code : FaultCode} {f : Unit → Except Halt VCall}
    (h : CallKeepsCores s (f ())) : CallKeepsCores s (if b then fail code >>= f else f ()) := by
  split
  · exact .bind fun _ => h
  · exact h

section Calls

variable (s : State) (x : Dispatch) (c : Ctx)

theorem vaultPbs_keepsCores : CallKeepsCores s (vaultPbs s x c) := by
  unfold vaultPbs
  repeat refine .bind fun _ => ?_
  exact .pure rfl

theorem vaultExtract_keepsCores : CallKeepsCores s (vaultExtract s x c) := by
  unfold vaultExtract
  repeat refine .bind fun _ => ?_
  exact .pure rfl

theorem vaultRepack_keepsCores : CallKeepsCores s (vaultRepack s x c) := by
  unfold vaultRepack
  repeat refine .bind fun _ => ?_
  exact .pure rfl

theorem vaultBootExact_keepsCores : CallKeepsCores s (vaultBootExact s x c) := by
  unfold vaultBootExact
  repeat refine .bind fun _ => ?_
  exact .pure rfl

theorem vaultCkks_keepsCores (routine : Nat) : CallKeepsCores s (vaultCkks routine s x c) := by
  unfold vaultCkks
  refine .bind fun _ => .guard ?_
  repeat refine .bind fun _ => ?_
  exact .pure rfl

/-! The calls as instructions. -/

theorem vaultEnd_ok {call : State → Dispatch → Ctx → Except Halt VCall} {n : Nat} {v : VCall} (hv : call s x c = .ok v)
    (hfree : free x (v.use x) = .ok ()) (hw : inWindow s v.writes = false) :
    vaultEnd call s x c n = .ok (vaultDone v x c n) := by
  simp only [vaultEnd, hv, hfree, hw, run_eq, need_ok, Bool.not_false]
  rfl

/-- The nine routines: each issues its call, and deciding on the call leaves the registers. -/
theorem vaultRoutine_call (d : DRef) {p : Instr × (State → Dispatch → Ctx → Except Halt VCall)}
    (hp : p ∈ [(.vltModraise d, vaultCkks 1), (.vltCts d, vaultCkks 2), (.vltEvalmod d, vaultCkks 3), (.vltStc d, vaultCkks 4),
         (.vltBoot d, vaultCkks 5), (.vltExtract d, vaultExtract), (.vltPbs d, vaultPbs), (.vltRepack d, vaultRepack),
         (.vltBootExact d, vaultBootExact)]) :
    exec p.1 s = issue s d p.1 1 (vaultEnd p.2 s) ∧ CallKeepsCores s (p.2 s x c) := by
  simp only [List.mem_cons, List.not_mem_nil, or_false] at hp
  rcases hp with rfl | rfl | rfl | rfl | rfl | rfl | rfl | rfl | rfl
  exacts [⟨rfl, vaultCkks_keepsCores s x c 1⟩, ⟨rfl, vaultCkks_keepsCores s x c 2⟩, ⟨rfl, vaultCkks_keepsCores s x c 3⟩,
    ⟨rfl, vaultCkks_keepsCores s x c 4⟩, ⟨rfl, vaultCkks_keepsCores s x c 5⟩, ⟨rfl, vaultExtract_keepsCores s x c⟩,
    ⟨rfl, vaultPbs_keepsCores s x c⟩, ⟨rfl, vaultRepack_keepsCores s x c⟩, ⟨rfl, vaultBootExact_keepsCores s x c⟩]

end Calls

/-- Settles O19: every routine ends in `vaultDone`, which leaves the registers that `VaultKept` says. The words of S1 to S15, of the
storage and of the outputs are free (log entry 1). -/
theorem vaultRoutinesCompleteAndKeepHighScalars : Obligations.VaultRoutinesCompleteAndKeepHighScalars := by
  unfold Obligations.VaultRoutinesCompleteAndKeepHighScalars
  intro d p hp s x c n v hst hv hw
  obtain ⟨hexec, hkeeps⟩ := vaultRoutine_call s x c d hp
  exact ⟨issues_of_form hst hexec (vaultEnd_ok s x c hv (stands_free hst) hw), vaultDone_core (hkeeps v hv) x c n⟩

end Sys2Proof.Machine

/-! SUPPORT. Mailbox commands on key sets and programs, key copies and their scores: what each comes to with its checks met (R110 to
R113, R215, R247, R327, R328, R332). -/

namespace Sys2Proof.Machine

/-! What a command that is carried out finds unchanged (R324). -/

theorem wakeRest_disps (s : State) : (wakeRest s).disps = s.disps := by unfold wakeRest; split <;> rfl
theorem wakeRest_keyCopies (s : State) : (wakeRest s).keyCopies = s.keyCopies := by unfold wakeRest; split <;> rfl

@[simp] theorem taken_disps (s : State) (op m : Nat) (r : MbReq) : (taken s op m r).disps = s.disps := by
  unfold taken
  split
  · rfl
  · exact wakeRest_disps _

@[simp] theorem taken_keyCopies (s : State) (op m : Nat) (r : MbReq) : (taken s op m r).keyCopies = s.keyCopies := by
  unfold taken
  split
  · rfl
  · exact wakeRest_keyCopies _

/-- A command that is carried out and cannot answer yet leaves its mailbox busy, waiting (R324). -/
theorem mbCommand_waits {s u : State} {op m : Nat} {r : MbReq} {h : State → Reply} {w : MbWait} (hc : Carried s op m r)
    (hr : h (taken s op m r) = ⟨u, .error w⟩) : mbCommand op m r h s = .next (u.setMb m { u.mb m with wait := some w }) := by
  obtain ⟨hm, hl, hu, hb, hf, hg⟩ := hc
  have hgo : ¬ (!(decide (m < 64) && s.linkUp && marshalUp s)) = true := by simp [hm, hl, hu]
  have hbell : ¬ bellWaits s = true := by simp [hb]
  have hbusy : ¬ (s.mb m).busy = true := by simp [hf]
  have hnone : ∀ b, generalRefusal (s.setMb m b) op m r = none := fun _ => hg
  simp only [taken] at hr
  simp only [mbCommand, if_neg hgo, if_neg hbell, if_neg hbusy, hnone, hr]

section Keys

variable {s : State} {r : MbReq} {c : Ctx}

/-! Key sets (R110, R327, R328, R332). -/

/-- The measurement of a key set (R328). -/
def keysetMeas (id : Nat) (ks : List Loaded) : Bytes := sha384 (leBytes 4 id ++ (ks.map (fun k => k.2)).flatten)

/-- R327, R328, R332: a key set whose keys all check joins the context with its measurement. -/
theorem keysetLoad_ok {u : State} {ks : List Loaded} {id n total : Nat} (hid : field r.payload 0 4 = id) (hn : field r.payload 4 4 = n)
    (htotal : (ks.map (fun k => k.1.bodyLen)).sum = total) (hc : s.ctx? r.ctx = some c) (h1 : 1 ≤ n) (h500 : n ≤ 500)
    (hz : allZero r.payload 8 8 = true) (hnew : c.keysets.any (fun k => k.id == id) = false)
    (hload : loadKeys s c id [] 0 ((List.range n).map (fun i => field r.payload (16 + 8 * i) 8)) = (u, .ok ks))
    (hquota : keyMib c (total + 1024 * n) ≤ c.quotaKeyMib) (hmeas : c.measCount < 512) :
    keysetLoad r s = reply
      (u.setCtx { extendChain u c ⟨2, 0, id, keysetMeas id ks, zeros 48, 0⟩ with
        keysets := c.keysets ++ [⟨id, ks.map (fun k => k.1), keysetMeas id ks⟩] })
      (.ok (keysetMeas id ks ++ leBytes 8 total)) := by
  have hok : (!(decide (1 ≤ n) && decide (n ≤ 500) && allZero r.payload 8 8) || c.keysets.any (fun k => k.id == id)) = false := by
    simp [h1, h500, hz, hnew]
  have hroom : (decide (keyMib c (total + 1024 * n) > c.quotaKeyMib) || decide (c.measCount ≥ 512)) = false := by
    simp [hquota, hmeas]
  subst hid hn htotal
  simp only [keysetLoad, hc, hok, hload, hroom]
  rfl

/-- R110, R327: the key set of an idle context goes, and its resident copies with it. -/
theorem keysetUnload_ok {id : Nat} (hid : field r.payload 0 4 = id) (hc : s.ctx? r.ctx = some c)
    (hheld : c.keysets.any (fun k => k.id == id) = true) (hidle : ∀ x ∈ s.disps, x.ctx = r.ctx → x.phase = .ended) :
    keysetUnload r s = reply (settlePins ((dropCopies s (fun ctx k => ctx == r.ctx && k.keyset == id)).setCtx
      { c with keysets := c.keysets.filter (fun k => k.id != id) })) (.ok []) := by
  have hbusy : s.disps.any (fun x => x.ctx == r.ctx && x.phase != .ended) = false := by simpa using hidle
  subst hid
  simp only [keysetUnload, hc, hheld, hbusy]
  rfl

/-! Pins (R112). -/

/-- The copies after the pin of a key is lifted on dies. -/
def unpinned (ctx : Nat) (k : KeyName) (dies : List Nat) (l : List KeyCopy) : List KeyCopy :=
  l.map (fun e => if e.ctx == ctx && e.key == k && dies.contains e.die then { e with pinned := false } else e)

theorem pinned_of_mem_unpinned {ctx : Nat} {k : KeyName} {dies : List Nat} {l : List KeyCopy} {e : KeyCopy}
    (he : e ∈ unpinned ctx k dies l) (hc : e.ctx = ctx) (hk : e.key = k) (hd : dies.contains e.die = true) : e.pinned = false := by
  obtain ⟨e', _, rfl⟩ := List.mem_map.1 he
  split at hc
  next h => rw [if_pos h]
  next h =>
    rw [if_neg h] at hk hd
    exact absurd (by rw [hd]; simp [hc, hk]) h

/-- The copy of a key on a die is complete, if there is one. -/
def pinServes (s : State) (ctx : Nat) (k : KeyName) (die : Nat) : Bool :=
  match copyOn s ctx k die with
  | some e => e.complete
  | none => true

theorem pinServes_eq_true_iff {ctx : Nat} {k : KeyName} {die : Nat} :
    pinServes s ctx k die = true ↔ ∀ e, copyOn s ctx k die = some e → e.complete = true := by
  unfold pinServes
  cases copyOn s ctx k die <;> simp

section Pin

variable {o : KeyObj} (hd : field r.payload 5 1 < 4) (hz : allZero r.payload 7 1 = true) (hc : s.ctx? r.ctx = some c)
  (ho : loadedKey c (pinKey r.payload) = some o)
include hd hz hc ho

theorem keyPin_unpin (hp : field r.payload 6 1 = 0) : keyPin r s = reply
    { s with keyCopies := unpinned r.ctx (pinKey r.payload) (pinDies r.payload) s.keyCopies } (.ok []) := by
  have hok : (!(decide (field r.payload 5 1 < 4) && decide (0 < 2) && allZero r.payload 7 1)) = false := by
    simp [hd, hz]
  simp only [keyPin, hp, hok, hc, Option.bind_some, ho]
  rfl

/-- KEY_PIN with PIN 1 answers where every copy it pins is complete, and waits otherwise (R326). -/
theorem keyPin_pin {u : State} (hp : field r.payload 6 1 = 1)
    (hpin : (pinDies r.payload).foldl (fun (v : Option State) die =>
      v.bind (fun v => pinOn v r.ctx (pinKey r.payload) (1024 + o.bodyLen) die)) (some s) = some u) :
    keyPin r s = if (pinDies r.payload).all (pinServes u r.ctx (pinKey r.payload)) then reply u (.ok [])
      else ⟨u, .error .keyCopy⟩ := by
  have hok : (!(decide (field r.payload 5 1 < 4) && decide (1 < 2) && allZero r.payload 7 1)) = false := by
    simp [hd, hz]
  simp only [keyPin, hp, hok, hc, Option.bind_some, ho, hpin]
  rfl

end Pin

/-! The end of a copy (R113, R353). -/

/-- Only the transfers of the DMA engines differ. -/
theorem endDma_eq (s : State) (p : DmaBusy → Bool) : endDma s p = { s with dma := (endDma s p).dma } := by
  unfold endDma
  split
  · rfl
  · dsimp only
    split <;> rfl

theorem foldl_eq_self {α β : Type} {f : α → β → α} {l : List β} {a : α} (h : ∀ b ∈ l, f a b = a) : l.foldl f a = a := by
  induction l with
  | nil => rfl
  | cons b l ih => rw [List.foldl_cons, h b (by simp), ih fun b hb => h b (by simp [hb])]

/-- Where no KEY_PIN waits, none is answered. -/
theorem settlePins_idle (h : ∀ b ∈ s.mbs, b.2.wait ≠ some .keyCopy) : settlePins s = s :=
  foldl_eq_self fun b hb => if_pos (by simpa using h b hb)

/-- The copies of a die after one of them is finished (R110). -/
def copyReady (s : State) (die ctx : Nat) (k : KeyName) : State :=
  { s with keyCopies := s.keyCopies.map (fun e =>
    if e.die == die && e.ctx == ctx && e.key == k && e.stage == .copying
    then { e with stage := .ready, data := (copyData s ctx k).1, marked := (copyData s ctx k).2 } else e) }

theorem exec_keyCopyComplete {die ctx keyset kind galois : Nat}
    (hjob : s.dma.any (fun b => (b.die == die && b.job == .keyCopy ctx ⟨keyset, kind, galois⟩) && b.engine.isSome) = true) :
    exec (.keyCopyComplete die ctx keyset kind galois) s = .next (settlePins
      (endDma (copyReady s die ctx ⟨keyset, kind, galois⟩) (fun b => b.die == die && b.job == .keyCopy ctx ⟨keyset, kind, galois⟩))) := by
  simp only [exec, execKeyCopyComplete, hjob]
  rfl

/-! Residency windows (R111). -/

theorem meter_modMeter_self {die : Nat} (h : die < s.meters.length) (g : Meter → Meter) :
    (s.modMeter die g).meter die = g (s.meter die) := by
  simp [State.meter, State.modMeter, nth, getElem?_mapIdxFrom, h]

theorem meter_modMeter_other (s : State) {die k : Nat} (h : k ≠ die) (g : Meter → Meter) :
    (s.modMeter die g).meter k = s.meter k := by
  simp [State.meter, State.modMeter, nth, getElem?_mapIdxFrom, h]

theorem exec_resWindowExpiry {die : Nat} (hup : s.isUp = true) (hdie : die < 2)
    (hdue : (s.meter die).resSince + s.settingN 0x0300 0 + 1 ≤ s.now) :
    exec (.resWindowExpiry die) s = .next { s.modMeter die (fun m => { m with resSince := s.now }) with
      keyScores := s.keyScores.map (fun e => if e.die = die then { e with last := e.cur, cur := 0 } else e) } := by
  simp [exec, execResWindowExpiry, hup, hdie, due, hdue]

/-! Programs (R214, R215, R247, R332). -/

/-- The descriptors of an image change the descriptor table only (R214). -/
theorem putDescs_eq (c : Ctx) (l : List (Nat × Bytes)) :
    ∃ ds, l.foldl (fun c e => c.putDesc e.1 e.2) c = { c with descs := ds } :=
  foldl_keeps (fun e : Ctx => ∃ ds, e = { c with descs := ds }) _
    (fun _ e ⟨ds, h⟩ => by rw [h]; exact ⟨_, rfl⟩) l c ⟨_, rfl⟩

/-- A translation is looked up, and kept where it fits (R249). -/
theorem loadTrans_spec (s : State) (k : Bytes) : ∃ l, loadTrans s k = (s.trans.contains k, { s with trans := l }) := by
  unfold loadTrans
  split
  next h => exact ⟨_, by rw [h]⟩
  next h =>
    rw [Bool.not_eq_true] at h
    split
    · exact ⟨_, by rw [h]⟩
    · exact ⟨s.trans, by rw [h]⟩

/-- R214, R247, R332: what a loaded program leaves in its context. -/
theorem installProgram_ok (s : State) (c : Ctx) (img : Bytes) (n : Nat) : ∃ (t : State) (e : Ctx) (p : Program),
    installProgram s c img n = reply (t.setCtx e) (.ok (leBytes 2 n
        ++ leBytes 1 (flag (s.trans.contains (transKey c (sha384 img) (translatorMeas s))) 0) ++ zeros 13 ++ sha384 img
        ++ translatorMeas s))
      ∧ t = { s with trans := t.trans } ∧ e.programs = c.programs ++ [p] ∧ p.num = n ∧ p.meas = sha384 img
      ∧ p.code = imageWords img ∧ p.entry = field img 12 4 ∧ e.measCount = c.measCount + 1
      ∧ e.measChain = sha384 (c.measChain ++ leBytes 1 1 ++ sha384 img) ∧ e.keysets = c.keysets := by
  obtain ⟨ds, hds⟩ := putDescs_eq c (imageDescs img)
  obtain ⟨l, hl⟩ := loadTrans_spec s (transKey c (sha384 img) (translatorMeas s))
  have hkey : transKey { c with descs := ds } (sha384 img) (translatorMeas s) = transKey c (sha384 img) (translatorMeas s) := rfl
  simp only [installProgram, hds, hkey, hl]
  exact ⟨_, _, _, rfl, rfl, rfl, rfl, rfl, rfl, rfl, rfl, rfl, rfl⟩

/-- R215, R327: an image that is read clean and passes every check is installed under a free number. -/
theorem progLoad_ok {u : State} {n size : Nat} {xs : List Span} {img : Bytes} (hsize : field r.payload 8 4 = size)
    (hc : s.ctx? r.ctx = some c) (hlow : 256 ≤ size) (hhigh : size ≤ 67108864) (hw : c.weightsUsed = false)
    (hread : readerRead s c cmdReader (field r.payload 0 8) size = (u, .ok (xs, img, false)))
    (hsealed : ∀ x ∈ xs, u.sealedAny x.addr x.len = false) (himg : imageFault c img size = none)
    (hquota : c.programs.length < c.quotaPrograms) (hmeas : c.measCount < 512) (hn : freeProgram c = some n) :
    progLoad r s = installProgram u c img n := by
  have hsz : (!(decide (256 ≤ size) && decide (size ≤ 67108864))) = false := by simp [hlow, hhigh]
  have hseal : xs.any (fun x => u.sealedAny x.addr x.len) = false := by simpa using hsealed
  have hroom : (decide (c.programs.length ≥ c.quotaPrograms) || decide (c.measCount ≥ 512)) = false := by simp [hquota, hmeas]
  subst hsize
  simp only [progLoad, hc, hw, hsz, hread, hseal, himg, hroom, hn]
  rfl

/-- R327, R332: a program that no dispatch uses is removed. -/
theorem progUnload_ok {n : Nat} (hn : field r.payload 0 2 = n) (hc : s.ctx? r.ctx = some c)
    (hheld : c.programs.any (fun p => p.num == n) = true)
    (hidle : ∀ x ∈ s.disps, x.ctx = r.ctx → x.prog.num = n → x.phase = .ended) :
    progUnload r s = reply (s.setCtx { c with programs := c.programs.filter (fun p => p.num != n) }) (.ok []) := by
  have hbusy : s.disps.any (fun x => x.ctx == r.ctx && x.phase != .ended && x.prog.num == n) = false := by
    simp only [List.any_eq_false, Bool.and_eq_true, beq_iff_eq, bne_iff_ne]
    exact fun x hx ⟨⟨hctx, hlive⟩, hprog⟩ => hlive (hidle x hx hctx hprog)
  subst hn
  simp only [progUnload, hc, hheld, hbusy]
  rfl

end Keys

/-- Settles O32: each command is carried out on the request taken, and its lemma above says what it answers. KEY_PIN waits for its
copies (log entry 42), and a program takes a free number (log entry 41). -/
theorem keysAndProgramsLoadAndUnload : Obligations.KeysAndProgramsLoadAndUnload := by
  unfold Obligations.KeysAndProgramsLoadAndUnload
  refine ⟨?_, ?_, ?_, ?_, ?_, ?_, ?_⟩
  · intro s u m r c ks hC hc id n h1 h500 hz hnew hload total meas hquota hmeas
    exact ⟨_, mbCommand_carried hC (keysetLoad_ok rfl rfl rfl ((taken_ctx? ..).trans hc) h1 h500 hz hnew hload hquota hmeas), rfl,
      _, rfl, rfl, rfl⟩
  · intro s m r c hC hc id hheld hidle
    exact mbCommand_carried hC (keysetUnload_ok rfl ((taken_ctx? ..).trans hc) hheld (by simpa using hidle))
  · intro s m r c o hC hc p t hd hz ho
    have hctx : t.ctx? r.ctx = some c := (taken_ctx? ..).trans hc
    refine ⟨fun hp => ⟨_, mbCommand_carried hC (keyPin_unpin hd hz hctx ho hp), by simp [unpinned],
      fun e he => pinned_of_mem_unpinned he⟩, fun u hp hpin => ?_⟩
    have h := keyPin_pin hd hz hctx ho hp hpin
    have hserves : (pinDies p).all (pinServes u r.ctx (pinKey p)) = true ↔
        ∀ die ∈ pinDies p, ∀ e, copyOn u r.ctx (pinKey p) die = some e → e.complete = true := by
      simp only [List.all_eq_true, pinServes_eq_true_iff]
    refine ⟨fun hall => mbCommand_carried hC (h.trans (if_pos (hserves.2 fun die hdie e => hall die e hdie))),
      fun die e hdie he hwait => mbCommand_waits hC (h.trans (if_neg fun hall => ?_))⟩
    exact absurd (hserves.1 hall die hdie e he) (by simp [hwait])
  · intro s die ctx keyset kind galois k job u hjob
    refine ⟨_, exec_keyCopyComplete hjob, rfl, ?_, fun hidle => ?_⟩
    · rw [onlyAnswers_settlePins, endDma_eq]
      rfl
    · rw [settlePins_idle (by rw [endDma_eq]; exact hidle), endDma_eq]
      rfl
  · intro s die hup hdie hlen hdue
    exact ⟨_, exec_resWindowExpiry hup hdie hdue, rfl, rfl, meter_modMeter_self hlen _, fun k hk => meter_modMeter_other s hk _⟩
  · intro s u m n r c xs img hC hc size hlow hhigh hw hread hsealed himg hquota hmeas hn
    obtain ⟨t, e, p, hinstall, hrest⟩ := installProgram_ok u c img n
    exact ⟨t, e, p, mbCommand_carried hC ((progLoad_ok rfl ((taken_ctx? ..).trans hc) hlow hhigh hw hread hsealed himg hquota hmeas
      hn).trans hinstall), hrest⟩
  · intro s m r c hC hc n hheld hidle
    exact mbCommand_carried hC (progUnload_ok rfl ((taken_ctx? ..).trans hc) hheld (by simpa using hidle))

end Sys2Proof.Machine

/-! SUPPORT. Hand-off slots: what a fault of a dispatch that has not finished leaves, and what handoff.out, handoff.in and the end of
its wait come to with every check met (R142 to R146). -/

namespace Sys2Proof.Machine

/-! Faults of a dispatch whose program has not ended (R307). -/

theorem ready_running {s : State} {d : DRef} {i : Instr} {y : Dispatch} {c : Ctx} {n : Nat} (h : s.ready d i = some (y, c, n)) :
    y.phase = .running ∧ y.fate = none := by
  unfold State.ready at h
  split at h
  · cases h
  · split at h
    · split at h
      next hgo =>
        cases h
        simp only [Bool.and_eq_true, beq_iff_eq, Option.isNone_iff_eq_none] at hgo
        obtain ⟨⟨⟨⟨⟨-, hphase⟩, hfate⟩, -⟩, -⟩, -⟩ := hgo
        exact ⟨hphase, hfate⟩
      next => cases h
    · cases h

theorem stands_running {s : State} {d : DRef} {i : Instr} {u : Use} {x : Dispatch} {c : Ctx} {n : Nat} (h : Stands s d i u x c n) :
    x.phase = .running ∧ x.fate = none := by
  obtain ⟨⟨y, hy, rfl⟩, -⟩ := h
  obtain ⟨hphase, hfate⟩ := ready_running hy
  exact ⟨hphase, hfate⟩

/-- A fault wins the commit point of a dispatch whose program has not returned (R307). -/
theorem onlyDispatch_stop_unfinished {s : State} {d : DRef} {x y : Dispatch} (hx : s.disp? d = some x) (hid : y.id = d)
    (hp : y.phase = .running) (hf : y.fate = none) (hfin : y.fin = false) (e : FaultCode) (i : Nat) :
    OnlyDispatch s (s.stop y e i) d { y with fate := some ⟨2, e.code, 2, i⟩ } := by
  have hopen : y.finished = false := by simp [Dispatch.finished, hfin]
  have hstop : s.stop y e i = s.setDisp { y with fate := some ⟨2, e.code, 2, i⟩ } := by
    simp [State.stop, Dispatch.abort, hf, hp, hopen, causeFault]
  rw [hstop]
  exact onlyDispatch_setDisp hx hid

section Forms

variable {s : State} {x : Dispatch} {c : Ctx} {n slot : Nat}

/-- R143: header and body are copied with their marks, the slot's header is written over them, and the notify Mark is signalled. -/
theorem handoffOutForm_ok {src : HRef} {notify answer tag size seq ka : Nat} {s1 u : State} {o : Obj} {xs from_ : List Span}
    {y : Dispatch} (hsize : bodyLen c.param o.h = size) (hseq : c.handoffSeq + 1 = seq) (hka : x.markBase + answer = ka)
    (hfrom : o.body ++ o.hdrAt = from_)
    (hy : { x.adv n with slots := x.slots.filter (fun e => e.slot != slot)
              ++ [⟨slot, seq, tag, o.h.keyset, o.h.scheme, ka, (s.mark ka).value + 1⟩] } = y)
    (hu : (slotWrite (carrySpans (carrySpans (touchReads s1 from_) o.hdrAt (spansSlice xs 256 128) 1 0) o.body
              (spansSlice xs 1024 size) (size / 1024 + 1) 0) xs 0
            (slotHeader c x seq tag (x.markBase + notify) ka ((s.mark ka).value + 1) size)).setCtx { c with handoffSeq := seq } = u)
    (ho : objSrc s x c (s.core x.lead) src = .ok o) (hslot : slot < (x.set 0x0104).toNat) (hfits : 1024 + size ≤ slotSize x / 2)
    (hnotify : notify < x.markCount) (hanswer : answer < x.markCount) (hmax : (s.mark ka).value < 0xFFFFFFFF)
    (hclean : o.h.poisoned = false) (hxs : slotSpans s x c slot = .ok xs)
    (hfree : free x { Use.none with rd := from_, wr := xs, rs := hrefRegs src } = .ok ())
    (hst : field (slotRead s xs 5 1) 0 1 = 0 ∨ field (slotRead s xs 5 1) 0 1 = hsConsumed
      ∨ field (slotRead s xs 5 1) 0 1 = hsExpired ∨ field (slotRead s xs 5 1) 0 1 = hsAbandoned)
    (htag : takeTag s x = some (tag, s1)) :
    handoffOutForm s src slot notify answer x c n = .ok
      ((if spansMarked s1.mem from_ then u.meetPoison y .eccUncorrectable x.pc else u.setDisp y).signal
        ⟨x.markBase + notify, 1, x.ctx, .program x.id x.epoch⟩) := by
  subst hsize hseq hka hfrom hy hu
  have hroom : (decide (slot < (x.set 0x0104).toNat) && decide (1024 + bodyLen c.param o.h ≤ slotSize x / 2)) = true := by
    simp [hslot, hfits]
  have hidle : (field (slotRead s xs 5 1) 0 1 == 0 || field (slotRead s xs 5 1) 0 1 == hsConsumed
      || field (slotRead s xs 5 1) 0 1 == hsExpired || field (slotRead s xs 5 1) 0 1 == hsAbandoned) = true := by
    simpa [or_assoc] using hst
  simp only [handoffOutForm, ho, hroom, markOf_ok hnotify, markOf_ok hanswer, hmax, hclean, hxs, hfree, hidle, htag, run_eq, need_ok,
    decide_true]
  rfl

/-- What handoff.in comes to on a slot that holds a request of its dispatch (R145): the answer, or a stop at timeout 0, or a wait. -/
theorem handoffInForm_ok {dst : HRef} {timeout : SVal} {o : Opnd} {xs : List Span} {e : HandSlot}
    (ho : resolve x c (s.core x.lead) dst true true = .ok o) (hp : (s.core x.lead).svalPois timeout = false)
    (hslot : slot < (x.set 0x0104).toNat) (hxs : slotSpans s x c slot = .ok xs)
    (hfree : free x { Use.none with rs := hrefRegs dst ++ svalRegs timeout,
                                    wr := xs ++ looseSpans s x c .write o.raw (256 * dSize o.raw 0) } = .ok ())
    (he : x.slots.find? (fun y => y.slot == slot) = some e)
    (hst : field (slotRead s xs 0 256) 5 1 = hsOutReady ∨ field (slotRead s xs 0 256) 5 1 = hsAnswered)
    (hours : slotOurs c (slotRead s xs 0 256) e = true) :
    handoffInForm s dst slot timeout x c n =
      if e.value ≤ (s.mark e.mark).value then answerIn s x c e o.raw
      else if ((s.core x.lead).sval timeout).toNat % 2 ^ 32 = 0 then
        .ok ((slotWrite s xs 5 (leBytes 1 hsExpired)).stop x .handoffTimeout x.pc)
      else .ok (s.setDisp { x with
        wait := some (.handoff slot o.raw (s.unitTicks 1 x.lead) (((s.core x.lead).sval timeout).toNat % 2 ^ 32)) }) := by
  have hheld : ((field (slotRead s xs 0 256) 5 1 == hsOutReady || field (slotRead s xs 0 256) 5 1 == hsAnswered)
      && slotOurs c (slotRead s xs 0 256) e) = true := by
    simpa [hours] using hst
  simp only [handoffInForm, ho, cleanS_ok hp, hslot, hxs, hfree, he, hheld, run_eq, need_ok, decide_true, Bool.not_true,
    Bool.false_eq_true, if_false, beq_iff_eq, ge_iff_le, pure_ok, leadTicks]

/-- A good answer (R145): body and header are written to the destination, and the copy is in flight. -/
theorem answerIn_ok {e : HandSlot} {dst : Bytes} {ys at_ : List Span} {h : Hdr} {dd : ObjDst} {half limb : Nat} {pois : Bool}
    (hhalf : slotSize x / 2 = half) (hh : answerHdr c (hdrOf (slotRead s ys half 128)) = h)
    (hat : spansSlice ys (half + 1024) (bodyLen c.param h) = at_)
    (hpois : (h.poisoned || spansMarked s.mem at_ || spansMarked s.mem (spansSlice ys half 128)) = pois)
    (hlimb : (if h.kind == kindLwe then 4 * h.lweN else 4 * 2 ^ h.logN) = limb) (hys : slotSpans s x c e.slot = .ok ys)
    (hgood : answerFault c (slotRead s ys 0 256) (slotRead s ys half 128) e half (1024 * dSize dst 0) = none)
    (hdd : objDst s x c ⟨0, dst⟩ h = .ok dd) (hwin : inWindow s (dd.body ++ dd.hdrAt) = false) :
    answerIn s x c e dst = .ok
      ((((touchReads s at_).writeSpans dd.body (spansPeek s.mem at_) pois).writeSpans dd.hdrAt
          (hdrBytes (resultHdr x c h pois)) false).flown { x with wait := some (.answer e.slot) } 0
        (s.flight x 8 { Use.none with rd := spansSlice ys half 128 ++ at_, wr := dd.body ++ dd.hdrAt ++ spansSlice ys 5 1 }
          [dd.body] [(dd.raw, dd.hdrAt)] limb (bodyLen c.param h / limb)) pois) := by
  subst hhalf hh hat hpois hlimb
  simp only [answerIn, hys, hgood, hdd, hwin, run_eq, need_ok, Bool.not_false]
  rfl

end Forms

/-- A timeout that is due while the answer Mark is not reached (R146). -/
theorem exec_handoffTimeout_due {s : State} {d : DRef} {x : Dispatch} {c : Ctx} {slot start limit : Nat} {dst : Bytes}
    (hx : s.disp? d = some x) (hc : s.ctx? x.ctx = some c) (hw : x.wait = some (.handoff slot dst start limit))
    (hp : x.phase = .running) (hf : x.fate = none) (hdue : start + limit + 1 ≤ s.unitTicks 1 x.lead)
    (hmark : x.slots.any (fun e => e.slot == slot && decide ((s.mark e.mark).value ≥ e.value)) = false) :
    exec (.handoffTimeout d) s = .next ((setSlotState s x c slot hsExpired (fun st => st == hsOutReady || st == hsAnswered)).stop
      { x with wait := none } .handoffTimeout x.pc) := by
  have hgo : (x.phase == .running && x.fate.isNone && due (leadTicks s x) start limit) = true := by
    simp [hp, hf, due, leadTicks, hdue]
  show execHandoffTimeout d s = _
  simp only [execHandoffTimeout, hx, hw, hc, hgo, hmark, Bool.not_true, Bool.false_eq_true, if_false]

/-- Settles O22: handoff.out and handoff.in come to what their forms do with every check met, and the two timeouts stop a dispatch
that has not finished. That handoff.out takes one step and that the answer's copy is in flight once
its object is written are log entry 32's readings. -/
theorem handoffsFillWaitAndConsumeTheSlot : Obligations.HandoffsFillWaitAndConsumeTheSlot := by
  unfold Obligations.HandoffsFillWaitAndConsumeTheSlot
  refine ⟨?_, ?_, ?_⟩
  · intro s s1 d src slot notify answer tag x c n o xs size st ka seq from_ hst ho hslot hfits hnotify hanswer hmax hclean hxs
      hidle htag y
    exact ⟨_, _, issues_of_form hst rfl (handoffOutForm_ok rfl rfl rfl rfl rfl rfl ho hslot hfits hnotify hanswer hmax hclean hxs
      (stands_free hst) hidle htag), rfl, rfl⟩
  · intro s d dst slot timeout x c n o xs e hh limit hst ho hp hslot hxs he hstate hours
    obtain ⟨⟨z, hz⟩, hid⟩ := stands_disp hst
    obtain ⟨hphase, hfate⟩ := stands_running hst
    have hform := handoffInForm_ok (n := n) ho hp hslot hxs (stands_free hst) he hstate hours
    refine ⟨fun hlt h0 => ?_, fun hlt h0 hfin => ?_, fun dd ys hle hys hgood hdd hwin => ?_⟩
    · rw [if_neg (Nat.not_le.2 hlt), if_neg h0] at hform
      exact ⟨_, issues_of_form hst rfl hform, onlyDispatch_setDisp hz hid⟩
    · rw [if_neg (Nat.not_le.2 hlt), if_pos h0] at hform
      exact ⟨_, issues_of_form hst rfl hform,
        onlyDispatch_stop_unfinished (s := slotWrite s xs 5 (leBytes 1 hsExpired)) hz hid hphase hfate hfin ..⟩
    · rw [if_pos hle] at hform
      exact issues_of_form hst rfl (hform.trans (answerIn_ok rfl rfl rfl rfl rfl hys hgood hdd hwin))
  · intro s d x c slot dst start limit hx hc hw hphase hfate hfin hdue hmark
    have hdisp : (setSlotState s x c slot hsExpired (fun st => st == hsOutReady || st == hsAnswered)).disp? d = some x := by
      rw [State.disp?, (onlyMemory_setSlotState ..).disps]
      exact hx
    exact ⟨_, exec_handoffTimeout_due hx hc hw hphase hfate hdue hmark,
      onlyDispatch_stop_unfinished (y := { x with wait := none }) hdisp (disp?_id (x := x) hx) hphase hfate hfin ..⟩

end Sys2Proof.Machine

/-! SUPPORT. What every command keeps: the waiting queue, the direction in which fuses go, and memories in canonical form (R173, R182,
R185, R313; log entry 7). One lemma for each function of the model that answers a state, each from the lemmas of the functions it calls;
a function that writes a memory does so by an operation of Laws/Memory, which leaves it canonical. -/

namespace Sys2Proof.Machine

section Keeping

/-- What every command keeps between two states: the waiting queue stays, fuses move forward only, and memories in
canonical form stay so. -/
structure Keeps (s t : State) : Prop where
  queue : t.pending = s.pending
  fuses : FusesForward s.rsp.fuses t.rsp.fuses
  mems : s.mem.ok = true → t.mem.ok = true

theorem FusesForward.refl (f : Fuses) : FusesForward f f :=
  ⟨id, id, id, id, id, id, fun h => ⟨h, rfl⟩, id, le_rfl, rfl, rfl⟩

theorem FusesForward.trans {a b c : Fuses} (h : FusesForward a b) (g : FusesForward b c) : FusesForward a c := by
  obtain ⟨h1, h2, h3, h4, h5, h6, h7, h8, h9, h10, h11⟩ := h
  obtain ⟨g1, g2, g3, g4, g5, g6, g7, g8, g9, g10, g11⟩ := g
  exact ⟨g1 ∘ h1, g2 ∘ h2, g3 ∘ h3, g4 ∘ h4, g5 ∘ h5, g6 ∘ h6, fun k => ⟨(g7 (h7 k).1).1, (g7 (h7 k).1).2.trans (h7 k).2⟩,
    g8 ∘ h8, h9.trans g9, g10.trans h10, g11.trans h11⟩

/-- What a halt leaves of an instruction that has begun is kept. -/
def HaltKeeps (r : State) : Halt → Prop
  | .part t _ _ => Keeps r t
  | _ => True

/-- A part of an instruction's meaning ends with what `p` says, or halts and has kept what there was. -/
def Runs {α : Type} (r : State) (p : α → Prop) : Except Halt α → Prop
  | .ok a => p a
  | .error e => HaltKeeps r e

/-- What a command answers: a next state keeps what there was. -/
def OutKeeps (r : State) : Out → Prop
  | .next t => Keeps r t
  | _ => True

/-- A state that may be missing keeps what there was. -/
def SomeKeeps (r : State) : Option State → Prop
  | some t => Keeps r t
  | none => True

/-- A state that may be an error instead keeps what there was. -/
def OkKeeps {ε : Type} (r : State) : Except ε State → Prop
  | .ok t => Keeps r t
  | _ => True

variable {r s t : State}

theorem SomeKeeps.get {o : Option State} (h : SomeKeeps r o) (e : o = some t) : Keeps r t := by subst e; exact h

theorem OkKeeps.get {ε} {o : Except ε State} (h : OkKeeps r o) (e : o = .ok t) : Keeps r t := by subst e; exact h

theorem Runs.get {α} {p : α → Prop} {o : Except Halt α} {a} (h : Runs r p o) (e : o = .ok a) : p a := by subst e; exact h

/-- Another state with the same queue, fuses and memories is as good. -/
theorem Keeps.same (h : Keeps r s) (e : (t.pending, t.rsp.fuses, t.mem) = (s.pending, s.rsp.fuses, s.mem)) : Keeps r t := by
  simp only [Prod.mk.injEq] at e
  obtain ⟨hq, hf, hm⟩ := e
  exact ⟨hq.trans h.queue, hf ▸ h.fuses, hm ▸ h.mems⟩

/-- A state with other memories, which an operation of the memory layer left canonical. -/
theorem Keeps.mem (h : Keeps r s) (e : (t.pending, t.rsp.fuses) = (s.pending, s.rsp.fuses))
    (hm : s.mem.ok = true → t.mem.ok = true) : Keeps r t := by
  simp only [Prod.mk.injEq] at e
  obtain ⟨hq, hf⟩ := e
  exact ⟨hq.trans h.queue, hf ▸ h.fuses, hm ∘ h.mems⟩

theorem Keeps.foldl {β : Type} {f : State → β → State} {l : List β} (h : Keeps r s) (hf : ∀ t b, Keeps r t → Keeps r (f t b)) :
    Keeps r (l.foldl f s) :=
  foldl_keeps (Keeps r) f hf l s h

/-- A part of a meaning whose value is no state: where it halts, what there was is kept. -/
abbrev Halts {α : Type} (r : State) (e : Except Halt α) : Prop := Runs r (fun _ => True) e

theorem Runs.bindOf {α β : Type} {p : α → Prop} {q : β → Prop} {e : Except Halt α} {f : α → Except Halt β} (he : Runs r p e)
    (hf : ∀ a, p a → Runs r q (f a)) : Runs r q (e >>= f) := by
  cases e with
  | ok a => exact hf a he
  | error e => exact he

theorem Runs.bind {α β : Type} {q : β → Prop} {e : Except Halt α} {f : α → Except Halt β} (he : Halts r e)
    (hf : ∀ a, Runs r q (f a)) : Runs r q (e >>= f) :=
  he.bindOf fun a _ => hf a

theorem Runs.bindCall {β : Type} {q : β → Prop} {e : Except Halt VCall} {f : VCall → Except Halt β}
    (he : Runs r (fun v => Keeps r v.state) e) (hf : ∀ v, Keeps r v.state → Runs r q (f v)) : Runs r q (e >>= f) :=
  he.bindOf hf

theorem Runs.part {α : Type} {p : α → Prop} {e : Except Halt α} {t b k} (h : Runs r p e) (he : e = .error (.part t b k)) :
    Keeps r t := by subst he; exact h

theorem Runs.halt {α : Type} {p : α → Prop} {e : Except Halt α} {k} (h : Runs r p e) (he : e = .error k) :
    HaltKeeps r k := by subst he; exact h

theorem Runs.halts {α : Type} {p : α → Prop} {e : Except Halt α} (h : Runs r p e) : Halts r e := by
  cases e with
  | ok a => exact trivial
  | error k => exact h

/-- A check inside a meaning that may end it, with the rest behind it. -/
theorem Runs.guard {α : Type} {q : α → Prop} {b : Prop} [Decidable b] {e : Except Halt Unit} {f : Unit → Except Halt α}
    (he : Halts r e) (hf : ∀ u, Runs r q (f u)) : Runs r q (if b then e >>= f else f ()) := by
  split
  · exact .bind he hf
  · exact hf ()

/-- What a mailbox command answers with keeps what there was. -/
def ReplyKeeps (r : State) (a : Reply) : Prop := Keeps r a.state

/-- What a token comes to keeps what there was. -/
def TokenKeeps (r : State) (a : TokenOut) : Prop := Keeps r a.state

theorem SomeKeeps.getD {o : Option State} (h : SomeKeeps r o) (hs : Keeps r s) : Keeps r (o.getD s) := by
  cases o with
  | none => exact hs
  | some t => exact h

theorem Keeps.foldlFst {α β : Type} {f : State × α → β → State × α} {l : List β} {a : State × α} (h : Keeps r a.1)
    (hf : ∀ a b, Keeps r a.1 → Keeps r (f a b).1) : Keeps r (l.foldl f a).1 :=
  foldl_keeps (fun a : State × α => Keeps r a.1) f hf l a h

theorem Keeps.fst {α : Type} {p : State × α} {a : α} (h : Keeps r p.1) (e : p = (t, a)) : Keeps r t := by subst e; exact h

theorem Keeps.snd {α : Type} {p : α × State} {a : α} (h : Keeps r p.2) (e : p = (a, t)) : Keeps r t := by subst e; exact h

theorem SomeKeeps.map {o : Option State} {f : State → State} (h : SomeKeeps r o) (hf : ∀ t, Keeps r t → Keeps r (f t)) :
    SomeKeeps r (o.map f) := by
  cases o with
  | none => exact trivial
  | some t => exact hf t h

theorem SomeKeeps.bind {o : Option State} {f : State → Option State} (h : SomeKeeps r o)
    (hf : ∀ t, Keeps r t → SomeKeeps r (f t)) : SomeKeeps r (o.bind f) := by
  cases o with
  | none => exact trivial
  | some t => exact hf t h

theorem OutKeeps.get {o : Out} (h : OutKeeps r o) (e : o = .next t) : Keeps r t := by subst e; exact h

/-- What an optional value is, where there is one. -/
def Gives {α : Type} (p : α → Prop) : Option α → Prop
  | some a => p a
  | none => True

theorem Gives.get {α : Type} {p : α → Prop} {o : Option α} {a : α} (h : Gives p o) (e : o = some a) : p a := by subst e; exact h

theorem Gives.map {α β : Type} {p : α → Prop} {q : β → Prop} {o : Option α} {f : α → β} (h : Gives p o)
    (hf : ∀ a, p a → q (f a)) : Gives q (o.map f) := by
  cases o with
  | none => exact trivial
  | some a => exact hf a h

theorem Gives.bind {α β : Type} {p : α → Prop} {q : β → Prop} {o : Option α} {f : α → Option β} (h : Gives p o)
    (hf : ∀ a, p a → Gives q (f a)) : Gives q (o.bind f) := by
  cases o with
  | none => exact trivial
  | some a => exact hf a h

theorem fail_keeps {α : Type} {p : α → Prop} {c} : Runs r p (fail c : Except Halt α) := trivial

/-! What is kept by operations of a dispatch and its core. -/

theorem State.draw_keeps (h : Keeps r s) : Keeps r (State.draw s).2 := h.same rfl

theorem State.emit_keeps {m} (h : Keeps r s) : Keeps r (State.emit s m) :=
  h.same rfl

theorem State.setDisp_keeps {d} (h : Keeps r s) : Keeps r (State.setDisp s d) :=
  h.same rfl

theorem State.setCtx_keeps {c} (h : Keeps r s) : Keeps r (State.setCtx s c) :=
  h.same rfl

theorem State.setQueue_keeps {q} (h : Keeps r s) : Keeps r (State.setQueue s q) :=
  h.same rfl

theorem State.setCore_keeps {n c} (h : Keeps r s) : Keeps r (State.setCore s n c) :=
  h.same rfl

theorem State.setMgr_keeps {m x} (h : Keeps r s) : Keeps r (State.setMgr s m x) :=
  h.same rfl

theorem State.modField_keeps {f g} (h : Keeps r s) : Keeps r (State.modField s f g) :=
  h.same rfl

theorem wakeRest_keeps (h : Keeps r s) : Keeps r (wakeRest s) := by
  unfold wakeRest
  split
  · exact h.same rfl
  · exact h.same rfl
  · exact h

theorem State.holdAtLink_keeps {i} (h : Keeps r s) : Keeps r (State.holdAtLink s i) := by
  unfold State.holdAtLink
  split
  · exact (wakeRest_keeps h).same rfl
  · exact h

theorem State.devWr_keeps {a bs} (h : Keeps r s) : Keeps r (State.devWr s a bs) :=
  h.mem rfl fun k => devWrite_ok k _ _ _ _ _

theorem State.interrupt_keeps {v} (h : Keeps r s) : Keeps r (State.interrupt s v) := by
  unfold State.interrupt
  split
  · exact State.emit_keeps h
  · exact h.same rfl

theorem State.ringPut_keeps {e} (h : Keeps r s) : Keeps r (State.ringPut s e) := by
  unfold State.ringPut
  dsimp only
  split
  · exact h.same rfl
  · split
    · exact State.interrupt_keeps ((State.devWr_keeps h).same rfl)
    · exact (State.devWr_keeps h).same rfl

theorem State.post_keeps {source record} (h : Keeps r s) : Keeps r (State.post s source record) := by
  unfold State.post
  dsimp only
  split
  · split <;> exact h.same rfl
  · split
    · split <;> exact h.same rfl
    · exact State.ringPut_keeps (h.same rfl)

theorem State.faultRec_keeps {q} (h : Keeps r s) : Keeps r (State.faultRec s q) :=
  State.post_keeps h

theorem State.errRec_keeps {q} (h : Keeps r s) : Keeps r (State.errRec s q) :=
  State.post_keeps h

theorem State.setMark_keeps {n m} (h : Keeps r s) : Keeps r (State.setMark s n m) :=
  h.same rfl

theorem State.signal_keeps {x} (h : Keeps r s) : Keeps r (State.signal s x) :=
  h.same rfl

theorem State.stop_keeps {d c instr} (h : Keeps r s) : Keeps r (State.stop s d c instr) :=
  State.setDisp_keeps h

theorem startDma_keeps {die job} (h : Keeps r s) : Keeps r (startDma s die job) :=
  h.same rfl

theorem endDma_keeps {p} (h : Keeps r s) : Keeps r (endDma s p) := by
  unfold endDma
  split
  · exact h
  · dsimp only
    split <;> exact h.same rfl

theorem xlateAdd_ok {m : MemState} {x} (h : m.ok = true) : (xlateAdd m x).ok = true := h

/-! What is kept by operands. -/

theorem State.askPage_keeps {x req va acc ea e} (h : Keeps r s) : Keeps r (State.askPage s x req va acc ea e) := by
  unfold State.askPage
  dsimp only
  split
  · exact h
  · exact h.same rfl

theorem State.pageHalt_keeps {x req va acc ea e} (h : Keeps r s) : Keeps r (State.pageHalt s x req va acc ea e) :=
  State.askPage_keeps (State.setDisp_keeps h)

theorem State.finalPage_keeps {x requester unit c va acc level instr} (h : Keeps r s) : Keeps r
    (State.finalPage s x requester unit c va acc level instr) :=
  State.stop_keeps (State.faultRec_keeps h)

theorem State.halt_keeps {x requester q} (h : Keeps r s) : Keeps r (State.halt s x requester q) := by
  unfold State.halt
  split
  · exact State.stop_keeps h
  · exact State.finalPage_keeps h
  · split
    · exact State.finalPage_keeps h
    · exact State.pageHalt_keeps h

theorem need_keeps {b c} : Halts r (need b c) := by
  unfold need
  split
  · exact trivial
  · exact fail_keeps

theorem free_keeps {x u} : Halts r (free x u) := by
  unfold free
  split <;> exact trivial

theorem lift_keeps {α : Type} {e : Except Stop α} : Halts r (lift e) := by
  unfold lift
  split <;> exact trivial

theorem cleanS_keeps {x q v} : Halts r (cleanS x q v) := by
  unfold cleanS
  split
  · exact fail_keeps
  · exact trivial

theorem State.put2_keeps {x q} (h : Keeps r s) : Keeps r (State.put2 s x q) :=
  State.setDisp_keeps (State.setCore_keeps h)

theorem resolve_keeps {x c q hd dst obj} : Halts r (resolve x c q hd dst obj) := by
  unfold resolve
  split
  · split
    · exact .bind cleanS_keeps fun _ => fail_keeps
    · exact fail_keeps
  · split
    · exact .bind cleanS_keeps fun _ => .bind need_keeps fun _ => .bind need_keeps fun _ => trivial
    · exact .bind need_keeps fun _ => .bind need_keeps fun _ => trivial

theorem resolveAny_keeps {x c q hd dst} : Halts r (resolveAny x c q hd dst) := by
  unfold resolveAny
  split
  · split
    · exact .bind cleanS_keeps fun _ => fail_keeps
    · exact fail_keeps
  · split
    · exact .bind cleanS_keeps fun _ => .bind need_keeps fun _ => trivial
    · exact .bind need_keeps fun _ => trivial

theorem hdrSrc_keeps {s x c q hd} : Halts r (hdrSrc s x c q hd) :=
  .bind resolve_keeps fun _ => .bind lift_keeps fun _ => .bind free_keeps fun _ => .bind need_keeps fun _ => .bind need_keeps
      fun _ => trivial

theorem objSrc_keeps {s x c q hd} : Halts r (objSrc s x c q hd) :=
  .bind hdrSrc_keeps fun _ => .bind need_keeps fun _ => .bind lift_keeps fun _ => trivial

theorem objDst_keeps {s x c o hd} : Halts r (objDst s x c o hd) :=
  .bind need_keeps fun _ => .bind lift_keeps fun _ => .bind lift_keeps fun _ => trivial

theorem touchReads_keeps {xs} (h : Keeps r s) : Keeps r (touchReads s xs) :=
  h.mem rfl fun k => spansRead_ok k _ _

theorem touchLines_keeps {ls} (h : Keeps r s) : Keeps r (touchLines s ls) :=
  h.mem rfl fun k => foldl_keeps (fun m : MemState => m.ok = true) _ (fun _ _ hm => lineRead_ok hm _ _ _) ls _ k

theorem walkOne_keeps {u c acc va} (h : Keeps r s) : Keeps r (walkOne s u c acc va) := by
  unfold walkOne
  split
  · exact h
  · split
    · exact (touchLines_keeps h).mem rfl xlateAdd_ok
    · exact h

theorem walkSpans_keeps {u c acc xs} (h : Keeps r s) : Keeps r (walkSpans s u c acc xs) := by
  unfold walkSpans
  refine .foldl h fun _ _ h => ?_
  split
  · exact walkOne_keeps h
  · exact h

theorem State.writeSpans_keeps {xs bs poisoned} (h : Keeps r s) : Keeps r (State.writeSpans s xs bs poisoned) :=
  h.mem rfl fun k => spansWrite_ok k _ _ _ _

theorem State.meetPoison_keeps {x c instr} (h : Keeps r s) : Keeps r (State.meetPoison s x c instr) :=
  State.setDisp_keeps (State.setCore_keeps h)

theorem State.flown_keeps {x n f pois} (h : Keeps r s) : Keeps r (State.flown s x n f pois) := by
  unfold State.flown
  refine State.setDisp_keeps ?_
  split
  · exact State.setCore_keeps h
  · exact h

theorem finishObj_keeps {x c n engine srcs u extraPois d hd body} (h : Keeps r s) : Keeps r
    (finishObj s x c n engine srcs u extraPois d hd body) :=
  State.flown_keeps (State.writeSpans_keeps (State.writeSpans_keeps (touchReads_keeps h)))

theorem began_keeps {d} (h : Keeps r s) : Keeps r (began s d) := by
  unfold began
  split
  · exact h
  · split
    · exact h
    · split
      · exact State.signal_keeps (State.setDisp_keeps h)
      · exact State.setDisp_keeps h

theorem usesMemory_keeps {x c u} (h : Keeps r s) : Keeps r (usesMemory s x c u) := by
  unfold usesMemory
  dsimp only
  split
  · exact State.setDisp_keeps (walkSpans_keeps (walkSpans_keeps h))
  · exact walkSpans_keeps (walkSpans_keeps h)

theorem issued_keeps {x c t} (h : Keeps r t) : Keeps r (issued x c t) := by
  unfold issued
  split
  · exact h
  · split
    · exact State.setDisp_keeps h
    · exact usesMemory_keeps (State.setDisp_keeps h)

theorem stopped_keeps {x c i requester begun q} (h : Keeps r s) : Keeps r (stopped s x c i requester begun q) :=
  State.halt_keeps h

/-- An instruction keeps what there was where its meaning does: what the issue adds is notes, translations and records. -/
theorem issue_keeps {d i requester} {f : Dispatch → Ctx → Nat → Except Halt State} (h : Keeps r s)
    (hf : ∀ x c n, Runs r (Keeps r) (f x c n)) : OutKeeps r (issue s d i requester f) := by
  unfold issue
  split
  · exact h
  next x c n _ =>
    have hx := hf (refreshUses s { x with pc := x.next } c) c n
    split <;> rename_i e <;> rw [e] at hx
    · exact began_keeps (issued_keeps hx)
    · exact h
    · exact began_keeps (stopped_keeps h)
    · exact began_keeps (stopped_keeps hx)

/-! What is kept by budgets. -/

theorem fund_keeps {x c a b eval} : Halts r (fund x c a b eval) := by
  unfold fund
  split
  · exact fail_keeps
  · split
    · exact trivial
    · exact trivial
    · exact fail_keeps
    · dsimp only
      split
      · split
        · exact fail_keeps
        · split
          · exact trivial
          · split
            · exact fail_keeps
            · split
              · exact trivial
              · exact fail_keeps
      · split
        · exact fail_keeps
        · split
          · exact trivial
          · split
            · exact fail_keeps
            · split
              · exact trivial
              · exact fail_keeps

theorem State.keepCopies_keeps {c f} (h : Keeps r s) : Keeps r (State.keepCopies s c f) := by
  unfold State.keepCopies
  split
  · exact h
  · split
    · exact State.setCtx_keeps h
    · exact h

theorem fundKeep_keeps {x c v} : Halts r (fundKeep x c v) := by
  unfold fundKeep
  split
  · exact fund_keeps
  · exact trivial

/-! What is kept by vector instructions. -/

theorem vCheck_keeps {s x c q f} : Halts r (vCheck x c s q f) := by
  unfold vCheck
  split
  · split
    · exact .bind need_keeps fun _ => .bind need_keeps fun _ => .bind need_keeps fun _ => need_keeps
    · exact .bind need_keeps fun _ => .bind need_keeps fun _ => need_keeps
  · split
    · exact .bind need_keeps fun _ => trivial
    · exact trivial

theorem vFinish_keeps {x n u q flags pois} (h : Keeps r s) : Keeps r (vFinish s x n u q flags pois) :=
  State.flown_keeps (State.setCore_keeps h)

theorem vecForm_keeps {op f x c n} (h : Keeps r s) : Runs r (Keeps r) (vecForm op s f x c n) :=
  .bind free_keeps fun _ => .guard trivial fun _ => .bind vCheck_keeps fun _ => vFinish_keeps h

theorem vecCvt_keeps {narrow f x c n} (h : Keeps r s) : Runs r (Keeps r) (vecCvt narrow s f x c n) :=
  .bind free_keeps fun _ => .guard trivial fun _ => .bind need_keeps fun _ => .bind vCheck_keeps fun _ => vFinish_keeps h

theorem vecRed_keeps {f x c n} (h : Keeps r s) : Runs r (Keeps r) (vecRed s f x c n) :=
  .bind free_keeps fun _ => .guard trivial fun _ => .bind vCheck_keeps fun _ => vFinish_keeps h

theorem execVAdd_keeps {d f} (h : Keeps r s) : OutKeeps r (execVAdd d f s) :=
  issue_keeps h fun _ _ _ => vecForm_keeps h

theorem execVSub_keeps {d f} (h : Keeps r s) : OutKeeps r (execVSub d f s) :=
  issue_keeps h fun _ _ _ => vecForm_keeps h

theorem execVMul_keeps {d f} (h : Keeps r s) : OutKeeps r (execVMul d f s) :=
  issue_keeps h fun _ _ _ => vecForm_keeps h

theorem execVMac_keeps {d f} (h : Keeps r s) : OutKeeps r (execVMac d f s) :=
  issue_keeps h fun _ _ _ => vecForm_keeps h

theorem execVRed_keeps {d f} (h : Keeps r s) : OutKeeps r (execVRed d f s) :=
  issue_keeps h fun _ _ _ => vecRed_keeps h

theorem execVCvtBf_keeps {d f} (h : Keeps r s) : OutKeeps r (execVCvtBf d f s) :=
  issue_keeps h fun _ _ _ => vecCvt_keeps h

theorem execVCvtF_keeps {d f} (h : Keeps r s) : OutKeeps r (execVCvtF d f s) :=
  issue_keeps h fun _ _ _ => vecCvt_keeps h

/-! What is kept by the engines. -/

theorem fillBuffers_keeps {x} (h : Keeps r s) : Keeps r (fillBuffers s x) :=
  State.writeSpans_keeps (State.draw_keeps h)

theorem regionSpans_keeps {s x c acc raw n} : Halts r (regionSpans s x c acc raw n) :=
  .bind need_keeps fun _ => lift_keeps

theorem stagingSpans_keeps {s x c q hd nn} : Halts r (stagingSpans s x c q hd nn) := by
  unfold stagingSpans
  split
  · exact trivial
  · exact .bind resolve_keeps fun _ => .bind need_keeps fun _ => regionSpans_keeps

theorem writeStaging_keeps {ga nn} (h : Keeps r s) : Keeps r (writeStaging s ga nn) := by
  unfold writeStaging
  split
  · exact h
  · exact State.writeSpans_keeps (State.draw_keeps h)

theorem regionForm_keeps {x c n engine rd ra stage rs i0 nl ntt g} (h : Keeps r s) : Runs r (Keeps r)
    (regionForm s x c n engine rd ra stage rs i0 nl ntt g) :=
  .bind resolve_keeps fun _ => .bind resolve_keeps fun _ => .bind need_keeps fun _ => .bind regionSpans_keeps fun _ =>
      .bind regionSpans_keeps fun _ => .bind stagingSpans_keeps fun _ => .bind need_keeps fun _ => .bind need_keeps fun _ =>
      .bind need_keeps fun _ => .bind free_keeps fun _ => .guard trivial fun _ => State.flown_keeps (writeStaging_keeps
      (State.writeSpans_keeps (touchReads_keeps h)))

theorem objectForm_keeps {x c n engine rd stage rs o repr g} (h : Keeps r s) : Runs r (Keeps r)
    (objectForm s x c n engine rd stage rs o repr g) :=
  .bind resolve_keeps fun _ => .bind need_keeps fun _ => .bind fundKeep_keeps fun _ => .bind objDst_keeps fun _ =>
      .bind stagingSpans_keeps fun _ => .bind need_keeps fun _ => .bind free_keeps fun _ => .guard trivial fun _ =>
      .bind need_keeps fun _ => finishObj_keeps (writeStaging_keeps (State.keepCopies_keeps h))

theorem nttForm_keeps {inv rd ra rb i0 nl x c n} (h : Keeps r s) : Runs r (Keeps r) (nttForm inv s rd ra rb i0 nl x c n) := by
  unfold nttForm
  split
  · split
    · exact .bind objSrc_keeps fun _ => .bind need_keeps fun _ => objectForm_keeps h
    · exact regionForm_keeps h
  · split
    · exact .bind objSrc_keeps fun _ => .bind need_keeps fun _ => objectForm_keeps h
    · exact regionForm_keeps h

theorem galois_keeps {x q g} : Halts r (galois x q g) := by
  unfold galois
  split
  · exact trivial
  · exact .bind cleanS_keeps fun _ => trivial

theorem autoForm_keeps {rd ra i0 nl ev gs x c n} (h : Keeps r s) : Runs r (Keeps r) (autoForm s rd ra i0 nl ev gs x c n) := by
  unfold autoForm
  refine .bind galois_keeps fun _ => .bind need_keeps fun _ => ?_
  split
  · exact .bind objSrc_keeps fun _ => .bind need_keeps fun _ => objectForm_keeps h
  · exact regionForm_keeps h

theorem convFinish_keeps {x n nn u sa da nt out} (h : Keeps r s) : Keeps r (convFinish s x n nn u sa da nt out) :=
  State.flown_keeps (fillBuffers_keeps (State.writeSpans_keeps (touchReads_keeps h)))

theorem cvtUpForm_keeps {rd ra i0 ns t0 nt x c n} (h : Keeps r s) : Runs r (Keeps r) (cvtUpForm s rd ra i0 ns t0 nt x c n) :=
  .bind resolve_keeps fun _ => .bind resolve_keeps fun _ => .bind need_keeps fun _ => .bind need_keeps fun _ =>
      .bind regionSpans_keeps fun _ => .bind regionSpans_keeps fun _ => .bind need_keeps fun _ => .bind free_keeps fun _ =>
      .guard trivial fun _ => convFinish_keeps h

theorem cvtDownForm_keeps {rd ra i0 ns t0 nt x c n} (h : Keeps r s) : Runs r (Keeps r)
    (cvtDownForm s rd ra i0 ns t0 nt x c n) :=
  .bind resolve_keeps fun _ => .bind resolve_keeps fun _ => .bind need_keeps fun _ => .bind need_keeps fun _ =>
      .bind regionSpans_keeps fun _ => .bind regionSpans_keeps fun _ => .bind need_keeps fun _ => .bind free_keeps fun _ =>
      .guard trivial fun _ => convFinish_keeps h

theorem drainDst_keeps {s x c q hd cnt ety} : Halts r (drainDst s x c q hd cnt ety) :=
  .bind resolve_keeps fun _ => .bind need_keeps fun _ => .bind lift_keeps fun _ => .bind need_keeps fun _ => trivial

theorem mmForm_keeps {f x c n} (h : Keeps r s) : Runs r (Keeps r) (mmForm s f x c n) := by
  unfold mmForm
  refine .bind need_keeps fun _ => .bind ?_ fun _ => .bind free_keeps fun _ => .guard trivial fun _ => State.flown_keeps
      (State.setCore_keeps (State.writeSpans_keeps h))
  split
  · exact drainDst_keeps
  · exact trivial

theorem drainForm_keeps {rdr ta narrow x c n} (h : Keeps r s) : Runs r (Keeps r) (drainForm s rdr ta narrow x c n) := by
  unfold drainForm
  generalize List.range 512 = elems
  refine .bind resolve_keeps fun _ => .bind need_keeps fun _ => .bind lift_keeps fun _ => .bind need_keeps fun _ =>
    .bind free_keeps fun _ => ?_
  split
  dsimp only
  split
  · exact trivial
  · exact State.flown_keeps (State.setCore_keeps (State.writeSpans_keeps h))

theorem execNttF_keeps {d rd ra rb i0 nl} (h : Keeps r s) : OutKeeps r (execNttF d rd ra rb i0 nl s) :=
  issue_keeps h fun _ _ _ => nttForm_keeps h

theorem execNttI_keeps {d rd ra rb i0 nl} (h : Keeps r s) : OutKeeps r (execNttI d rd ra rb i0 nl s) :=
  issue_keeps h fun _ _ _ => nttForm_keeps h

theorem execAuto_keeps {d rd ra i0 nl ev g} (h : Keeps r s) : OutKeeps r (execAuto d rd ra i0 nl ev g s) :=
  issue_keeps h fun _ _ _ => autoForm_keeps h

theorem execCvtUp_keeps {d rd ra i0 ns t0 nt} (h : Keeps r s) : OutKeeps r (execCvtUp d rd ra i0 ns t0 nt s) :=
  issue_keeps h fun _ _ _ => cvtUpForm_keeps h

theorem execCvtDown_keeps {d rd ra i0 ns t0 nt} (h : Keeps r s) : OutKeeps r (execCvtDown d rd ra i0 ns t0 nt s) :=
  issue_keeps h fun _ _ _ => cvtDownForm_keeps h

theorem execCvtMm_keeps {d f} (h : Keeps r s) : OutKeeps r (execCvtMm d f s) :=
  issue_keeps h fun _ _ _ => mmForm_keeps h

theorem execCvtDrain_keeps {d rdr ta narrow} (h : Keeps r s) : OutKeeps r (execCvtDrain d rdr ta narrow s) :=
  issue_keeps h fun _ _ _ => drainForm_keeps h

/-! What is kept by scalar instructions. -/

theorem putScalar_keeps {x q n sd v pois} (h : Keeps r s) : Keeps r (putScalar s x q n sd v pois) :=
  State.put2_keeps h

theorem scLiForm_keeps {sd v x cx n} (h : Keeps r s) : Runs r (Keeps r) (scLiForm s sd v x cx n) :=
  .bind free_keeps fun _ => putScalar_keeps h

theorem scArithForm_keeps {op sd sa b x cx n} (h : Keeps r s) : Runs r (Keeps r) (scArithForm op s sd sa b x cx n) :=
  .bind free_keeps fun _ => putScalar_keeps h

theorem scAddress_keeps {s x c q acc o imm sa} : Halts r (scAddress s x c q acc o imm sa) := by
  unfold scAddress
  refine .bind need_keeps fun _ => .bind ?_ fun _ => .bind need_keeps fun _ => .bind need_keeps fun _ => lift_keeps
  split
  · exact .bind cleanS_keeps fun _ => trivial
  · exact trivial

theorem scLdForm_keeps {sd hd imm sa x c n} (h : Keeps r s) : Runs r (Keeps r) (scLdForm s sd hd imm sa x c n) :=
  .bind resolve_keeps fun _ => .bind scAddress_keeps fun _ => .bind free_keeps fun _ => putScalar_keeps h

theorem scStForm_keeps {sd hd imm sa x c n} (h : Keeps r s) : Runs r (Keeps r) (scStForm s sd hd imm sa x c n) :=
  .bind resolve_keeps fun _ => .bind scAddress_keeps fun _ => .bind need_keeps fun _ => .bind free_keeps fun _ =>
      State.put2_keeps (State.writeSpans_keeps h)

theorem scHdrForm_keeps {sd hd sub x c n} (h : Keeps r s) : Runs r (Keeps r) (scHdrForm s sd hd sub x c n) :=
  .bind hdrSrc_keeps fun _ => .bind free_keeps fun _ => putScalar_keeps (touchReads_keeps h)

theorem scArgForm_keeps {sd k x cx n} (h : Keeps r s) : Runs r (Keeps r) (scArgForm s sd k x cx n) :=
  .bind free_keeps fun _ => putScalar_keeps h

theorem scCtrForm_keeps {sd sub x cx n} (h : Keeps r s) : Runs r (Keeps r) (scCtrForm s sd sub x cx n) :=
  .bind free_keeps fun _ => putScalar_keeps h

theorem scStatForm_keeps {sd clr x cx n} (h : Keeps r s) : Runs r (Keeps r) (scStatForm s sd clr x cx n) :=
  .bind free_keeps fun _ => .guard trivial fun _ => putScalar_keeps h

theorem scLrdForm_keeps {sd ln x cx n} (h : Keeps r s) : Runs r (Keeps r) (scLrdForm s sd ln x cx n) :=
  .bind free_keeps fun _ => putScalar_keeps h

theorem scLwrForm_keeps {ln sa x cx n} (h : Keeps r s) : Runs r (Keeps r) (scLwrForm s ln sa x cx n) := by
  unfold scLwrForm
  refine .bind cleanS_keeps fun _ => .bind free_keeps fun _ => ?_
  split
  · exact State.setDisp_keeps h
  · split
    · exact trivial
    · exact State.put2_keeps h

theorem execScLi_keeps {d sd v long} (h : Keeps r s) : OutKeeps r (execScLi d sd v long s) :=
  issue_keeps h fun _ _ _ => scLiForm_keeps h

theorem execScAdd_keeps {d sd sa b} (h : Keeps r s) : OutKeeps r (execScAdd d sd sa b s) :=
  issue_keeps h fun _ _ _ => scArithForm_keeps h

theorem execScSub_keeps {d sd sa b} (h : Keeps r s) : OutKeeps r (execScSub d sd sa b s) :=
  issue_keeps h fun _ _ _ => scArithForm_keeps h

theorem execScMul_keeps {d sd sa b} (h : Keeps r s) : OutKeeps r (execScMul d sd sa b s) :=
  issue_keeps h fun _ _ _ => scArithForm_keeps h

theorem execScAnd_keeps {d sd sa b} (h : Keeps r s) : OutKeeps r (execScAnd d sd sa b s) :=
  issue_keeps h fun _ _ _ => scArithForm_keeps h

theorem execScOr_keeps {d sd sa b} (h : Keeps r s) : OutKeeps r (execScOr d sd sa b s) :=
  issue_keeps h fun _ _ _ => scArithForm_keeps h

theorem execScXor_keeps {d sd sa b} (h : Keeps r s) : OutKeeps r (execScXor d sd sa b s) :=
  issue_keeps h fun _ _ _ => scArithForm_keeps h

theorem execScShl_keeps {d sd sa b} (h : Keeps r s) : OutKeeps r (execScShl d sd sa b s) :=
  issue_keeps h fun _ _ _ => scArithForm_keeps h

theorem execScShr_keeps {d sd sa b} (h : Keeps r s) : OutKeeps r (execScShr d sd sa b s) :=
  issue_keeps h fun _ _ _ => scArithForm_keeps h

theorem execScLd_keeps {d sd hd imm sa} (h : Keeps r s) : OutKeeps r (execScLd d sd hd imm sa s) :=
  issue_keeps h fun _ _ _ => scLdForm_keeps h

theorem execScSt_keeps {d sd hd imm sa} (h : Keeps r s) : OutKeeps r (execScSt d sd hd imm sa s) :=
  issue_keeps h fun _ _ _ => scStForm_keeps h

theorem execScHdr_keeps {d sd hd sub} (h : Keeps r s) : OutKeeps r (execScHdr d sd hd sub s) :=
  issue_keeps h fun _ _ _ => scHdrForm_keeps h

theorem execScArg_keeps {d sd k} (h : Keeps r s) : OutKeeps r (execScArg d sd k s) :=
  issue_keeps h fun _ _ _ => scArgForm_keeps h

theorem execScCtr_keeps {d sd sub} (h : Keeps r s) : OutKeeps r (execScCtr d sd sub s) :=
  issue_keeps h fun _ _ _ => scCtrForm_keeps h

theorem execScStat_keeps {d sd clr} (h : Keeps r s) : OutKeeps r (execScStat d sd clr s) :=
  issue_keeps h fun _ _ _ => scStatForm_keeps h

theorem execScLrd_keeps {d sd ln} (h : Keeps r s) : OutKeeps r (execScLrd d sd ln s) :=
  issue_keeps h fun _ _ _ => scLrdForm_keeps h

theorem execScLwr_keeps {d ln sa} (h : Keeps r s) : OutKeeps r (execScLwr d ln sa s) :=
  issue_keeps h fun _ _ _ => scLwrForm_keeps h

/-! What is kept by control flow. -/

theorem brForm_keeps {c sa b off x cx n} (h : Keeps r s) : Runs r (Keeps r) (brForm s c sa b off x cx n) := by
  unfold brForm
  refine .bind free_keeps fun _ => ?_
  split
  · split
    · exact .bind cleanS_keeps fun _ => .bind cleanS_keeps fun _ => .guard trivial fun _ => State.put2_keeps h
    · exact .guard trivial fun _ => State.put2_keeps h
  · split
    · exact .bind cleanS_keeps fun _ => .bind cleanS_keeps fun _ => State.setDisp_keeps h
    · exact State.setDisp_keeps h

theorem lapForm_keeps {ln cnt off x cx n} (h : Keeps r s) : Runs r (Keeps r) (lapForm s ln cnt off x cx n) := by
  unfold lapForm
  refine .bind free_keeps fun _ => .bind cleanS_keeps fun _ => .bind need_keeps fun _ => .bind need_keeps fun _ =>
      .guard trivial fun _ => ?_
  split <;> exact State.put2_keeps h

theorem execLapIterationEnd_keeps {d} (h : Keeps r s) : OutKeeps r (execLapIterationEnd d s) := by
  unfold execLapIterationEnd
  split
  · exact h
  · split
    · exact h
    · split
      · exact h
      · dsimp only
        split <;> exact State.put2_keeps h

theorem callForm_keeps {off x cx n} (h : Keeps r s) : Runs r (Keeps r) (callForm s off x cx n) :=
  .bind need_keeps fun _ => State.setDisp_keeps h

theorem retForm_keeps {x cx n} (h : Keeps r s) : Runs r (Keeps r) (retForm s x cx n) := by
  unfold retForm
  refine .guard trivial fun _ => ?_
  split
  · split <;> exact State.put2_keeps h

theorem ringForm_keeps {gate x c n} (h : Keeps r s) : Runs r (Keeps r) (ringForm s gate x c n) :=
  .bind need_keeps fun _ => State.setDisp_keeps h

theorem execRingConfigEffect_keeps {d} (h : Keeps r s) : OutKeeps r (execRingConfigEffect d s) := by
  unfold execRingConfigEffect
  split
  · exact h
  · split
    · exact h
    · split
      · exact h
      · exact State.put2_keeps h

theorem stageBeginForm_keeps {x cx n} (h : Keeps r s) : Runs r (Keeps r) (stageBeginForm s x cx n) :=
  State.setDisp_keeps h

theorem stageEndForm_keeps {x cx n} (h : Keeps r s) : Runs r (Keeps r) (stageEndForm s x cx n) :=
  State.setDisp_keeps h

theorem relForm_keeps {vfirst vcount tmask x cx n} (h : Keeps r s) : Runs r (Keeps r) (relForm s vfirst vcount tmask x cx n) :=
  .bind free_keeps fun _ => State.put2_keeps h

theorem execBr_keeps {d c sa b off} (h : Keeps r s) : OutKeeps r (execBr d c sa b off s) :=
  issue_keeps h fun _ _ _ => brForm_keeps h

theorem execLap_keeps {d ln cnt off} (h : Keeps r s) : OutKeeps r (execLap d ln cnt off s) :=
  issue_keeps h fun _ _ _ => lapForm_keeps h

theorem execCall_keeps {d off} (h : Keeps r s) : OutKeeps r (execCall d off s) :=
  issue_keeps h fun _ _ _ => callForm_keeps h

theorem execRet_keeps {d} (h : Keeps r s) : OutKeeps r (execRet d s) :=
  issue_keeps h fun _ _ _ => retForm_keeps h

theorem execRing_keeps {d gate} (h : Keeps r s) : OutKeeps r (execRing d gate s) :=
  issue_keeps h fun _ _ _ => ringForm_keeps h

theorem execStageBegin_keeps {d} (h : Keeps r s) : OutKeeps r (execStageBegin d s) :=
  issue_keeps h fun _ _ _ => stageBeginForm_keeps h

theorem execStageEnd_keeps {d} (h : Keeps r s) : OutKeeps r (execStageEnd d s) :=
  issue_keeps h fun _ _ _ => stageEndForm_keeps h

theorem execRel_keeps {d vfirst vcount tmask} (h : Keeps r s) : OutKeeps r (execRel d vfirst vcount tmask s) :=
  issue_keeps h fun _ _ _ => relForm_keeps h

/-! What is kept by windows and credits. -/

theorem State.modPort_keeps {p f} (h : Keeps r s) : Keeps r (State.modPort s p f) :=
  h.same rfl

theorem State.heardOn_keeps {p} (h : Keeps r s) : Keeps r (State.heardOn s p) :=
  State.modPort_keeps h

theorem State.heardFrom_keeps {module} (h : Keeps r s) : Keeps r (State.heardFrom s module) := by
  unfold State.heardFrom
  split
  · exact State.heardOn_keeps h
  · exact h

theorem State.guard_keeps {p m} (h : Keeps r s) : Keeps r (State.guard s p m) :=
  State.emit_keeps h

theorem State.arrive_keeps {m} (h : Keeps r s) : SomeKeeps r (State.arrive s m) := by
  unfold State.arrive
  dsimp only
  split
  · exact h.same rfl
  · exact trivial

theorem State.credit_keeps {m} (h : Keeps r s) : Keeps r (State.credit s m) := by
  unfold State.credit
  split
  · exact h.same rfl
  · exact State.emit_keeps h

theorem answerReq_keeps {mgr x win want} (h : Keeps r s) : Keeps r (answerReq s mgr x win want) := by
  unfold answerReq
  split
  · exact State.credit_keeps (State.setMgr_keeps h)
  · exact State.credit_keeps h

theorem execCrReq_keeps {mgr x win want} (h : Keeps r s) : OutKeeps r (execCrReq mgr x win want s) := by
  unfold execCrReq
  split
  · exact h
  · split
    · split
      · exact h
      · exact State.holdAtLink_keeps h
    · split
      · split
        · exact h
        · exact answerReq_keeps (State.heardFrom_keeps h)
      · split
        · exact answerReq_keeps ((State.arrive_keeps h).get ‹_›)
        · exact h

theorem countStalePut_keeps {mgr} (h : Keeps r s) : Keeps r (countStalePut s mgr) :=
  State.setMgr_keeps h

theorem takePut_keeps {mgr y grant block payload marked} (h : Keeps r s) : Keeps r
    (takePut s mgr y grant block payload marked) := by
  unfold takePut
  dsimp only
  split
  · exact countStalePut_keeps h
  · split
    · exact countStalePut_keeps h
    · split
      · exact h
      · split
        · exact h
        · split
          · exact h
          · split
            · exact State.signal_keeps (State.writeSpans_keeps (State.setMgr_keeps h))
            · exact State.writeSpans_keeps (State.setMgr_keeps h)

theorem execPut_keeps {mgr y grant block payload marked} (h : Keeps r s) : OutKeeps r
    (execPut mgr y grant block payload marked s) := by
  unfold execPut
  split
  · split
    · exact h
    · split
      · exact State.holdAtLink_keeps h
      · refine takePut_keeps ?_
        split
        · exact State.heardOn_keeps h
        · exact State.heardFrom_keeps h
  · split
    · exact takePut_keeps ((State.arrive_keeps h).get ‹_›)
    · exact h

theorem cancelGrant_keeps {mgr g q} (h : Keeps r s) : Keeps r (cancelGrant s mgr g q) :=
  State.credit_keeps (State.setMgr_keeps h)

theorem cancelGrants_keeps {mgr p q} (h : Keeps r s) : Keeps r (cancelGrants s mgr p q) :=
  .foldl h fun _ _ h => cancelGrant_keeps h

theorem cancelAll_keeps {p q} (h : Keeps r s) : Keeps r (cancelAll s p q) :=
  .foldl h fun _ _ h => cancelGrants_keeps h

theorem dropGrantsOf_keeps {p} (h : Keeps r s) : Keeps r (dropGrantsOf s p) :=
  h.same rfl

theorem closeWindow_keeps {mgr win} (h : Keeps r s) : Keeps r (closeWindow s mgr win) :=
  State.setMgr_keeps (cancelGrants_keeps h)

theorem closeWindowsOf_keeps {d} (h : Keeps r s) : Keeps r (closeWindowsOf s d) :=
  .foldl h fun _ _ h => .foldl h fun _ _ h => closeWindow_keeps h

theorem execCreditTimeout_keeps {mgr grant} (h : Keeps r s) : OutKeeps r (execCreditTimeout mgr grant s) := by
  unfold execCreditTimeout
  split
  · exact h
  · split
    · exact cancelGrant_keeps h
    · exact h

theorem winOpenForm_keeps {f x c n} (h : Keeps r s) : Runs r (Keeps r) (winOpenForm s f x c n) := by
  unfold winOpenForm
  refine .bind resolveAny_keeps fun _ => .bind need_keeps fun _ => .bind need_keeps fun _ => .bind need_keeps fun _ => .bind ?_
      fun _ => .bind lift_keeps fun _ => .bind free_keeps fun _ => State.setDisp_keeps (State.setMgr_keeps h)
  split
  · split
    · exact trivial
    · exact fail_keeps
  · exact trivial

theorem winCloseForm_keeps {rm win x c n} (h : Keeps r s) : Runs r (Keeps r) (winCloseForm s rm win x c n) :=
  .bind resolveAny_keeps fun _ => .bind need_keeps fun _ => .bind need_keeps fun _ => .bind free_keeps fun _ => .guard trivial
      fun _ => State.setDisp_keeps (closeWindow_keeps h)

theorem execWinOpen_keeps {d f} (h : Keeps r s) : OutKeeps r (execWinOpen d f s) :=
  issue_keeps h fun _ _ _ => winOpenForm_keeps h

theorem execWinClose_keeps {d rm win} (h : Keeps r s) : OutKeeps r (execWinClose d rm win s) :=
  issue_keeps h fun _ _ _ => winCloseForm_keeps h

/-! What is kept by fences and faults of a unit. -/

theorem State.plainErr_keeps {cls action kind unit fault addr} (h : Keeps r s) : Keeps r
    (State.plainErr s cls action kind unit fault addr) :=
  State.errRec_keeps h

theorem State.postMerge_keeps {m} (h : Keeps r s) : Keeps r (State.postMerge s m) :=
  State.errRec_keeps h

theorem State.flushMerges_keeps (h : Keeps r s) : Keeps r (State.flushMerges s) :=
  .foldl (h.same rfl) fun _ _ h => State.postMerge_keeps h

theorem State.corrected_keeps {cls action kind unit addr} (h : Keeps r s) : Keeps r
    (State.corrected s cls action kind unit addr) := by
  unfold State.corrected
  dsimp only
  split <;> exact (State.flushMerges_keeps h).same rfl

theorem State.heldLost_keeps {ctx n} (h : Keeps r s) : Keeps r (State.heldLost s ctx n) := by
  unfold State.heldLost
  split
  · exact h
  · exact h.same rfl

/-- Leaving bytes out keeps the canonical form. -/
theorem memOk_filter {m : Mem} (h : memOk m = true) (p : Host.Cell → Bool) : memOk (m.filter p) = true := by
  rw [memOk_iff] at h ⊢
  exact ⟨fun c hc => h.1 c (List.mem_filter.1 hc).1, h.2.filter _⟩

theorem scratchLose_ok {sc : Scratch} (h : memOk sc.data = true) (a n : Nat) : memOk (scratchLose sc a n).data = true :=
  memOk_filter h _

theorem loseCore_keeps {n} (h : Keeps r s) : Keeps r (loseCore s n) :=
  (Keeps.foldl h fun _ _ h => State.heldLost_keeps h).mem rfl fun k => by
    rw [MemState.ok_iff] at k ⊢
    obtain ⟨hh, hc, hs, ho, hi⟩ := k
    exact ⟨hh, hc, scratchLose_ok hs _ _, scratchLose_ok ho _ _, hi⟩

theorem resetCore_keeps {n} (h : Keeps r s) : Keeps r (resetCore s n) :=
  (loseCore_keeps h).same rfl

theorem setFences_keeps {kind l} (h : Keeps r s) : Keeps r (setFences s kind l) := by
  unfold setFences
  split
  · exact h.same rfl
  · split <;> exact h.same rfl

theorem fenceSenders_keeps {cores} (h : Keeps r s) : Keeps r (fenceSenders s cores) := by
  unfold fenceSenders
  refine .foldl h fun _ _ h => ?_
  split
  · split
    · exact h
    · exact State.stop_keeps h
  · exact h

theorem actFence_keeps {kind unit} (h : Keeps r s) : Keeps r (actFence s kind unit) := by
  unfold actFence
  split
  · exact State.modField_keeps (setFences_keeps (.foldl (fenceSenders_keeps (cancelAll_keeps (dropGrantsOf_keeps h)))
      fun _ _ h => loseCore_keeps h))
  · exact setFences_keeps (.foldl (fenceSenders_keeps (cancelAll_keeps (dropGrantsOf_keeps h))) fun _ _ h => loseCore_keeps h)

theorem fenceDispatches_keeps {kind unit hard fault} (h : Keeps r s) : Keeps r (fenceDispatches s kind unit hard fault) :=
  h.same rfl

theorem fenceRecord_keeps {kind unit hard fault} (h : Keeps r s) : Keeps r (fenceRecord s kind unit hard fault) :=
  State.plainErr_keeps h

theorem fenceUnit_keeps {kind unit hard fault} (h : Keeps r s) : Keeps r (fenceUnit s kind unit hard fault) := by
  unfold fenceUnit
  dsimp only
  split
  · split
    · exact h
    · refine fenceRecord_keeps ?_
      split
      · exact fenceDispatches_keeps (setFences_keeps h)
      · exact actFence_keeps (fenceDispatches_keeps (setFences_keeps h))
  · refine fenceRecord_keeps ?_
    split
    · exact actFence_keeps (fenceDispatches_keeps (setFences_keeps h))
    · exact fenceDispatches_keeps (setFences_keeps h)

theorem decideFence_keeps {kind unit hard fault} (h : Keeps r s) : Keeps r (decideFence s kind unit hard fault) := by
  unfold decideFence
  split
  · dsimp only
    split
    · exact fenceUnit_keeps (fenceUnit_keeps h)
    · exact fenceUnit_keeps h
  · split
    · dsimp only
      split
      · exact fenceUnit_keeps (fenceUnit_keeps h)
      · exact fenceUnit_keeps h
    · dsimp only
      split
      · exact fenceUnit_keeps (fenceUnit_keeps h)
      · exact fenceUnit_keeps h

theorem settleFences_keeps (h : Keeps r s) : Keeps r (settleFences s) :=
  .foldl (.foldl (.foldl h fun _ _ h => actFence_keeps h) fun _ _ h => actFence_keeps h) fun _ _ h => actFence_keeps h

theorem residueEvent_keeps {core x} (h : Keeps r s) : Keeps r (residueEvent s core x) := by
  unfold residueEvent
  dsimp only
  split
  · exact decideFence_keeps ((State.errRec_keeps h).same rfl)
  · exact (State.errRec_keeps h).same rfl

theorem fieldCe_keeps {f n} (h : Keeps r s) : Keeps r (fieldCe s f n) := by
  unfold fieldCe
  split
  · exact h
  · dsimp only
    split
    · exact decideFence_keeps (State.modField_keeps h)
    · exact State.modField_keeps h

theorem sramCe_keeps {core} (h : Keeps r s) : Keeps r (sramCe s core) := by
  unfold sramCe
  dsimp only
  split
  · exact State.corrected_keeps h
  · exact fieldCe_keeps (State.corrected_keeps h)

theorem infieldCe_keeps {die} (h : Keeps r s) : Keeps r (infieldCe s die) :=
  State.corrected_keeps h

theorem infieldUe_keeps {die} (h : Keeps r s) : Keeps r (infieldUe s die) :=
  State.plainErr_keeps h

theorem hbmCe_keeps {addr} (h : Keeps r s) : Keeps r (hbmCe s addr) :=
  (State.corrected_keeps h).same rfl

theorem sramUe_keeps {core block} (h : Keeps r s) : Keeps r (sramUe s core block) := by
  unfold sramUe
  dsimp only
  split
  · exact decideFence_keeps ((State.plainErr_keeps h).same rfl)
  · exact (State.plainErr_keeps h).same rfl
-- MEM markSpans

/-- Marks are no contents. -/
theorem markSpans_ok {m : MemState} (h : m.ok = true) (xs : List Span) : (markSpans m xs).ok = true := by
  unfold markSpans
  refine foldl_keeps (fun m : MemState => m.ok = true) _ (fun m x hm => ?_) xs m h
  dsimp only
  split
  · split <;> exact hm
  · split
    · exact hm
    · split <;> exact hm

theorem memError_keeps {xs e} (h : Keeps r s) : Keeps r (memError s xs e) := by
  have hmark : ∀ ys, Keeps r { s with mem := markSpans s.mem ys } := fun ys => h.mem rfl fun k => markSpans_ok k ys
  unfold memError
  split
  · exact h
  · exact h
  · split
    · split
      · exact infieldCe_keeps h
      · exact sramCe_keeps h
    · exact h
  · split
    · split
      · exact hbmCe_keeps h
      · exact h
    · exact h
  · split
    · dsimp only
      split
      · exact infieldUe_keeps (hmark _)
      · exact sramUe_keeps (hmark _)
    · exact h
  · split
    · split
      · exact State.plainErr_keeps (hmark _)
      · exact h
    · exact h

/-! What is kept by streams. -/

theorem streamHdr_keeps {s x c d} : Halts r (streamHdr s x c d) := by
  unfold streamHdr
  split
  · exact trivial
  · exact .bind lift_keeps fun _ => .bind free_keeps fun _ => .bind need_keeps fun _ => .bind need_keeps fun _ =>
      .bind need_keeps fun _ => trivial

theorem sendReq_keeps {x t} (h : Keeps r s) : Keeps r (sendReq s x t) := by
  unfold sendReq
  dsimp only
  split
  · exact State.stop_keeps h
  · exact State.credit_keeps (State.setDisp_keeps h)

theorem fillSlot_keeps {d} (h : Keeps r s) : Keeps r (fillSlot s d) := by
  unfold fillSlot
  split
  · exact h
  · split
    · split
      · exact sendReq_keeps (State.setDisp_keeps h)
      · exact State.setDisp_keeps h
    · exact h

/-- What a stream is when it is issued (R192): running, with nothing done, at the place that was free for it. -/
structure StreamStarts (k : StreamKind) (x : Dispatch) (t : Stream) : Prop where
  state : t.state = .running
  done : t.done = 0
  kind : t.kind = k
  instr : t.instr = x.pc
  place : placeFor x = some t.slot

theorem streamPlan_starts {s k f x c} : Runs r (StreamStarts k x) (streamPlan k s f x c) := by
  unfold streamPlan
  refine .bind resolveAny_keeps fun _ => .bind ?_ fun _ => .bind need_keeps fun _ => .bind ?_ fun _ => .bind ?_ fun _ =>
      .bind need_keeps fun _ => .bind ?_ fun _ => ?_
  · split
    · exact trivial
    · exact .bind resolveAny_keeps fun _ => trivial
  · split
    · exact trivial
    · exact streamHdr_keeps
  · split
    · split
      · exact streamHdr_keeps
      · exact trivial
    · exact trivial
  · split
    · exact .bind need_keeps fun _ => trivial
    · exact trivial
    · exact fail_keeps
  · split
    · split
      · exact .bind need_keeps fun _ => .bind need_keeps fun _ => .bind need_keeps fun _ => trivial
      · exact trivial
    next hplace =>
      split
      · exact .bind need_keeps fun _ => .bind need_keeps fun _ => .bind need_keeps fun _ => ⟨rfl, rfl, rfl, rfl, hplace⟩
      · exact ⟨rfl, rfl, rfl, rfl, hplace⟩

theorem streamPlan_keeps {s k f x c} : Halts r (streamPlan k s f x c) :=
  streamPlan_starts.halts

theorem streamForm_keeps {k f x c n} (h : Keeps r s) : Runs r (Keeps r) (streamForm k s f x c n) := by
  unfold streamForm
  refine .bind streamPlan_keeps fun _ => .bind free_keeps fun _ => ?_
  split
  · exact sendReq_keeps (State.setDisp_keeps h)
  · exact State.setDisp_keeps h

theorem landUnit_keeps {x t p at_ bs poisoned} (h : Keeps r s) : Keeps r (landUnit s x t p at_ bs poisoned) := by
  unfold landUnit
  split
  · exact State.setCore_keeps h
  · exact State.writeSpans_keeps h

theorem streamHalt_keeps {x t e} (h : Keeps r s) : Keeps r (streamHalt s x t e) := by
  unfold streamHalt
  split
  · exact State.stop_keeps h
  · exact State.finalPage_keeps h
  · split
    · exact State.finalPage_keeps h
    · exact State.askPage_keeps (State.setDisp_keeps h)

theorem unitDone_keeps {x t pois bad} (h : Keeps r s) : Keeps r (unitDone s x t pois bad) := by
  unfold unitDone
  split
  · split
    · exact residueEvent_keeps (State.setCore_keeps (State.meetPoison_keeps (State.meetPoison_keeps h)))
    · exact State.meetPoison_keeps h
  · split
    · exact residueEvent_keeps (State.setCore_keeps (State.meetPoison_keeps (State.setDisp_keeps h)))
    · exact State.setDisp_keeps h

theorem moveUnit_keeps {x c t u src dst load err} (h : Keeps r s) : OkKeeps r (moveUnit s x c t u src dst load err) := by
  unfold moveUnit
  split
  · exact trivial
  · exact trivial
  · exact unitDone_keeps (landUnit_keeps (touchReads_keeps (walkSpans_keeps (walkSpans_keeps (memError_keeps h)))))

theorem consume_keeps {mgr win b} (h : Keeps r s) : Keeps r (consume s mgr win b) := by
  unfold consume
  dsimp only
  split
  · split
    · exact State.setMgr_keeps h
    · exact State.credit_keeps (State.setMgr_keeps h)
  · exact State.setMgr_keeps h

theorem getUnit_keeps {x c t u err} (h : Keeps r s) : OkKeeps r (getUnit s x c t u err) := by
  unfold getUnit
  split
  · exact trivial
  · split
    · exact State.setDisp_keeps h
    · split
      · exact trivial
      · dsimp only
        split
        · split
          · exact (moveUnit_keeps h).get ‹_›
          · exact consume_keeps ((moveUnit_keeps h).get ‹_›)
        · split
          · exact (moveUnit_keeps h).get ‹_›
          · exact consume_keeps ((moveUnit_keeps h).get ‹_›)

theorem putUnit_keeps {x c t u err} (h : Keeps r s) : OkKeeps r (putUnit s x c t u err) := by
  unfold putUnit
  split
  · exact trivial
  · split
    · exact trivial
    · split
      · exact h
      · split
        · exact trivial
        · refine unitDone_keeps ?_
          split
          · exact State.guard_keeps (touchReads_keeps (walkSpans_keeps (State.draw_keeps (memError_keeps h))))
          · exact State.credit_keeps (touchReads_keeps (walkSpans_keeps (State.draw_keeps (memError_keeps h))))

theorem execStreamUnitCommit_keeps {d slot err} (h : Keeps r s) : OutKeeps r (execStreamUnitCommit d slot err s) := by
  unfold execStreamUnitCommit
  split
  · exact h
  · split
    · exact h
    · split
      · exact h
      · split
        · exact h
        · split
          · dsimp only
            split
            · exact fillSlot_keeps ((moveUnit_keeps h).get ‹_›)
            · exact streamHalt_keeps h
          · dsimp only
            split
            · exact fillSlot_keeps ((moveUnit_keeps h).get ‹_›)
            · exact streamHalt_keeps h
          · dsimp only
            split
            · exact fillSlot_keeps ((getUnit_keeps h).get ‹_›)
            · exact streamHalt_keeps h
          · dsimp only
            split
            · exact fillSlot_keeps ((putUnit_keeps h).get ‹_›)
            · exact streamHalt_keeps h

theorem execStreamCreditRetry_keeps {d slot} (h : Keeps r s) : OutKeeps r (execStreamCreditRetry d slot s) := by
  unfold execStreamCreditRetry
  split
  · exact h
  · split
    · exact h
    · split
      · exact sendReq_keeps h
      · exact h

theorem execStreamEmptyResume_keeps {d slot} (h : Keeps r s) : OutKeeps r (execStreamEmptyResume d slot s) := by
  unfold execStreamEmptyResume
  split
  · exact h
  · split
    · exact h
    · split
      · dsimp only
        split
        · exact State.setDisp_keeps h
        · exact h
      · dsimp only
        split
        · exact State.setDisp_keeps h
        · exact h

theorem askAgain_keeps {x t} (h : Keeps r s) : Keeps r (askAgain s x t) := by
  unfold askAgain
  split
  · exact State.setDisp_keeps h
  · exact sendReq_keeps h

theorem countStale_keeps {d} (h : Keeps r s) : Keeps r (countStale s d) :=
  (h.same rfl).same rfl

theorem State.arriveFor_keeps {t p} (h : Keeps r s) : SomeKeeps r (State.arriveFor s t p) := by
  unfold State.arriveFor
  split
  · split
    · exact State.heardOn_keeps h
    · exact h
  · split
    · exact State.arrive_keeps h
    · exact trivial

theorem takeGrant_keeps {x t grant first count st} (h : Keeps r s) : Keeps r (takeGrant s x t grant first count st) := by
  unfold takeGrant
  split
  · exact State.setDisp_keeps h
  · exact State.setDisp_keeps h
  · exact State.stop_keeps h

theorem execCrGrant_keeps {d slot epoch grant first count st} (h : Keeps r s) : OutKeeps r
    (execCrGrant d slot epoch grant first count st s) := by
  unfold execCrGrant
  split
  · exact h
  · split
    · exact h
    · split
      · exact h
      · split
        · exact h
        · split
          · refine countStale_keeps ?_
            split
            · exact State.emit_keeps ((State.arriveFor_keeps h).get ‹_›)
            · exact (State.arriveFor_keeps h).get ‹_›
          · split
            · exact (State.arriveFor_keeps h).get ‹_›
            · exact takeGrant_keeps ((State.arriveFor_keeps h).get ‹_›)

theorem takeReturn_keeps {x t count} (h : Keeps r s) : Keeps r (takeReturn s x t count) := by
  unfold takeReturn
  dsimp only
  split
  · exact State.setDisp_keeps h
  · split
    · exact fillSlot_keeps (State.setDisp_keeps h)
    · exact askAgain_keeps h

theorem execCrReturn_keeps {d slot epoch grant count} (h : Keeps r s) : OutKeeps r
    (execCrReturn d slot epoch grant count s) := by
  unfold execCrReturn
  split
  · exact h
  · split
    · exact h
    · split
      · exact h
      · split
        · exact h
        · split
          · exact countStale_keeps ((State.arriveFor_keeps h).get ‹_›)
          · split
            · exact (State.arriveFor_keeps h).get ‹_›
            · exact takeReturn_keeps ((State.arriveFor_keeps h).get ‹_›)

theorem cancelStream_keeps {x t q} (h : Keeps r s) : Keeps r (cancelStream s x t q) := by
  unfold cancelStream
  split
  · exact askAgain_keeps h
  · exact State.stop_keeps h
  · exact State.stop_keeps h

theorem cancelAtSender_keeps {d slot grant q} (h : Keeps r s) : Keeps r (cancelAtSender s d slot grant q) := by
  unfold cancelAtSender
  split
  · exact h
  · split
    · exact h
    · split
      · split
        · exact h
        · exact cancelStream_keeps ((State.arriveFor_keeps h).get ‹_›)
      · exact h

theorem cancelAtManager_keeps {m y grant} (h : Keeps r s) : Keeps r (cancelAtManager s m y grant) := by
  unfold cancelAtManager
  split
  · exact h
  · refine State.setMgr_keeps ?_
    split
    · exact State.heardOn_keeps h
    · exact h

theorem execCrCancel_keeps {e grant q} (h : Keeps r s) : OutKeeps r (execCrCancel e grant q s) := by
  unfold execCrCancel
  split
  · exact cancelAtSender_keeps h
  · split
    · exact cancelAtManager_keeps h
    · exact h

theorem execSLd_keeps {d f} (h : Keeps r s) : OutKeeps r (execSLd d f s) :=
  issue_keeps h fun _ _ _ => streamForm_keeps h

theorem execSSt_keeps {d f} (h : Keeps r s) : OutKeeps r (execSSt d f s) :=
  issue_keeps h fun _ _ _ => streamForm_keeps h

theorem execSPut_keeps {d f} (h : Keeps r s) : OutKeeps r (execSPut d f s) :=
  issue_keeps h fun _ _ _ => streamForm_keeps h

theorem execSGet_keeps {d f} (h : Keeps r s) : OutKeeps r (execSGet d f s) :=
  issue_keeps h fun _ _ _ => streamForm_keeps h

/-! What is kept by Marks. -/

theorem markOf_keeps {x n} : Halts r (markOf x n) := by
  unfold markOf
  split
  · exact trivial
  · exact fail_keeps

theorem markSigForm_keeps {mark amount x cx n} (h : Keeps r s) : Runs r (Keeps r) (markSigForm s mark amount x cx n) :=
  .bind markOf_keeps fun _ => .bind free_keeps fun _ => .bind cleanS_keeps fun _ => .guard trivial fun _ => State.signal_keeps
      (State.setDisp_keeps h)

theorem waitResult_keeps {x sd ok} (h : Keeps r s) : Keeps r (waitResult s x sd ok) :=
  State.put2_keeps h

theorem markWaitForm_keeps {sd mark f x cx n} (h : Keeps r s) : Runs r (Keeps r) (markWaitForm s sd mark f x cx n) := by
  unfold markWaitForm
  refine .bind markOf_keeps fun _ => .bind free_keeps fun _ => .bind ?_ fun _ => ?_
  · split
    · exact .bind cleanS_keeps fun _ => trivial
    · exact trivial
  · split
    · split
      · exact waitResult_keeps h
      · split
        · exact waitResult_keeps h
        · exact State.setDisp_keeps h

theorem execMarkSig_keeps {d mark amount} (h : Keeps r s) : OutKeeps r (execMarkSig d mark amount s) :=
  issue_keeps h fun _ _ _ => markSigForm_keeps h

theorem execMarkWait_keeps {d sd mark f} (h : Keeps r s) : OutKeeps r (execMarkWait d sd mark f s) :=
  issue_keeps h fun _ _ _ => markWaitForm_keeps h

/-! What is kept by hand-offs. -/

theorem slotSpans_keeps {s x c slot} : Halts r (slotSpans s x c slot) :=
  .bind lift_keeps fun _ => .bind need_keeps fun _ => trivial

theorem slotWrite_keeps {xs off bs} (h : Keeps r s) : Keeps r (slotWrite s xs off bs) :=
  State.writeSpans_keeps h

theorem carrySpans_keeps {src dst fuel off} (h : Keeps r s) : Keeps r (carrySpans s src dst fuel off) := by
  induction fuel generalizing s off with
  | zero => exact h
  | succ fuel ih =>
    unfold carrySpans
    split
    · exact h
    · exact ih (State.writeSpans_keeps h)

theorem takeTag_keeps {x p} (h : Keeps r s) (e : takeTag s x = some p) : Keeps r p.2 := by
  unfold takeTag at e
  dsimp only at e
  split at e
  · cases e
    exact State.draw_keeps h
  · split at e
    · cases e
    · cases e
      exact (State.draw_keeps h).same rfl

theorem handoffOutForm_keeps {src slot notify answer x c n} (h : Keeps r s) :
    Runs r (Keeps r) (handoffOutForm s src slot notify answer x c n) := by
  unfold handoffOutForm
  refine .bind objSrc_keeps fun o => .bind need_keeps fun _ => .bind markOf_keeps fun _ => .bind markOf_keeps fun _ =>
    .bind need_keeps fun _ => ?_
  refine .guard fail_keeps fun _ => .bind slotSpans_keeps fun _ => .bind free_keeps fun _ => .bind need_keeps fun _ => ?_
  split
  · exact trivial
  next tag t e =>
    have ht : Keeps r t := takeTag_keeps h e
    refine State.signal_keeps ?_
    split
    · exact State.meetPoison_keeps (State.setCtx_keeps (slotWrite_keeps (carrySpans_keeps (carrySpans_keeps
        (touchReads_keeps ht)))))
    · exact State.setDisp_keeps (State.setCtx_keeps (slotWrite_keeps (carrySpans_keeps (carrySpans_keeps
        (touchReads_keeps ht)))))

theorem setSlotState_keeps {x c slot st p} (h : Keeps r s) : Keeps r (setSlotState s x c slot st p) := by
  unfold setSlotState
  split
  · split
    · exact State.writeSpans_keeps h
    · exact h
  · exact h

theorem stopSlot_keeps {x slot f} (h : Keeps r s) : Keeps r (stopSlot s x slot f) :=
  State.stop_keeps h

theorem answerIn_keeps {x c e dst} (h : Keeps r s) : Runs r (Keeps r) (answerIn s x c e dst) := by
  unfold answerIn
  split
  · exact stopSlot_keeps h
  · exact Runs.halt (p := fun _ => True) slotSpans_keeps ‹_›
  · dsimp only
    split
    · refine stopSlot_keeps ?_
      split
      · exact h
      · exact slotWrite_keeps h
    · exact .bind objDst_keeps fun _ => .bind need_keeps fun _ =>
        State.flown_keeps (State.writeSpans_keeps (State.writeSpans_keeps (touchReads_keeps h)))

theorem answered_keeps {x} (h : Keeps r s) : Keeps r (answered s x) := by
  unfold answered
  split
  · exact State.setDisp_keeps (setSlotState_keeps h)
  · exact h

theorem handoffInForm_keeps {dst slot timeout x c n} (h : Keeps r s) : Runs r (Keeps r)
    (handoffInForm s dst slot timeout x c n) := by
  unfold handoffInForm
  refine .bind resolve_keeps fun _ => .bind cleanS_keeps fun _ => .bind need_keeps fun _ => ?_
  split
  · exact stopSlot_keeps h
  · exact Runs.halt (p := fun _ => True) slotSpans_keeps ‹_›
  · refine .bind free_keeps fun _ => ?_
    split
    · exact fail_keeps
    · dsimp only
      split
      · exact stopSlot_keeps h
      · split
        · exact answerIn_keeps h
        · split
          · exact State.stop_keeps (slotWrite_keeps h)
          · exact State.setDisp_keeps h

theorem endHandoff_keeps {x slot dst} (h : Keeps r s) : Keeps r (endHandoff s x slot dst) := by
  unfold endHandoff
  split
  · split
    · exact issued_keeps ((answerIn_keeps h).get ‹_›)
    · exact h
    · exact (answerIn_keeps h).part ‹_›
    · exact State.halt_keeps h
  · exact h

theorem wakeOne_keeps {x} (h : Keeps r s) : Keeps r (wakeOne s x) := by
  unfold wakeOne
  split
  · exact h
  · split
    · split
      · exact waitResult_keeps h
      · exact h
    · split
      · split
        · exact endHandoff_keeps h
        · exact h
      · exact h
    · exact h

theorem wake_keeps (h : Keeps r s) : Keeps r (wake s) := by
  unfold wake
  refine .foldl h fun _ _ h => ?_
  split
  · exact wakeOne_keeps h
  · exact h

theorem addMark_keeps {k amount} (h : Keeps r s) : Keeps r (addMark s k amount) :=
  wake_keeps (State.setMark_keeps h)

theorem execMarkSignalArrival_keeps {n} (h : Keeps r s) : OutKeeps r (execMarkSignalArrival n s) := by
  unfold execMarkSignalArrival
  split
  · exact h
  · split
    · dsimp only
      split
      · exact countStale_keeps (h.same rfl)
      · split
        · exact addMark_keeps (h.same rfl)
        · exact h.same rfl
    · dsimp only
      split
      · exact countStale_keeps (h.same rfl)
      · split
        · exact addMark_keeps (h.same rfl)
        · split
          · exact State.stop_keeps (h.same rfl)
          · exact h.same rfl

theorem execMarkWaitTimeout_keeps {d} (h : Keeps r s) : OutKeeps r (execMarkWaitTimeout d s) := by
  unfold execMarkWaitTimeout
  split
  · exact h
  · split
    · split
      · exact waitResult_keeps h
      · exact h
    · exact h

theorem execHandoffTimeout_keeps {d} (h : Keeps r s) : OutKeeps r (execHandoffTimeout d s) := by
  unfold execHandoffTimeout
  split
  · exact h
  · split
    · split
      · exact h
      · split
        · exact endHandoff_keeps h
        · exact State.stop_keeps (setSlotState_keeps h)
    · exact h

theorem abandonSlots_keeps {x} (h : Keeps r s) : Keeps r (abandonSlots s x) := by
  unfold abandonSlots
  split
  · exact h
  · exact .foldl h fun _ _ h => setSlotState_keeps h

theorem hostSigRefused_keeps {c} (h : Keeps r s) : Keeps r (hostSigRefused s c) :=
  h.same rfl

theorem execHostMarkSig_keeps {data} (h : Keeps r s) : OutKeeps r (execHostMarkSig data s) := by
  unfold execHostMarkSig
  split
  · exact h
  · split
    · exact hostSigRefused_keeps h
    · dsimp only
      split
      · exact hostSigRefused_keeps h
      · split
        · exact addMark_keeps h
        · exact hostSigRefused_keeps h

theorem execHandoffOut_keeps {d src slot notify answer} (h : Keeps r s) : OutKeeps r
    (execHandoffOut d src slot notify answer s) :=
  issue_keeps h fun _ _ _ => handoffOutForm_keeps h

theorem execHandoffIn_keeps {d dst slot timeout} (h : Keeps r s) : OutKeeps r (execHandoffIn d dst slot timeout s) :=
  issue_keeps h fun _ _ _ => handoffInForm_keeps h

/-! What is kept by stops. -/

theorem putBack_keeps {w} (h : Keeps r s) : Keeps r (putBack s w) :=
  (State.writeSpans_keeps h).mem rfl id

theorem undoAll_keeps {x f} (h : Keeps r s) : Keeps r (undoAll s x f) :=
  State.setCore_keeps (.foldl h fun _ _ h => putBack_keeps h)

theorem cutBody_keeps {fr limb k w} (h : Keeps r s) : Keeps r (cutBody s fr limb k w) :=
  State.writeSpans_keeps (putBack_keeps h)

theorem cutMm_keeps {x c f g k} (h : Keeps r s) : Keeps r (cutMm s x c f g k) :=
  State.setCore_keeps (State.writeSpans_keeps (undoAll_keeps h))

theorem cutAt_keeps {x c f fr k} (h : Keeps r s) : Keeps r (cutAt s x c f fr k) := by
  unfold cutAt
  split
  · exact undoAll_keeps h
  · split
    · exact cutMm_keeps h
    · exact .foldl (.foldl h fun _ _ h => putBack_keeps h) fun _ _ h => cutBody_keeps h

theorem stopAnswer_keeps {x c f fr a} (h : Keeps r s) : Keeps r (stopAnswer s x c f fr a).1 := by
  unfold stopAnswer
  split
  · exact answered_keeps (State.setDisp_keeps h)
  · exact undoAll_keeps h
  · exact cutAt_keeps h

theorem stopOne_keeps {c fr p} {acc : State × Dispatch} (h : Keeps r acc.1) : Keeps r (stopOne c fr p acc).1 := by
  obtain ⟨s, x⟩ := acc
  unfold stopOne
  dsimp only
  split
  · exact stopAnswer_keeps h
  · split
    · exact h
    · exact undoAll_keeps h
    · exact cutAt_keeps h

theorem stopEngines_keeps {c x} (h : Keeps r s) : Keeps r (stopEngines s c x).1 := by
  have hstop : ∀ ps y, Keeps r (List.foldr (stopOne c s.draw.1) (s.draw.2, y) ps).1 := fun ps y => by
    induction ps with
    | nil => exact State.draw_keeps h
    | cons p ps ih => exact stopOne_keeps ih
  exact hstop _ _

/-! What is kept by frames. -/

theorem writeFrames_keeps {unit x lead} (h : Keeps r s) : Keeps r (writeFrames s unit x lead) :=
  .foldl h fun _ _ h => h.mem rfl fun k => by
    rw [MemState.ok_iff] at k ⊢
    exact ⟨memPut_ok k.1 _ _, k.2⟩

/-! What is kept by residency of keys. -/

theorem countKeyRead_keeps {die ctx k} (h : Keeps r s) : Keeps r (countKeyRead s die ctx k) := by
  unfold countKeyRead
  split <;> exact h.same rfl

theorem evict_keeps {ev} (h : Keeps r s) : Keeps r (evict s ev) :=
  (Keeps.foldl h fun _ _ h => endDma_keeps h).same rfl

theorem startCopies_keeps {n} (h : Keeps r s) : Keeps r (startCopies n s) := by
  induction n generalizing s with
  | zero => exact h
  | succ n ih =>
    unfold startCopies
    split
    · exact h
    · exact ih (startDma_keeps (h.same rfl))

theorem settleCopies_keeps (h : Keeps r s) : Keeps r (settleCopies s) :=
  startCopies_keeps (h.same rfl)

theorem makeRoom_keeps {die bytes ok} (h : Keeps r s) : SomeKeeps r (makeRoom s die bytes ok) := by
  unfold makeRoom
  dsimp only
  split
  · exact h
  · split
    · exact trivial
    · exact evict_keeps h

theorem startCopy_keeps {die ctx k bytes pinned} (h : Keeps r s) : Keeps r (startCopy s die ctx k bytes pinned) :=
  settleCopies_keeps (h.same rfl)

theorem State.modMeter_keeps {die g} (h : Keeps r s) : Keeps r (State.modMeter s die g) :=
  h.same rfl

theorem touchKey_keeps {die ctx k bytes} (h : Keeps r s) : Keeps r (touchKey s die ctx k bytes) := by
  unfold touchKey
  dsimp only
  split
  · exact countKeyRead_keeps h
  · split
    · exact countKeyRead_keeps h
    · exact startCopy_keeps ((makeRoom_keeps (countKeyRead_keeps h)).get ‹_›)

/-! What is kept by progress of a dispatch. -/

theorem poisonHdr_keeps {at_} (h : Keeps r s) : Keeps r (poisonHdr s at_) :=
  State.writeSpans_keeps h

theorem poisonLimb_keeps {f k} (h : Keeps r s) : Keeps r (poisonLimb s f k) :=
  .foldl (h.mem rfl fun k => markSpans_ok k _) fun _ _ h => poisonHdr_keeps h

theorem poisonDest_keeps {x f k} (h : Keeps r s) : Keeps r (poisonDest s x f k) := by
  unfold poisonDest
  split
  · dsimp only
    split
    · exact State.setCore_keeps h
    · exact poisonLimb_keeps h
  · exact (State.setCore_keeps h).mem rfl fun k => markSpans_ok k _

theorem meetsOn_keeps {x f core c} (h : Keeps r s) : Keeps r (meetsOn s x f core c) :=
  State.setDisp_keeps (State.setCore_keeps (State.setCore_keeps h))

theorem residueFail_keeps {x f core k} (h : Keeps r s) : Keeps r (residueFail s x f core k) :=
  residueEvent_keeps (State.setCore_keeps (meetsOn_keeps (poisonDest_keeps h)))

theorem registerUe_keeps {x f core k} (h : Keeps r s) : Keeps r (registerUe s x f core k) :=
  sramUe_keeps (meetsOn_keeps (poisonDest_keeps h))

theorem upset_keeps {x f u} (h : Keeps r s) : Keeps r (upset s x f u) := by
  unfold upset
  split
  · split
    · exact residueFail_keeps h
    · exact h
  · split
    · exact registerUe_keeps h
    · exact h
  · split
    · split
      · exact registerUe_keeps h
      · exact h
    · exact h
  · split
    · exact sramCe_keeps h
    · exact h

theorem execInstructionRetire_keeps {d n met} (h : Keeps r s) : OutKeeps r (execInstructionRetire d n met s) := by
  unfold execInstructionRetire
  split
  · exact h
  · split
    · exact h
    · split
      · exact h
      · refine settleCopies_keeps ?_
        split
        · refine upset_keeps ?_
          split
          · exact answered_keeps (State.setDisp_keeps h)
          · exact State.setDisp_keeps h
        · split
          · exact answered_keeps (State.setDisp_keeps h)
          · exact State.setDisp_keeps h

theorem execPageWalk_keeps {u ctx va acc} (h : Keeps r s) : OutKeeps r (execPageWalk u ctx va acc s) := by
  unfold execPageWalk
  split
  · exact h
  · split
    · exact h
    · split
      · exact (touchLines_keeps h).mem rfl id
      · exact h

/-! What is kept by paging. -/

theorem execDmaTransferComplete_keeps {die engine} (h : Keeps r s) : OutKeeps r (execDmaTransferComplete die engine s) :=
  endDma_keeps h

theorem setWait_keeps {w} (h : Keeps r s) : Keeps r (setWait s w) :=
  h.same rfl

theorem dropWait_keeps {w} (h : Keeps r s) : Keeps r (dropWait s w) :=
  h.same rfl

theorem waitRec_keeps {w c outcome level} (h : Keeps r s) : Keeps r (waitRec s w c outcome level) :=
  State.faultRec_keeps h

theorem resumePage_keeps {ctx page} (h : Keeps r s) : Keeps r (resumePage s ctx page) :=
  h.same rfl

theorem endPage_keeps {w c level} (h : Keeps r s) : Keeps r (endPage s w c level) :=
  waitRec_keeps (dropWait_keeps (h.same rfl))

theorem rewalk_keeps {w} (h : Keeps r s) : Keeps r (rewalk s w) := by
  unfold rewalk
  split
  · exact dropWait_keeps h
  · split
    · exact waitRec_keeps (resumePage_keeps (dropWait_keeps h))
    · exact endPage_keeps h
    · exact setWait_keeps h

theorem doFill_keeps {entryPa e} (h : Keeps r s) : Keeps r (doFill s entryPa e) := by
  unfold doFill
  have hread := fun k => devRead_ok (m := s.mem) k s.ways hintNormal (compBase + fillBack e) 65536
  generalize devRead s.mem s.ways hintNormal (compBase + fillBack e) 65536 = p at hread ⊢
  exact State.devWr_keeps (State.devWr_keeps (h.mem rfl hread))

theorem readerRec_keeps {c q f outcome va level} (h : Keeps r s) : Keeps r (readerRec s c q f outcome va level) :=
  State.faultRec_keeps h

theorem fillRange_keeps {c q fuel va n} (h : Keeps r s) : Keeps r (fillRange s c q fuel va n) := by
  induction fuel generalizing s va n with
  | zero => exact h
  | succ fuel ih =>
    unfold fillRange
    split
    · exact h
    · refine ih ?_
      split
      · split
        · exact readerRec_keeps (doFill_keeps h)
        · exact h
      · exact h

theorem readerRead_keeps {c q va n} (h : Keeps r s) : Keeps r (readerRead s c q va n).1 := by
  unfold readerRead
  dsimp only
  split
  · exact fillRange_keeps h
  · exact touchReads_keeps (walkSpans_keeps (fillRange_keeps h))

theorem execMarshalFaultService_keeps {ctx va} (h : Keeps r s) : OutKeeps r (execMarshalFaultService ctx va s) := by
  unfold execMarshalFaultService
  split
  · exact h
  · generalize frameOk _ _ _ = ok
    split
    · exact h
    · split
      · split
        · exact endPage_keeps h
        · split
          · exact endPage_keeps h
          · split
            · exact h
            · exact startDma_keeps (setWait_keeps h)
      · exact waitRec_keeps (setWait_keeps h)

theorem markFrame_keeps {e ue} (h : Keeps r s) : Keeps r (markFrame s e ue) :=
  .foldl h fun _ _ h => h.mem rfl id

theorem execPageFillComplete_keeps {ctx va ue} (h : Keeps r s) : OutKeeps r (execPageFillComplete ctx va ue s) := by
  unfold execPageFillComplete
  split
  · exact h
  · dsimp only
    split
    · exact h
    · split
      · exact rewalk_keeps (endDma_keeps h)
      · exact waitRec_keeps (resumePage_keeps (dropWait_keeps (markFrame_keeps (doFill_keeps (endDma_keeps h)))))

theorem execPageRewalk_keeps {ctx va} (h : Keeps r s) : OutKeeps r (execPageRewalk ctx va s) := by
  unfold execPageRewalk
  split
  · exact h
  · split
    · exact rewalk_keeps h
    · exact h

theorem execFaultWaitExpiry_keeps {ctx va} (h : Keeps r s) : OutKeeps r (execFaultWaitExpiry ctx va s) := by
  unfold execFaultWaitExpiry
  split
  · exact h
  · split
    · exact endPage_keeps h
    · exact h

theorem settleWaits_keeps {closed} (h : Keeps r s) : Keeps r (settleWaits s closed) := by
  unfold settleWaits
  refine .foldl h fun _ _ h => ?_
  split
  · exact waitRec_keeps (dropWait_keeps h)
  · exact dropWait_keeps h

theorem linkDownWaits_keeps (h : Keeps r s) : Keeps r (linkDownWaits s) :=
  .foldl h fun _ _ h => endPage_keeps (h.same rfl)

/-! What is kept by releases. -/

theorem releaseDead_keeps {x} (h : Keeps r s) : Keeps r (releaseDead s x) :=
  State.setCore_keeps h

/-! What is kept by save and restore. -/

theorem nextEpoch_keeps (h : Keeps r s) : Keeps r (nextEpoch s) := by
  unfold nextEpoch
  dsimp only
  split
  · exact h.same rfl
  · exact h

theorem releaseFields_keeps (h : Keeps r s) : Keeps r (releaseFields s) :=
  h.same rfl

theorem wakeFields_keeps {cores} (h : Keeps r s) : Keeps r (wakeFields s cores) :=
  h.same rfl

theorem mapCore_keeps {x f core} (h : Keeps r s) : Keeps r (mapCore s x f core) := by
  refine h.mem rfl fun k => ?_
  unfold mapCore
  dsimp only
  split <;> exact k

theorem mapDie_keeps {x f die} (h : Keeps r s) : Keeps r (mapDie s x f die) := by
  refine h.mem rfl fun k => ?_
  unfold mapDie
  dsimp only
  split <;> exact k

theorem mapFootprint_keeps {x} (h : Keeps r s) : Keeps r (mapFootprint s x) := by
  unfold mapFootprint
  refine .foldl h fun _ _ h => ?_
  split
  · exact .foldl h fun _ _ h => mapCore_keeps h
  · exact .foldl h fun _ _ h => mapDie_keeps h

theorem unmapScratch_keeps {d} (h : Keeps r s) : Keeps r (unmapScratch s d) :=
  h.mem rfl id

theorem clearCore_keeps {c bound core} (h : Keeps r s) : Keeps r (clearCore s c bound core) := by
  refine h.mem rfl fun k => ?_
  unfold clearCore
  dsimp only
  split <;> exact k

theorem saveDispatch_keeps {x} (h : Keeps r s) : Keeps r (saveDispatch s x) := by
  unfold saveDispatch
  refine releaseFields_keeps (settleWaits_keeps (settleCopies_keeps (State.setDisp_keeps (writeFrames_keeps
      (releaseDead_keeps ?_)))))
  split
  · exact stopEngines_keeps h
  · exact h

theorem preempt_keeps {x} (h : Keeps r s) : Keeps r (preempt s x) :=
  saveDispatch_keeps h

theorem restoreDispatch_keeps {c x} (h : Keeps r s) : Keeps r (restoreDispatch s c x) := by
  unfold restoreDispatch
  refine wakeOne_keeps (wakeFields_keeps (State.setDisp_keeps ?_))
  split
  · exact (State.setCore_keeps h).mem rfl fun k => by
      rw [MemState.ok_iff] at k ⊢
      obtain ⟨hh, hc, hs, ho, hi⟩ := k
      exact ⟨hh, hc, hs, memPut_ok ho _ _, hi⟩
  · exact h

theorem tellCancel_keeps {x t q} (h : Keeps r s) : Keeps r (tellCancel s x t q) := by
  unfold tellCancel
  split
  · exact State.emit_keeps h
  · exact h

theorem cancelPlacement_keeps {x q} (h : Keeps r s) : Keeps r (cancelPlacement s x q) := by
  unfold cancelPlacement
  exact cancelAll_keeps (dropGrantsOf_keeps (.foldl h fun _ _ h => tellCancel_keeps h))

theorem moveWindows_keeps {x lead epoch} (h : Keeps r s) : Keeps r (moveWindows s x lead epoch) := by
  unfold moveWindows
  split <;> exact h.same rfl

theorem copySeg_ok {sc : Scratch} (h : memOk sc.data = true) (from_ into : Nat) : memOk
    (copySeg sc from_ into).data = true := by
  refine foldl_keeps (fun sc : Scratch => memOk sc.data = true) _ (fun sc b hsc => ?_) _ sc h
  dsimp only
  split
  · exact scratchWrite_ok hsc _ _ _
  · exact hsc

theorem moveSegs_keeps {x from_ into} (h : Keeps r s) : Keeps r (moveSegs s x from_ into) := by
  unfold moveSegs
  split
  · exact h
  · refine .foldl h fun t e ht => ?_
    dsimp only
    split
    · exact ht
    · refine ht.mem rfl fun k => ?_
      rw [MemState.ok_iff] at k
      obtain ⟨hh, hc, hs, ho, hi⟩ := k
      refine (MemState.ok_iff _).2 ⟨hh, hc, ?_, ho, hi⟩
      dsimp only
      exact copySeg_ok (by rwa [scratchClear_data]) _ _

theorem replaceCores_keeps {x relays cores moves} (h : Keeps r s) : Keeps r (replaceCores s x relays cores moves).1 :=
  State.setDisp_keeps (.foldl (moveWindows_keeps (nextEpoch_keeps (cancelPlacement_keeps h))) fun _ _ h => moveSegs_keeps h)

theorem askGrants_keeps {d} (h : Keeps r s) : Keeps r (askGrants s d) := by
  unfold askGrants
  split
  · exact h
  · refine .foldl h fun _ _ h => ?_
    split
    · split
      · exact sendReq_keeps h
      · exact h
    · exact h

/-! What is kept by the commit. -/

theorem completionCopy_keeps {x b} (h : Keeps r s) : Keeps r (completionCopy s x b) := by
  unfold completionCopy
  split
  · exact h
  · dsimp only
    split
    · exact h
    · split
      · exact State.writeSpans_keeps h
      · exact State.faultRec_keeps h
      · exact State.faultRec_keeps h
      · exact State.faultRec_keeps h

theorem doneMark_keeps {x} (h : Keeps r s) : Keeps r (doneMark s x) := by
  unfold doneMark
  split
  · exact State.signal_keeps h
  · exact h

theorem writeResult_keeps {x b} (h : Keeps r s) : Keeps r (writeResult s x b) := by
  unfold writeResult
  refine doneMark_keeps (completionCopy_keeps ?_)
  split
  · split
    · exact State.setQueue_keeps h
    · exact h
  · exact h

theorem freeMarks_keeps {ks} (h : Keeps r s) : Keeps r (freeMarks s ks) :=
  h.same rfl

theorem settleMarks_keeps {ctx} (h : Keeps r s) : Keeps r (settleMarks s ctx) := by
  unfold settleMarks
  split
  · exact h
  · exact State.setCtx_keeps (freeMarks_keeps h)

theorem endDispatch_keeps {x} (h : Keeps r s) : Keeps r (endDispatch s x) :=
  settleFences_keeps (releaseFields_keeps (settleMarks_keeps (settleWaits_keeps (settleCopies_keeps ((unmapScratch_keeps
      (State.setDisp_keeps h)).same rfl)))))

theorem refuseDispatch_keeps {x c} (h : Keeps r s) : Keeps r (refuseDispatch s x c) :=
  writeResult_keeps (endDispatch_keeps h)

theorem tearHdr_keeps {x at_ hdr} (h : Keeps r s) : Keeps r (tearHdr s x at_ hdr) := by
  unfold tearHdr
  dsimp only
  split
  · exact State.setDisp_keeps (State.writeSpans_keeps h)
  · exact State.writeSpans_keeps h

theorem tearBegun_keeps {x c b} (h : Keeps r s) : Keeps r (tearBegun s x c b) := by
  unfold tearBegun
  split
  · exact tearHdr_keeps h
  · exact h

theorem cutOff_keeps {x c} (h : Keeps r s) : Keeps r (cutOff s x c) :=
  .foldl (stopEngines_keeps h) fun _ _ h => tearBegun_keeps h

theorem tearStream_keeps {x c t} (h : Keeps r s) : Keeps r (tearStream s x c t) := by
  unfold tearStream
  split
  · exact h
  · split
    · exact tearHdr_keeps h
    · exact h

theorem abortEffects_keeps {x} (h : Keeps r s) : Keeps r (abortEffects s x) := by
  unfold abortEffects
  refine cancelPlacement_keeps ?_
  split
  · exact .foldl (cutOff_keeps (abandonSlots_keeps h)) fun _ _ h => tearStream_keeps h
  · exact abandonSlots_keeps h

theorem commitDispatch_keeps {x o} (h : Keeps r s) : Keeps r (commitDispatch s x o) := by
  unfold commitDispatch
  refine writeResult_keeps (endDispatch_keeps (closeWindowsOf_keeps ?_))
  split
  · exact abortEffects_keeps h
  · exact h

/-! What is kept by forms over objects. -/

theorem State.draw3_keeps (h : Keeps r s) : Keeps r (State.draw3 s).2 :=
  h.same rfl

theorem objForm_keeps {op rd ra rb x c n} (h : Keeps r s) : Runs r (Keeps r) (objForm op s rd ra rb x c n) :=
  .bind resolve_keeps fun _ => .bind objSrc_keeps fun _ => .bind objSrc_keeps fun _ => .bind need_keeps fun _ =>
      .bind need_keeps fun _ => .bind fund_keeps fun _ => .bind objDst_keeps fun _ => .bind free_keeps fun _ => .guard trivial
      fun _ => .bind need_keeps fun _ => finishObj_keeps (State.keepCopies_keeps (State.draw3_keeps h))

theorem rescaleForm_keeps {rd ra x c n} (h : Keeps r s) : Runs r (Keeps r) (rescaleForm s rd ra x c n) :=
  .bind resolve_keeps fun _ => .bind objSrc_keeps fun _ => .bind need_keeps fun _ => .bind need_keeps fun _ => .bind need_keeps
      fun _ => .bind fund_keeps fun _ => .bind objDst_keeps fun _ => .bind free_keeps fun _ => .guard trivial fun _ =>
      .bind need_keeps fun _ => finishObj_keeps (fillBuffers_keeps (State.keepCopies_keeps (State.draw_keeps h)))

theorem hdrWForm_keeps {rd ra budgetS levelS x c n} (h : Keeps r s) : Runs r (Keeps r)
    (hdrWForm s rd ra budgetS levelS x c n) :=
  .bind resolve_keeps fun _ => .bind hdrSrc_keeps fun _ => .bind need_keeps fun _ => .bind objDst_keeps fun _ =>
      .bind free_keeps fun _ => .bind need_keeps fun _ => State.flown_keeps (State.writeSpans_keeps (touchReads_keeps h))

theorem xposePlain_keeps {src dst perm x c n rs} (h : Keeps r s) : Runs r (Keeps r) (xposePlain s src dst perm x c n rs) := by
  unfold xposePlain
  refine .bind need_keeps fun _ => .bind need_keeps fun _ => ?_
  dsimp only
  generalize xposeReach s x c src.raw dst.raw perm (stagedTile / dE dst.raw) (dCount dst.raw + 1) 0 = p
  obtain ⟨cnt, halt⟩ := p
  refine .bind lift_keeps fun _ => .bind lift_keeps fun _ => .bind need_keeps fun _ => .bind free_keeps fun _ =>
    .guard trivial fun _ => ?_
  have hw : ∀ xs ys bs p, Keeps r ((touchReads s xs).writeSpans ys bs p) := fun _ _ _ _ =>
    State.writeSpans_keeps (touchReads_keeps h)
  cases halt with
  | none => exact State.flown_keeps (hw _ _ _ _)
  | some e =>
    dsimp only
    split
    · exact trivial
    · show Keeps r (if _ then _ else _)
      split
      · exact State.meetPoison_keeps (hw _ _ _ _)
      · exact hw _ _ _ _

theorem xposeHalted_keeps {x c o dst u cnt q} (h : Keeps r s) : Runs r (Keeps r) (xposeHalted s x c o dst u cnt q) := by
  unfold xposeHalted
  refine .bind lift_keeps fun _ => .bind lift_keeps fun _ => .bind need_keeps fun _ => .bind free_keeps fun _ => ?_
  dsimp only
  split
  · exact State.meetPoison_keeps (State.writeSpans_keeps (touchReads_keeps h))
  · exact State.writeSpans_keeps (touchReads_keeps h)

theorem copyVal_keeps {x c v} : Halts r (copyVal x c v) := by
  unfold copyVal
  split
  · exact trivial
  · exact .bind fundKeep_keeps fun _ => trivial

theorem xposeObj_keeps {rd ra perm x c n} (h : Keeps r s) : Runs r (Keeps r) (xposeObj s rd ra perm x c n) := by
  unfold xposeObj
  refine .bind hdrSrc_keeps fun _ => .bind resolve_keeps fun _ => .bind need_keeps fun _ => .bind need_keeps fun _ =>
      .guard trivial fun _ => ?_
  split
  · split
    · exact trivial
    · exact xposeHalted_keeps h
  · exact .bind objSrc_keeps fun _ => .bind copyVal_keeps fun _ => .bind objDst_keeps fun _ => .bind need_keeps fun _ =>
      .bind need_keeps fun _ => .bind free_keeps fun _ => finishObj_keeps (State.keepCopies_keeps h)

theorem xposeForm_keeps {rd ra perm x c n} (h : Keeps r s) : Runs r (Keeps r) (xposeForm s rd ra perm x c n) := by
  unfold xposeForm
  refine .bind resolveAny_keeps fun _ => .bind resolveAny_keeps fun _ => .bind need_keeps fun _ => ?_
  split
  · exact xposeObj_keeps h
  · exact xposePlain_keeps h

theorem execVAddObj_keeps {d rd ra rb} (h : Keeps r s) : OutKeeps r (execVAddObj d rd ra rb s) :=
  issue_keeps h fun _ _ _ => objForm_keeps h

theorem execVSubObj_keeps {d rd ra rb} (h : Keeps r s) : OutKeeps r (execVSubObj d rd ra rb s) :=
  issue_keeps h fun _ _ _ => objForm_keeps h

theorem execVMulObj_keeps {d rd ra rb} (h : Keeps r s) : OutKeeps r (execVMulObj d rd ra rb s) :=
  issue_keeps h fun _ _ _ => objForm_keeps h

theorem execCvtRescale_keeps {d rd ra} (h : Keeps r s) : OutKeeps r (execCvtRescale d rd ra s) :=
  issue_keeps h fun _ _ _ => rescaleForm_keeps h

theorem execHdrW_keeps {d rd ra budgetS levelS} (h : Keeps r s) : OutKeeps r (execHdrW d rd ra budgetS levelS s) :=
  issue_keeps h fun _ _ _ => hdrWForm_keeps h

theorem execXpose_keeps {d rd ra perm} (h : Keeps r s) : OutKeeps r (execXpose d rd ra perm s) :=
  issue_keeps h fun _ _ _ => xposeForm_keeps h

/-! What is kept by the key switch. -/

theorem ksPrepForm_keeps {rd ra j x c n} (h : Keeps r s) : Runs r (Keeps r) (ksPrepForm s rd ra j x c n) :=
  .bind resolve_keeps fun _ => .bind objSrc_keeps fun _ => .bind need_keeps fun _ => .bind need_keeps fun _ => .bind need_keeps
      fun _ => .bind fund_keeps fun _ => .bind lift_keeps fun _ => .bind need_keeps fun _ => .bind free_keeps fun _ =>
      .guard trivial fun _ => State.flown_keeps (fillBuffers_keeps (State.writeSpans_keeps (touchReads_keeps
      (State.keepCopies_keeps h))))

theorem ipSource_keeps {s x c hd o} : Halts r (ipSource s x c hd o) := by
  unfold ipSource
  split
  · exact .bind objSrc_keeps fun _ => trivial
  · exact trivial

theorem ksIpForm_keeps {rd ra rb rc gs x c n} (h : Keeps r s) : Runs r (Keeps r) (ksIpForm s rd ra rb rc gs x c n) := by
  unfold ksIpForm
  refine .bind resolve_keeps fun _ => .bind resolve_keeps fun _ => .bind resolve_keeps fun _ => .bind hdrSrc_keeps fun _ =>
      .bind galois_keeps fun _ => .bind need_keeps fun _ => .bind need_keeps fun _ => .bind ?_ fun _ => .bind ?_ fun _ =>
      .bind need_keeps fun _ => .bind ipSource_keeps fun _ => .bind fund_keeps fun _ => ?_
  · split
    · exact trivial
    · exact lift_keeps
  · split
    · exact fail_keeps
    · exact trivial
  · split
    · exact fail_keeps
    · exact .bind objDst_keeps fun _ => .bind lift_keeps fun _ => .bind free_keeps fun _ => .guard trivial fun _ =>
        .bind need_keeps fun _ => finishObj_keeps (fillBuffers_keeps (State.keepCopies_keeps (touchKey_keeps
        (State.modMeter_keeps (touchReads_keeps h)))))

theorem ksFinForm_keeps {rd ra rb gs rescale x c n} (h : Keeps r s) : Runs r (Keeps r)
    (ksFinForm s rd ra rb gs rescale x c n) :=
  .bind resolve_keeps fun _ => .bind objSrc_keeps fun _ => .bind objSrc_keeps fun _ => .bind galois_keeps fun _ =>
      .bind need_keeps fun _ => .bind need_keeps fun _ => .bind need_keeps fun _ => .bind fund_keeps fun _ =>
      .bind objDst_keeps fun _ => .bind free_keeps fun _ => .guard trivial fun _ => .bind need_keeps fun _ => finishObj_keeps
      (fillBuffers_keeps (State.keepCopies_keeps (State.draw_keeps h)))

theorem execKsPrep_keeps {d rd ra j} (h : Keeps r s) : OutKeeps r (execKsPrep d rd ra j s) :=
  issue_keeps h fun _ _ _ => ksPrepForm_keeps h

theorem execKsIp_keeps {d rd ra rb rc g} (h : Keeps r s) : OutKeeps r (execKsIp d rd ra rb rc g s) :=
  issue_keeps h fun _ _ _ => ksIpForm_keeps h

theorem execKsFin_keeps {d rd ra rb g rescale} (h : Keeps r s) : OutKeeps r (execKsFin d rd ra rb g rescale s) :=
  issue_keeps h fun _ _ _ => ksFinForm_keeps h

/-! What is kept by admission. -/

theorem ringBell_keeps {q v} (h : Keeps r s) : Keeps r (ringBell s q v) := by
  unfold ringBell
  split
  · exact h
  · dsimp only
    split
    · exact h
    · exact wakeRest_keeps (State.setQueue_keeps h)

theorem execQueueDoorbell_keeps {q v} (h : Keeps r s) : OutKeeps r (execQueueDoorbell q v s) := by
  unfold execQueueDoorbell
  split
  · split
    · exact State.holdAtLink_keeps h
    · exact ringBell_keeps h
  · exact h

theorem applyDecided_keeps {ctx} (h : Keeps r s) : Keeps r (applyDecided s ctx) :=
  h.same rfl

theorem moveMarks_keeps {ctx b0 n0 b1 n1} (h : Keeps r s) : Keeps r (moveMarks s ctx b0 n0 b1 n1) := by
  unfold moveMarks
  dsimp only
  split
  · exact h.same rfl
  · exact settleMarks_keeps (State.setCtx_keeps (h.same rfl))

theorem takeSettings_keeps {x} (h : Keeps r s) : Keeps r (takeSettings s x).1 := by
  unfold takeSettings
  dsimp only
  split
  · exact applyDecided_keeps h
  · exact moveMarks_keeps (applyDecided_keeps h)

theorem pinKeys_keeps {x dies keys} (h : Keeps r s) : Keeps r (pinKeys s x dies keys) :=
  h.same rfl

theorem preemptOn_keeps {relays p} (h : Keeps r s) : Keeps r (preemptOn s relays p) := by
  unfold preemptOn
  refine .foldl h fun _ _ h => ?_
  split
  · split
    · exact preempt_keeps h
    · exact h
  · exact h

theorem admitSprint_keeps {c x b fs} (h : Keeps r s) : Keeps r (admitSprint s c x b fs) := by
  unfold admitSprint
  dsimp only
  have hset : Keeps r (takeSettings (preemptOn s (relaysOf fs) (fun y => y.cls != .sprint)) x).1 :=
    takeSettings_keeps (preemptOn_keeps h)
  generalize takeSettings (preemptOn s (relaysOf fs) (fun y => y.cls != .sprint)) x = p at hset ⊢
  exact pinKeys_keeps (wakeFields_keeps ((nextEpoch_keeps hset).same rfl))

theorem admitRecord_keeps {c x} (h : Keeps r s) : Keeps r (admitRecord s c x) := by
  unfold admitRecord
  have hset : Keeps r (takeSettings s x).1 := takeSettings_keeps h
  generalize takeSettings s x = p at hset ⊢
  split
  · exact refuseDispatch_keeps (h.same rfl)
  · split
    · split
      · exact admitSprint_keeps h
      · exact refuseDispatch_keeps (h.same rfl)
    · exact (nextEpoch_keeps hset).same rfl

theorem refuseUnread_keeps {c q va f level} (h : Keeps r s) : Keeps r (refuseUnread s c q va f level) := by
  unfold refuseUnread
  exact refuseDispatch_keeps ((State.faultRec_keeps h).same rfl)

theorem readRecord_keeps {c q} (h : Keeps r s) : Keeps r (readRecord s c q) := by
  unfold readRecord
  dsimp only
  have hread : Keeps r (readerRead s c ⟨9, some (newDispatch s c q [])⟩ (q.ringVa + q.consumed % 2 ^ q.k * 64) 64).1 :=
    readerRead_keeps h
  split <;> rename_i hp <;> rw [hp] at hread
  · exact refuseUnread_keeps (State.setQueue_keeps hread)
  · have hq := State.setQueue_keeps (q := consumeRecord q) hread
    split
    · exact refuseUnread_keeps hq
    · split
      · exact hq.same rfl
      · split
        · exact admitRecord_keeps hq
        · exact refuseDispatch_keeps (hq.same rfl)

/-! What is kept by placement. -/

theorem placeOn_keeps {c x relays} (h : Keeps r s) : Keeps r (placeOn s c x relays) :=
  wakeFields_keeps (pinKeys_keeps (.foldl (mapFootprint_keeps (State.setDisp_keeps h)) fun _ _ h => clearCore_keeps h))

theorem tryPlace_keeps {x relays} (h : Keeps r s) : SomeKeeps r (tryPlace s x relays) := by
  unfold tryPlace
  split
  · exact trivial
  · split
    · exact trivial
    · split
      · exact placeOn_keeps h
      · exact refuseDispatch_keeps h
      · exact trivial

theorem execDispatchPlace_keeps {d relays} (h : Keeps r s) : OutKeeps r (execDispatchPlace d relays s) := by
  unfold execDispatchPlace
  split
  · exact h
  · split
    · exact h
    · exact SomeKeeps.getD (tryPlace_keeps h) h

theorem execDistanceYieldExpiry_keeps {d relays} (h : Keeps r s) : OutKeeps r (execDistanceYieldExpiry d relays s) := by
  unfold execDistanceYieldExpiry
  split
  · exact h
  · split
    · exact h
    · exact SomeKeeps.getD (tryPlace_keeps (preemptOn_keeps h)) h

theorem execDispatchResume_keeps {d} (h : Keeps r s) : OutKeeps r (execDispatchResume d s) := by
  unfold execDispatchResume
  split
  · exact h
  · split
    · exact h
    · split
      · exact askGrants_keeps (restoreDispatch_keeps h)
      · exact h

theorem migrateTo_keeps {c x relays} (h : Keeps r s) : Keeps r (migrateTo s c x relays) := by
  unfold migrateTo
  refine settleFences_keeps (releaseFields_keeps (askGrants_keeps (restoreDispatch_keeps (pinKeys_keeps
      (replaceCores_keeps ?_)))))
  split
  · exact saveDispatch_keeps h
  · exact h

theorem tryMigrate_keeps {d relays} (h : Keeps r s) : Keeps r (tryMigrate s d relays) := by
  unfold tryMigrate
  split
  · exact h
  · split
    · exact h
    · dsimp only
      split
      · exact migrateTo_keeps h
      · exact h

theorem execMigration_keeps {d relays} (h : Keeps r s) : OutKeeps r (execMigration d relays s) :=
  tryMigrate_keeps h

theorem rebalance_keeps {d percent} (h : Keeps r s) : Keeps r (rebalance s d percent) := by
  unfold rebalance
  split
  · exact h
  · split
    · split
      · dsimp only
        split
        · exact h
        · exact migrateTo_keeps h
      · dsimp only
        split <;> exact h
    · exact h

theorem execPlaceWindowExpiry_keeps {die} (h : Keeps r s) : OutKeeps r (execPlaceWindowExpiry die s) := by
  unfold execPlaceWindowExpiry
  dsimp only
  split
  · exact .foldl (h.same rfl) fun _ _ h => rebalance_keeps h
  · exact h

theorem redivideAt_keeps {x} (h : Keeps r s) : Keeps r (redivideAt s x) := by
  unfold redivideAt
  dsimp only
  split
  · exact saveDispatch_keeps h
  · exact settleFences_keeps (releaseFields_keeps (State.setDisp_keeps ((State.setCore_keeps
      (replaceCores_keeps h)).mem rfl id)))

theorem execStageEndRetire_keeps {d} (h : Keeps r s) : OutKeeps r (execStageEndRetire d s) := by
  unfold execStageEndRetire
  split
  · exact h
  · split
    · exact h
    · dsimp only
      split
      · exact redivideAt_keeps (State.setDisp_keeps (releaseDead_keeps h))
      · exact State.setDisp_keeps (releaseDead_keeps h)

theorem saveHaltedAll_keeps (h : Keeps r s) : Keeps r (saveHaltedAll s) := by
  unfold saveHaltedAll
  refine .foldl h fun _ _ h => ?_
  split
  · split
    · exact saveDispatch_keeps h
    · exact h
  · exact h

/-! What is kept by the mailboxes. -/

theorem State.setMb_keeps {m b} (h : Keeps r s) : Keeps r (State.setMb s m b) :=
  h.same rfl

theorem respond_keeps {m a} (h : Keeps r s) : Keeps r (respond s m a) := by
  unfold respond
  dsimp only
  split
  · exact State.interrupt_keeps (State.setMb_keeps h)
  · exact State.setMb_keeps h

theorem mbCommand_keeps {op m q hd} (hhd : ∀ t, Keeps r t → ReplyKeeps r (hd t)) (h : Keeps r s) : OutKeeps r
    (mbCommand op m q hd s) := by
  unfold mbCommand
  split
  · exact h
  · split
    · exact State.holdAtLink_keeps (State.setMb_keeps h)
    · split
      · dsimp only
        split
        · exact State.setMb_keeps h
        · split
          · exact respond_keeps (State.setMb_keeps h)
          · split
            · exact respond_keeps (hhd _ (State.setMb_keeps h))
            · exact State.setMb_keeps (hhd _ (State.setMb_keeps h))
      · dsimp only
        split
        · exact State.setMb_keeps h
        · split
          · exact respond_keeps (State.setMb_keeps h)
          · split
            · exact respond_keeps (hhd _ (wakeRest_keeps (State.setMb_keeps h)))
            · exact State.setMb_keeps (hhd _ (wakeRest_keeps (State.setMb_keeps h)))

theorem answerWaits_keeps {p} (h : Keeps r s) : Keeps r (answerWaits s p) := by
  unfold answerWaits
  refine .foldl h fun _ _ h => ?_
  split
  · exact respond_keeps h
  · exact h

theorem execDispatchRecordRead_keeps {q} (h : Keeps r s) : OutKeeps r (execDispatchRecordRead q s) := by
  unfold execDispatchRecordRead
  split
  · exact h
  · split
    · exact h
    · split
      · exact h
      · dsimp only
        split
        · split
          · exact answerWaits_keeps (readRecord_keeps h)
          · exact readRecord_keeps h
        · exact readRecord_keeps h

theorem execDispatchCommit_keeps {d} (h : Keeps r s) : OutKeeps r (execDispatchCommit d s) := by
  unfold execDispatchCommit
  split
  · exact h
  · split
    · exact h
    · split
      · exact h
      · exact answerWaits_keeps (commitDispatch_keeps h)

/-! What is kept by transactions. -/

theorem dropTxn_keeps {n} (h : Keeps r s) : Keeps r (dropTxn s n) :=
  h.same rfl

theorem cfgBegin_keeps (h : Keeps r s) : ReplyKeeps r (cfgBegin s) := by
  unfold cfgBegin
  split
  · exact h
  · exact h.same rfl

theorem cfgSet_keeps {m q} (h : Keeps r s) : ReplyKeeps r (cfgSet m q s) := by
  unfold cfgSet
  split
  · dsimp only
    split <;> exact h
  · dsimp only
    split
    · exact h
    · split
      · exact h
      · exact h.same rfl

theorem cfgCommit_keeps {q} (h : Keeps r s) : ReplyKeeps r (cfgCommit q s) := by
  unfold cfgCommit
  split
  · exact h
  · dsimp only
    split
    · exact dropTxn_keeps h
    · exact h.same rfl

theorem cfgRollback_keeps {q} (h : Keeps r s) : ReplyKeeps r (cfgRollback q s) := by
  unfold cfgRollback
  split
  · exact h
  · exact dropTxn_keeps h

theorem cfgGet_keeps {q} (h : Keeps r s) : ReplyKeeps r (cfgGet q s) := by
  unfold cfgGet
  dsimp only
  split <;> exact h

theorem execCfgBegin_keeps {m q} (h : Keeps r s) : OutKeeps r (execCfgBegin m q s) :=
  mbCommand_keeps (fun _ h => cfgBegin_keeps h) h

theorem execCfgSet_keeps {m q} (h : Keeps r s) : OutKeeps r (execCfgSet m q s) :=
  mbCommand_keeps (fun _ h => cfgSet_keeps h) h

theorem execCfgCommit_keeps {m q} (h : Keeps r s) : OutKeeps r (execCfgCommit m q s) :=
  mbCommand_keeps (fun _ h => cfgCommit_keeps h) h

theorem execCfgRollback_keeps {m q} (h : Keeps r s) : OutKeeps r (execCfgRollback m q s) :=
  mbCommand_keeps (fun _ h => cfgRollback_keeps h) h

theorem execCfgGet_keeps {m q} (h : Keeps r s) : OutKeeps r (execCfgGet m q s) :=
  mbCommand_keeps (fun _ h => cfgGet_keeps h) h

theorem execCfgTxnExpiry_keeps {txn} (h : Keeps r s) : OutKeeps r (execCfgTxnExpiry txn s) := by
  unfold execCfgTxnExpiry
  split
  · exact h
  · split
    · exact dropTxn_keeps h
    · exact h

/-! What is kept by queues, results and windows. -/

theorem queueCreate_keeps {q} (h : Keeps r s) : ReplyKeeps r (queueCreate q s) := by
  unfold queueCreate
  split
  · split
    · dsimp only
      split
      · exact h
      · split <;> exact h
    · dsimp only
      split
      · exact h
      · split
        · exact h
        · exact h.same rfl
  · exact h

theorem destroyQueue_keeps {q} (h : Keeps r s) : Keeps r (destroyQueue s q) :=
  answerWaits_keeps (h.same rfl)

theorem queueDestroy_keeps {q} (h : Keeps r s) : ReplyKeeps r (queueDestroy q s) := by
  unfold queueDestroy
  dsimp only
  split
  · exact h
  · split
    · exact h
    · exact destroyQueue_keeps h

theorem spadRelease_keeps {q} (h : Keeps r s) : ReplyKeeps r (spadRelease q s) := by
  unfold spadRelease
  dsimp only
  split
  · split
    · exact h
    · exact h.mem rfl id
  · split
    · exact h
    · exact h.mem rfl id

theorem hwinSet_keeps {q} (h : Keeps r s) : ReplyKeeps r (hwinSet q s) := by
  unfold hwinSet
  dsimp only
  split
  · exact h
  · split
    · exact h.same rfl
    · split
      · exact h.same rfl
      · exact h

theorem markRead_keeps {q} (h : Keeps r s) : ReplyKeeps r (markRead q s) := by
  unfold markRead
  dsimp only
  split
  · exact h
  · split <;> exact h

theorem markSet_keeps {q} (h : Keeps r s) : ReplyKeeps r (markSet q s) := by
  unfold markSet
  split
  · dsimp only
    split <;> exact h
  · dsimp only
    split
    · exact h
    · exact State.setMark_keeps h

theorem resultGet_keeps {q} (h : Keeps r s) : ReplyKeeps r (resultGet q s) := by
  unfold resultGet
  split <;> exact h

theorem resultRelease_keeps {q} (h : Keeps r s) : ReplyKeeps r (resultRelease q s) := by
  unfold resultRelease
  split
  · exact h
  · exact h
  · exact h.same rfl

theorem abortDispatch_keeps {q} (h : Keeps r s) : ReplyKeeps r (abortDispatch q s) := by
  unfold abortDispatch
  split
  · exact h
  · exact h
  · dsimp only
    split
    · exact State.setDisp_keeps h
    · exact h

theorem eventRing_keeps {q} (h : Keeps r s) : ReplyKeeps r (eventRing q s) := by
  unfold eventRing
  dsimp only
  split
  · exact h
  · exact .foldl (h.same rfl) fun _ _ h => State.ringPut_keeps h

theorem execQueueCreate_keeps {m q} (h : Keeps r s) : OutKeeps r (execQueueCreate m q s) :=
  mbCommand_keeps (fun _ h => queueCreate_keeps h) h

theorem execQueueDestroy_keeps {m q} (h : Keeps r s) : OutKeeps r (execQueueDestroy m q s) :=
  mbCommand_keeps (fun _ h => queueDestroy_keeps h) h

theorem execSpadRelease_keeps {m q} (h : Keeps r s) : OutKeeps r (execSpadRelease m q s) :=
  mbCommand_keeps (fun _ h => spadRelease_keeps h) h

theorem execHwinSet_keeps {m q} (h : Keeps r s) : OutKeeps r (execHwinSet m q s) :=
  mbCommand_keeps (fun _ h => hwinSet_keeps h) h

theorem execMarkRead_keeps {m q} (h : Keeps r s) : OutKeeps r (execMarkRead m q s) :=
  mbCommand_keeps (fun _ h => markRead_keeps h) h

theorem execMarkSet_keeps {m q} (h : Keeps r s) : OutKeeps r (execMarkSet m q s) :=
  mbCommand_keeps (fun _ h => markSet_keeps h) h

theorem execResultGet_keeps {m q} (h : Keeps r s) : OutKeeps r (execResultGet m q s) :=
  mbCommand_keeps (fun _ h => resultGet_keeps h) h

theorem execResultRelease_keeps {m q} (h : Keeps r s) : OutKeeps r (execResultRelease m q s) :=
  mbCommand_keeps (fun _ h => resultRelease_keeps h) h

theorem execAbort_keeps {m q} (h : Keeps r s) : OutKeeps r (execAbort m q s) :=
  mbCommand_keeps (fun _ h => abortDispatch_keeps h) h

theorem execEventRing_keeps {m q} (h : Keeps r s) : OutKeeps r (execEventRing m q s) :=
  mbCommand_keeps (fun _ h => eventRing_keeps h) h

/-! What is kept by collectives. -/

theorem State.setColl_keeps {k} (h : Keeps r s) : Keeps r (State.setColl s k) :=
  h.same rfl

theorem collSend_keeps {m msg} (h : Keeps r s) : Keeps r (collSend s m msg) := by
  unfold collSend
  split
  · exact h
  · exact State.guard_keeps ((State.draw_keeps h).same rfl)

theorem sendSetup_keeps {k m} (h : Keeps r s) : Keeps r (sendSetup s k m) :=
  collSend_keeps h

theorem tell_keeps {ms f} (h : Keeps r s) : Keeps r (tell s ms f) :=
  .foldl h fun _ _ h => collSend_keeps h

theorem landChunk_keeps {k i ws marked} (h : Keeps r s) : Keeps r (landChunk s k i ws marked) :=
  State.writeSpans_keeps h

theorem reduceChunk_keeps {c k i} (h : Keeps r s) : Keeps r (reduceChunk s c k i).1 := by
  unfold reduceChunk
  split
  · exact h
  · split
    · split
      · exact landChunk_keeps h
      · dsimp only
        split
        · exact h
        · exact collSend_keeps h

theorem castChunk_keeps {k m i} (h : Keeps r s) : Keeps r (castChunk s k m i).1 := by
  unfold castChunk
  split
  · split
    · dsimp only
      split <;> exact h
    · dsimp only
      split
      · exact collSend_keeps h
      · exact h
  · split
    · dsimp only
      split <;> exact h
    · dsimp only
      split
      · exact collSend_keeps h
      · exact h

theorem collDone_keeps {k} (h : Keeps r s) : Keeps r (collDone s k) := by
  unfold collDone
  split
  · exact State.signal_keeps h
  · exact h

theorem endRound_keeps {k} (h : Keeps r s) : Keeps r (endRound s k) :=
  State.setColl_keeps (tell_keeps (collDone_keeps h))

theorem pump_keeps {c k} (h : Keeps r s) : Keeps r (pump s c k) := by
  unfold pump
  split
  · dsimp only
    split
    · refine endRound_keeps ?_
      split
      · exact State.setColl_keeps (.foldlFst h fun _ _ h => .foldlFst h fun _ _ h => castChunk_keeps h)
      · exact State.writeSpans_keeps (State.setColl_keeps (.foldlFst h fun _ _ h => .foldlFst h fun _ _ h => castChunk_keeps h))
    · exact State.setColl_keeps (.foldlFst h fun _ _ h => .foldlFst h fun _ _ h => castChunk_keeps h)
  · dsimp only
    split
    · refine endRound_keeps ?_
      split
      · exact State.setColl_keeps (.foldlFst h fun _ _ h => reduceChunk_keeps h)
      · exact State.writeSpans_keeps (State.setColl_keeps (.foldlFst h fun _ _ h => reduceChunk_keeps h))
    · exact State.setColl_keeps (.foldlFst h fun _ _ h => reduceChunk_keeps h)

theorem runColl_keeps {k} (h : Keeps r s) : Keeps r (runColl s k) := by
  unfold runColl
  split
  · exact h
  · split
    · exact pump_keeps (State.setColl_keeps (tell_keeps h))
    · split
      · exact pump_keeps h
      · exact h

theorem runColls_keeps (h : Keeps r s) : Keeps r (runColls s) := by
  unfold runColls
  refine .foldl h fun _ _ h => ?_
  split
  · exact runColl_keeps h
  · exact h

theorem settleSetup_keeps {k} (h : Keeps r s) : Keeps r (settleSetup s k) := by
  unfold settleSetup
  split <;> exact State.setColl_keeps h

theorem endColl_keeps {k st f} (h : Keeps r s) : Keeps r (endColl s k st f) :=
  State.setColl_keeps h

theorem orphan_keeps {k} (h : Keeps r s) : Keeps r (orphan s k) :=
  endColl_keeps (tell_keeps h)

theorem reform_keeps {k mask} (h : Keeps r s) : Keeps r (reform s k mask) := by
  unfold reform
  split
  · exact State.setColl_keeps h
  · dsimp only
    split
    · exact endColl_keeps (tell_keeps h)
    · exact State.setColl_keeps (tell_keeps h)

theorem childGone_keeps {k m} (h : Keeps r s) : Keeps r (childGone s k m) := by
  unfold childGone
  split
  · exact reform_keeps h
  · split
    · exact collSend_keeps h
    · exact State.setColl_keeps (tell_keeps (collSend_keeps h))

theorem modGone_keeps {k m} (h : Keeps r s) : Keeps r (modGone s k m) := by
  unfold modGone
  split
  · exact State.setColl_keeps h
  · split
    · exact h
    · split
      · exact orphan_keeps h
      · split
        · exact childGone_keeps h
        · exact h

theorem departColls_keeps {m} (h : Keeps r s) : Keeps r (departColls s m) := by
  unfold departColls
  refine .foldl h fun _ _ h => ?_
  split
  · exact modGone_keeps h
  · exact h

theorem arriveColls_keeps {m} (h : Keeps r s) : Keeps r (arriveColls s m) := by
  unfold arriveColls
  refine .foldl h fun _ _ h => ?_
  split
  · split
    · exact settleSetup_keeps (sendSetup_keeps h)
    · exact h
  · exact h

theorem leaveColls_keeps (h : Keeps r s) : Keeps r (leaveColls s) := by
  unfold leaveColls
  refine .foldl h fun _ _ h => ?_
  split
  · split
    · exact h
    · exact endColl_keeps h
  · exact h

theorem dropKept_keeps (h : Keeps r s) : Keeps r (dropKept s) :=
  h.mem rfl id

theorem removeColl_keeps {k} (h : Keeps r s) : Keeps r (removeColl s k) := by
  unfold removeColl
  split
  · exact dropKept_keeps (h.same rfl)
  · dsimp only
    split
    · exact dropKept_keeps ((tell_keeps h).same rfl)
    · exact dropKept_keeps ((collSend_keeps (tell_keeps h)).same rfl)

theorem collCreate_keeps {q} (h : Keeps r s) : ReplyKeeps r (collCreate q s) := by
  unfold collCreate
  split
  · exact h
  · split
    · exact h
    · exact settleSetup_keeps (.foldl (h.same rfl) fun _ _ h => sendSetup_keeps h)

theorem collDestroy_keeps {q} (h : Keeps r s) : ReplyKeeps r (collDestroy q s) := by
  unfold collDestroy
  split
  · exact h
  · exact removeColl_keeps h

theorem collStatus_keeps {q} (h : Keeps r s) : ReplyKeeps r (collStatus q s) := by
  unfold collStatus
  split <;> exact h

theorem staleColl_keeps {k} (h : Keeps r s) : Keeps r (staleColl s k) :=
  countStalePut_keeps h

theorem collMsg_keeps {i c fromParent inTime f} (h : Keeps r s) (hf : ∀ x0 x1, Keeps r x0 → Keeps r (f x0 x1)) : OutKeeps r
    (collMsg i s c fromParent inTime f) := by
  unfold collMsg
  split
  · split
    · exact h
    · exact State.holdAtLink_keeps h
  · split
    · split
      · exact State.heardFrom_keeps h
      · split
        · exact staleColl_keeps (State.heardFrom_keeps h)
        · exact hf _ _ (State.heardFrom_keeps h)
    · split
      · exact State.heardFrom_keeps h
      · split
        · exact staleColl_keeps (State.heardFrom_keeps h)
        · exact hf _ _ (State.heardFrom_keeps h)

theorem setupFrom_keeps {c hash parent children below} (h : Keeps r s) : Keeps r
    (setupFrom s c hash parent children below) := by
  unfold setupFrom
  split
  · exact h
  · dsimp only
    split
    · exact h
    · split
      · exact endColl_keeps h
      · split
        · exact endColl_keeps (sendSetup_keeps h)
        · refine settleSetup_keeps ?_
          split
          · refine sendSetup_keeps ?_
            split
            · exact sendSetup_keeps h
            · exact h
          · split
            · exact sendSetup_keeps h
            · exact h

theorem execCollSetup_keeps {c hash parent children below} (h : Keeps r s) : OutKeeps r
    (execCollSetup c hash parent children below s) := by
  unfold execCollSetup
  split
  · exact h
  · split
    · exact State.holdAtLink_keeps h
    · exact setupFrom_keeps (State.heardFrom_keeps h)

theorem chunkIn_keeps {k m i ws marked} (h : Keeps r s) : Keeps r (chunkIn s k m i ws marked) := by
  unfold chunkIn
  split
  · exact h
  · split
    · exact h
    · split
      · exact h
      · dsimp only
        split
        · exact pump_keeps h
        · refine pump_keeps ?_
          split
          · exact collSend_keeps (landChunk_keeps h)
          · exact landChunk_keeps h

theorem execCollChunk_keeps {c i ws marked} (h : Keeps r s) : OutKeeps r (execCollChunk c i ws marked s) := by
  unfold execCollChunk
  exact collMsg_keeps h fun _ _ h => chunkIn_keeps h

theorem execCollCommit_keeps {c} (h : Keeps r s) : OutKeeps r (execCollCommit c s) := by
  unfold execCollCommit
  refine collMsg_keeps h fun _ _ h => ?_
  split
  · exact endRound_keeps h
  · exact h

theorem execCollDepart_keeps {c mask} (h : Keeps r s) : OutKeeps r (execCollDepart c mask s) := by
  unfold execCollDepart
  refine collMsg_keeps h fun _ _ h => ?_
  split
  · split
    · exact h
    · exact reform_keeps h
  · exact collSend_keeps h

theorem execCollOrphan_keeps {c} (h : Keeps r s) : OutKeeps r (execCollOrphan c s) :=
  collMsg_keeps h fun _ _ h => orphan_keeps h

theorem execCollAbandon_keeps {c} (h : Keeps r s) : OutKeeps r (execCollAbandon c s) := by
  unfold execCollAbandon
  refine collMsg_keeps h fun _ _ h => ?_
  split
  · split
    · exact endColl_keeps h
    · exact State.setColl_keeps h
  · split
    · exact endColl_keeps (tell_keeps h)
    · exact State.setColl_keeps (tell_keeps h)

theorem restartWith_keeps {k members attempt} (h : Keeps r s) : Keeps r (restartWith s k members attempt) := by
  unfold restartWith
  refine .foldl (runColl_keeps (tell_keeps (State.setColl_keeps h))) fun _ _ h => ?_
  split
  · split
    · exact h
    · exact childGone_keeps h
  · exact h

theorem execCollRestart_keeps {c members} (h : Keeps r s) : OutKeeps r (execCollRestart c members s) := by
  unfold execCollRestart
  refine collMsg_keeps h fun _ _ h => ?_
  split
  · exact restartWith_keeps h
  · exact h

theorem execReformTimeout_keeps {c} (h : Keeps r s) : OutKeeps r (execReformTimeout c s) := by
  unfold execReformTimeout
  split
  · exact h
  · split
    · exact restartWith_keeps h
    · exact h

theorem execCollChunkCredit_keeps {c n} (h : Keeps r s) : OutKeeps r (execCollChunkCredit c n s) := by
  unfold execCollChunkCredit
  exact collMsg_keeps h fun _ _ h => runColl_keeps (State.setColl_keeps h)

theorem execCollChunkAck_keeps {c member} (h : Keeps r s) : OutKeeps r (execCollChunkAck c member s) := by
  unfold execCollChunkAck
  refine collMsg_keeps h fun _ _ h => ?_
  split
  · exact runColl_keeps (State.setColl_keeps h)
  · exact collSend_keeps h

theorem execCollCreate_keeps {m q} (h : Keeps r s) : OutKeeps r (execCollCreate m q s) :=
  mbCommand_keeps (fun _ h => collCreate_keeps h) h

theorem execCollDestroy_keeps {m q} (h : Keeps r s) : OutKeeps r (execCollDestroy m q s) :=
  mbCommand_keeps (fun _ h => collDestroy_keeps h) h

theorem execCollStatus_keeps {m q} (h : Keeps r s) : OutKeeps r (execCollStatus m q s) :=
  mbCommand_keeps (fun _ h => collStatus_keeps h) h

/-! What is kept by ports and modules. -/

theorem peerEvent_keeps {event port peer cause serial} (h : Keeps r s) : Keeps r (peerEvent s event port peer cause serial) :=
  State.post_keeps h

theorem mrExtend_keeps {i v} (h : Keeps r s) : Keeps r (mrExtend s i v) :=
  h.same rfl

theorem dropSession_keeps {p} (h : Keeps r s) : Keeps r (dropSession s p) :=
  h.same rfl

theorem toIdent_keeps {p} (h : Keeps r s) : Keeps r (toIdent s p) :=
  State.emit_keeps (State.modPort_keeps (dropSession_keeps h))

theorem refusePort_keeps {p cause} (h : Keeps r s) : Keeps r (refusePort s p cause) :=
  peerEvent_keeps (State.modPort_keeps h)

theorem dropGrants_keeps {p tellFar} (h : Keeps r s) : Keeps r (dropGrants s p tellFar) := by
  unfold dropGrants
  split
  · exact cancelAll_keeps h
  · exact h.same rfl

theorem dropStream_keeps {x t tellFar} (h : Keeps r s) : Keeps r (dropStream s x t tellFar) := by
  unfold dropStream
  split
  · refine cancelStream_keeps ?_
    split
    · exact tellCancel_keeps h
    · exact h
  · dsimp only
    split
    · split
      · exact State.setDisp_keeps h
      · exact State.stop_keeps h
    · exact h

theorem dropSigs_keeps {p} (h : Keeps r s) : Keeps r (dropSigs s p) :=
  answerWaits_keeps (h.same rfl)

theorem resendColls_keeps {p} (h : Keeps r s) : Keeps r (resendColls s p) :=
  .foldl (h.same rfl) fun _ _ h => collSend_keeps h

theorem dropTraffic_keeps {p tellFar} (h : Keeps r s) : Keeps r (dropTraffic s p tellFar) := by
  unfold dropTraffic
  split
  · refine (dropSigs_keeps (.foldl (dropGrants_keeps h) fun _ _ h => ?_)).same rfl
    split
    · split
      · exact dropStream_keeps h
      · exact h
    · exact h
  · refine resendColls_keeps (dropSigs_keeps (.foldl (dropGrants_keeps h) fun _ _ h => ?_))
    split
    · split
      · exact dropStream_keeps h
      · exact h
    · exact h

theorem portLeft_keeps {p cause x} (h : Keeps r s) : Keeps r (portLeft s p cause x) := by
  unfold portLeft
  dsimp only
  split
  · exact departColls_keeps (peerEvent_keeps (peerEvent_keeps h))
  · exact peerEvent_keeps h

theorem portDown_keeps {p cause into} (h : Keeps r s) : Keeps r (portDown s p cause into) := by
  unfold portDown
  split
  · dsimp only
    split
    · exact State.modPort_keeps (dropSession_keeps h)
    · exact portLeft_keeps (State.plainErr_keeps (dropTraffic_keeps (State.modPort_keeps (dropSession_keeps h))))
  · dsimp only
    split
    · exact State.modPort_keeps (dropSession_keeps h)
    · exact portLeft_keeps (State.plainErr_keeps (dropTraffic_keeps (State.modPort_keeps (dropSession_keeps h))))

theorem execPortTrainingAttempt_keeps {p} (h : Keeps r s) : OutKeeps r (execPortTrainingAttempt p s) := by
  unfold execPortTrainingAttempt
  dsimp only
  split
  · exact State.modPort_keeps h
  · exact h

theorem execPortTrainingComplete_keeps {p ok} (h : Keeps r s) : OutKeeps r (execPortTrainingComplete p ok s) := by
  unfold execPortTrainingComplete
  dsimp only
  split
  · exact h
  · split
    · exact toIdent_keeps h
    · exact portDown_keeps h

theorem activate_keeps {p} (h : Keeps r s) : Keeps r (activate s p) := by
  unfold activate
  dsimp only
  split
  · exact arriveColls_keeps (peerEvent_keeps (peerEvent_keeps (State.modPort_keeps h)))
  · exact peerEvent_keeps (State.modPort_keeps h)

theorem tryAdmit_keeps {p} (h : Keeps r s) : Keeps r (tryAdmit s p) := by
  unfold tryAdmit
  split
  · dsimp only
    split
    · exact h
    · exact refusePort_keeps (State.emit_keeps h)
  · dsimp only
    split
    · exact h
    · split
      · refine activate_keeps ?_
        split
        · exact h
        · exact State.emit_keeps (State.modPort_keeps h)
      · split
        · exact h
        · exact State.emit_keeps (State.modPort_keeps h)

theorem identIn_keeps {p m} (h : Keeps r s) : Keeps r (identIn s p m) := by
  unfold identIn
  split
  · split
    · dsimp only
      split
      · split
        · exact portDown_keeps h
        · exact refusePort_keeps h
      · exact h
      · exact State.modPort_keeps h
      · exact tryAdmit_keeps (State.modPort_keeps h)
      · exact h
    · dsimp only
      split
      · split
        · exact portDown_keeps h
        · exact refusePort_keeps h
      · exact h
      · exact h
      · exact h
      · exact h
  · split
    · dsimp only
      split
      · split
        · exact portDown_keeps h
        · exact State.modPort_keeps h
      · exact State.modPort_keeps (toIdent_keeps h)
      · exact State.modPort_keeps h
      · exact tryAdmit_keeps (State.modPort_keeps h)
      · exact h
    · dsimp only
      split
      · split
        · exact portDown_keeps h
        · exact State.modPort_keeps h
      · exact State.modPort_keeps (toIdent_keeps h)
      · exact h
      · exact h
      · exact h

theorem execIdent_keeps {p m} (h : Keeps r s) : OutKeeps r (execIdent p m s) := by
  unfold execIdent
  split
  · exact identIn_keeps (State.heardOn_keeps h)
  · exact h

theorem execIdentTimeout_keeps {p} (h : Keeps r s) : OutKeeps r (execIdentTimeout p s) := by
  unfold execIdentTimeout
  dsimp only
  split
  · exact portDown_keeps h
  · exact h

theorem portSession_keeps {p} (h : Keeps r s) : Keeps r (portSession s p) := by
  unfold portSession
  split
  · exact h
  · exact (State.draw_keeps h).same rfl

theorem execPortAttestComplete_keeps {p q} (h : Keeps r s) : OutKeeps r (execPortAttestComplete p q s) := by
  unfold execPortAttestComplete
  dsimp only
  split
  · exact h
  · split
    · exact tryAdmit_keeps (State.modPort_keeps (portSession_keeps (State.heardOn_keeps h)))
    · exact refusePort_keeps h

theorem execAttestTimeout_keeps {p} (h : Keeps r s) : OutKeeps r (execAttestTimeout p s) := by
  unfold execAttestTimeout
  dsimp only
  split
  · exact refusePort_keeps h
  · exact h

theorem execAdmissionMessage_keeps {p yes} (h : Keeps r s) : OutKeeps r (execAdmissionMessage p yes s) := by
  unfold execAdmissionMessage
  split
  · split
    · dsimp only
      split
      · exact State.modPort_keeps (State.heardOn_keeps h)
      · exact tryAdmit_keeps (State.modPort_keeps (State.heardOn_keeps h))
      · exact State.heardOn_keeps h
    · dsimp only
      split
      · exact State.modPort_keeps (State.heardOn_keeps h)
      · exact refusePort_keeps (State.heardOn_keeps h)
      · exact State.heardOn_keeps h
  · split
    · dsimp only
      split
      · exact State.modPort_keeps h
      · exact tryAdmit_keeps (State.modPort_keeps h)
      · exact h
    · dsimp only
      split
      · exact State.modPort_keeps h
      · exact refusePort_keeps h
      · exact h

theorem portBounds_keeps (h : Keeps r s) : Keeps r (portBounds s) := by
  unfold portBounds
  refine .foldl h fun _ _ h => ?_
  dsimp only
  split
  · exact portDown_keeps h
  · split
    · exact refusePort_keeps h
    · exact h

theorem execLaneLossOfLock_keeps {p} (h : Keeps r s) : OutKeeps r (execLaneLossOfLock p s) := by
  unfold execLaneLossOfLock
  split
  · exact portDown_keeps h
  · exact h

theorem execLinkDeadTimer_keeps {p} (h : Keeps r s) : OutKeeps r (execLinkDeadTimer p s) := by
  unfold execLinkDeadTimer
  dsimp only
  split
  · exact portDown_keeps h
  · exact h

theorem execIdleFlitSend_keeps {p} (h : Keeps r s) : OutKeeps r (execIdleFlitSend p s) := by
  unfold execIdleFlitSend
  split
  · exact State.emit_keeps (State.modPort_keeps h)
  · exact h

theorem execGcmTagFailure_keeps {p} (h : Keeps r s) : OutKeeps r (execGcmTagFailure p s) := by
  unfold execGcmTagFailure
  dsimp only
  split
  · exact portDown_keeps (peerEvent_keeps h)
  · exact h

theorem execPeerMarkSignal_keeps {p fromCtx mark amount tag} (h : Keeps r s) : OutKeeps r
    (execPeerMarkSignal p fromCtx mark amount tag s) := by
  unfold execPeerMarkSignal
  split
  · dsimp only
    split
    · exact h
    · exact State.holdAtLink_keeps h
  · dsimp only
    split
    · exact h
    · split
      · exact State.emit_keeps (addMark_keeps (State.heardOn_keeps h))
      · exact State.emit_keeps (State.heardOn_keeps h)

theorem execPeerMarkAck_keeps {p tag denied} (h : Keeps r s) : OutKeeps r (execPeerMarkAck p tag denied s) := by
  unfold execPeerMarkAck
  split
  · exact h
  · exact answerWaits_keeps (h.same rfl)

theorem markSignal_keeps {m q} (h : Keeps r s) : ReplyKeeps r (markSignal m q s) := by
  unfold markSignal
  dsimp only
  split
  · exact h
  · split
    · split
      · exact h
      · split
        · exact addMark_keeps h
        · exact h
    · split
      · exact h
      · exact State.emit_keeps (h.same rfl)

theorem systemJoin_keeps {q} (h : Keeps r s) : ReplyKeeps r (systemJoin q s) := by
  unfold systemJoin
  dsimp only
  split
  · exact h
  · split
    · exact h
    · split
      · exact h
      · simp only [ReplyKeeps, reply]
        refine Keeps.foldl (mrExtend_keeps (h.same rfl)) fun _ _ h => ?_
        split
        · exact toIdent_keeps h
        · split
          · exact State.emit_keeps h
          · exact h
        · split
          · exact State.emit_keeps h
          · exact h
        · split
          · exact tryAdmit_keeps (State.emit_keeps (State.modPort_keeps h))
          · exact h
        · exact h

theorem finishLeave_keeps (h : Keeps r s) : Keeps r (finishLeave s) := by
  unfold finishLeave
  refine answerWaits_keeps (.foldl (mrExtend_keeps (.foldl (.foldl (leaveColls_keeps ((Keeps.foldl (.foldl (.foldl h
      fun _ _ h => dropTraffic_keeps h) fun _ _ h => State.emit_keeps h) fun _ _ h => State.modPort_keeps h).same rfl))
      fun _ _ h => peerEvent_keeps h) fun _ _ h => ?_)) fun _ _ h => toIdent_keeps h)
  split
  · exact peerEvent_keeps h
  · exact h

theorem settleLeave_keeps (h : Keeps r s) : Keeps r (settleLeave s) := by
  unfold settleLeave
  split
  · exact finishLeave_keeps h
  · exact h

theorem beginLeave_keeps (h : Keeps r s) : Keeps r (beginLeave s) :=
  h.same rfl

theorem systemLeave_keeps (h : Keeps r s) : ReplyKeeps r (systemLeave s) := by
  unfold systemLeave
  dsimp only
  split
  · exact finishLeave_keeps (beginLeave_keeps h)
  · exact beginLeave_keeps h

theorem execLeaveDrainExpiry_keeps (h : Keeps r s) : OutKeeps r (execLeaveDrainExpiry s) := by
  unfold execLeaveDrainExpiry
  split
  · exact h
  · split
    · exact finishLeave_keeps h
    · exact h

theorem leaveIn_keeps {p} (h : Keeps r s) : Keeps r (leaveIn s p) := by
  unfold leaveIn
  dsimp only
  split
  · exact .foldl (departColls_keeps (peerEvent_keeps (.foldl (.foldl (.foldl h fun _ _ h => State.modPort_keeps h)
      fun _ _ h => dropTraffic_keeps h) fun _ _ h => peerEvent_keeps h))) fun _ _ h => toIdent_keeps (State.modPort_keeps h)
  · split
    · exact toIdent_keeps (State.modPort_keeps h)
    · exact toIdent_keeps (State.modPort_keeps h)
    · exact toIdent_keeps (State.modPort_keeps h)
    · exact h

theorem execLeave_keeps {p} (h : Keeps r s) : OutKeeps r (execLeave p s) := by
  unfold execLeave
  split
  · exact leaveIn_keeps (State.heardOn_keeps h)
  · exact h

theorem execMarkSignal_keeps {m q} (h : Keeps r s) : OutKeeps r (execMarkSignal m q s) :=
  mbCommand_keeps (fun _ h => markSignal_keeps h) h

theorem execSystemJoin_keeps {m q} (h : Keeps r s) : OutKeeps r (execSystemJoin m q s) :=
  mbCommand_keeps (fun _ h => systemJoin_keeps h) h

theorem execSystemLeave_keeps {m q} (h : Keeps r s) : OutKeeps r (execSystemLeave m q s) :=
  mbCommand_keeps (fun _ h => systemLeave_keeps h) h

theorem portsEnable_keeps (h : Keeps r s) : Keeps r (portsEnable s) := by
  unfold portsEnable
  refine .foldl h fun _ _ h => ?_
  split
  · dsimp only
    split
    · exact State.modPort_keeps h
    · exact h
  · dsimp only
    split
    · exact h
    · exact portDown_keeps h

/-! What is kept by Vault routines. -/

theorem vaultArgs_keeps {x q unused} : Halts r (vaultArgs x q unused) :=
  .guard fail_keeps fun _ => need_keeps

theorem vaultKeysOk_keeps {c keyset routine slots} : Halts r (vaultKeysOk c keyset routine slots) :=
  need_keeps

theorem vaultIn_keeps {s x c q n} : Halts r (vaultIn s x c q n) :=
  .bind objSrc_keeps fun _ => .bind need_keeps fun _ => trivial

theorem vaultDone_keeps {v : VCall} {x c n} (h : Keeps r v.state) : Keeps r (vaultDone v x c n) :=
  .foldlFst (State.setDisp_keeps (touchReads_keeps (fillBuffers_keeps (State.setCore_keeps (State.draw_keeps h)))))
    fun _ _ h => finishObj_keeps h

theorem vaultEnd_keeps {call : State → Dispatch → Ctx → Except Halt VCall} {x c n}
    (hcall : Runs r (fun v => Keeps r v.state) (call s x c)) : Runs r (Keeps r) (vaultEnd call s x c n) :=
  .bindCall hcall fun _ h => .bind free_keeps fun _ => .bind need_keeps fun _ => vaultDone_keeps h

theorem vaultPre_keeps (h : Keeps r s) : Keeps r (vaultPre s).2 :=
  State.draw_keeps h

theorem vaultCkks_keeps {routine x c} (h : Keeps r s) : Runs r (fun v => Keeps r v.state) (vaultCkks routine s x c) := by
  unfold vaultCkks
  refine .bind need_keeps fun _ => .guard fail_keeps fun _ => .bind vaultIn_keeps fun _ => .bind vaultArgs_keeps fun _ =>
      .bind ?_ fun _ => .bind vaultKeysOk_keeps fun _ => .bind need_keeps fun _ => .bind (.bind resolve_keeps fun _ =>
      .bind objDst_keeps fun _ => trivial) fun _ => .bind ?_ fun _ => vaultPre_keeps h
  · split
    · exact .bind vaultIn_keeps fun _ => .bind need_keeps fun _ => trivial
    · exact trivial
  · split
    · exact .bind (.bind resolve_keeps fun _ => .bind objDst_keeps fun _ => trivial) fun _ => trivial
    · exact trivial

theorem gateKey_keeps {s c src kind galois} : Halts r (gateKey s c src kind galois) := by
  unfold gateKey
  split
  · exact fail_keeps
  · split
    · exact fail_keeps
    · split
      · exact fail_keeps
      · exact trivial

theorem vaultExtract_keeps {x c} (h : Keeps r s) : Runs r (fun v => Keeps r v.state) (vaultExtract s x c) :=
  .bind need_keeps fun _ => .bind vaultArgs_keeps fun _ => .bind objSrc_keeps fun _ => .bind need_keeps fun _ =>
      .bind need_keeps fun _ => .bind need_keeps fun _ => .bind gateKey_keeps fun _ => .bind resolve_keeps fun _ =>
      .bind objDst_keeps fun _ => h

theorem vaultPbs_keeps {x c} (h : Keeps r s) : Runs r (fun v => Keeps r v.state) (vaultPbs s x c) :=
  .bind need_keeps fun _ => .bind vaultArgs_keeps fun _ => .bind objSrc_keeps fun _ => .bind resolve_keeps fun _ =>
      .bind need_keeps fun _ => .bind lift_keeps fun _ => .bind gateKey_keeps fun _ => .bind gateKey_keeps fun _ =>
      .bind resolve_keeps fun _ => .bind objDst_keeps fun _ => h

theorem vaultRepack_keeps {x c} (h : Keeps r s) : Runs r (fun v => Keeps r v.state) (vaultRepack s x c) := by
  unfold vaultRepack
  refine .bind need_keeps fun _ => .bind vaultArgs_keeps fun _ => .bind objSrc_keeps fun _ => .bind vaultIn_keeps fun _ =>
    .bind need_keeps fun _ => .bind vaultKeysOk_keeps fun _ => .bind need_keeps fun _ => ?_
  exact .bind resolve_keeps fun _ => .bind objDst_keeps fun _ => h.same rfl

theorem vaultBootExact_keeps {x c} (h : Keeps r s) : Runs r (fun v => Keeps r v.state) (vaultBootExact s x c) := by
  unfold vaultBootExact
  refine .bind need_keeps fun _ => .bind vaultArgs_keeps fun _ => .bind objSrc_keeps fun _ => .bind need_keeps fun _ =>
    .bind vaultKeysOk_keeps fun _ => ?_
  exact .bind resolve_keeps fun _ => .bind objDst_keeps fun _ => h.same rfl

theorem execVltModraise_keeps {d} (h : Keeps r s) : OutKeeps r (execVltModraise d s) :=
  issue_keeps h fun _ _ _ => vaultEnd_keeps (vaultCkks_keeps h)

theorem execVltCts_keeps {d} (h : Keeps r s) : OutKeeps r (execVltCts d s) :=
  issue_keeps h fun _ _ _ => vaultEnd_keeps (vaultCkks_keeps h)

theorem execVltEvalmod_keeps {d} (h : Keeps r s) : OutKeeps r (execVltEvalmod d s) :=
  issue_keeps h fun _ _ _ => vaultEnd_keeps (vaultCkks_keeps h)

theorem execVltStc_keeps {d} (h : Keeps r s) : OutKeeps r (execVltStc d s) :=
  issue_keeps h fun _ _ _ => vaultEnd_keeps (vaultCkks_keeps h)

theorem execVltBoot_keeps {d} (h : Keeps r s) : OutKeeps r (execVltBoot d s) :=
  issue_keeps h fun _ _ _ => vaultEnd_keeps (vaultCkks_keeps h)

theorem execVltExtract_keeps {d} (h : Keeps r s) : OutKeeps r (execVltExtract d s) :=
  issue_keeps h fun _ _ _ => vaultEnd_keeps (vaultExtract_keeps h)

theorem execVltPbs_keeps {d} (h : Keeps r s) : OutKeeps r (execVltPbs d s) :=
  issue_keeps h fun _ _ _ => vaultEnd_keeps (vaultPbs_keeps h)

theorem execVltRepack_keeps {d} (h : Keeps r s) : OutKeeps r (execVltRepack d s) :=
  issue_keeps h fun _ _ _ => vaultEnd_keeps (vaultRepack_keeps h)

theorem execVltBootExact_keeps {d} (h : Keeps r s) : OutKeeps r (execVltBootExact d s) :=
  issue_keeps h fun _ _ _ => vaultEnd_keeps (vaultBootExact_keeps h)

/-! What is kept by key sets. -/

theorem loadKey_keeps {c id done va} (h : Keeps r s) : Keeps r (loadKey s c id done va).1 := by
  unfold loadKey
  split
  next hp => exact readerRec_keeps (Keeps.fst (readerRead_keeps h) hp)
  next hp =>
    have hread := Keeps.fst (readerRead_keeps h) hp
    dsimp only
    split
    · exact hread
    · split
      · exact hread
      · split
        · exact hread
        · split
          next hq => exact readerRec_keeps (Keeps.fst (readerRead_keeps hread) hq)
          next hq =>
            have hbody := Keeps.fst (readerRead_keeps hread) hq
            split
            · exact hbody
            · split <;> exact hbody

theorem loadKeys_keeps {c id done i vas} (h : Keeps r s) : Keeps r (loadKeys s c id done i vas).1 := by
  induction vas generalizing s done i with
  | nil => exact h
  | cons va t ih =>
    unfold loadKeys
    split
    next hp => exact Keeps.fst (loadKey_keeps h) hp
    next hp => exact ih (Keeps.fst (loadKey_keeps h) hp)

theorem keysetLoad_keeps {q} (h : Keeps r s) : ReplyKeeps r (keysetLoad q s) := by
  unfold keysetLoad
  split
  · exact h
  · dsimp only
    split
    · exact h
    · split
      · exact Keeps.fst (loadKeys_keeps h) ‹_›
      · split
        · exact Keeps.fst (loadKeys_keeps h) ‹_›
        · exact State.setCtx_keeps (Keeps.fst (loadKeys_keeps h) ‹_›)

theorem dropCopies_keeps {p} (h : Keeps r s) : Keeps r (dropCopies s p) :=
  settleCopies_keeps (.foldl (h.same rfl) fun _ _ h => endDma_keeps h)

theorem settlePins_keeps (h : Keeps r s) : Keeps r (settlePins s) := by
  unfold settlePins
  refine .foldl h fun _ _ h => ?_
  split
  · exact h
  · dsimp only
    split
    · exact respond_keeps h
    · split
      · exact respond_keeps h
      · split
        · exact h
        · exact respond_keeps h

theorem keysetUnload_keeps {q} (h : Keeps r s) : ReplyKeeps r (keysetUnload q s) := by
  unfold keysetUnload
  split
  · exact h
  · split
    · dsimp only
      split <;> exact h
    · dsimp only
      split
      · exact h
      · exact settlePins_keeps (State.setCtx_keeps (dropCopies_keeps h))

theorem pinOn_keeps {ctx k bytes die} (h : Keeps r s) : SomeKeeps r (pinOn s ctx k bytes die) := by
  unfold pinOn
  split
  · dsimp only
    split
    · exact trivial
    · exact h.same rfl
  · dsimp only
    split
    · exact trivial
    · exact (makeRoom_keeps h).map fun t ht => startCopy_keeps ht

theorem keyPin_keeps {q} (h : Keeps r s) : ReplyKeeps r (keyPin q s) := by
  unfold keyPin
  dsimp only
  split
  · exact h
  · split
    · exact h
    next o _ =>
      split
      · exact h.same rfl
      · have hpins := foldl_keeps (SomeKeeps r) (fun (t : Option State) die =>
          t.bind (fun t => pinOn t q.ctx (pinKey q.payload) (1024 + o.bodyLen) die))
          (fun _ _ ht => ht.bind fun t ht => pinOn_keeps ht) (pinDies q.payload) (some s) h
        split
        · exact h
        next ht =>
          have hend := hpins.get ht
          split <;> exact hend

theorem execKeyCopyComplete_keeps {die ctx keyset kind galois} (h : Keeps r s) : OutKeeps r
    (execKeyCopyComplete die ctx keyset kind galois s) := by
  unfold execKeyCopyComplete
  dsimp only
  split
  · exact h
  · exact settlePins_keeps (endDma_keeps (h.same rfl))

theorem execResWindowExpiry_keeps {die} (h : Keeps r s) : OutKeeps r (execResWindowExpiry die s) := by
  unfold execResWindowExpiry
  split
  · exact h.same rfl
  · exact h

theorem descSet_keeps {q} (h : Keeps r s) : ReplyKeeps r (descSet q s) := by
  unfold descSet
  split
  · exact h
  · dsimp only
    split
    · exact h
    · split
      · exact h
      · exact State.setCtx_keeps h

theorem descFree_keeps {q} (h : Keeps r s) : ReplyKeeps r (descFree q s) := by
  unfold descFree
  split
  · exact h
  · dsimp only
    split
    · exact h
    · split
      · exact h
      · exact State.setCtx_keeps h

theorem ctxInfo_keeps {q} (h : Keeps r s) : ReplyKeeps r (ctxInfo q s) := by
  unfold ctxInfo
  split
  · exact h
  · split
    · dsimp only
      split
      · exact h
      · exact State.setCtx_keeps (Keeps.snd (State.draw_keeps h) ‹_›)

theorem execKeysetLoad_keeps {m q} (h : Keeps r s) : OutKeeps r (execKeysetLoad m q s) :=
  mbCommand_keeps (fun _ h => keysetLoad_keeps h) h

theorem execKeysetUnload_keeps {m q} (h : Keeps r s) : OutKeeps r (execKeysetUnload m q s) :=
  mbCommand_keeps (fun _ h => keysetUnload_keeps h) h

theorem execKeyPin_keeps {m q} (h : Keeps r s) : OutKeeps r (execKeyPin m q s) :=
  mbCommand_keeps (fun _ h => keyPin_keeps h) h

theorem execDescSet_keeps {m q} (h : Keeps r s) : OutKeeps r (execDescSet m q s) :=
  mbCommand_keeps (fun _ h => descSet_keeps h) h

theorem execDescFree_keeps {m q} (h : Keeps r s) : OutKeeps r (execDescFree m q s) :=
  mbCommand_keeps (fun _ h => descFree_keeps h) h

theorem execCtxInfo_keeps {m q} (h : Keeps r s) : OutKeeps r (execCtxInfo m q s) :=
  mbCommand_keeps (fun _ h => ctxInfo_keeps h) h

/-! What is kept by programs. -/

theorem loadTrans_keeps {k} (h : Keeps r s) : Keeps r (loadTrans s k).2 := by
  unfold loadTrans
  split
  · exact h.same rfl
  · split
    · exact h.same rfl
    · exact h

theorem installProgram_keeps {c img n} (h : Keeps r s) : ReplyKeeps r (installProgram s c img n) :=
  State.setCtx_keeps (loadTrans_keeps h)

theorem progLoad_keeps {q} (h : Keeps r s) : ReplyKeeps r (progLoad q s) := by
  unfold progLoad
  split
  · exact h
  · split
    · exact h
    · split
      · dsimp only
        split
        · exact h
        · split
          · exact readerRec_keeps (Keeps.fst (readerRead_keeps h) ‹_›)
          · split
            · exact Keeps.fst (readerRead_keeps h) ‹_›
            · split
              · exact Keeps.fst (readerRead_keeps h) ‹_›
              · split <;> exact Keeps.fst (readerRead_keeps h) ‹_›
      · split
        · dsimp only
          split
          · exact h
          · split
            · exact readerRec_keeps (Keeps.fst (readerRead_keeps h) ‹_›)
            · split
              · exact Keeps.fst (readerRead_keeps h) ‹_›
              · split
                · exact Keeps.fst (readerRead_keeps h) ‹_›
                · split <;> exact Keeps.fst (readerRead_keeps h) ‹_›
        · dsimp only
          split
          · exact h
          · split
            · exact readerRec_keeps (Keeps.fst (readerRead_keeps h) ‹_›)
            · split
              · exact Keeps.fst (readerRead_keeps h) ‹_›
              · split
                · exact Keeps.fst (readerRead_keeps h) ‹_›
                · split
                  · exact Keeps.fst (readerRead_keeps h) ‹_›
                  · exact installProgram_keeps (Keeps.fst (readerRead_keeps h) ‹_›)

theorem progUnload_keeps {q} (h : Keeps r s) : ReplyKeeps r (progUnload q s) := by
  unfold progUnload
  split
  · exact h
  · dsimp only
    split
    · exact h
    · split
      · exact h
      · exact State.setCtx_keeps h

theorem execProgLoad_keeps {m q} (h : Keeps r s) : OutKeeps r (execProgLoad m q s) :=
  mbCommand_keeps (fun _ h => progLoad_keeps h) h

theorem execProgUnload_keeps {m q} (h : Keeps r s) : OutKeeps r (execProgUnload m q s) :=
  mbCommand_keeps (fun _ h => progUnload_keeps h) h

/-! What is kept by contexts. -/

theorem ctxCreate_keeps {q} (h : Keeps r s) : ReplyKeeps r (ctxCreate q s) := by
  unfold ctxCreate
  split
  · dsimp only
    split
    · exact h
    · split
      · exact h
      · split
        · exact h
        · split
          · exact h
          · split <;> exact h
  · dsimp only
    split
    · exact h
    · split
      · exact h
      · split
        · exact h
        · split
          · exact h
          · split
            · exact h
            · exact h.same rfl

theorem abandonFills_keeps {ctx} (h : Keeps r s) : Keeps r (abandonFills s ctx) := by
  unfold abandonFills
  refine (Keeps.foldl h fun _ _ h => endDma_keeps (dropWait_keeps ?_)).same rfl
  split
  · exact State.devWr_keeps (State.draw_keeps h)
  · exact State.draw_keeps h

theorem destroyDispatch_keeps {d} (h : Keeps r s) : Keeps r (destroyDispatch s d).1 := by
  unfold destroyDispatch
  split
  · exact h
  · split
    · exact h
    · split
      · dsimp only
        split
        · exact h
        · exact answerWaits_keeps (commitDispatch_keeps (State.setDisp_keeps h))
      · dsimp only
        split
        · exact h
        · exact answerWaits_keeps (commitDispatch_keeps (State.setDisp_keeps h))

theorem dropContext_keeps {c} (h : Keeps r s) : Keeps r (dropContext s c) :=
  settlePins_keeps (answerWaits_keeps ((dropCopies_keeps (.foldl (.foldl (.foldl h fun _ _ h => destroyQueue_keeps h)
      fun _ _ h => removeColl_keeps h) fun _ _ h => .foldl h fun _ _ h => closeWindow_keeps h)).mem rfl id))

theorem destroyContext_keeps {c} (h : Keeps r s) : Keeps r (destroyContext s c).1 := by
  unfold destroyContext
  have hends := Keeps.foldlFst (a := (abandonFills s c.num, 0)) (f := fun (acc : State × Nat) (x : Dispatch) =>
      ((destroyDispatch acc.1 x.id).1, acc.2 + (destroyDispatch acc.1 x.id).2))
    (l := (abandonFills s c.num).disps.filter (·.ctx == c.num)) (abandonFills_keeps h) fun _ _ ht => destroyDispatch_keeps ht
  dsimp only
  generalize List.foldl _ _ _ = ends at hends ⊢
  split
  · exact dropContext_keeps hends
  · exact hends

theorem destroyAll_keeps (h : Keeps r s) : Keeps r (destroyAll s) := by
  unfold destroyAll
  refine .foldl h fun _ _ h => ?_
  split
  · exact destroyContext_keeps h
  · exact h

theorem ctxDestroy_keeps {q} (h : Keeps r s) : ReplyKeeps r (ctxDestroy q s) := by
  unfold ctxDestroy
  split
  · exact h
  · exact destroyContext_keeps h

theorem execCtxCreate_keeps {m q} (h : Keeps r s) : OutKeeps r (execCtxCreate m q s) :=
  mbCommand_keeps (fun _ h => ctxCreate_keeps h) h

theorem execCtxDestroy_keeps {m q} (h : Keeps r s) : OutKeeps r (execCtxDestroy m q s) :=
  mbCommand_keeps (fun _ h => ctxDestroy_keeps h) h

theorem shrinkKeys_keeps {die} (h : Keeps r s) : Keeps r (shrinkKeys s die) :=
  SomeKeeps.getD (makeRoom_keeps h) h

theorem wakeReserved_keeps (h : Keeps r s) : Keeps r (wakeReserved s) :=
  h.same rfl

theorem effectOf_keeps {id target} (h : Keeps r s) : Keeps r (effectOf s id target) := by
  unfold effectOf
  split
  · exact shrinkKeys_keeps h
  · split
    · exact h.same rfl
    · split
      · exact portsEnable_keeps h
      · split
        · exact wakeReserved_keeps h
        · split
          · exact wakeRest_keeps h
          · exact h

theorem execSettingTakeEffect_keeps {id target} (h : Keeps r s) : OutKeeps r (execSettingTakeEffect id target s) := by
  unfold execSettingTakeEffect
  split
  · exact h
  · split
    · exact h
    · exact effectOf_keeps (h.same rfl)

theorem readFuses_shape (s : State) : ∃ w v, readFuses s = mrExtend { s with rsp :=
    { s.rsp with fuseState := w } } 1 v := ⟨_, _, rfl⟩

/-! What is kept by the security processor. -/

theorem readFuses_keeps (h : Keeps r s) : Keeps r (readFuses s) := by
  obtain ⟨w, v, e⟩ := readFuses_shape s
  rw [e]
  exact mrExtend_keeps (h.same rfl)

theorem blow_keeps {f} (h : Keeps r s) (hf : FusesForward s.rsp.fuses (f s.rsp.fuses)) : Keeps r (blow s f) :=
  readFuses_keeps ⟨h.queue, h.fuses.trans hf, h.mems⟩

theorem FusesForward.provisioned (f : Fuses) : FusesForward f { f with udsLock := true, prov := (true, true) } :=
  ⟨fun _ => rfl, fun _ => rfl, id, id, id, id, fun _ => ⟨rfl, rfl⟩, id, le_rfl, rfl, rfl⟩

theorem FusesForward.retired (f : Fuses) : FusesForward f { f with ret := (true, true) } :=
  ⟨id, id, id, id, fun _ => rfl, fun _ => rfl, fun h => ⟨h, rfl⟩, id, le_rfl, rfl, rfl⟩

theorem FusesForward.secured (f : Fuses) (o : Bytes) : FusesForward f { f with sec := (true, true), ownerDebug := o } :=
  ⟨id, id, fun _ => rfl, fun _ => rfl, id, id, fun h => ⟨h, rfl⟩, id, le_rfl, rfl, rfl⟩

theorem FusesForward.debugDisabled (f : Fuses) : FusesForward f { f with debugDisable := true } :=
  ⟨id, id, id, id, id, id, fun h => ⟨h, rfl⟩, fun _ => rfl, le_rfl, rfl, rfl⟩

theorem FusesForward.secretDrawn (f : Fuses) (h : f.udsLock = false) (u : Bytes) :
    FusesForward f { f with uds := u, udsOk := true } :=
  ⟨id, id, id, id, id, id, fun k => absurd k (by simp [h]), id, le_rfl, rfl, rfl⟩

theorem FusesForward.svnRaised (f : Fuses) {n : Nat} (h : f.minSvn ≤ n) : FusesForward f { f with minSvn := n } :=
  ⟨id, id, id, id, id, id, fun h => ⟨h, rfl⟩, id, h, rfl, rfl⟩

theorem retiring_keeps (h : Keeps r s) : Keeps r (blow s (fun f => { f with ret := (true, true) })) :=
  blow_keeps h (.retired _)

theorem provisioning_keeps (h : Keeps r s) : Keeps r (blow s (fun f => { f with udsLock := true, prov := (true, true) })) :=
  blow_keeps h (.provisioned _)

theorem deriveAlias_keeps (h : Keeps r s) : Keeps r (deriveAlias s) := by
  unfold deriveAlias
  split <;> exact h.same rfl

theorem consumeNonce_keeps {t} (h : Keeps r s) : Keeps r (consumeNonce s t) :=
  h.same rfl

theorem drbg_keeps (h : Keeps r s) : Gives (fun p => Keeps r p.2) (drbg s) := by
  unfold drbg
  split
  · exact (State.draw_keeps h).same rfl
  · exact trivial

theorem issueNonce_keeps (h : Keeps r s) : Gives (fun p => Keeps r p.2) (issueNonce s) :=
  (drbg_keeps h).map fun _ h => h.same rfl

theorem execDrbgReseed_keeps (h : Keeps r s) : OutKeeps r (execDrbgReseed s) := by
  unfold execDrbgReseed
  split
  · exact h
  · exact h.same rfl

theorem execEntropyHealthFail_keeps (h : Keeps r s) : OutKeeps r (execEntropyHealthFail s) := by
  unfold execEntropyHealthFail
  split
  · exact h.same rfl
  · exact h

theorem execEntropyReseedTimeout_keeps (h : Keeps r s) : OutKeeps r (execEntropyReseedTimeout s) := by
  unfold execEntropyReseedTimeout
  split
  · exact (State.plainErr_keeps (State.plainErr_keeps h)).same rfl
  · exact h

theorem zeroSealed_keeps (h : Keeps r s) : Keeps r (zeroSealed s) :=
  h.same rfl

theorem execHslotWrite_keeps {n v} (h : Keeps r s) : OutKeeps r (execHslotWrite n v s) := by
  unfold execHslotWrite
  split
  · exact h
  · dsimp only
    split <;> exact h.same rfl

theorem execHslotRelease_keeps {n} (h : Keeps r s) : OutKeeps r (execHslotRelease n s) := by
  unfold execHslotRelease
  split
  · exact h
  · exact h.same rfl

theorem execKeyLoad_keeps {n words} (h : Keeps r s) : OutKeeps r (execKeyLoad n words s) := by
  unfold execKeyLoad
  dsimp only
  split
  · exact h
  · exact h.same rfl

theorem execHammerMac_keeps {cmd} (h : Keeps r s) : OutKeeps r (execHammerMac cmd s) := by
  unfold execHammerMac
  split
  · exact h
  · dsimp only
    split
    · exact h.same rfl
    · split
      · split
        · exact h.same rfl
        · split <;> exact h.same rfl
      · exact h.same rfl

theorem execHammerPrivateKeyOp_keeps {op agree} (h : Keeps r s) : OutKeeps r (execHammerPrivateKeyOp op agree s) := by
  unfold execHammerPrivateKeyOp
  split
  · exact h
  · dsimp only
    split
    · exact State.plainErr_keeps (h.same rfl)
    · exact h.same rfl

theorem lastingState_shape (s : State) : ∃ (w : DWord) (p : Power), lastingState s =
    { State.reset with
      pending := s.pending, freeCtr := s.freeCtr, sent := s.sent, pwr := p, mem := { State.reset.mem with comp := s.mem.comp }
      rsp := { State.reset.rsp with
        fuses := s.rsp.fuses, serial := s.rsp.serial, devCert := s.rsp.devCert, images := s.rsp.images, fuseState := w } } :=
  ⟨_, _, rfl⟩

/-! What is kept by power and start. -/

/-- What outlasts a loss of power has the queue, the fuses and the companion memory; the other memories are as reset. -/
theorem lastingState_keeps (h : Keeps r s) : Keeps r (lastingState s) := by
  obtain ⟨w, p, e⟩ := lastingState_shape s
  rw [e]
  refine h.mem rfl fun k => ?_
  rw [MemState.ok_iff] at k
  obtain ⟨_, hc, _⟩ := k
  obtain ⟨hh, _, hs, ho, hi⟩ := (MemState.ok_iff _).1 MemState.reset_ok
  exact (MemState.ok_iff _).2 ⟨hh, hc, hs, ho, hi⟩

theorem toStandby_shape (s : State) : ∃ (p : Power), toStandby s = { lastingState s with
    pwr := p, mem := { (lastingState s).mem with inf := s.mem.inf }
    rsp := { (lastingState s).rsp with tap := s.rsp.tap, tapPins := s.rsp.tapPins } } :=
  ⟨_, rfl⟩

/-- A kept state that takes over the Infield Stores of another. -/
theorem Keeps.takeInf {z : State} {p : Power} {q : Rsp} (h : Keeps r s) (hz : Keeps r z) (hq : q.fuses = z.rsp.fuses) :
    Keeps r { z with pwr := p, mem := { z.mem with inf := s.mem.inf }, rsp := q } := by
  refine ⟨hz.queue, hq ▸ hz.fuses, fun k => ?_⟩
  obtain ⟨_, _, _, _, hi⟩ := (MemState.ok_iff _).1 (h.mems k)
  obtain ⟨hh, hc, hs, ho, _⟩ := (MemState.ok_iff _).1 (hz.mems k)
  exact (MemState.ok_iff _).2 ⟨hh, hc, hs, ho, hi⟩

theorem toStandby_keeps (h : Keeps r s) : Keeps r (toStandby s) := by
  obtain ⟨p, e⟩ := toStandby_shape s
  rw [e]
  exact h.takeInf (lastingState_keeps h) rfl

theorem beginStart_keeps (h : Keeps r s) : Keeps r (beginStart s) :=
  h.same rfl

theorem restart_keeps (h : Keeps r s) : Keeps r (restart s) :=
  (toStandby_keeps h).same rfl

theorem orderlyStop_keeps (h : Keeps r s) : Keeps r (orderlyStop s) := by
  unfold orderlyStop
  refine toStandby_keeps (zeroSealed_keeps ?_)
  split
  · exact finishLeave_keeps (beginLeave_keeps (destroyAll_keeps h))
  · exact destroyAll_keeps h

theorem execVaonRise_keeps (h : Keeps r s) : OutKeeps r (execVaonRise s) := by
  unfold execVaonRise
  split
  · split
    · exact beginStart_keeps (h.same rfl)
    · exact h.same rfl
  · exact h

theorem execEnRise_keeps (h : Keeps r s) : OutKeeps r (execEnRise s) := by
  unfold execEnRise
  split
  · exact h
  · split
    · exact beginStart_keeps (h.same rfl)
    · exact h.same rfl

theorem execEnFall_keeps (h : Keeps r s) : OutKeeps r (execEnFall s) := by
  unfold execEnFall
  split
  · exact h
  · dsimp only
    split
    · exact h.same rfl
    · exact h.same rfl
    · exact toStandby_keeps (h.same rfl)
    · exact orderlyStop_keeps (h.same rfl)

theorem failStart_keeps {kind unit} (h : Keeps r s) : Keeps r (failStart s kind unit) :=
  State.plainErr_keeps (h.same rfl)

theorem toStep_keeps {n} (h : Keeps r s) : Keeps r (toStep s n) :=
  h.same rfl

theorem bootRom_keeps (h : Keeps r s) : Keeps r (bootRom s) :=
  readFuses_keeps (mrExtend_keeps (h.same rfl))

theorem fallBack_keeps {i} (h : Keeps r s) : Keeps r (fallBack s i) :=
  mrExtend_keeps (h.same rfl)

theorem verifyFrom_keeps {bad both is} (h : Keeps r s) : SomeKeeps r (verifyFrom bad both is s) := by
  induction is generalizing s with
  | nil => exact h
  | cons i is ih =>
    unfold verifyFrom
    dsimp only
    split
    · exact trivial
    · refine ih (mrExtend_keeps ?_)
      split
      · exact fallBack_keeps h
      · exact h

theorem verifyImages_keeps {bad both} (h : Keeps r s) : Keeps r (verifyImages s bad both) := by
  unfold verifyImages
  split
  · exact (deriveAlias_keeps ((verifyFrom_keeps h).get ‹_›)).same rfl
  · exact h.same rfl

theorem reachReady_keeps (h : Keeps r s) : Keeps r (reachReady s) :=
  h.mem rfl id

theorem stepDone_keeps {n} (h : Keeps r s) : Keeps r (stepDone s n) := by
  unfold stepDone
  split
  · exact toStep_keeps (h.same rfl)
  · exact toStep_keeps (bootRom_keeps h)
  · exact verifyImages_keeps h
  · exact toStep_keeps (h.same rfl)
  · exact toStep_keeps (h.same rfl)
  · exact toStep_keeps h
  · refine toStep_keeps (h.mem rfl fun k => ?_)
    rw [MemState.ok_iff] at k ⊢
    exact ⟨rfl, k.2⟩
  · exact reachReady_keeps h

theorem startDmaRec_keeps {t} (h : Keeps r s) : Keeps r (startDmaRec s t) := by
  unfold startDmaRec
  split
  · split
    · exact State.faultRec_keeps h
    · split
      · exact State.faultRec_keeps h
      · exact h
  · split
    · exact State.faultRec_keeps h
    · split
      · exact State.faultRec_keeps h
      · exact h

theorem execStartupStepComplete_keeps {q} (h : Keeps r s) : OutKeeps r (execStartupStepComplete q s) := by
  unfold execStartupStepComplete
  split
  · split
    · exact stepDone_keeps h
    · exact stepDone_keeps (.foldl h fun _ _ h => startDmaRec_keeps h)
    · exact failStart_keeps h
    · split
      · exact verifyImages_keeps h
      · exact stepDone_keeps h
  · exact h

theorem trip_keeps {cause} (h : Keeps r s) : Keeps r (trip s cause) :=
  toStandby_keeps (h.same rfl)

theorem execInputTrip_keeps {mv} (h : Keeps r s) : OutKeeps r (execInputTrip mv s) := by
  unfold execInputTrip
  split
  · exact trivial
  · split
    · exact h
    · split
      · exact h.same rfl
      · split
        · exact trip_keeps (h.same rfl)
        · split
          · exact trip_keeps (h.same rfl)
          · exact h.same rfl

theorem execVaonLoss_keeps (h : Keeps r s) : OutKeeps r (execVaonLoss s) :=
  (lastingState_keeps h).same rfl

theorem noteTemp_keeps {x t} (h : Keeps r s) : Keeps r (noteTemp s x t) := by
  unfold noteTemp
  split
  · exact h.same rfl
  · exact State.modField_keeps h
  · exact h.same rfl

theorem execThermalTrip_keeps {x t} (h : Keeps r s) : OutKeeps r (execThermalTrip x t s) := by
  unfold execThermalTrip
  split
  · exact trip_keeps h
  · exact h

theorem execRefclkLoss_keeps (h : Keeps r s) : OutKeeps r (execRefclkLoss s) := by
  unfold execRefclkLoss
  split
  · exact h
  · dsimp only
    split
    · exact h.same rfl
    · exact State.plainErr_keeps (h.same rfl)

theorem voidSprints_keeps (h : Keeps r s) : Keeps r (voidSprints s) :=
  h.same rfl

theorem execThermalEmergencyEntry_keeps {x t} (h : Keeps r s) : OutKeeps r (execThermalEmergencyEntry x t s) := by
  unfold execThermalEmergencyEntry
  split
  · exact h
  · dsimp only
    split
    · exact (noteTemp_keeps h).same rfl
    · exact State.plainErr_keeps (voidSprints_keeps ((noteTemp_keeps h).same rfl))

theorem execThermalEmergencyExit_keeps (h : Keeps r s) : OutKeeps r (execThermalEmergencyExit s) := by
  unfold execThermalEmergencyExit
  split
  · exact h
  · split
    · exact h
    · exact State.plainErr_keeps (h.same rfl)

theorem execHbmDoubledRefresh_keeps {stack temp} (h : Keeps r s) : OutKeeps r (execHbmDoubledRefresh stack temp s) := by
  unfold execHbmDoubledRefresh
  split
  · exact h
  · exact h.same rfl

theorem execPacerSample_keeps {f x} (h : Keeps r s) : OutKeeps r (execPacerSample f x s) := by
  unfold execPacerSample
  split
  · exact h
  · dsimp only
    split
    · split
      · exact fieldCe_keeps (h.same rfl)
      · exact State.modField_keeps (fieldCe_keeps (h.same rfl))
    · split
      · exact fieldCe_keeps (h.same rfl)
      · exact State.modField_keeps (fieldCe_keeps (h.same rfl))

theorem execClockStepChange_keeps {f} (h : Keeps r s) : OutKeeps r (execClockStepChange f s) := by
  unfold execClockStepChange
  split
  · exact h
  · exact State.modField_keeps h

theorem execFieldIdleSleep_keeps {f} (h : Keeps r s) : OutKeeps r (execFieldIdleSleep f s) := by
  unfold execFieldIdleSleep
  split
  · exact State.modField_keeps h
  · exact h

theorem execFieldIdleOff_keeps {f} (h : Keeps r s) : OutKeeps r (execFieldIdleOff f s) := by
  unfold execFieldIdleOff
  split
  · exact State.modField_keeps h
  · exact h

theorem enterField_keeps {f into} (h : Keeps r s) : Keeps r (enterField s f into) := by
  unfold enterField
  split
  · exact .foldl (State.modField_keeps h) fun _ _ h => resetCore_keeps h
  · exact h.same rfl
  · exact State.modField_keeps h

theorem execFieldEntryComplete_keeps {f} (h : Keeps r s) : OutKeeps r (execFieldEntryComplete f s) := by
  unfold execFieldEntryComplete
  split
  · exact h
  · exact enterField_keeps h

theorem execFieldWakeComplete_keeps {f} (h : Keeps r s) : OutKeeps r (execFieldWakeComplete f s) := by
  unfold execFieldWakeComplete
  dsimp only
  split
  · exact h
  · exact releaseFields_keeps (State.modField_keeps h)

theorem execRestEntry_keeps (h : Keeps r s) : OutKeeps r (execRestEntry s) := by
  unfold execRestEntry
  split
  · exact h.same rfl
  · exact h

theorem execRestEntryComplete_keeps (h : Keeps r s) : OutKeeps r (execRestEntryComplete s) := by
  unfold execRestEntryComplete
  split
  · exact h
  · have hs := Keeps.foldl (f := fun s f => enterField (s.modField f (fun g => { g with waking := false })) f .off)
      (l := List.range 8) h fun _ _ h => enterField_keeps (State.modField_keeps h)
    dsimp only
    generalize List.foldl _ _ _ = u at hs ⊢
    exact hs.mem rfl fun k => cacheFlush_ok k

theorem execWakeEvent_keeps {w} (h : Keeps r s) : OutKeeps r (execWakeEvent w s) :=
  wakeRest_keeps h

/-! What is kept by firmware, life cycle and debug. -/

theorem settleRestart_keeps {o} (h : OutKeeps r o) : OutKeeps r (settleRestart o) := by
  cases o with
  | next s =>
    simp only [settleRestart, OutKeeps]
    split
    · exact restart_keeps h
    · exact h
  | fault f => exact trivial
  | refused f => exact trivial

theorem putInactive_keeps {i b} (h : Keeps r s) : Keeps r (putInactive s i b) :=
  h.same rfl

theorem fwStage_keeps {q} (h : Keeps r s) : ReplyKeeps r (fwStage q s) := by
  have hread : Keeps r { s with mem := (devRead s.mem s.ways hintNormal (compBase + field q.payload 0 8)
      (field q.payload 8 4)).2 } :=
    h.mem rfl fun k => devRead_ok k _ _ _ _
  unfold fwStage
  dsimp only
  split
  · exact h
  · split
    · exact hread
    · exact putInactive_keeps hread

theorem swapBanks_keeps {i} (h : Keeps r s) : Keeps r (swapBanks s i) :=
  h.same rfl

theorem commitSvn_keeps {b} (h : Keeps r s) : Keeps r (commitSvn s b) := by
  unfold commitSvn
  dsimp only
  split
  next hn =>
    simp only [Bool.and_eq_true, decide_eq_true_eq] at hn
    exact blow_keeps h (.svnRaised _ hn.2.le)
  · exact h

theorem fwActivate_keeps {q} (h : Keeps r s) : ReplyKeeps r (fwActivate q s) := by
  unfold fwActivate
  split
  · exact h
  · split
    · exact h
    · split
      · exact h
      · split
        · exact h
        · exact (commitSvn_keeps (swapBanks_keeps h)).same rfl

theorem execFwStage_keeps {m q} (h : Keeps r s) : OutKeeps r (execFwStage m q s) :=
  mbCommand_keeps (fun _ h => fwStage_keeps h) h

theorem execFwActivate_keeps {m q} (h : Keeps r s) : OutKeeps r (execFwActivate m q s) :=
  settleRestart_keeps (mbCommand_keeps (fun _ h => fwActivate_keeps h) h)

theorem liveSwap_keeps {i b} (h : Keeps r s) : Keeps r (liveSwap s i b) := by
  unfold liveSwap
  split
  · exact (deriveAlias_keeps (commitSvn_keeps (mrExtend_keeps (swapBanks_keeps h)))).same rfl
  · exact deriveAlias_keeps (commitSvn_keeps (mrExtend_keeps (swapBanks_keeps h)))

theorem execFwLiveSwap_keeps {cls} (h : Keeps r s) : OutKeeps r (execFwLiveSwap cls s) := by
  unfold execFwLiveSwap
  split
  · exact h
  · split
    · exact h
    · exact answerWaits_keeps (liveSwap_keeps h)

theorem zeroKeys_keeps (h : Keeps r s) : Keeps r (zeroKeys s) :=
  h.same rfl

theorem lcProvision_keeps (h : Keeps r s) : Gives (TokenKeeps r) (lcProvision s) := by
  unfold lcProvision
  dsimp only
  split
  · exact provisioning_keeps h
  · split
    · exact retiring_keeps h
    next hlock =>
      unfold drbg
      split
      · refine provisioning_keeps (s := { s with rsp := _, freeCtr := _ }) ⟨h.queue, ?_, h.mems⟩
        exact h.fuses.trans (.secretDrawn _ (by simpa using hlock) _)
      · exact trivial

theorem lcCert_keeps {t} (h : Keeps r s) : TokenKeeps r (lcCert s t) := by
  unfold lcCert
  split
  · exact h.same rfl
  · exact h

theorem lcSecure_keeps {t} (h : Keeps r s) : TokenKeeps r (lcSecure s t) := by
  unfold lcSecure
  split
  · have hb : Keeps r (blow s (fun f => { f with
        sec := (true, true), ownerDebug := if allZero t 56 48 then f.ownerDebug else slice t 56 48 })) :=
      blow_keeps h (.secured _ _)
    exact hb.same rfl
  · exact h

theorem lcRetire_keeps (h : Keeps r s) : TokenKeeps r (lcRetire s) := by
  unfold lcRetire
  split
  · exact h
  · have hgone := destroyAll_keeps h
    have hleft : Keeps r (if (destroyAll s).sys.joined then finishLeave (beginLeave (destroyAll s)) else destroyAll s) := by
      split
      · exact finishLeave_keeps (beginLeave_keeps hgone)
      · exact hgone
    exact Keeps.same (retiring_keeps (Keeps.same (zeroKeys_keeps (zeroSealed_keeps hleft)) rfl)) rfl

theorem lcTokenOut_keeps {t port} (h : Keeps r s) : Gives (TokenKeeps r) (lcTokenOut s t port) := by
  have hu := consumeNonce_keeps (t := t) h
  unfold lcTokenOut
  dsimp only
  generalize consumeNonce s t = u at hu ⊢
  split
  · exact hu
  · split
    · exact lcSecure_keeps hu
    · split
      · exact lcRetire_keeps hu
      · split
        · exact lcProvision_keeps hu
        · split
          · exact lcCert_keeps hu
          · exact hu

theorem debugClose_keeps (h : Keeps r s) : TokenKeeps r (debugClose s) := by
  unfold debugClose
  split
  · exact h
  · split
    · exact h
    · have hb : Keeps r (blow s (fun f => { f with debugDisable := true })) := blow_keeps h (.debugDisabled _)
      exact mrExtend_keeps (hb.same rfl)

theorem dbgOk_keeps {data} (h : Keeps r s) : OutKeeps r (dbgOk s data) :=
  State.emit_keeps h

theorem dbgDeny_keeps {f} (h : Keeps r s) : OutKeeps r (dbgDeny s f) :=
  State.emit_keeps h

theorem dbgAnswer_keeps {o} (h : TokenKeeps r o) : OutKeeps r (dbgAnswer o) := by
  unfold dbgAnswer
  split
  · exact dbgOk_keeps h
  · exact dbgDeny_keeps h

theorem execDbgStatus_keeps (h : Keeps r s) : OutKeeps r (execDbgStatus s) := by
  unfold execDbgStatus
  split
  · exact h
  · exact dbgOk_keeps (State.draw_keeps h)

theorem execDbgChallenge_keeps (h : Keeps r s) : OutKeeps r (execDbgChallenge s) := by
  unfold execDbgChallenge
  split
  · exact h
  · split
    next hn => exact dbgOk_keeps ((issueNonce_keeps h).get hn)
    · exact h

theorem execDbgResponse_keeps {t} (h : Keeps r s) : OutKeeps r (execDbgResponse t s) := by
  unfold execDbgResponse
  split
  · exact h
  · split
    · exact dbgDeny_keeps (consumeNonce_keeps h)
    · split
      · exact dbgOk_keeps (deriveAlias_keeps (h.same rfl))
      · exact dbgDeny_keeps (consumeNonce_keeps h)

theorem execDbgRead_keeps {t} (h : Keeps r s) : OutKeeps r (execDbgRead t s) := by
  unfold execDbgRead
  split
  · exact h
  · split
    · exact dbgDeny_keeps h
    · split
      · exact dbgOk_keeps h
      · exact dbgOk_keeps h
      · exact dbgOk_keeps h
      · exact dbgOk_keeps h
      · exact dbgOk_keeps h
      · exact dbgOk_keeps h
      · exact dbgOk_keeps h
      · exact dbgOk_keeps h
      · exact dbgOk_keeps h
      · exact dbgOk_keeps h
      · exact dbgDeny_keeps h
      · exact dbgDeny_keeps h

theorem Keeps.setCs {x : Scratch} (h : Keeps r s) (hx : memOk s.mem.cs.data = true → memOk x.data = true) :
    Keeps r { s with mem := { s.mem with cs := x } } :=
  h.mem rfl fun k => by
    rw [MemState.ok_iff] at k ⊢
    obtain ⟨hh, hc, hs, ho, hi⟩ := k
    exact ⟨hh, hc, hx hs, ho, hi⟩

theorem Keeps.setOb {x : Scratch} (h : Keeps r s) (hx : memOk s.mem.ob.data = true → memOk x.data = true) :
    Keeps r { s with mem := { s.mem with ob := x } } :=
  h.mem rfl fun k => by
    rw [MemState.ok_iff] at k ⊢
    obtain ⟨hh, hc, hs, ho, hi⟩ := k
    exact ⟨hh, hc, hs, hx ho, hi⟩

theorem Keeps.setInf {x : Scratch} (h : Keeps r s) (hx : memOk s.mem.inf.data = true → memOk x.data = true) :
    Keeps r { s with mem := { s.mem with inf := x } } :=
  h.mem rfl fun k => by
    rw [MemState.ok_iff] at k ⊢
    obtain ⟨hh, hc, hs, ho, hi⟩ := k
    exact ⟨hh, hc, hs, ho, hx hi⟩

theorem setRspRam_keeps {m} (h : Keeps r s) : Keeps r { s with rsp := { s.rsp with rspRam := m } } :=
  h.same rfl

theorem setHam_keeps {m} (h : Keeps r s) : Keeps r { s with ham := m } :=
  h.same rfl

theorem execDbgWrite_keeps {t v} (h : Keeps r s) : OutKeeps r (execDbgWrite t v s) := by
  unfold execDbgWrite
  split
  · exact h
  · split
    · exact dbgDeny_keeps h
    · split
      case h_1 => exact dbgOk_keeps (State.devWr_keeps h)
      case h_2 => exact dbgOk_keeps (h.setCs fun k => scratchWrite_ok k _ _ _)
      case h_7 => exact dbgOk_keeps (h.setInf fun k => scratchWrite_ok k _ _ _)
      case h_8 => exact dbgOk_keeps (h.setOb fun k => scratchWrite_ok k _ _ _)
      case h_9 => exact dbgOk_keeps (setRspRam_keeps h)
      case h_10 => exact dbgOk_keeps (setHam_keeps h)
      case h_11 => exact dbgDeny_keeps h
      case h_12 => exact dbgDeny_keeps h
      all_goals exact dbgOk_keeps (State.setCore_keeps h)

theorem execDbgHalt_keeps {u} (h : Keeps r s) : OutKeeps r (execDbgHalt u s) := by
  unfold execDbgHalt
  split
  · exact h
  · split
    · exact dbgDeny_keeps h
    · exact dbgOk_keeps (h.same rfl)

theorem execDbgResume_keeps {u} (h : Keeps r s) : OutKeeps r (execDbgResume u s) := by
  unfold execDbgResume
  split
  · exact h
  · split
    · exact dbgDeny_keeps h
    · exact dbgOk_keeps (h.same rfl)

theorem execDbgLcToken_keeps {t} (h : Keeps r s) : OutKeeps r (execDbgLcToken t s) := by
  unfold execDbgLcToken
  split
  · exact h
  · split
    next ht => exact settleRestart_keeps (dbgAnswer_keeps ((lcTokenOut_keeps h).get ht))
    · exact h

theorem execDbgDebugClose_keeps (h : Keeps r s) : OutKeeps r (execDbgDebugClose s) := by
  unfold execDbgDebugClose
  split
  · exact h
  · exact dbgAnswer_keeps (debugClose_keeps h)

theorem execIdcode_keeps (h : Keeps r s) : OutKeeps r (execIdcode s) := by
  unfold execIdcode
  split
  · exact State.emit_keeps (h.same rfl)
  · exact h

theorem execBypass_keeps (h : Keeps r s) : OutKeeps r (execBypass s) := by
  unfold execBypass
  split
  · exact State.emit_keeps (h.same rfl)
  · exact h

theorem execSamplePreload_keeps {pins} (h : Keeps r s) : OutKeeps r (execSamplePreload pins s) := by
  unfold execSamplePreload
  split
  · exact State.emit_keeps ((State.draw_keeps h).same rfl)
  · exact h

theorem execExtest_keeps {pins} (h : Keeps r s) : OutKeeps r (execExtest pins s) := by
  unfold execExtest
  split
  · exact State.emit_keeps ((State.draw_keeps h).same rfl)
  · split
    · exact State.emit_keeps (h.same rfl)
    · exact h

theorem smbAnswer_keeps {data} (h : Keeps r s) : OutKeeps r (smbAnswer s data) := by
  unfold smbAnswer
  split
  · exact h
  · exact State.emit_keeps h

theorem execSmbModulePwr_keeps (h : Keeps r s) : OutKeeps r (execSmbModulePwr s) := by
  unfold execSmbModulePwr
  split
  · exact h
  · exact State.emit_keeps (h.same rfl)

theorem execSmbFenceStatus_keeps (h : Keeps r s) : OutKeeps r (execSmbFenceStatus s) :=
  smbAnswer_keeps h

theorem execSmbFieldPwr_keeps {f} (h : Keeps r s) : OutKeeps r (execSmbFieldPwr f s) := by
  unfold execSmbFieldPwr
  split
  · exact smbAnswer_keeps h
  · split
    · exact h
    · exact State.emit_keeps h

theorem execSmbSerial_keeps (h : Keeps r s) : OutKeeps r (execSmbSerial s) :=
  smbAnswer_keeps h

theorem execSmbIdcode_keeps (h : Keeps r s) : OutKeeps r (execSmbIdcode s) :=
  smbAnswer_keeps h

theorem execSmbLcState_keeps (h : Keeps r s) : OutKeeps r (execSmbLcState s) :=
  smbAnswer_keeps h

theorem execSmbWrite_keeps {code} (h : Keeps r s) : OutKeeps r (execSmbWrite code s) := by
  unfold execSmbWrite
  split
  · exact h
  · exact State.emit_keeps h

/-! What is kept by SPDM. -/

theorem attestGet_keeps {q} (h : Keeps r s) : ReplyKeeps r (attestGet q s) := by
  unfold attestGet
  split <;> exact h

theorem execAttestGet_keeps {m q} (h : Keeps r s) : OutKeeps r (execAttestGet m q s) :=
  mbCommand_keeps (fun _ h => attestGet_keeps h) h

theorem State.setConn_keeps {c} (h : Keeps r s) : Keeps r (State.setConn s c) :=
  h.same rfl

theorem spdmSend_keeps {v q} (h : Keeps r s) : Keeps r (spdmSend s v q) := by
  unfold spdmSend
  split
  · refine respond_keeps (State.draw_keeps (State.emit_keeps ?_))
    split
    · exact State.setConn_keeps h
    · exact h
  · refine State.emit_keeps ?_
    split
    · exact State.setConn_keeps h
    · exact h

theorem spdmOn_keeps {v need f} (hf : ∀ sc t, Keeps r t → Gives (fun p => Keeps r p.1) (f sc t)) (h : Keeps r s) :
    OutKeeps r (spdmOn v need f s) := by
  unfold spdmOn
  split
  · exact h
  · split
    · exact spdmSend_keeps h
    · split
      · exact h
      next ha => exact spdmSend_keeps ((hf _ _ h).get ha)

theorem say_keeps {q} (h : Keeps r s) : Gives (fun p => Keeps r p.1) (say s q) := h

theorem stepTo_keeps {v x} (h : Keeps r s) : Keeps r (stepTo s v x) :=
  State.setConn_keeps h

theorem execGetVersion_keeps {v} (h : Keeps r s) : OutKeeps r (execGetVersion v s) :=
  spdmOn_keeps (fun _ _ h => say_keeps (State.setConn_keeps h)) h

theorem execGetCapabilities_keeps {v} (h : Keeps r s) : OutKeeps r (execGetCapabilities v s) :=
  spdmOn_keeps (fun _ _ h => say_keeps (stepTo_keeps h)) h

theorem execNegotiateAlgorithms_keeps {v ours} (h : Keeps r s) : OutKeeps r (execNegotiateAlgorithms v ours s) := by
  unfold execNegotiateAlgorithms
  refine spdmOn_keeps (fun _ _ h => ?_) h
  split
  · exact say_keeps (stepTo_keeps h)
  · exact say_keeps h

theorem execGetDigests_keeps {v} (h : Keeps r s) : OutKeeps r (execGetDigests v s) := by
  unfold execGetDigests
  refine spdmOn_keeps (fun _ _ h => ?_) h
  split <;> exact say_keeps h

theorem execGetCertificate_keeps {v slot off len} (h : Keeps r s) : OutKeeps r (execGetCertificate v slot off len s) := by
  unfold execGetCertificate
  refine spdmOn_keeps (fun _ _ h => ?_) h
  split
  · split <;> exact say_keeps h
  · exact say_keeps h

theorem sign_keeps (h : Keeps r s) : Gives (fun p => Keeps r p.2) (sign s) :=
  (drbg_keeps h).map fun _ h => h

theorem execChallenge_keeps {v slot nonce} (h : Keeps r s) : OutKeeps r (execChallenge v slot nonce s) := by
  unfold execChallenge
  refine spdmOn_keeps (fun _ _ h => ?_) h
  split
  · exact say_keeps h
  · split
    · exact say_keeps h
    · exact .map (sign_keeps h) fun _ h => h

theorem execGetMeasurements_keeps {v index signed nonce} (h : Keeps r s) : OutKeeps r
    (execGetMeasurements v index signed nonce s) := by
  unfold execGetMeasurements
  refine spdmOn_keeps (fun _ _ h => ?_) h
  split
  · split
    · split
      · dsimp only
        split <;> exact say_keeps h
      · split
        · dsimp only
          split <;> exact say_keeps h
        · dsimp only
          split
          · exact say_keeps h
          · exact .map (sign_keeps h) fun _ h => h
    · split
      · dsimp only
        split <;> exact say_keeps h
      · split
        · dsimp only
          split <;> exact say_keeps h
        · dsimp only
          split
          · exact say_keeps h
          · exact .map (sign_keeps h) fun _ h => h
  · split
    · split
      · dsimp only
        split <;> exact say_keeps h
      · split
        · dsimp only
          split <;> exact say_keeps h
        · dsimp only
          split
          · exact say_keeps h
          · exact .map (sign_keeps h) fun _ h => h
    · split
      · dsimp only
        split <;> exact say_keeps h
      · split
        · dsimp only
          split <;> exact say_keeps h
        · dsimp only
          split
          · exact say_keeps h
          · exact .map (sign_keeps h) fun _ h => h

theorem execKeyExchange_keeps {v share} (h : Keeps r s) : OutKeeps r (execKeyExchange v share s) := by
  unfold execKeyExchange
  refine spdmOn_keeps (fun _ _ h => ?_) h
  split
  · exact say_keeps h
  · split
    · exact say_keeps h
    · split
      · exact say_keeps h
      · exact .map (sign_keeps h) fun _ h => (State.draw_keeps (State.draw_keeps h)).same rfl

theorem setSession_keeps {x} (h : Keeps r s) : Keeps r (setSession s x) :=
  h.same rfl

theorem dropSess_keeps {n} (h : Keeps r s) : Keeps r (dropSess s n) :=
  h.same rfl

theorem inSession_keeps {v n need f} (hf : ∀ x t, Keeps r t → Gives (fun p => Keeps r p.1) (f x t)) (h : Keeps r s) :
    OutKeeps r (inSession v n need f s) := by
  refine spdmOn_keeps (fun _ t ht => ?_) h
  dsimp only
  split
  · exact ht
  · split
    · exact setSession_keeps ht
    · exact hf _ _ (setSession_keeps ht)

theorem execFinish_keeps {v n mac} (h : Keeps r s) : OutKeeps r (execFinish v n mac s) := by
  unfold execFinish
  refine inSession_keeps (fun _ _ h => ?_) h
  split
  · exact say_keeps (setSession_keeps h)
  · exact say_keeps (dropSess_keeps h)

theorem execHeartbeat_keeps {v n} (h : Keeps r s) : OutKeeps r (execHeartbeat v n s) :=
  inSession_keeps (fun _ _ h => say_keeps (setSession_keeps h)) h

theorem execKeyUpdate_keeps {v n} (h : Keeps r s) : OutKeeps r (execKeyUpdate v n s) :=
  inSession_keeps (fun _ _ h => say_keeps (setSession_keeps h)) h

theorem execEndSession_keeps {v n} (h : Keeps r s) : OutKeeps r (execEndSession v n s) :=
  inSession_keeps (fun _ _ h => say_keeps (dropSess_keeps h)) h

theorem execChunkSend_keeps {v last data} (h : Keeps r s) : OutKeeps r (execChunkSend v last data s) := by
  unfold execChunkSend
  split
  · exact h
  · split
    · dsimp only
      split
      · exact spdmSend_keeps (State.setConn_keeps h)
      · exact State.setConn_keeps h
    · dsimp only
      split <;> exact spdmSend_keeps (State.setConn_keeps h)

theorem execChunkGet_keeps {v n} (h : Keeps r s) : OutKeeps r (execChunkGet v n s) := by
  unfold execChunkGet
  refine spdmOn_keeps (fun _ _ h => ?_) h
  split
  · exact say_keeps h
  · split
    · exact say_keeps h
    · refine say_keeps ?_
      split
      · exact State.emit_keeps (State.setConn_keeps (State.draw_keeps h))
      · exact State.draw_keeps h

theorem execRespondIfReady_keeps {v} (h : Keeps r s) : OutKeeps r (execRespondIfReady v s) :=
  spdmOn_keeps (fun _ _ h => say_keeps h) h

theorem execSpdmSessionIdleTimeout_keeps {n} (h : Keeps r s) : OutKeeps r (execSpdmSessionIdleTimeout n s) := by
  unfold execSpdmSessionIdleTimeout
  split
  · exact h
  · split
    · exact dropSess_keeps h
    · exact h

theorem execHeartbeatPeriodExpiry_keeps {n} (h : Keeps r s) : OutKeeps r (execHeartbeatPeriodExpiry n s) := by
  unfold execHeartbeatPeriodExpiry
  split
  · exact h
  · split
    · exact State.emit_keeps (setSession_keeps h)
    · exact h

theorem vend_keeps {code f data} (h : Keeps r s) : Gives (fun p => Keeps r p.1) (vend s code f data) := h

theorem execKemMix_keeps {v n ct} (h : Keeps r s) : OutKeeps r (execKemMix v n ct s) := by
  unfold execKemMix
  refine inSession_keeps (fun _ _ h => ?_) h
  split
  · exact vend_keeps (setSession_keeps h)
  · exact vend_keeps (dropSess_keeps h)

theorem execNonceGet_keeps {v n} (h : Keeps r s) : OutKeeps r (execNonceGet v n s) := by
  unfold execNonceGet
  refine inSession_keeps (fun _ _ h => ?_) h
  split
  · exact vend_keeps h
  · exact .bind (issueNonce_keeps h) fun _ h => vend_keeps h

theorem vendToken_keeps {o code} (h : TokenKeeps r o) : Gives (fun p => Keeps r p.1) (vendToken o code) := by
  unfold vendToken
  split <;> exact h

theorem execLcToken_keeps {v n t} (h : Keeps r s) : OutKeeps r (execLcToken v n t s) := by
  unfold execLcToken
  refine settleRestart_keeps (inSession_keeps (fun _ _ h => ?_) h)
  split
  · exact vend_keeps h
  · exact .bind (lcTokenOut_keeps h) fun _ h => vendToken_keeps h

theorem execDebugClose_keeps {v n} (h : Keeps r s) : OutKeeps r (execDebugClose v n s) := by
  unfold execDebugClose
  refine inSession_keeps (fun _ _ h => ?_) h
  split
  · exact vend_keeps h
  · exact vendToken_keeps (debugClose_keeps h)

theorem execWeightsKey_keeps {v n keyNo key} (h : Keeps r s) : OutKeeps r (execWeightsKey v n keyNo key s) := by
  unfold execWeightsKey
  refine inSession_keeps (fun _ _ h => ?_) h
  split
  · exact vend_keeps h
  · split
    · exact vend_keeps h
    · exact vend_keeps (State.setCtx_keeps h)

theorem dropOthersXlate_keeps {ctx} (h : Keeps r s) : Keeps r (dropOthersXlate s ctx) :=
  h.mem rfl id

theorem sealFrame_keeps {ctx a} (h : Keeps r s) : Keeps r (sealFrame s ctx a) := by
  unfold sealFrame
  split
  · exact h
  · split
    · exact h
    · exact State.setCtx_keeps h

theorem unwrapRecord_keeps {c key blobId src dst n} (h : Keeps r s) :
    Keeps r (unwrapRecord s c key blobId src dst n).1 := by
  unfold unwrapRecord
  split
  next hp => exact Keeps.fst (readerRead_keeps h) hp
  next hp =>
    have hread := Keeps.fst (readerRead_keeps h) hp
    split
    · exact hread
    · split
      · exact hread
      · split
        · exact hread
        · split
          · exact hread
          · split
            · exact hread
            · exact State.devWr_keeps (sealFrame_keeps hread)

theorem unwrapFrom_keeps {key ctx blobId src dst k i} (h : Keeps r s) :
    Keeps r (unwrapFrom key ctx blobId src dst k i s).1 := by
  induction k generalizing s i with
  | zero => exact h
  | succ k ih =>
    unfold unwrapFrom
    split
    · exact h
    · split
      next hp => exact Keeps.fst (unwrapRecord_keeps h) hp
      next hp => exact ih (Keeps.fst (unwrapRecord_keeps h) hp)

theorem execWeightsUnwrap_keeps {v n keyNo blobId src dst records} (h : Keeps r s) : OutKeeps r
    (execWeightsUnwrap v n keyNo blobId src dst records s) := by
  unfold execWeightsUnwrap
  refine inSession_keeps (fun _ _ h => ?_) h
  split
  · exact vend_keeps h
  · split
    · exact vend_keeps h
    · split
      · exact vend_keeps h
      · split <;> exact vend_keeps (Keeps.fst (unwrapFrom_keeps (dropOthersXlate_keeps h)) ‹_›)

theorem zeroFrame_ok {m : MemState} (h : m.ok = true) (f : Nat) : (zeroFrame m f).ok = true := by
  rw [MemState.ok_iff] at h ⊢
  exact ⟨memOk_filter h.1 _, h.2⟩

theorem execSealedFrameZeroed_keeps {ctx} (h : Keeps r s) : OutKeeps r (execSealedFrameZeroed ctx s) := by
  unfold execSealedFrameZeroed
  split
  · exact h
  · exact h.mem rfl fun k => foldl_keeps (fun m : MemState => m.ok = true) _ (fun _ _ k => zeroFrame_ok k _) _ _ k

/-! What is kept by the host's link. -/

theorem linkHeard_keeps (h : Keeps r s) : Keeps r (linkHeard s) :=
  h.same rfl

theorem hwinRefused_keeps {w f} (h : Keeps r s) : Keeps r (hwinRefused s w f) :=
  h.same rfl

theorem hwinWalk_keeps {w acc xs} (h : Keeps r s) : Keeps r (hwinWalk s w acc xs) := by
  unfold hwinWalk
  split
  · exact walkSpans_keeps h
  · exact h

theorem execHostWindowAccess_keeps {w off a} (h : Keeps r s) : OutKeeps r (execHostWindowAccess w off a s) := by
  unfold execHostWindowAccess
  split
  · exact h
  · split
    · exact State.holdAtLink_keeps h
    · split
      · dsimp only
        split
        · exact State.emit_keeps (hwinRefused_keeps (linkHeard_keeps h))
        · exact State.emit_keeps (touchReads_keeps (hwinWalk_keeps (linkHeard_keeps h)))
      · dsimp only
        split
        · exact hwinRefused_keeps (linkHeard_keeps h)
        · exact State.writeSpans_keeps (hwinWalk_keeps (linkHeard_keeps h))

theorem execHostWindowCas_keeps {w off size expect new} (h : Keeps r s) : OutKeeps r
    (execHostWindowCas w off size expect new s) := by
  unfold execHostWindowCas
  split
  · exact h
  · split
    · exact State.holdAtLink_keeps h
    · split
      · exact State.emit_keeps (hwinRefused_keeps (linkHeard_keeps h))
      · dsimp only
        split
        · exact State.emit_keeps (hwinRefused_keeps (linkHeard_keeps h))
        · split
          · exact State.emit_keeps (hwinRefused_keeps (linkHeard_keeps h))
          · refine State.emit_keeps ?_
            split
            · exact State.writeSpans_keeps (touchReads_keeps (hwinWalk_keeps (linkHeard_keeps h)))
            · exact touchReads_keeps (hwinWalk_keeps (linkHeard_keeps h))

theorem OutKeeps.ite {c : Prop} [Decidable c] {a b : Out} (ha : OutKeeps r a) (hb : OutKeeps r b) :
    OutKeeps r (if c then a else b) := by
  split
  · exact ha
  · exact hb

theorem runMailbox_keeps {op m q} (h : Keeps r s) : OutKeeps r (runMailbox op m q s) :=
  .ite (execCtxCreate_keeps h) <|
  .ite (execCtxDestroy_keeps h) <|
  .ite (execCtxInfo_keeps h) <|
  .ite (execKeysetLoad_keeps h) <|
  .ite (execKeysetUnload_keeps h) <|
  .ite (execKeyPin_keeps h) <|
  .ite (execProgLoad_keeps h) <|
  .ite (execProgUnload_keeps h) <|
  .ite (execDescSet_keeps h) <|
  .ite (execDescFree_keeps h) <|
  .ite (execQueueCreate_keeps h) <|
  .ite (execQueueDestroy_keeps h) <|
  .ite (execSpadRelease_keeps h) <|
  .ite (execHwinSet_keeps h) <|
  .ite (execMarkRead_keeps h) <|
  .ite (execMarkSet_keeps h) <|
  .ite (execMarkSignal_keeps h) <|
  .ite (execCollCreate_keeps h) <|
  .ite (execCollDestroy_keeps h) <|
  .ite (execCollStatus_keeps h) <|
  .ite (execCfgBegin_keeps h) <|
  .ite (execCfgSet_keeps h) <|
  .ite (execCfgCommit_keeps h) <|
  .ite (execCfgRollback_keeps h) <|
  .ite (execCfgGet_keeps h) <|
  .ite (execResultGet_keeps h) <|
  .ite (execResultRelease_keeps h) <|
  .ite (execAbort_keeps h) <|
  .ite (execAttestGet_keeps h) <|
  .ite (execSystemJoin_keeps h) <|
  .ite (execSystemLeave_keeps h) <|
  .ite (execEventRing_keeps h) <|
  .ite (execFwStage_keeps h) <|
  .ite (execFwActivate_keeps h) <|
  mbCommand_keeps (fun _ h => h) h

theorem putRequest_keeps {m off bs} (h : Keeps r s) : Keeps r (putRequest s m off bs) :=
  State.setMb_keeps h

theorem writeRegister_keeps {off size value} (h : Keeps r s) : OutKeeps r (writeRegister off size value s) := by
  unfold writeRegister
  split
  · exact h
  · split
    · exact h.same rfl
    · split
      · exact execHostMarkSig_keeps h
      · split
        · exact h.same rfl
        · split
          · exact h.same rfl
          · split
            · split
              · exact execQueueDoorbell_keeps h
              · exact h
            · split
              · dsimp only
                split
                · exact putRequest_keeps h
                · exact h
              · split
                · exact h
                · split
                  · split
                    · exact h.same rfl
                    · exact h
                  · exact runMailbox_keeps h
                  · split
                    · exact State.setMb_keeps h
                    · exact h
                  · exact h

theorem execCompanionSnoopInvalidate_keeps {line data} (h : Keeps r s) :
    OutKeeps r (execCompanionSnoopInvalidate line data s) := by
  unfold execCompanionSnoopInvalidate
  split
  · exact h
  · refine h.mem rfl fun k => ?_
    have hd := dropXlate_ok (cacheDrop_ok k line false) line
    rw [MemState.ok_iff] at hd ⊢
    obtain ⟨hh, hc, hrest⟩ := hd
    exact ⟨hh, memPut_ok hc _ _, hrest⟩

theorem linkFalls_keeps (h : Keeps r s) : Keeps r (linkFalls s) := by
  refine State.plainErr_keeps (linkDownWaits_keeps (h.mem rfl fun k => ?_))
  exact foldl_keeps (fun m : MemState => m.ok = true) _ (fun _ _ k => cacheDrop_ok k _ _) _ _ k

theorem execWeloneLinkDown_keeps (h : Keeps r s) : OutKeeps r (execWeloneLinkDown s) := by
  unfold execWeloneLinkDown
  split
  · exact linkFalls_keeps h
  · exact h

theorem linkRises_keeps (h : Keeps r s) : Keeps r (linkRises s) :=
  .foldl (.foldl (h.same rfl) fun _ _ h => State.interrupt_keeps h) fun _ _ h => State.ringPut_keeps h

theorem execWeloneLinkRetrain_keeps {ok} (h : Keeps r s) : OutKeeps r (execWeloneLinkRetrain ok s) := by
  unfold execWeloneLinkRetrain
  split
  · exact h
  · split
    · exact linkRises_keeps h
    · exact h.same rfl

theorem execFlitCrcError_keeps {p} (h : Keeps r s) : OutKeeps r (execFlitCrcError p s) := by
  unfold execFlitCrcError
  split
  · split
    · exact h
    · split
      · exact linkFalls_keeps h
      · exact State.emit_keeps (h.same rfl)
  · dsimp only
    split
    · exact h
    · split
      · exact portDown_keeps h
      · exact State.emit_keeps (State.modPort_keeps h)

/-! What is kept by reliability. -/

theorem execFabricRetry_keeps {relay n} (h : Keeps r s) : OutKeeps r (execFabricRetry relay n s) := by
  unfold execFabricRetry
  split
  · exact h
  · split
    · exact State.corrected_keeps h
    · exact decideFence_keeps (State.plainErr_keeps h)

theorem execControlUe_keeps {core} (h : Keeps r s) : OutKeeps r (execControlUe core s) := by
  unfold execControlUe
  split
  · exact decideFence_keeps (State.plainErr_keeps h)
  · exact h

theorem execRelayControlUe_keeps {relay} (h : Keeps r s) : OutKeeps r (execRelayControlUe relay s) := by
  unfold execRelayControlUe
  split
  · exact decideFence_keeps (State.plainErr_keeps h)
  · exact h

theorem execContextUe_keeps {ctx} (h : Keeps r s) : OutKeeps r (execContextUe ctx s) := by
  unfold execContextUe
  split
  · exact h
  · split
    · exact h
    · exact destroyContext_keeps ((State.errRec_keeps h).same rfl)

theorem execFieldPllLoss_keeps {f} (h : Keeps r s) : OutKeeps r (execFieldPllLoss f s) := by
  unfold execFieldPllLoss
  split
  · exact decideFence_keeps (State.plainErr_keeps h)
  · exact h

theorem execModuleFault_keeps {kind unit} (h : Keeps r s) : OutKeeps r (execModuleFault kind unit s) := by
  unfold execModuleFault
  split
  · exact State.plainErr_keeps (h.same rfl)
  · exact h

theorem resetTargets_keeps {f} (h : Keeps r s) : Keeps r (resetTargets s f) := by
  unfold resetTargets
  refine .foldl h fun _ _ h => ?_
  split
  · split
    · exact h
    · exact State.stop_keeps (State.faultRec_keeps h)
  · exact h

theorem execFieldRecovery_keeps {f} (h : Keeps r s) : OutKeeps r (execFieldRecovery f s) := by
  unfold execFieldRecovery
  split
  · exact h
  · exact State.modField_keeps (.foldl (resetTargets_keeps (cancelAll_keeps (h.same rfl))) fun _ _ h => resetCore_keeps h)

theorem clearFences_keeps {f} (h : Keeps r s) : Keeps r (clearFences s f) :=
  h.same rfl

theorem execSelfTestComplete_keeps {f pass} (h : Keeps r s) : OutKeeps r (execSelfTestComplete f pass s) := by
  unfold execSelfTestComplete
  split
  · exact h
  · split
    · exact State.plainErr_keeps (clearFences_keeps (State.modField_keeps h))
    · exact State.plainErr_keeps (enterField_keeps (State.modField_keeps h))

theorem scrubCore_keeps {core block err mark} (h : Keeps r s) (hmark : ∀ x0, Keeps r x0 → Keeps r (mark x0)) : Keeps r
    (scrubCore s core block err mark) := by
  unfold scrubCore
  split
  · exact sramCe_keeps h
  · exact sramUe_keeps (hmark _ h)
  · exact h

theorem execPatrolScrub_keeps {t err} (h : Keeps r s) : OutKeeps r (execPatrolScrub t err s) := by
  unfold execPatrolScrub
  split
  · split
    · exact h
    · split
      · exact hbmCe_keeps h
      · exact State.plainErr_keeps (h.mem rfl id)
      · exact h
  · split
    · exact h
    · exact scrubCore_keeps h fun _ h => h.mem rfl id
  · split
    · exact h
    · exact scrubCore_keeps h fun _ h => h.mem rfl id
  · split
    · exact h
    · split
      · exact infieldCe_keeps h
      · exact infieldUe_keeps (h.mem rfl id)
      · exact h

theorem clearStale_keeps {v} (h : Keeps r s) : Keeps r (clearStale s v) := by
  unfold clearStale
  split
  · exact h
  · exact h.same rfl

theorem carryClears_keeps {v} (h : Keeps r s) : Keeps r (carryClears s v) := by
  unfold carryClears
  split
  · split
    · split
      · split
        · exact h.same rfl
        · exact clearStale_keeps (h.same rfl)
      · split <;> exact h.same rfl
    · split
      · split
        · exact h.same rfl
        · exact clearStale_keeps (h.same rfl)
      · split <;> exact h.same rfl
  · split
    · split
      · split
        · exact h.same rfl
        · exact clearStale_keeps (h.same rfl)
      · split <;> exact h.same rfl
    · split
      · split
        · exact h.same rfl
        · exact clearStale_keeps h
      · split
        · exact h.same rfl
        · exact h

theorem mirrorWrite_keeps {a bs e} (h : Keeps r s) : Keeps r { s.devWr a bs with ev := e } :=
  (State.devWr_keeps h).same rfl

theorem execStatusMirrorRewrite_keeps (h : Keeps r s) : OutKeeps r (execStatusMirrorRewrite s) := by
  unfold execStatusMirrorRewrite
  split
  · exact h
  · exact mirrorWrite_keeps (carryClears_keeps (h.same rfl))

/-! What is kept by the clock. -/

theorem tickCores_keeps (h : Keeps r s) : Keeps r (tickCores s) :=
  .foldl h fun _ _ h => State.setCore_keeps h

theorem tickPower_fuses (s : State) : (tickPower s).rsp.fuses = s.rsp.fuses := by
  unfold tickPower
  dsimp only
  generalize (Power.mk .. : Power) = p
  split <;> rfl

theorem tickPower_keeps (h : Keeps r s) : Keeps r (tickPower s) :=
  ⟨h.queue, (tickPower_fuses s) ▸ h.fuses, h.mems⟩

theorem tickQuiet_keeps (h : Keeps r s) : Keeps r (tickQuiet s) := by
  unfold tickQuiet
  split
  · exact h
  · exact h.same rfl

theorem housekeep_keeps (h : Keeps r s) : Keeps r (housekeep s) := by
  unfold housekeep
  split
  · dsimp only
    split
    · split
      · exact settleLeave_keeps (portBounds_keeps (runColls_keeps (saveHaltedAll_keeps (State.flushMerges_keeps h))))
      · exact runColls_keeps (saveHaltedAll_keeps (State.flushMerges_keeps h))
    · split
      · exact settleLeave_keeps (portBounds_keeps (State.flushMerges_keeps h))
      · exact State.flushMerges_keeps h
  · dsimp only
    split
    · split
      · exact settleLeave_keeps (portBounds_keeps (runColls_keeps (saveHaltedAll_keeps h)))
      · exact runColls_keeps (saveHaltedAll_keeps h)
    · split
      · exact settleLeave_keeps (portBounds_keeps h)
      · exact h

theorem tick_keeps (h : Keeps r s) : Keeps r (tick s) := by
  unfold tick
  split
  · exact h
  · dsimp only
    have ht : Keeps r (tickQuiet (housekeep (tickPower (tickCores { s with disps := s.disps.map (tickDispatch s) })))) :=
      tickQuiet_keeps (housekeep_keeps (tickPower_keeps (tickCores_keeps (h.same rfl))))
    exact Keeps.same ht rfl

/-! What is kept by atomics. -/

theorem atRun_keeps {op q e p xs} (h : Keeps r s) : Keeps r (atRun op q e p xs s).1 := by
  induction xs generalizing s with
  | nil => exact h
  | cons x t ih => exact ih (h.mem rfl fun k => devWrite_ok k _ _ _ _ _)

theorem atForm_keeps {op f x c n} (h : Keeps r s) : Runs r (Keeps r) (atForm op s f x c n) :=
  .bind resolve_keeps fun _ => .bind need_keeps fun _ => .bind need_keeps fun _ => .bind lift_keeps fun _ => .bind free_keeps
      fun _ => .guard trivial fun _ => State.flown_keeps (State.setCore_keeps (atRun_keeps h))

theorem execAtAddM_keeps {d f} (h : Keeps r s) : OutKeeps r (execAtAddM d f s) :=
  issue_keeps h fun _ _ _ => atForm_keeps h

theorem execAtAddI_keeps {d f} (h : Keeps r s) : OutKeeps r (execAtAddI d f s) :=
  issue_keeps h fun _ _ _ => atForm_keeps h

theorem execAtAddF_keeps {d f} (h : Keeps r s) : OutKeeps r (execAtAddF d f s) :=
  issue_keeps h fun _ _ _ => atForm_keeps h

theorem execAtCas_keeps {d f} (h : Keeps r s) : OutKeeps r (execAtCas d f s) :=
  issue_keeps h fun _ _ _ => atForm_keeps h

/-! What is kept by registers and held traffic. -/

theorem execRegisterWrite_keeps {p size value} (h : Keeps r s) : OutKeeps r (execRegisterWrite p size value s) := by
  unfold execRegisterWrite
  split
  · split
    · exact writeRegister_keeps (linkHeard_keeps h)
    · exact h
  · split
    · exact State.setMgr_keeps h
    · exact h
  · split
    · exact State.modPort_keeps h
    · exact h
  · split
    · exact clearStale_keeps h
    · exact h
  · split
    · exact h.same rfl
    · exact h

theorem ringHeld_keeps {m slot} (h : Keeps r s) : OutKeeps r (ringHeld s m slot) := by
  unfold ringHeld
  dsimp only
  split
  next hr => exact State.setMb_keeps ((runMailbox_keeps (State.setMb_keeps h)).get hr)
  · exact runMailbox_keeps (State.setMb_keeps h)

theorem OutKeeps.orStay (hs : Keeps r s) : {o : Out} → OutKeeps r o → Keeps r (match o with
    | .next t => t
    | _ => s)
  | .next _, h => h
  | .fault _, _ => hs
  | .refused _, _ => hs

theorem serveHeld_keeps {i} (h : Keeps r s) : Keeps r (serveHeld s i) := by
  unfold serveHeld
  refine OutKeeps.orStay h ?_
  split
  · exact execHostWindowAccess_keeps h
  · exact execHostWindowCas_keeps h
  · exact execQueueDoorbell_keeps h
  · exact ringHeld_keeps h
  · exact execCrReq_keeps h
  · exact execPut_keeps h
  · exact execPeerMarkSignal_keeps h
  · exact execCollSetup_keeps h
  · exact execCollChunk_keeps h
  · exact execCollCommit_keeps h
  · exact execCollDepart_keeps h
  · exact execCollOrphan_keeps h
  · exact execCollAbandon_keeps h
  · exact execCollRestart_keeps h
  · exact execCollChunkCredit_keeps h
  · exact execCollChunkAck_keeps h
  · exact h

theorem execRestWakeComplete_keeps (h : Keeps r s) : OutKeeps r (execRestWakeComplete s) := by
  unfold execRestWakeComplete
  split
  · exact h
  · exact .foldl (h.same rfl) fun _ _ h => serveHeld_keeps h

/-! What is kept by every command. -/

/-- Every command keeps the queue, the direction of the fuses and the form of the memories. -/
theorem exec_keeps (i : Instr) (h : Keeps r s) : OutKeeps r (exec i s) := by
  cases i with
  | nttF => exact execNttF_keeps h
  | nttI => exact execNttI_keeps h
  | auto => exact execAuto_keeps h
  | cvtUp => exact execCvtUp_keeps h
  | cvtDown => exact execCvtDown_keeps h
  | cvtRescale => exact execCvtRescale_keeps h
  | cvtMm => exact execCvtMm_keeps h
  | cvtDrain => exact execCvtDrain_keeps h
  | ksPrep => exact execKsPrep_keeps h
  | ksIp => exact execKsIp_keeps h
  | ksFin => exact execKsFin_keeps h
  | vAdd => exact execVAdd_keeps h
  | vSub => exact execVSub_keeps h
  | vMul => exact execVMul_keeps h
  | vMac => exact execVMac_keeps h
  | vRed => exact execVRed_keeps h
  | vCvtBf => exact execVCvtBf_keeps h
  | vCvtF => exact execVCvtF_keeps h
  | vAddObj => exact execVAddObj_keeps h
  | vSubObj => exact execVSubObj_keeps h
  | vMulObj => exact execVMulObj_keeps h
  | xpose => exact execXpose_keeps h
  | sLd => exact execSLd_keeps h
  | sSt => exact execSSt_keeps h
  | sPut => exact execSPut_keeps h
  | sGet => exact execSGet_keeps h
  | winOpen => exact execWinOpen_keeps h
  | winClose => exact execWinClose_keeps h
  | atAddM => exact execAtAddM_keeps h
  | atAddI => exact execAtAddI_keeps h
  | atAddF => exact execAtAddF_keeps h
  | atCas => exact execAtCas_keeps h
  | scLi => exact execScLi_keeps h
  | scAdd => exact execScAdd_keeps h
  | scSub => exact execScSub_keeps h
  | scMul => exact execScMul_keeps h
  | scAnd => exact execScAnd_keeps h
  | scOr => exact execScOr_keeps h
  | scXor => exact execScXor_keeps h
  | scShl => exact execScShl_keeps h
  | scShr => exact execScShr_keeps h
  | scLd => exact execScLd_keeps h
  | scSt => exact execScSt_keeps h
  | scHdr => exact execScHdr_keeps h
  | scArg => exact execScArg_keeps h
  | scCtr => exact execScCtr_keeps h
  | scStat => exact execScStat_keeps h
  | scLrd => exact execScLrd_keeps h
  | scLwr => exact execScLwr_keeps h
  | hdrW => exact execHdrW_keeps h
  | br => exact execBr_keeps h
  | lap => exact execLap_keeps h
  | lapIterationEnd => exact execLapIterationEnd_keeps h
  | call => exact execCall_keeps h
  | ret => exact execRet_keeps h
  | ring => exact execRing_keeps h
  | ringConfigEffect => exact execRingConfigEffect_keeps h
  | markSig => exact execMarkSig_keeps h
  | markWait => exact execMarkWait_keeps h
  | handoffOut => exact execHandoffOut_keeps h
  | handoffIn => exact execHandoffIn_keeps h
  | handoffTimeout => exact execHandoffTimeout_keeps h
  | stageBegin => exact execStageBegin_keeps h
  | stageEnd => exact execStageEnd_keeps h
  | stageEndRetire => exact execStageEndRetire_keeps h
  | rel => exact execRel_keeps h
  | vltModraise => exact execVltModraise_keeps h
  | vltCts => exact execVltCts_keeps h
  | vltEvalmod => exact execVltEvalmod_keeps h
  | vltStc => exact execVltStc_keeps h
  | vltBoot => exact execVltBoot_keeps h
  | vltExtract => exact execVltExtract_keeps h
  | vltPbs => exact execVltPbs_keeps h
  | vltRepack => exact execVltRepack_keeps h
  | vltBootExact => exact execVltBootExact_keeps h
  | instructionRetire => exact execInstructionRetire_keeps h
  | streamUnitCommit => exact execStreamUnitCommit_keeps h
  | pageWalk u ctx va acc => exact execPageWalk_keeps (u := u) (ctx := ctx) (va := va) (acc := acc) h
  | streamCreditRetry => exact execStreamCreditRetry_keeps h
  | streamEmptyResume => exact execStreamEmptyResume_keeps h
  | crReq => exact execCrReq_keeps h
  | crGrant => exact execCrGrant_keeps h
  | put => exact execPut_keeps h
  | crReturn => exact execCrReturn_keeps h
  | crCancel => exact execCrCancel_keeps h
  | creditTimeout => exact execCreditTimeout_keeps h
  | queueDoorbell => exact execQueueDoorbell_keeps h
  | dispatchRecordRead => exact execDispatchRecordRead_keeps h
  | dispatchPlace => exact execDispatchPlace_keeps h
  | distanceYieldExpiry => exact execDistanceYieldExpiry_keeps h
  | dispatchResume => exact execDispatchResume_keeps h
  | migration => exact execMigration_keeps h
  | placeWindowExpiry => exact execPlaceWindowExpiry_keeps h
  | dispatchCommit => exact execDispatchCommit_keeps h
  | markSignalArrival => exact execMarkSignalArrival_keeps h
  | markWaitTimeout => exact execMarkWaitTimeout_keeps h
  | hostMarkSig => exact execHostMarkSig_keeps h
  | peerMarkSignal => exact execPeerMarkSignal_keeps h
  | peerMarkAck => exact execPeerMarkAck_keeps h
  | ctxCreate => exact execCtxCreate_keeps h
  | ctxDestroy => exact execCtxDestroy_keeps h
  | ctxInfo => exact execCtxInfo_keeps h
  | keysetLoad => exact execKeysetLoad_keeps h
  | keysetUnload => exact execKeysetUnload_keeps h
  | keyPin => exact execKeyPin_keeps h
  | keyCopyComplete => exact execKeyCopyComplete_keeps h
  | resWindowExpiry => exact execResWindowExpiry_keeps h
  | progLoad => exact execProgLoad_keeps h
  | progUnload => exact execProgUnload_keeps h
  | descSet => exact execDescSet_keeps h
  | descFree => exact execDescFree_keeps h
  | queueCreate => exact execQueueCreate_keeps h
  | queueDestroy => exact execQueueDestroy_keeps h
  | spadRelease => exact execSpadRelease_keeps h
  | hwinSet => exact execHwinSet_keeps h
  | markRead => exact execMarkRead_keeps h
  | markSet => exact execMarkSet_keeps h
  | markSignal => exact execMarkSignal_keeps h
  | collCreate => exact execCollCreate_keeps h
  | collDestroy => exact execCollDestroy_keeps h
  | collStatus => exact execCollStatus_keeps h
  | cfgBegin => exact execCfgBegin_keeps h
  | cfgSet => exact execCfgSet_keeps h
  | cfgCommit => exact execCfgCommit_keeps h
  | cfgRollback => exact execCfgRollback_keeps h
  | cfgGet => exact execCfgGet_keeps h
  | cfgTxnExpiry => exact execCfgTxnExpiry_keeps h
  | settingTakeEffect => exact execSettingTakeEffect_keeps h
  | resultGet => exact execResultGet_keeps h
  | resultRelease => exact execResultRelease_keeps h
  | abort => exact execAbort_keeps h
  | attestGet => exact execAttestGet_keeps h
  | systemJoin => exact execSystemJoin_keeps h
  | systemLeave => exact execSystemLeave_keeps h
  | leaveDrainExpiry => exact execLeaveDrainExpiry_keeps h
  | eventRing => exact execEventRing_keeps h
  | fwStage => exact execFwStage_keeps h
  | fwActivate => exact execFwActivate_keeps h
  | fwLiveSwap => exact execFwLiveSwap_keeps h
  | registerWrite => exact execRegisterWrite_keeps h
  | hostWindowAccess => exact execHostWindowAccess_keeps h
  | hostWindowCas => exact execHostWindowCas_keeps h
  | companionSnoopInvalidate => exact execCompanionSnoopInvalidate_keeps h
  | weloneLinkDown => exact execWeloneLinkDown_keeps h
  | weloneLinkRetrain => exact execWeloneLinkRetrain_keeps h
  | portTrainingAttempt => exact execPortTrainingAttempt_keeps h
  | portTrainingComplete => exact execPortTrainingComplete_keeps h
  | ident => exact execIdent_keeps h
  | identTimeout => exact execIdentTimeout_keeps h
  | portAttestComplete => exact execPortAttestComplete_keeps h
  | attestTimeout => exact execAttestTimeout_keeps h
  | flitCrcError => exact execFlitCrcError_keeps h
  | laneLossOfLock => exact execLaneLossOfLock_keeps h
  | linkDeadTimer => exact execLinkDeadTimer_keeps h
  | idleFlitSend => exact execIdleFlitSend_keeps h
  | gcmTagFailure => exact execGcmTagFailure_keeps h
  | leave => exact execLeave_keeps h
  | collSetup => exact execCollSetup_keeps h
  | collChunk => exact execCollChunk_keeps h
  | collCommit => exact execCollCommit_keeps h
  | collDepart => exact execCollDepart_keeps h
  | collOrphan => exact execCollOrphan_keeps h
  | collAbandon => exact execCollAbandon_keeps h
  | collRestart => exact execCollRestart_keeps h
  | reformTimeout => exact execReformTimeout_keeps h
  | marshalFaultService => exact execMarshalFaultService_keeps h
  | pageFillComplete => exact execPageFillComplete_keeps h
  | pageRewalk => exact execPageRewalk_keeps h
  | faultWaitExpiry => exact execFaultWaitExpiry_keeps h
  | dmaTransferComplete => exact execDmaTransferComplete_keeps h
  | vaonRise => exact execVaonRise_keeps h
  | enRise => exact execEnRise_keeps h
  | enFall => exact execEnFall_keeps h
  | startupStepComplete => exact execStartupStepComplete_keeps h
  | inputTrip => exact execInputTrip_keeps h
  | vaonLoss => exact execVaonLoss_keeps h
  | thermalTrip => exact execThermalTrip_keeps h
  | refclkLoss => exact execRefclkLoss_keeps h
  | thermalEmergencyEntry => exact execThermalEmergencyEntry_keeps h
  | thermalEmergencyExit => exact execThermalEmergencyExit_keeps h
  | pacerSample => exact execPacerSample_keeps h
  | clockStepChange => exact execClockStepChange_keeps h
  | fieldIdleSleep => exact execFieldIdleSleep_keeps h
  | fieldIdleOff => exact execFieldIdleOff_keeps h
  | fieldWakeComplete => exact execFieldWakeComplete_keeps h
  | restEntry => exact execRestEntry_keeps h
  | wakeEvent w => exact execWakeEvent_keeps (w := w) h
  | dbgStatus => exact execDbgStatus_keeps h
  | dbgChallenge => exact execDbgChallenge_keeps h
  | dbgResponse => exact execDbgResponse_keeps h
  | dbgRead => exact execDbgRead_keeps h
  | dbgWrite => exact execDbgWrite_keeps h
  | dbgHalt => exact execDbgHalt_keeps h
  | dbgResume => exact execDbgResume_keeps h
  | dbgLcToken => exact execDbgLcToken_keeps h
  | dbgDebugClose => exact execDbgDebugClose_keeps h
  | getVersion => exact execGetVersion_keeps h
  | getCapabilities => exact execGetCapabilities_keeps h
  | negotiateAlgorithms => exact execNegotiateAlgorithms_keeps h
  | getDigests => exact execGetDigests_keeps h
  | getCertificate => exact execGetCertificate_keeps h
  | challenge v slot nonce => exact execChallenge_keeps (nonce := nonce) h
  | getMeasurements v index signed nonce => exact execGetMeasurements_keeps (nonce := nonce) h
  | keyExchange => exact execKeyExchange_keeps h
  | finish => exact execFinish_keeps h
  | heartbeat => exact execHeartbeat_keeps h
  | keyUpdate => exact execKeyUpdate_keeps h
  | endSession => exact execEndSession_keeps h
  | chunkSend => exact execChunkSend_keeps h
  | chunkGet => exact execChunkGet_keeps h
  | respondIfReady => exact execRespondIfReady_keeps h
  | spdmSessionIdleTimeout => exact execSpdmSessionIdleTimeout_keeps h
  | kemMix => exact execKemMix_keeps h
  | nonceGet => exact execNonceGet_keeps h
  | lcToken => exact execLcToken_keeps h
  | debugClose => exact execDebugClose_keeps h
  | weightsKey => exact execWeightsKey_keeps h
  | weightsUnwrap => exact execWeightsUnwrap_keeps h
  | drbgReseed => exact execDrbgReseed_keeps h
  | entropyHealthFail => exact execEntropyHealthFail_keeps h
  | entropyReseedTimeout => exact execEntropyReseedTimeout_keeps h
  | hammerMac => exact execHammerMac_keeps h
  | hslotWrite => exact execHslotWrite_keeps h
  | hslotRelease => exact execHslotRelease_keeps h
  | keyLoad => exact execKeyLoad_keeps h
  | hammerPrivateKeyOp op agree => exact execHammerPrivateKeyOp_keeps (op := op) h
  | idcode => exact execIdcode_keeps h
  | bypass => exact execBypass_keeps h
  | samplePreload => exact execSamplePreload_keeps h
  | extest => exact execExtest_keeps h
  | smbModulePwr => exact execSmbModulePwr_keeps h
  | smbFenceStatus => exact execSmbFenceStatus_keeps h
  | smbFieldPwr => exact execSmbFieldPwr_keeps h
  | smbSerial => exact execSmbSerial_keeps h
  | smbIdcode => exact execSmbIdcode_keeps h
  | smbLcState => exact execSmbLcState_keeps h
  | smbWrite code => exact execSmbWrite_keeps (code := code) h
  | fabricRetry => exact execFabricRetry_keeps h
  | controlUe => exact execControlUe_keeps h
  | contextUe => exact execContextUe_keeps h
  | fieldPllLoss => exact execFieldPllLoss_keeps h
  | moduleFault => exact execModuleFault_keeps h
  | fieldRecovery => exact execFieldRecovery_keeps h
  | selfTestComplete => exact execSelfTestComplete_keeps h
  | patrolScrub => exact execPatrolScrub_keeps h
  | statusMirrorRewrite => exact execStatusMirrorRewrite_keeps h
  | admissionMessage => exact execAdmissionMessage_keeps h
  | collChunkCredit => exact execCollChunkCredit_keeps h
  | collChunkAck => exact execCollChunkAck_keeps h
  | hbmDoubledRefresh => exact execHbmDoubledRefresh_keeps h
  | sealedFrameZeroed => exact execSealedFrameZeroed_keeps h
  | relayControlUe => exact execRelayControlUe_keeps h
  | restEntryComplete => exact execRestEntryComplete_keeps h
  | restWakeComplete => exact execRestWakeComplete_keeps h
  | fieldEntryComplete => exact execFieldEntryComplete_keeps h
  | heartbeatPeriodExpiry => exact execHeartbeatPeriodExpiry_keeps h

/-! What is kept by a step. -/

/-- A step keeps them too; the queue it keeps is the one that is left when the command at the front has been taken. -/
theorem step_keeps (s : State) : OutKeeps { s with pending := s.pending.tail } (step s) := by
  unfold step
  split
  next hp => exact tick_keeps ⟨by rw [hp]; rfl, .refl _, id⟩
  next hp => exact exec_keeps _ ⟨by rw [hp]; rfl, .refl _, id⟩

/-- Settles O60: every command keeps memories in canonical form, as each writes them by the operations of the memory layer. -/
theorem stepsKeepTheMemoriesCanonical : Obligations.StepsKeepTheMemoriesCanonical := by
  intro s t hok hstep
  exact ((step_keeps s).get hstep).mems hok

end Keeping

end Sys2Proof.Machine

/-! SUPPORT. Streams and windows: where an issued stream goes, and what s.ld, s.st, s.put, s.get, win.open and win.close come to
with their checks met (R77, R192, R221, R230). -/

namespace Sys2Proof.Machine

/-! Where a stream goes (R77, R192). -/

theorem le_foldl_max_init (l : List Nat) (a : Nat) : a ≤ l.foldl max a := by
  induction l generalizing a with
  | nil => exact le_rfl
  | cons b t ih => exact (le_max_left a b).trans (ih _)

theorem le_foldl_max_of_mem {l : List Nat} {b : Nat} (h : b ∈ l) (a : Nat) : b ≤ l.foldl max a := by
  induction l generalizing a with
  | nil => cases h
  | cons c t ih =>
    rcases List.mem_cons.1 h with rfl | h
    · exact (le_max_right a b).trans (le_foldl_max_init t _)
    · exact ih h _

section Place

variable {x : Dispatch} {m : Nat}

theorem freeSlot_free (h : freeSlot x = some m) : x.streams.all (fun z => z.slot != m) = true := by
  simpa using List.find?_some h

theorem placeFor_of_freeSlot (h : freeSlot x = some m) : placeFor x = some m := by
  simp only [placeFor, h]

/-- With all slots occupied the place is above every place that is taken, and above the slots. -/
theorem placeFor_above (hfree : freeSlot x = none) (h : placeFor x = some m) : 8 ≤ m ∧ ∀ z ∈ x.streams, z.slot < m := by
  simp only [placeFor, hfree, Option.ite_none_right_eq_some, Option.some.injEq] at h
  obtain ⟨_, rfl⟩ := h
  have h8 := le_foldl_max_init ((x.streams.filter (fun z => decide (z.slot ≥ 8))).map (fun z => z.slot)) 7
  refine ⟨by omega, fun z hz => ?_⟩
  by_cases hz8 : z.slot ≥ 8
  · exact Nat.lt_succ_of_le (le_foldl_max_of_mem
      (List.mem_map.2 ⟨z, List.mem_filter.2 ⟨hz, decide_eq_true hz8⟩, rfl⟩) 7)
  · omega

/-- No stream of the dispatch has the place that an issued stream is given. -/
theorem placeFor_free (h : placeFor x = some m) : x.streams.all (fun z => z.slot != m) = true := by
  cases hfree : freeSlot x with
  | some k =>
    obtain rfl : k = m := Option.some.inj ((placeFor_of_freeSlot hfree).symm.trans h)
    exact freeSlot_free hfree
  | none =>
    simp only [List.all_eq_true, bne_iff_ne]
    exact fun z hz => ((placeFor_above hfree h).2 z hz).ne

end Place

/-! The forms. -/

section Forms

variable {s : State} {x : Dispatch} {c : Ctx} {n : Nat}

/-- R192: a stream that is planned enters its place, and an s.put that has a slot sends its first request for blocks. -/
theorem streamForm_ok {k : StreamKind} {f : SForm} {t : Stream} (hplan : streamPlan k s f x c = .ok t)
    (hfree : free x (streamIssueUse f t) = .ok ()) :
    streamForm k s f x c n = .ok (
      let y := { x with pc := x.pc + n, streams := x.streams ++ [t] }
      if k == .put && t.slot < 8 then sendReq (s.setDisp y) y t else s.setDisp y) := by
  simp only [streamForm, hplan, hfree, run_eq]
  rfl

/-- R230: win.open adds its window to the manager that the operand's space selects. -/
theorem winOpenForm_ok {f : WForm} {o : Opnd} {mark : Option Nat} {xs : List Span} {lo hi : Int} {sp : Nat} {mgr : Mgr}
    (hlo : (dExtent o.raw).1 = lo) (hhi : (dExtent o.raw).2 = hi) (hsp : dSpace o.raw = sp) (hmgr : mgrOf x sp = mgr)
    (ho : resolveAny x c (s.core x.lead) f.rm false = .ok o) (hspace : sp = 1 ∨ sp = 2) (hbase : dBase o.raw % 1024 = 0)
    (hlow : lo.toNat % 1024 = 0) (hlen : (hi - lo).toNat % 1024 = 0)
    (hnew : (s.mgr mgr).windows.any (fun y => y.num == f.window) = false) (hroom : (s.mgr mgr).windows.length < mgrCap mgr)
    (htest : mgrTesting s mgr = false) (hmark : f.markEn = true → mark.isSome = true ∧ x.markNum f.arriveMark = mark)
    (hnone : f.markEn = false → mark = none)
    (hxs : spaceSpans s c (some x.id) x.lead .write 0 sp 0 lo.toNat (hi - lo).toNat = .ok xs)
    (hfree : free x { Use.none with rs := hrefRegs f.rm } = .ok ()) :
    winOpenForm s f x c n = .ok ((s.setMgr mgr { s.mgr mgr with windows := (s.mgr mgr).windows ++ [
      { num := f.window, ctx := c.num, owner := x.id, base := lo.toNat, swz := if sp == 1 then dSwz o.raw else 0
        blocks := List.replicate ((hi - lo).toNat / 1024) .empty, scoreLo := f.scoreLo, scoreHi := f.scoreHi
        smod := if f.xmod then some f.smod else none, mark := mark, epoch := x.epoch }] }).setDisp (x.adv n)) := by
  subst hlo hhi hsp hmgr
  have hkind : (dSpace o.raw == 1 || dSpace o.raw == 2) = true := by simpa using hspace
  have halign : (dBase o.raw % 1024 == 0 && (dExtent o.raw).1.toNat % 1024 == 0
      && ((dExtent o.raw).2 - (dExtent o.raw).1).toNat % 1024 == 0) = true := by
    simp [hbase, hlow, hlen]
  have hopen : (!(s.mgr (mgrOf x (dSpace o.raw))).windows.any (fun y => y.num == f.window)
      && decide ((s.mgr (mgrOf x (dSpace o.raw))).windows.length < mgrCap (mgrOf x (dSpace o.raw)))
      && !mgrTesting s (mgrOf x (dSpace o.raw))) = true := by
    simp [hnew, hroom, htest]
  cases hen : f.markEn with
  | false =>
    obtain rfl := hnone hen
    simp only [winOpenForm, ho, hkind, halign, hopen, hen, need_ok, hxs, lift, hfree, run_eq]
    rfl
  | true =>
    obtain ⟨hsome, hm⟩ := hmark hen
    obtain ⟨k, rfl⟩ := Option.isSome_iff_exists.1 hsome
    simp only [winOpenForm, ho, hkind, halign, hopen, hen, hm, need_ok, hxs, lift, hfree, run_eq]
    rfl

/-- R230: win.close takes the window away, where no s.get of the dispatch still stores to it. -/
theorem winCloseForm_ok {rm : HRef} {win : Nat} {o : Opnd} {mgr : Mgr} (hmgr : mgrOf x (dSpace o.raw) = mgr)
    (ho : resolveAny x c (s.core x.lead) rm false = .ok o) (hspace : dSpace o.raw = 1 ∨ dSpace o.raw = 2)
    (hwin : (s.mgr mgr).windows.any (fun w => w.num == win && w.ctx == c.num) = true)
    (hidle : x.streams.any (fun t => t.kind == .get && t.window == win) = false)
    (hfree : free x { Use.none with rs := hrefRegs rm } = .ok ()) :
    winCloseForm s rm win x c n = .ok ((closeWindow s mgr win).setDisp (x.adv n)) := by
  subst hmgr
  have hkind : (dSpace o.raw == 1 || dSpace o.raw == 2) = true := by simpa using hspace
  simp only [winCloseForm, ho, hkind, hwin, hidle, need_ok, hfree, run_eq]
  rfl

end Forms

/-- Settles O17: the plan of a stream gives it a free place and its state at the start, and each form meets its checks by a
hypothesis of the clause. -/
theorem streamsAndWindowsOpenAndClose : Obligations.StreamsAndWindowsOpenAndClose := by
  unfold Obligations.StreamsAndWindowsOpenAndClose
  refine ⟨?_, ?_, ?_⟩
  · intro k s d f x c n t i y hst hplan
    obtain ⟨hstate, hdone, hkind, hinstr, hplace⟩ := (streamPlan_starts (r := s)).get hplan
    have hform := streamForm_ok (n := n) hplan (stands_free hst)
    refine ⟨?_, hstate, hdone, hkind, hinstr, placeFor_free hplace, fun m hm => ?_, fun hnone => (placeFor_above hnone hplace).1⟩
    · cases k <;> exact issues_of_form hst rfl hform
    · exact Option.some.inj (hplace.symm.trans (placeFor_of_freeSlot hm))
  · intro s d f x c n o mark xs lo hi sp m w hst ho hspace hbase hlow hlen hnew hroom htest hmark hnone hxs
    exact issues_of_form hst rfl (winOpenForm_ok rfl rfl rfl rfl ho hspace hbase hlow hlen hnew hroom htest hmark hnone hxs
      (stands_free hst))
  · intro s d rm win x c n o mgr hst ho hspace hwin hidle
    exact issues_of_form hst rfl (winCloseForm_ok rfl ho hspace hwin hidle (stands_free hst))

end Sys2Proof.Machine

/-! SUPPORT. Atomics: what their form comes to with its checks met (R188 to R190, R222). -/

namespace Sys2Proof.Machine

theorem exec_atOp (op : AtOp) (s : State) (d : DRef) (f : AForm) :
    exec (op.instr d f) s = issue s d (op.instr d f) 3 (atForm op s f) := by
  cases op <;> rfl

section Forms

variable {op : AtOp} {s : State} {f : AForm} {x : Dispatch} {c : Ctx} {n : Nat}

/-- R188: the elements are updated one after another, and the old values, with FETCH, go to the core's registers. -/
theorem atForm_ok {o : Opnd} {at_ rv vs cs : List Nat} {e q : Nat} {u : Use} {y : State × List Nat × Nat × Bool}
    (he : atBytes f = e) (hq : nth (activeRing x c s).qs f.mod 1 = q)
    (hrv : groupRegs f.vs e f.cnt ++ (if op == .cas then groupRegs f.vc e f.cnt else []) = rv)
    (hu : { Use.none with rv := rv, wv := if f.fetch then groupRegs f.vf e f.cnt else [], rs := hrefRegs f.rm,
                          wr := (at_.zip (List.range f.cnt)).map (fun a => ⟨0, a.1, e, 3, some (atAddr f o.raw a.2)⟩) } = u)
    (hvs : (s.core x.lead).groupRead f.vs e f.cnt = vs)
    (hcs : (if op == .cas then (s.core x.lead).groupRead f.vc e f.cnt else vs) = cs)
    (hy : atRun op q e ((s.core x.lead).vPois rv) (at_.zip (vs.zip cs)) s = y)
    (ho : resolve x c (s.core x.lead) f.rm true false = .ok o) (hspace : dSpace o.raw = 0) (helem : atElemOk op o.raw = true)
    (helems : atElemsOk f o.raw = true) (hmod : op = .addM → f.mod < (activeRing x c s).qs.length)
    (hat : atPlaces s c f o.raw (List.range f.cnt) = .ok at_) (hfree : free x u = .ok ()) (hidle : x.engineFree 5 = true) :
    atForm op s f x c n = .ok (
      let pois := (s.core x.lead).vPois rv || y.2.2.2
      (y.1.setCore x.lead (if f.fetch then ((s.core x.lead).groupWrite f.vf e y.2.1 pois).raise y.2.2.1 else s.core x.lead)).flown
        x n (y.1.flight x 5 u [] [] 0 0) pois) := by
  subst he hq hrv hu hvs hcs hy
  have hsuits : (dSpace o.raw == 0 && atElemOk op o.raw && atElemsOk f o.raw) = true := by
    simp [hspace, helem, helems]
  have hring : (op != .addM || decide (f.mod < (activeRing x c s).qs.length)) = true := by
    by_cases hadd : op = .addM
    · simp [hmod hadd]
    · simp [hadd]
  simp only [atForm, ho, hsuits, hring, hat, lift, hfree, hidle, need_ok, run_eq, Bool.not_true, Bool.false_eq_true, if_false]
  rfl

end Forms

/-- Settles O18: each form meets its checks by a hypothesis, and its run over the elements applies the operation R188 gives. -/
theorem atomicsUpdateEachElementInOrder : Obligations.AtomicsUpdateEachElementInOrder := by
  unfold Obligations.AtomicsUpdateEachElementInOrder
  intro op s d f x c n o at_ r e q rv u vs y pois hst ho hspace helem helems hmod hat hidle
  refine ⟨?_, fun _ _ _ => rfl, fun _ _ _ => rfl, fun m v cmp => ?_⟩
  · exact issues_of_form hst (exec_atOp ..) (atForm_ok rfl rfl rfl rfl rfl rfl rfl ho hspace helem helems hmod hat
      (stands_free hst) hidle)
  · simp only [atResult, beq_iff_eq]

end Sys2Proof.Machine

/-! SUPPORT. REST: what the loss of the Fields' power leaves, and the write-back of the memory-side caches (R187, R402). -/

namespace Sys2Proof.Machine

/-! Lists that a step after step changes. -/

theorem length_modNth {α : Type} (f : α → α) (i : Nat) (l : List α) : (modNth f i l).length = l.length := by
  induction l generalizing i with
  | nil => simp [modNth]
  | cons a t ih => cases i <;> simp [modNth, ih]

/-- What step `b` brings about, given something that every step leaves, and what every step leaves then, holds after steps of which
`b` is one. -/
theorem foldl_brings {α β : Type} {p q : α → Prop} {f : α → β → α} {b : β} {l : List β} (hb : b ∈ l)
    (hp : ∀ a c, p a → p (f a c)) (hq : ∀ a c, q a → q (f a c)) (hbring : ∀ a, q a → p (f a b)) {a : α} (ha : q a) :
    p (l.foldl f a) := by
  induction l generalizing a with
  | nil => cases hb
  | cons c t ih =>
    rcases List.mem_cons.1 hb with rfl | hb
    · exact foldl_keeps p f hp t _ (hbring a ha)
    · exact ih hb (hq a c ha)

/-! The write-back (R187). -/

section Flush

variable (m : MemState) (l : Nat) (wb : Bool)

theorem cacheDrop_cache : (cacheDrop m l wb).cache = m.cache.filter (·.line != l) := by
  unfold cacheDrop
  split
  next hnone =>
    exact (List.filter_eq_self.2 fun c hc => by simpa using List.find?_eq_none.1 hnone c hc).symm
  next => dsimp only; split <;> rfl

theorem cacheDrop_inf : (cacheDrop m l wb).inf = m.inf := by
  unfold cacheDrop
  split
  · rfl
  · dsimp only; split <;> rfl

theorem cacheFlush_inf : (cacheFlush m).inf = m.inf :=
  foldl_keeps (fun t : MemState => t.inf = m.inf) _ (fun t c h => (cacheDrop_inf t c.line true).trans h) _ _ rfl

/-- A flush drops every line. -/
theorem cacheFlush_cache : (cacheFlush m).cache = [] := by
  refine List.eq_nil_iff_forall_not_mem.2 fun c hc => ?_
  have hstays : c ∈ m.cache := foldl_keeps (fun t : MemState => c ∈ t.cache → c ∈ m.cache) _
    (fun t d h hd => h (List.mem_filter.1 (cacheDrop_cache t d.line true ▸ hd)).1) _ _ id hc
  exact foldl_brings (p := fun t : MemState => c ∉ t.cache) (q := fun _ => True) hstays
    (fun t d h hd => h (List.mem_filter.1 (cacheDrop_cache t d.line true ▸ hd)).1) (fun _ _ _ => trivial)
    (fun t _ hd => absurd (List.mem_filter.1 (cacheDrop_cache t c.line true ▸ hd)).2 (by simp)) trivial hc

end Flush

/-- Two memories that agree on the device memory and on the lines that cache it. -/
def DramAs (m m' : MemState) : Prop := m'.hbm = m.hbm ∧ m'.comp = m.comp ∧ m'.cache = m.cache

theorem DramAs.cacheDrop {m m' : MemState} (h : DramAs m m') (l : Nat) (wb : Bool) :
    DramAs (cacheDrop m l wb) (cacheDrop m' l wb) := by
  obtain ⟨hh, hc, hl⟩ := h
  simp only [Machine.cacheDrop, hl]
  split
  · exact ⟨hh, hc, hl⟩
  · split
    · exact ⟨congrArg (memPut · _ _) hh, hc, congrArg (List.filter _) hl⟩
    · exact ⟨hh, hc, congrArg (List.filter _) hl⟩

theorem DramAs.cacheFlush {m m' : MemState} (h : DramAs m m') : DramAs (cacheFlush m) (cacheFlush m') := by
  rw [Machine.cacheFlush, Machine.cacheFlush, h.2.2]
  exact List.foldl_rel h fun c _ t t' ht => ht.cacheDrop c.line true

/-! Fields without power (R402). -/

/-- What the loss of a Field's power leaves as it is. -/
structure OutlastsFields (s t : State) : Prop where
  pwr : t.pwr = s.pwr
  disps : t.disps = s.disps
  ctxs : t.ctxs.length = s.ctxs.length
  dram : DramAs s.mem t.mem
  inf : t.mem.inf = s.mem.inf

theorem OutlastsFields.trans {s t u : State} (h : OutlastsFields s t) (g : OutlastsFields t u) : OutlastsFields s u :=
  ⟨g.pwr.trans h.pwr, g.disps.trans h.disps, g.ctxs.trans h.ctxs,
    ⟨g.dram.1.trans h.dram.1, g.dram.2.1.trans h.dram.2.1, g.dram.2.2.trans h.dram.2.2⟩, g.inf.trans h.inf⟩

theorem outlastsFields_heldLost (s : State) (c n : Nat) : OutlastsFields s (s.heldLost c n) := by
  unfold State.heldLost
  split
  · exact ⟨rfl, rfl, rfl, ⟨rfl, rfl, rfl⟩, rfl⟩
  · exact ⟨rfl, rfl, List.length_map .., ⟨rfl, rfl, rfl⟩, rfl⟩

theorem fields_heldLost (s : State) (c n : Nat) : (s.heldLost c n).fields = s.fields := by
  unfold State.heldLost
  split <;> rfl

theorem outlastsFields_resetCore (s : State) (n : Nat) : OutlastsFields s (resetCore s n) := by
  have hheld := foldl_keeps (OutlastsFields s) (fun t (x : SegMap) => t.heldLost x.ctx 1)
    (fun t x h => h.trans (outlastsFields_heldLost t x.ctx 1)) (s.mem.csMap.filter (fun x => x.unit == n && x.held)) s
    ⟨rfl, rfl, rfl, ⟨rfl, rfl, rfl⟩, rfl⟩
  exact ⟨hheld.pwr, hheld.disps, hheld.ctxs, hheld.dram, hheld.inf⟩

theorem fields_resetCore (s : State) (n : Nat) : (resetCore s n).fields = s.fields :=
  foldl_keeps (fun t : State => t.fields = s.fields) _ (fun t _ h => (fields_heldLost t _ 1).trans h) _ s rfl

/-- One Field of a module that goes to rest. -/
def restField (s : State) (f : Nat) : State := enterField (s.modField f (fun g => { g with waking := false })) f .off

theorem outlastsFields_restField (s : State) (f : Nat) : OutlastsFields s (restField s f) :=
  foldl_keeps (OutlastsFields s) resetCore (fun t n h => h.trans (outlastsFields_resetCore t n)) _ _
    ⟨rfl, rfl, rfl, ⟨rfl, rfl, rfl⟩, rfl⟩

theorem fields_restField (s : State) (f : Nat) : (restField s f).fields =
    modNth (fun g => { g with st := .off, entering := none }) f (modNth (fun g => { g with waking := false }) f s.fields) :=
  foldl_keeps (fun t : State => t.fields = modNth (fun g => { g with st := .off, entering := none }) f
    (modNth (fun g => { g with waking := false }) f s.fields)) resetCore (fun t n h => (fields_resetCore t n).trans h) _ _ rfl

/-- A Field in F-OFF that enters nothing. -/
def FieldOff (f : Nat) (s : State) : Prop := (s.field f).st = .off ∧ (s.field f).entering = none ∧ (s.field f).waking = false

theorem field_restField_self {s : State} {f : Nat} (h : f < s.fields.length) : FieldOff f (restField s f) := by
  have hf : (restField s f).field f = { s.field f with waking := false, st := .off, entering := none } := by
    rw [State.field, fields_restField, nth, getD_modNth_self _ (by rwa [length_modNth]), getD_modNth_self _ h]
    rfl
  rw [FieldOff, hf]
  exact ⟨rfl, rfl, rfl⟩

theorem field_restField_other (s : State) {f g : Nat} (h : g ≠ f) : (restField s f).field g = s.field g := by
  rw [State.field, fields_restField]
  exact (getD_modNth_other _ h _ _).trans (getD_modNth_other _ h _ _)

theorem fields_length_restField (s : State) (f : Nat) : (restField s f).fields.length = s.fields.length := by
  rw [fields_restField, length_modNth, length_modNth]

/-- With every Field of the module gone to rest, each is in F-OFF. -/
theorem fieldOff_rested {s : State} (h : s.fields.length = 8) {f : Nat} (hf : f < 8) :
    FieldOff f ((List.range 8).foldl restField s) := by
  refine foldl_brings (p := fun t => f < t.fields.length ∧ FieldOff f t) (q := fun t => f < t.fields.length) (List.mem_range.2 hf)
    (fun t g ht => ?_) (fun t g ht => by rwa [fields_length_restField]) (fun t ht => ?_) (h ▸ hf) |>.2
  · refine ⟨by rw [fields_length_restField]; exact ht.1, ?_⟩
    by_cases hg : f = g
    · exact hg ▸ field_restField_self ht.1
    · rw [FieldOff, field_restField_other t hg]
      exact ht.2
  · exact ⟨by rwa [fields_length_restField], field_restField_self ht⟩

theorem outlastsFields_rested (s : State) : OutlastsFields s ((List.range 8).foldl restField s) :=
  foldl_keeps (OutlastsFields s) restField (fun t f h => h.trans (outlastsFields_restField t f)) _ _
    ⟨rfl, rfl, rfl, ⟨rfl, rfl, rfl⟩, rfl⟩

/-! The commands (R402). -/

theorem due_of_le {now start t : Nat} (h : start + t + 1 ≤ now) : due now start t = true := decide_eq_true h

theorem exec_restEntryComplete {s : State} (h : s.pwr.st = .restEntry) : exec .restEntryComplete s = .next (
    let t := (List.range 8).foldl restField s
    { t with mem := { cacheFlush t.mem with xlate := [] }
             pwr := { t.pwr with st := if t.pwr.wakeHeld then .restWake else .rest, wakeHeld := false } }) := by
  have hrest : (fun s f => enterField (s.modField f (fun g => { g with waking := false })) f .off) = restField := rfl
  show execRestEntryComplete s = _
  rw [execRestEntryComplete, if_neg (by rw [h]; decide), hrest]

theorem exec_restWakeComplete {s : State} (h : s.pwr.st = .restWake) : exec .restWakeComplete s =
    .next (s.atLink.foldl serveHeld { s with pwr := { s.pwr with st := .up, quietSince := s.now }, atLink := [] }) := by
  show execRestWakeComplete s = _
  rw [execRestWakeComplete, if_neg (by rw [h]; decide)]

/-- Settles O38: the entry's end turns the Fields off one after another, none of which touches the device memory, and then flushes
the caches; the other commands follow the power state. -/
theorem restIsEnteredAndLeft : Obligations.RestIsEnteredAndLeft := by
  unfold Obligations.RestIsEnteredAndLeft
  refine ⟨?_, ?_, ?_, ?_, ?_⟩
  · intro s hup htarget hquiet hdue
    show execRestEntry s = _
    rw [execRestEntry, hup, htarget, hquiet, due_of_le hdue]
    rfl
  · intro s hst hlen
    have hkept := outlastsFields_rested s
    have hoff (f : Nat) (hf : f < 8) : FieldOff f ((List.range 8).foldl restField s) := fieldOff_rested hlen hf
    rw [exec_restEntryComplete hst]
    generalize (List.range 8).foldl restField s = t at hkept hoff ⊢
    obtain ⟨hhbm, hcomp, _⟩ := hkept.dram.cacheFlush
    refine ⟨_, rfl, ?_, rfl, hoff, cacheFlush_cache _, rfl, (cacheFlush_inf _).trans hkept.inf, hkept.ctxs, hkept.disps, hhbm,
      hcomp⟩
    dsimp only
    rw [hkept.pwr]
  · intro s w
    have hwake : exec (.wakeEvent w) s = .next (wakeRest s) := rfl
    refine ⟨fun hst => ?_, fun hst => ?_, fun hrest hentry => ?_⟩
    · rw [hwake, wakeRest, hst]
    · rw [hwake, wakeRest, hst]
    · rw [hwake, wakeRest]
      split
      next hst => exact absurd hst hrest
      next hst => exact absurd hst hentry
      · rfl
  · intro s hst u
    refine ⟨exec_restWakeComplete hst, rfl, rfl, fun hnone => ?_⟩
    rw [exec_restWakeComplete hst, hnone]
    rfl
  · rintro s t _ ⟨w, off, a, rfl⟩ hexec
    have hacc : execHostWindowAccess w off a s = .next t := hexec
    rw [serveHeld, hacc]

end Sys2Proof.Machine

/-! SUPPORT. Mailbox commands on queues, results, Marks, segments, host windows and the event ring: what each comes to with its
checks met (R174, R242, R316, R325, R330, R338 to R340). -/

namespace Sys2Proof.Machine

/-! What a command that is carried out finds unchanged (R324): it takes the request into its mailbox, and may wake the module. -/

theorem wakeRest_shape (s : State) : ∃ p, wakeRest s = { s with pwr := p } ∧ p.ticks = s.pwr.ticks := by
  unfold wakeRest
  split
  · exact ⟨_, rfl, rfl⟩
  · exact ⟨_, rfl, rfl⟩
  · exact ⟨s.pwr, rfl, rfl⟩

section Taken

variable (s : State) (op m : Nat) (r : MbReq)

theorem taken_shape : ∃ (b : Mailbox) (p : Power), taken s op m r = { s with mbs := assocSet m b s.mbs, pwr := p }
    ∧ b.busy = true ∧ p.ticks = s.pwr.ticks := by
  unfold taken
  split
  · exact ⟨_, s.pwr, rfl, rfl, rfl⟩
  · obtain ⟨p, hp, ht⟩ := wakeRest_shape (s.setMb m { s.mb m with
      req := slotBytes (s.mb m).req op r, busy := true, done := false, opcode := op, seq := r.seq, irq := bit r.flags 0 })
    exact ⟨_, p, hp, rfl, ht⟩

@[simp] theorem taken_mem : (taken s op m r).mem = s.mem := by obtain ⟨b, p, h, _⟩ := taken_shape s op m r; rw [h]
@[simp] theorem taken_marks : (taken s op m r).marks = s.marks := by obtain ⟨b, p, h, _⟩ := taken_shape s op m r; rw [h]
@[simp] theorem taken_hwins : (taken s op m r).hwins = s.hwins := by obtain ⟨b, p, h, _⟩ := taken_shape s op m r; rw [h]
@[simp] theorem taken_colls : (taken s op m r).colls = s.colls := by obtain ⟨b, p, h, _⟩ := taken_shape s op m r; rw [h]
@[simp] theorem taken_ev : (taken s op m r).ev = s.ev := by obtain ⟨b, p, h, _⟩ := taken_shape s op m r; rw [h]

@[simp] theorem taken_now : (taken s op m r).now = s.now := by
  obtain ⟨b, p, h, _, ht⟩ := taken_shape s op m r
  rw [State.now, h]
  exact ht

theorem taken_busy : ((taken s op m r).mb m).busy = true := by
  obtain ⟨b, p, h, hb, _⟩ := taken_shape s op m r
  rw [State.mb, h]
  simpa using hb

@[simp] theorem taken_mark (k : Nat) : (taken s op m r).mark k = s.mark k := by
  rw [State.mark, taken_marks, State.mark]

@[simp] theorem taken_settingN (id target : Nat) : (taken s op m r).settingN id target = s.settingN id target := by
  rw [State.settingN, setting_congr (taken_ctxs ..) (taken_cfg ..), State.settingN]

@[simp] theorem taken_queue? (n : Nat) : (taken s op m r).queue? n = s.queue? n := by
  rw [State.queue?, taken_queues, State.queue?]

theorem taken_ctxMark (ctx n : Nat) : ctxMark (taken s op m r) ctx n = ctxMark s ctx n := by
  simp only [ctxMark, taken_settingN]

theorem taken_seqState (q : MbReq) : seqState (taken s op m r) q = seqState s q := by
  simp only [seqState, queueOf, taken_queues]

end Taken

/-! Queues (R330, R338). -/

section Queues

variable {s : State} {r : MbReq} {n : Nat}

/-- The lowest number that no queue holds is the one that creation finds. -/
theorem lowestFreeQueue_eq (hn : n < 32768) (hle : n ≤ s.queues.length) (hfree : s.queue? n = none)
    (hlow : ∀ k, k < n → s.queue? k ≠ none) :
    ((List.range (s.queues.length + 1)).find? (fun k => (s.queue? k).isNone)).filter (· < 32768) = some n := by
  have hfind : (List.range (s.queues.length + 1)).find? (fun k => (s.queue? k).isNone) = some n := by
    rw [List.find?_range_eq_some]
    refine ⟨by simp [hfree], List.mem_range.2 (by omega), fun k hk => ?_⟩
    simpa [Option.isSome_iff_ne_none] using hlow k hk
  rw [hfind, Option.filter_some, if_pos (decide_eq_true hn)]

/-- The queue that QUEUE_CREATE makes. -/
def freshQueue (r : MbReq) (n : Nat) (cl : Class3) : Queue :=
  { num := n, ctx := r.ctx, cls := cl, ringVa := field r.payload 0 8, k := field r.payload 8 1, prod := 0, consumed := 0
    bells := [], results := [], alive := true }

/-- R330, R338: within the quota of the context and the room for results, the lowest free number becomes an empty queue. -/
theorem queueCreate_ok {c : Ctx} {cl : Class3} (hc : s.ctx? r.ctx = some c) (hcl : classOf (field r.payload 9 1) = some cl)
    (hva : field r.payload 0 8 % 4096 = 0) (h4 : 4 ≤ field r.payload 8 1) (h16 : field r.payload 8 1 ≤ 16)
    (hquota : (queuesOf s r.ctx).length < c.quotaQueues) (hroom : storeBytes s + 128 * 2 ^ field r.payload 8 1 ≤ 2 ^ 30)
    (hnum : ((List.range (s.queues.length + 1)).find? (fun k => (s.queue? k).isNone)).filter (· < 32768) = some n) :
    queueCreate r s = reply { s with queues := s.queues.filter (·.num != n) ++ [freshQueue r n cl]
                                     disps := s.disps.filter (fun x => !(x.id.queue == n && x.phase == .ended)) }
      (.ok (leBytes 2 n ++ zeros 2 ++ leBytes 4 (0x1000000 + 8 * n))) := by
  have hring : (!(field r.payload 0 8 % 4096 == 0 && decide (4 ≤ field r.payload 8 1)
      && decide (field r.payload 8 1 ≤ 16))) = false := by
    simp [hva, h4, h16]
  have hfits : ¬ (decide ((queuesOf s r.ctx).length ≥ c.quotaQueues)
      || decide (storeBytes s + 128 * 2 ^ field r.payload 8 1 > 2 ^ 30)) = true := by
    simp only [Bool.or_eq_true, decide_eq_true_eq]
    omega
  simp only [queueCreate, hc, hcl, hring, if_neg hfits, hnum]
  rfl

theorem find?_filter_append_self (l : List Queue) {q : Queue} (ha : q.alive = true) :
    (l.filter (·.num != q.num) ++ [q]).find? (fun x => x.num == q.num && x.alive) = some q := by
  have hnone : (l.filter (·.num != q.num)).find? (fun x => x.num == q.num && x.alive) = none :=
    List.find?_eq_none.2 fun x hx hn => bne_iff_ne.1 (List.mem_filter.1 hx).2 (beq_iff_eq.1 (Bool.and_eq_true_iff.1 hn).1)
  rw [List.find?_append, hnone]
  simp [ha]

theorem find?_filter_append_other (l : List Queue) {q : Queue} {k : Nat} (hk : k ≠ q.num) :
    (l.filter (·.num != q.num) ++ [q]).find? (fun x => x.num == k && x.alive) = l.find? (fun x => x.num == k && x.alive) := by
  have hp : (fun x : Queue => decide ((x.num != q.num) = true ∧ (x.num == k && x.alive) = true))
      = fun x => x.num == k && x.alive := by
    funext x
    by_cases hx : x.num = k
    · simp [hx, hk]
    · simp [hx]
  rw [List.find?_append, List.find?_filter, hp]
  simp [hk.symm]

/-- R330: a queue that no dispatch uses any more is destroyed. -/
theorem queueDestroy_ok (hq : (queuesOf s r.ctx).any (fun x => x.num == field r.payload 0 2) = true)
    (hidle : ∀ x, x ∈ s.disps → x.id.queue = field r.payload 0 2 → x.phase = .ended) :
    queueDestroy r s = reply (destroyQueue s (field r.payload 0 2)) (.ok []) := by
  have hused : s.disps.any (fun x => x.id.queue == field r.payload 0 2 && x.phase != .ended) = false := by
    simpa using hidle
  simp only [queueDestroy, hq, hused]
  rfl

theorem OnlyAnswers.queues {s t : State} (h : OnlyAnswers s t) : t.queues = s.queues := by rw [h]

/-- A destroyed queue is not found any more. -/
theorem destroyQueue_gone (s : State) (q : Nat) : (destroyQueue s q).queue? q = none := by
  have hqueues : (destroyQueue s q).queues =
      s.queues.map (fun x => if x.num == q then { x with alive := false, results := [] } else x) := by
    exact (onlyAnswers_answerWaits _ _).queues
  rw [State.queue?, hqueues, List.find?_map, Option.map_eq_none_iff, List.find?_eq_none]
  intro x _
  by_cases hx : x.num = q
  · simp [hx]
  · simp [hx]

end Queues

/-! Results (R339, R340). -/

section Results

variable {s : State} {r : MbReq} {b : Bytes}

theorem resultGet_ok (h : seqState s r = .written b) : resultGet r s = reply s (.ok b) := by
  simp only [resultGet, h]

theorem resultRelease_ok (h : seqState s r = .written b) :
    resultRelease r s = reply { s with queues := s.queues.map (fun x => if x.num == field r.payload 0 2
      then { x with results := assocSet (field r.payload 8 8) .released x.results } else x) } (.ok []) := by
  simp only [resultRelease, h]

theorem abortDispatch_written (h : seqState s r = .written b) :
    abortDispatch r s = reply s (.ok (leBytes 1 (field b 14 1) ++ leBytes 1 (flag (field b 14 1 == 1) 0))) := by
  simp only [abortDispatch, h]
  rfl

/-- R307, R340: with no record written the abort reaches the commit point, and its answer waits. -/
theorem abortDispatch_notYet {x : Dispatch} (h : seqState s r = .notYet)
    (hx : s.disp? ⟨field r.payload 0 2, field r.payload 8 8⟩ = some x) :
    abortDispatch r s = ⟨s.setDisp (raceAbort x), .error (.abort ⟨field r.payload 0 2, field r.payload 8 8⟩)⟩ := by
  simp only [abortDispatch, h, hx]

theorem raceAbort_id (x : Dispatch) : (raceAbort x).id = x.id := by
  unfold raceAbort Dispatch.abort
  split
  · rfl
  · split
    · rfl
    · split <;> rfl

theorem queueOf_num {ctx q : Nat} {x : Queue} (h : queueOf s ctx q = some x) : x.num = q := by
  have hfound := List.find?_some h
  exact beq_iff_eq.1 (Bool.and_eq_true_iff.1 hfound).1

/-- A queue record found by number and context is found in its new form after every record of its number has changed. -/
theorem queueOf_map {ctx q : Nat} {f : Queue → Queue} {x : Queue} (hnum : ∀ y, (f y).num = y.num)
    (hctx : ∀ y, (f y).ctx = y.ctx)
    {l : List Queue} (h : l.find? (fun y => y.num == q && y.ctx == ctx) = some x) :
    (l.map f).find? (fun y => y.num == q && y.ctx == ctx) = some (f x) := by
  rw [find?_map_of_comp (fun y => by rw [hnum, hctx]), h]
  rfl

end Results

/-! Marks (R241, R242). -/

section Marks

variable {s : State} {r : MbReq}

theorem markRead_ok (h1 : 1 ≤ field r.payload 2 2) (h500 : field r.payload 2 2 ≤ 500)
    (hown : field r.payload 0 2 + field r.payload 2 2 ≤ s.settingN 0x0107 r.ctx) :
    markRead r s = reply s (.ok (((List.range (field r.payload 2 2)).map (fun j =>
      leBytes 8 (s.mark (s.settingN 0x0106 r.ctx + field r.payload 0 2 + j)).word)).flatten)) := by
  have hcount : (!(decide (1 ≤ field r.payload 2 2) && decide (field r.payload 2 2 ≤ 500))) = false := by simp [h1, h500]
  rw [markRead]
  simp only [hcount, if_neg (Nat.not_lt.2 hown), rangeFrom, List.map_map]
  rfl

/-- The state words of a Mark after MARK_SET (R242). -/
def markAfter (r : MbReq) (a : Mark) : Mark :=
  let b := { a with hostSig := keepBit (field r.payload 3 1) a.hostSig, peerSig := keepBit (field r.payload 4 1) a.peerSig }
  if field r.payload 2 1 == 1 then { b with value := 0, sat := false } else b

theorem markSet_ok {k : Nat} (hk : ctxMark s r.ctx (field r.payload 0 2) = some k) (hreset : field r.payload 2 1 < 2)
    (hhost : field r.payload 3 1 < 2 ∨ field r.payload 3 1 = 0xFF)
    (hpeer : field r.payload 4 1 < 2 ∨ field r.payload 4 1 = 0xFF) :
    markSet r s = reply (s.setMark k (markAfter r (s.mark k))) (.ok []) := by
  have hcodes : (!(decide (field r.payload 2 1 < 2) && (decide (field r.payload 3 1 < 2) || field r.payload 3 1 == 0xFF)
      && (decide (field r.payload 4 1 < 2) || field r.payload 4 1 == 0xFF))) = false := by
    simp only [Bool.not_eq_false', Bool.and_eq_true, Bool.or_eq_true, decide_eq_true_eq, beq_iff_eq]
    exact ⟨⟨hreset, hhost⟩, hpeer⟩
  simp only [markSet, hcodes, hk]
  rfl

end Marks

/-! Segments, windows and the event ring (R174, R316, R325). -/

section Windows

variable {s : State} {r : MbReq}

/-- A segment mapping that SPAD_RELEASE names. -/
def releases (r : MbReq) (e : SegMap) : Bool :=
  e.unit == field r.payload 2 2 && e.ctx == r.ctx && e.logical == field r.payload 4 2 && e.held

theorem flatten_map_ite_nil {α : Type} (p : α → Bool) (l : List α) :
    (l.map (fun e => if p e then [] else [e])).flatten = l.filter (fun e => !p e) := by
  induction l with
  | nil => rfl
  | cons e t ih => cases h : p e <;> simp [h, ih]

theorem collNames_of_none (h : s.colls = []) (ctx die seg : Nat) : collNames s ctx die seg = false := by
  rw [collNames, h]
  rfl

/-- R174: with no dispatch of the context and no collective to keep it, the segment is unmapped. -/
theorem spadRelease_ok (hlevel : field r.payload 0 1 = 1 ∨ field r.payload 0 1 = 2) (hz : allZero r.payload 1 1 = true)
    (hidle : ∀ x, x ∈ s.disps → x.ctx = r.ctx → x.phase ≠ .running ∧ x.phase ≠ .saved) (hcolls : s.colls = [])
    (hany : (if field r.payload 0 1 == 1 then s.mem.csMap else s.mem.ifMap).any (releases r) = true) :
    spadRelease r s = reply { s with mem := if field r.payload 0 1 == 1
      then { s.mem with csMap := s.mem.csMap.filter (fun e => !releases r e) }
      else { s.mem with ifMap := s.mem.ifMap.filter (fun e => !releases r e) } } (.ok []) := by
  have husers (a b : Dispatch → Bool) :
      s.disps.filter (fun x => x.ctx == r.ctx && (x.phase == .running || x.phase == .saved) && a x && b x) = [] := by
    refine List.filter_eq_nil_iff.2 fun x hx hall => ?_
    simp only [Bool.and_eq_true, Bool.or_eq_true, beq_iff_eq] at hall
    obtain ⟨⟨⟨hctx, hphase⟩, _⟩, _⟩ := hall
    obtain ⟨hrun, hsaved⟩ := hidle x hx hctx
    exact hphase.elim hrun hsaved
  have hmine : (fun e : SegMap => e.unit == field r.payload 2 2 && e.ctx == r.ctx && e.logical == field r.payload 4 2 && e.held)
      = releases r := rfl
  cases hcore : field r.payload 0 1 == 1 with
  | true =>
    rw [hcore, if_pos rfl] at hany
    simp only [spadRelease, hcore, husers, collNames_of_none hcolls, hmine, hz, hany, Bool.true_or, Bool.and_self, Bool.not_true,
      Bool.false_eq_true, if_true, if_false, List.map_nil, List.nil_append, flatten_map_ite_nil]
    rfl
  | false =>
    have hinf : (field r.payload 0 1 == 2) = true := by simpa [beq_eq_false_iff_ne.1 hcore] using hlevel
    rw [hcore, if_neg Bool.false_ne_true] at hany
    simp only [spadRelease, hcore, hinf, husers, collNames_of_none hcolls, hmine, hz, hany, Bool.and_false, Bool.or_true,
      Bool.and_self, Bool.not_true, Bool.false_eq_true, if_false, List.map_nil, List.nil_append, flatten_map_ite_nil]
    rfl

theorem assoc_assocDel_self {α β : Type} [DecidableEq α] (k : α) (l : List (α × β)) : assoc k (assocDel k l) = none := by
  induction l with
  | nil => rfl
  | cons p t ih =>
    by_cases h : p.1 = k
    · simpa [assocDel, h] using ih
    · simpa [assocDel, assoc, h] using ih

theorem assoc_assocDel_other {α β : Type} [DecidableEq α] {k j : α} (h : j ≠ k) (l : List (α × β)) :
    assoc j (assocDel k l) = assoc j l := by
  induction l with
  | nil => rfl
  | cons p t ih =>
    by_cases hk : p.1 = k
    · have hj : p.1 ≠ j := fun e => h (e.symm.trans hk)
      simpa [assocDel, assoc, hk, h.symm] using ih
    · by_cases hj : p.1 = j
      · simp [assocDel, assoc, hj, h]
      · simpa [assocDel, assoc, hk, hj] using ih

/-- What HWIN_SET makes of a window (R316). -/
def windowOf (r : MbReq) : Option HWin :=
  if field r.payload 1 1 = 0 then none
  else some ⟨r.ctx, field r.payload 8 8, field r.payload 16 8, field r.payload 1 1 % 2 == 1, field r.payload 1 1 / 2 % 2 == 1⟩

/-- R316: HWIN_SET binds the window or, with no permission, takes the binding away. -/
theorem hwinSet_ok (hw : field r.payload 0 1 < 64) (hp : field r.payload 1 1 < 4) (hz : allZero r.payload 2 6 = true)
    (hrange : field r.payload 1 1 = 0 ∨ (field r.payload 8 8 % 65536 = 0 ∧ field r.payload 16 8 % 65536 = 0
      ∧ 0 < field r.payload 16 8 ∧ field r.payload 16 8 ≤ 2 ^ 30 ∧ field r.payload 8 8 + field r.payload 16 8 ≤ 2 ^ 48)) :
    ∃ l, hwinSet r s = reply { s with hwins := l } (.ok []) ∧ assoc (field r.payload 0 1) l = windowOf r
      ∧ ∀ k, k ≠ field r.payload 0 1 → assoc k l = assoc k s.hwins := by
  have hcheck : (!(decide (field r.payload 0 1 < 64) && decide (field r.payload 1 1 < 4) && allZero r.payload 2 6)) = false := by
    simp [hw, hp, hz]
  by_cases h0 : field r.payload 1 1 = 0
  · refine ⟨assocDel (field r.payload 0 1) s.hwins, ?_, ?_, fun k hk => assoc_assocDel_other hk _⟩
    · have hperm : (field r.payload 1 1 == 0) = true := beq_iff_eq.2 h0
      simp only [hwinSet, hcheck, hperm]
      rfl
    · rw [assoc_assocDel_self, windowOf, if_pos h0]
  · obtain ⟨hva, hsize, hpos, hmax, hend⟩ := hrange.resolve_left h0
    have hin : (field r.payload 8 8 % 65536 == 0 && field r.payload 16 8 % 65536 == 0 && decide (0 < field r.payload 16 8)
        && decide (field r.payload 16 8 ≤ 2 ^ 30) && decide (field r.payload 8 8 + field r.payload 16 8 ≤ 2 ^ 48)) = true := by
      simp only [hva, hsize, hpos, hmax, hend, decide_true, beq_self_eq_true, Bool.and_self]
    refine ⟨assocSet (field r.payload 0 1) ⟨r.ctx, field r.payload 8 8, field r.payload 16 8, bit (field r.payload 1 1) 0,
      bit (field r.payload 1 1) 1⟩ s.hwins, ?_, ?_, fun k hk => assoc_assocSet_other hk _ _⟩
    · have hperm : (field r.payload 1 1 == 0) = false := beq_eq_false_iff_ne.2 h0
      simp only [hwinSet, hcheck, hperm, hin]
      rfl
    · rw [assoc_assocSet_self, windowOf, if_neg h0]
      simp [bit, bits_eq]

/-- R325: EVENT_RING sets the ring, and the records held since the start move there. -/
theorem eventRing_ok (hbase : field r.payload 0 8 % 4096 = 0) (h6 : 6 ≤ field r.payload 8 1) (h16 : field r.payload 8 1 ≤ 16)
    (hend : field r.payload 0 8 + 64 * 2 ^ field r.payload 8 1 + 4096 ≤ 2 ^ 46) :
    eventRing r s = reply (s.ev.boot.foldl State.ringPut { s with ev := { s.ev with
      base := field r.payload 0 8, log2 := field r.payload 8 1, on := true, boot := []
      mirrorTick := if s.ev.on then s.ev.mirrorTick else s.now } }) (.ok []) := by
  have hcheck : (!(field r.payload 0 8 % 4096 == 0 && decide (6 ≤ field r.payload 8 1) && decide (field r.payload 8 1 ≤ 16)
      && decide (field r.payload 0 8 + 64 * 2 ^ field r.payload 8 1 + 4096 ≤ 2 ^ 46))) = false := by
    simp only [hbase, h6, h16, hend, decide_true, beq_self_eq_true, Bool.and_self, Bool.not_true]
  simp only [eventRing, hcheck]
  cases s.ev.on <;> rfl

end Windows

/-- Settles O33: each row is carried out on the request taken, which leaves queues, Marks, maps, windows and the ring as they were,
and its lemma above says what it answers. The lowest free queue number is R330's. -/
theorem queuesResultsMarksAndWindowsAreManaged : Obligations.QueuesResultsMarksAndWindowsAreManaged := by
  unfold Obligations.QueuesResultsMarksAndWindowsAreManaged
  refine ⟨?_, ?_, ?_, ?_, ?_, ?_, ?_, ?_, ?_⟩
  · intro s m n r c cl hC hc hcl hva h4 h16 hquota hroom hn hle hfree hlow
    have hnum : ((List.range ((taken s 0x20 m r).queues.length + 1)).find?
        (fun k => ((taken s 0x20 m r).queue? k).isNone)).filter (· < 32768) = some n := by
      simpa only [taken_queues, taken_queue?] using lowestFreeQueue_eq hn hle hfree hlow
    have h := queueCreate_ok (s := taken s 0x20 m r) ((taken_ctx? ..).trans hc) hcl hva h4 h16
      (by simpa only [queuesOf, taken_queues] using hquota) (by simpa only [storeBytes, taken_queues] using hroom) hnum
    rw [taken_queues] at h
    exact ⟨_, freshQueue r n cl, mbCommand_carried hC h, rfl, find?_filter_append_self s.queues (q := freshQueue r n cl) rfl, rfl,
      rfl, rfl, rfl, rfl, rfl, rfl, fun k hk => find?_filter_append_other s.queues (q := freshQueue r n cl) hk⟩
  · intro s m r hC q hq hidle
    exact ⟨mbCommand_carried hC (queueDestroy_ok (by simpa only [queuesOf, taken_queues] using hq)
      (by simpa only [taken_disps] using hidle)), destroyQueue_gone _ _⟩
  · intro s m r b hb
    have hseq (op : Nat) : seqState (taken s op m r) r = .written b := (taken_seqState ..).trans hb
    refine ⟨fun hC => mbCommand_carried hC (resultGet_ok (hseq _)), fun hC => ?_,
      fun hC => mbCommand_carried hC (abortDispatch_written (hseq _))⟩
    refine ⟨_, mbCommand_carried hC (resultRelease_ok (hseq _)), rfl, fun x hx => ?_⟩
    have hnum : (x.num == field r.payload 0 2) = true := beq_iff_eq.2 (queueOf_num hx)
    refine ⟨_, queueOf_map (fun y => ?_) (fun y => ?_) ((congrArg (List.find? _) (taken_queues ..)).trans hx), ?_,
      fun n hn => ?_⟩
    · split <;> rfl
    · split <;> rfl
    · rw [if_pos hnum, assoc_assocSet_self]
    · rw [if_pos hnum, assoc_assocSet_other hn]
  · intro s m r x hnot hC d hx
    have hx' : (taken s 0x4A m r).disp? d = some x := by rw [State.disp?, taken_disps]; exact hx
    have hid : (raceAbort x).id = d := (raceAbort_id x).trans (disp?_id hx)
    refine ⟨_, mbCommand_waits hC (abortDispatch_notYet ((taken_seqState ..).trans hnot) hx'), ?_, ?_, ?_, fun e he => ?_⟩
    · rw [State.mb_setMb_self]
      exact taken_busy s 0x4A m r
    · rw [State.mb_setMb_self]
    · exact State.disp?_setDisp_self _ hx' hid
    · refine (State.disp?_setDisp_other _ (hid ▸ he.symm)).trans ?_
      rw [State.disp?, taken_disps, State.disp?]
  · intro s m r hC h1 h500 hown
    have h := markRead_ok (s := taken s 0x30 m r) h1 h500 (by simpa only [taken_settingN] using hown)
    simp only [taken_settingN, taken_mark] at h
    exact mbCommand_carried hC h
  · intro s m k r hC hk hreset hhost hpeer
    refine ⟨_, markAfter r (s.mark k), mbCommand_carried hC (markSet_ok ((taken_ctxMark ..).trans hk) hreset hhost hpeer), rfl,
      ?_, fun j hj => ?_, ?_⟩
    · rw [State.mark_setMark_self, taken_mark]
    · rw [State.mark_setMark_other _ hj, taken_mark]
    · unfold markAfter keepBit
      by_cases h1 : field r.payload 2 1 = 1
      · simp [h1]
      · simp [h1]
  · intro s m r hC core mine hlevel hz hidle hcolls hmine
    have hrel (e : SegMap) : releases r e = true ↔ mine e := by
      simp only [releases, mine, Bool.and_eq_true, beq_iff_eq, and_assoc]
    have hleft (l : List SegMap) (e : SegMap) : e ∈ l.filter (fun e => !releases r e) ↔ e ∈ l ∧ ¬ mine e := by
      rw [List.mem_filter, ← hrel, Bool.not_eq_true', Bool.not_eq_true]
    by_cases hcore : core
    · have hc : (field r.payload 0 1 == 1) = true := beq_iff_eq.2 hcore
      obtain ⟨e, he, hm⟩ := hmine.1 hcore
      have h := spadRelease_ok (s := taken s 0x24 m r) hlevel hz (by simpa only [taken_disps] using hidle)
        ((taken_colls ..).trans hcolls) (by rw [if_pos hc, taken_mem]; exact List.any_eq_true.2 ⟨e, he, (hrel e).2 hm⟩)
      rw [if_pos hc, taken_mem] at h
      exact ⟨_, mbCommand_carried hC h, rfl, fun _ => ⟨rfl, hleft _⟩, fun hn => absurd hcore hn⟩
    · have hc : ¬ (field r.payload 0 1 == 1) = true := fun k => hcore (beq_iff_eq.1 k)
      obtain ⟨e, he, hm⟩ := hmine.2 hcore
      have h := spadRelease_ok (s := taken s 0x24 m r) hlevel hz (by simpa only [taken_disps] using hidle)
        ((taken_colls ..).trans hcolls) (by rw [if_neg hc, taken_mem]; exact List.any_eq_true.2 ⟨e, he, (hrel e).2 hm⟩)
      rw [if_neg hc, taken_mem] at h
      exact ⟨_, mbCommand_carried hC h, rfl, fun k => absurd k hcore, fun _ => ⟨rfl, hleft _⟩⟩
  · intro s m r hC w p va size hw hp hz hrange
    obtain ⟨l, h, hself, hother⟩ := hwinSet_ok (s := taken s 0x28 m r) hw hp hz hrange
    exact ⟨_, mbCommand_carried hC h, rfl, hself, fun k hk => (hother k hk).trans (congrArg _ (taken_hwins ..))⟩
  · intro s m r hC hbase h6 h16 hend t
    have h := eventRing_ok (s := t) hbase h6 h16 hend
    simp only [t, taken_ev, taken_now] at h
    exact mbCommand_carried hC h

end Sys2Proof.Machine

/-! SUPPORT. The scalar instructions: the results of their operations as numbers, what their forms come to with every check met, and
what a form that ends with one scalar register leaves (R67, R74, R224, R229, R237). -/

namespace Sys2Proof.Machine

/-! A scalar result. -/

/-- An instruction whose form ends with a scalar result writes that register over the registers `r₀`, and moves its dispatch, in the
state `u` that the form ends in. -/
theorem issues_putScalar {s u : State} {d : DRef} {i : Instr} {use : Use} {x y : Dispatch} {c : Ctx} {n req sd : Nat} {r₀ : CoreRegs}
    {v : DWord} {p : Bool} {f : Dispatch → Ctx → Nat → Except Halt State} (hst : Stands s d i use x c n)
    (hx : exec i s = issue s d i req f) (hu : u.disps = s.disps) (hid : y.id = x.id) (hl : y.lead = x.lead)
    (hf : f x c n = .ok (putScalar u y r₀ n sd v p)) :
    ∃ t r, Issues i d s t ∧ OnlyCoreAndDispatch u t x.lead r d (y.adv n) ∧ ScalarWritten r₀ r sd v p := by
  obtain ⟨⟨z, hz⟩, hd⟩ := stands_disp hst
  have hzu : u.disp? d = some z := by rw [State.disp?, hu]; exact hz
  exact ⟨_, _, issues_of_form hst hx hf, only_put2 hzu (hid.trans hd) hl, scalarWritten_put ..⟩

/-- The dispatch that a poisoned source may have been noted in (R73). -/
theorem ite_poison_id (p : Bool) (x : Dispatch) (e : FaultCode) (i : Nat) : (if p then x.poison e i else x).id = x.id := by
  rw [apply_ite Dispatch.id, Dispatch.poison_id, ite_self]

theorem ite_poison_lead (p : Bool) (x : Dispatch) (e : FaultCode) (i : Nat) : (if p then x.poison e i else x).lead = x.lead := by
  rw [apply_ite Dispatch.lead, Dispatch.poison_lead, ite_self]

/-! Operations (R229). -/

theorem scValue_toNat (op : ScOp) (a b : DWord) : (scValue op a b).toNat = op.result a.toNat b.toNat := by
  cases op with
  | add => exact BitVec.toNat_add a b
  | sub =>
    have hb := b.isLt
    simp only [scValue, ScOp.result, BitVec.toNat_sub]
    congr 1
    omega
  | mul => exact BitVec.toNat_mul a b
  | and => exact BitVec.toNat_and a b
  | or => exact BitVec.toNat_or a b
  | xor => exact BitVec.toNat_xor a b
  | shl => simp only [scValue, ScOp.result, BitVec.toNat_shiftLeft, Nat.shiftLeft_eq]
  | shr => simp only [scValue, ScOp.result, BitVec.toNat_ushiftRight, Nat.shiftRight_eq_div_pow]

theorem exec_scOp (op : ScOp) (s : State) (d : DRef) (sd sa : Nat) (b : SVal) :
    exec (op.instr d sd sa b) s = issue s d (op.instr d sd sa b) 1 (scArithForm op s sd sa b) := by
  cases op <;> rfl

section Forms

variable {s : State} {x : Dispatch} {c : Ctx} {n sd : Nat}

theorem scArithForm_ok {op : ScOp} {sa : Nat} {b : SVal}
    (hfree : free x { Use.none with rs := sa :: svalRegs b, ws := [sd] } = .ok ()) :
    scArithForm op s sd sa b x c n = .ok (putScalar s x (s.core x.lead) n sd
      (scValue op ((s.core x.lead).sget sa) ((s.core x.lead).sval b))
      ((s.core x.lead).poisS.contains sa || (s.core x.lead).svalPois b)) := by
  simp only [scArithForm, hfree, run_eq]
  rfl

theorem scLiForm_ok {v : DWord} (hfree : free x { Use.none with ws := [sd] } = .ok ()) :
    scLiForm s sd v x c n = .ok (putScalar s x (s.core x.lead) n sd v false) := by
  simp only [scLiForm, hfree, run_eq, pure_ok]

/-! Reads of the machine (R45, R67, R224, R229, R287). -/

theorem scHdrForm_ok {h : HRef} {sub : Nat} {o : Obj} (ho : hdrSrc s x c (s.core x.lead) h = .ok o)
    (hfree : free x { Use.none with rd := o.hdrAt, rs := hrefRegs h, ws := [sd] } = .ok ()) :
    scHdrForm s sd h sub x c n = .ok (putScalar (touchReads s o.hdrAt) (if o.poisoned then x.poison .eccUncorrectable x.pc else x)
      (s.core x.lead) n sd (BitVec.ofNat 64 (hdrField o.h sub)) o.poisoned) := by
  simp only [scHdrForm, ho, hfree, run_eq, pure_ok]

theorem scArgForm_ok {k : Nat} (hfree : free x { Use.none with ws := [sd] } = .ok ()) :
    scArgForm s sd k x c n
      = .ok (putScalar s x (s.core x.lead) n sd (BitVec.ofNat 64 (field x.record (24 + 8 * k) 8)) false) := by
  simp only [scArgForm, recArg, hfree, run_eq, pure_ok]

theorem scCtrForm_ok {sub : Nat} (hfree : free x { Use.none with ws := [sd] } = .ok ()) :
    scCtrForm s sd sub x c n = .ok (putScalar s x (s.core x.lead) n sd (BitVec.ofNat 64 (ctrValue s x sub)) false) := by
  simp only [scCtrForm, hfree, run_eq, pure_ok]

/-- R229: past the split counters, sc.ctr reads the ck the dispatch has run. -/
theorem ctrValue_run {sub : Nat} (h : 5 ≤ sub) : ctrValue s x sub = x.ck3 / 3 := by
  obtain ⟨k, rfl⟩ := Nat.exists_eq_add_of_le' h
  rfl

/-- R67: with nothing in flight ARITH_STATUS is read as it stands, and the bits named are cleared. -/
theorem scStatForm_ok {clr : Option Nat} (hfree : free x { Use.none with ws := [sd] } = .ok ()) (hidle : x.inflight = []) :
    scStatForm s sd clr x c n = .ok (putScalar s x (clr.elim (s.core x.lead) (s.core x.lead).clearStatus) n sd
      (BitVec.ofNat 64 (s.core x.lead).status.toNat) false) := by
  cases clr <;> simp only [scStatForm, hfree, hidle, run_eq, List.isEmpty_nil, Bool.not_true] <;> rfl

theorem scLrdForm_ok {ln : Nat} (hfree : free x { Use.none with ws := [sd] } = .ok ()) :
    scLrdForm s sd ln x c n = .ok (putScalar s x (s.core x.lead) n sd (BitVec.ofNat 64 ((s.core x.lead).lget ln)) false) := by
  simp only [scLrdForm, hfree, run_eq, pure_ok]

/-! Writes of a loop register (R224, R237). -/

/-- R237: while a lap on the register is active, the value written is that lap's pending value. -/
theorem scLwrForm_lap {ln sa : Nat} (hp : (s.core x.lead).poisS.contains sa = false)
    (hfree : free x { Use.none with rs := [sa] } = .ok ()) (hlap : x.laps.any (fun l => l.ln == ln) = true) :
    scLwrForm s ln sa x c n = .ok (s.setDisp { x.adv n with laps := x.laps.map (fun l => if l.ln == ln then
      { l with pendingVal := some (((s.core x.lead).sget sa).toNat % 2 ^ 32) } else l) }) := by
  simp only [scLwrForm, cleanS_ok (v := .reg sa) hp, hfree, hlap, run_eq, pure_ok, if_true]

theorem scLwrForm_noLap {ln sa : Nat} (hp : (s.core x.lead).poisS.contains sa = false)
    (hfree : free x { Use.none with rs := [sa] } = .ok ()) (hlap : x.laps.any (fun l => l.ln == ln) = false)
    (hread : x.readsLoop ln = false) :
    scLwrForm s ln sa x c n = .ok (s.put2 (x.adv n) ((s.core x.lead).lput ln (((s.core x.lead).sget sa).toNat % 2 ^ 32))) := by
  simp only [scLwrForm, cleanS_ok (v := .reg sa) hp, hfree, hlap, hread, run_eq, pure_ok, Bool.false_eq_true, if_false]

end Forms

theorem loopWritten_lput (r : CoreRegs) {ln v : Nat} (hv : v < 2 ^ 32) : LoopWritten r (r.lput ln v) ln v :=
  ⟨(r.lget_lput_self ln v).trans (Nat.mod_eq_of_lt hv), fun _ hk => r.lget_lput_other hk v, rfl⟩

/-- Settles O5: every operation ends with its value in SD, which is the number R229 gives. -/
theorem scalarArithmeticWritesItsResult : Obligations.ScalarArithmeticWritesItsResult := by
  unfold Obligations.ScalarArithmeticWritesItsResult
  refine ⟨?_, ?_⟩
  · intro op s d sd sa b x c n hst
    obtain ⟨t, r, hi, ho, hw⟩ := issues_putScalar hst (exec_scOp ..) rfl rfl rfl (scArithForm_ok (stands_free hst))
    exact ⟨t, r, _, hi, ho, hw, scValue_toNat ..⟩
  · intro s d sd v long x c n hst
    exact issues_putScalar hst rfl rfl rfl rfl (scLiForm_ok (stands_free hst))

/-- Settles O7: every read ends with its value in SD, and sc.lwr writes the loop register or the lap that holds it. -/
theorem scalarReadsOfTheMachine : Obligations.ScalarReadsOfTheMachine := by
  unfold Obligations.ScalarReadsOfTheMachine
  refine ⟨?_, ?_, ?_, ?_, ?_, ?_⟩
  · intro s d sd h sub x c n o hst ho
    exact issues_putScalar hst rfl rfl (ite_poison_id ..) (ite_poison_lead ..) (scHdrForm_ok ho (stands_free hst))
  · intro s d sd k x c n hst
    exact issues_putScalar hst rfl rfl rfl rfl (scArgForm_ok (stands_free hst))
  · intro s d sd sub x c n hst
    obtain ⟨t, r, hi, ho, hw⟩ := issues_putScalar hst rfl rfl rfl rfl (scCtrForm_ok (stands_free hst))
    refine ⟨t, r, _, hi, ho, hw, ?_, ?_, ?_, ?_, ?_, ctrValue_run⟩
    all_goals rintro rfl; rfl
  · intro s d sd clr x c n hst hidle
    obtain ⟨t, r, hi, ho, hw⟩ := issues_putScalar hst rfl rfl rfl rfl (scStatForm_ok (stands_free hst) hidle)
    refine ⟨t, r, _, hi, ho, ?_, ?_, ?_, hw⟩
    · cases clr <;> rfl
    · rintro rfl; rfl
    · rintro m rfl; rfl
  · intro s d sd ln x c n hst
    exact issues_putScalar hst rfl rfl rfl rfl (scLrdForm_ok (stands_free hst))
  · intro s d ln sa x c n hst hp hheld
    obtain ⟨⟨z, hz⟩, hid⟩ := stands_disp hst
    cases hlap : x.laps.any (fun l => l.ln == ln) with
    | true =>
      refine ⟨_, issues_of_form hst rfl (scLwrForm_lap hp (stands_free hst) hlap), fun hnone => ?_, fun _ => ?_⟩
      · obtain ⟨l, hl, he⟩ := List.any_eq_true.1 hlap
        exact absurd he (bne_iff_ne.1 (List.all_eq_true.1 hnone l hl) ∘ beq_iff_eq.1)
      · exact onlyDispatch_setDisp hz hid
    | false =>
      have hread : x.readsLoop ln = false := hheld.resolve_left (by simp [hlap])
      refine ⟨_, issues_of_form hst rfl (scLwrForm_noLap hp (stands_free hst) hlap hread), fun _ => ?_, fun h => ?_⟩
      · exact ⟨_, only_put2 hz hid rfl, loopWritten_lput _ (Nat.mod_lt _ (by decide))⟩
      · cases h

/-- Settles O57: the decoder computes on each word, whatever the dispatch. -/
theorem instructionWordsDecode : Obligations.InstructionWordsDecode :=
  fun _ => ⟨rfl, rfl, rfl, rfl, rfl, rfl, rfl, rfl, rfl, rfl, rfl⟩

end Sys2Proof.Machine

/-! SUPPORT. sc.ld and sc.st (R173, R229): what a scratchpad shows byte by byte before and after a write, what the two forms come to,
and a Core Store out of the canonical form, over which sc.st changes a byte outside its own. -/

namespace Sys2Proof.Machine

/-! Reads of a memory in canonical form. -/

theorem memTake_eq {m : Mem} {a n : Nat} (hs : m.Pairwise (fun x y => x.1 < y.1)) (ha : ∀ e ∈ m, a ≤ e.1) :
    memTake m a n = (List.range n).map (fun i => memGet m (a + i)) := by
  induction n generalizing m a with
  | zero => cases m <;> rfl
  | succ n ih =>
    rw [List.range_succ_eq_map, List.map_cons, List.map_map]
    cases m with
    | nil => simp [memTake, memGet, Function.comp_def, List.replicate_succ]
    | cons e t =>
      obtain ⟨k, b⟩ := e
      obtain ⟨hk, ht⟩ := List.pairwise_cons.1 hs
      by_cases h : k = a
      · subst h
        have ih := ih (m := t) (a := k + 1) ht (fun e he => hk e he)
        simp only [memTake, if_true, ih, memGet, Nat.add_zero, Function.comp_def, List.cons.injEq, true_and]
        refine List.map_congr_left fun i _ => ?_
        rw [if_neg (by omega), Nat.add_right_comm, Nat.add_assoc]
      · have hlow : ∀ e ∈ (k, b) :: t, a + 1 ≤ e.1 := fun e he => by
          have hka : a ≤ k := ha (k, b) (List.mem_cons_self ..)
          rcases List.mem_cons.1 he with rfl | he
          · exact Nat.lt_of_le_of_ne hka (Ne.symm h)
          · exact (Nat.lt_of_le_of_lt hka (hk e he))
        have h0 : memGet ((k, b) :: t) a = 0 := memGet_absent _ _ fun e he => by have := hlow e he; omega
        rw [memTake, if_neg h, ih hs hlow]
        refine congrArg₂ _ h0.symm (List.map_congr_left fun i _ => ?_)
        rw [Function.comp_apply, Nat.succ_eq_add_one, Nat.add_right_comm, Nat.add_assoc]

/-- A read of a memory in canonical form gives the byte at each address. -/
theorem memRead_eq {m : Mem} (h : memOk m = true) (a n : Nat) :
    memRead m a n = (List.range n).map (fun i => memGet m (a + i)) := by
  have hs := ((memOk_iff m).1 h).2
  rw [memRead, memTake_eq (hs.filter _) fun e he => by simpa using (List.mem_filter.1 he).2]
  exact List.map_congr_left fun i _ => memGet_filter _ _ _ fun b => by simp

/-! A scratchpad byte by byte (R173). -/

/-- The byte a scratchpad shows at an address: zero in a block that is not written (R173). -/
def scratchByte (sc : Scratch) (a : Nat) : Byte := if sc.written.contains (a / 1024) then memGet sc.data a else 0

theorem mapIdxFrom_range {α β : Type} (f : Nat → α → β) (g : Nat → α) (a n : Nat) :
    mapIdxFrom f a ((List.range n).map (fun i => g (a + i))) = (List.range n).map (fun i => f (a + i) (g (a + i))) := by
  induction n generalizing a with
  | zero => rfl
  | succ n ih =>
    have ih := ih (a + 1)
    simp only [List.range_succ_eq_map, List.map_cons, List.map_map, Function.comp_def, Nat.succ_eq_add_one, mapIdxFrom,
      Nat.add_zero, List.cons.injEq, true_and]
    simpa only [Nat.add_assoc, Nat.add_comm 1] using ih

theorem scratchRead_eq {sc : Scratch} (h : memOk sc.data = true) (a n : Nat) :
    scratchRead sc a n = (List.range n).map (fun i => scratchByte sc (a + i)) := by
  rw [scratchRead, memRead_eq h]
  exact mapIdxFrom_range (fun i b => if sc.written.contains (i / 1024) then b else 0) (memGet sc.data) a n

/-- A block that is written stays as it is. -/
theorem scratchTouch_of_written {sc : Scratch} {b : Nat} (h : sc.written.contains b = true) : scratchTouch sc b = sc := if_pos h

/-- A block that is not written is given zeros and its written bit. -/
theorem scratchTouch_of_not_written {sc : Scratch} {b : Nat} (h : sc.written.contains b = false) :
    scratchTouch sc b = { data := memPut sc.data (1024 * b) (zeros 1024), written := insertNat b sc.written,
                          marked := removeNat b sc.marked } := if_neg (Bool.eq_false_iff.1 h)

theorem scratchTouch_written (sc : Scratch) (b k : Nat) :
    (scratchTouch sc b).written.contains k = (k == b || sc.written.contains k) := by
  cases h : sc.written.contains b with
  | true =>
    rw [scratchTouch_of_written h]
    by_cases hk : k = b
    · rw [hk, h, Bool.or_true]
    · rw [beq_false_of_ne hk, Bool.false_or]
  | false =>
    rw [scratchTouch_of_not_written h]
    exact insert_contains ..

theorem memGet_memPut_zeros (m : Mem) (a n : Nat) {i : Nat} (h : i < n) : memGet (memPut m a (zeros n)) (a + i) = 0 := by
  rw [memGet_memPut_in _ _ _ _ (by rwa [zeros, List.length_replicate]), zeros, List.getD_replicate _ h]

/-- Giving a block its zeros changes no byte that the scratchpad shows. -/
theorem scratchByte_touch (sc : Scratch) (b a : Nat) : scratchByte (scratchTouch sc b) a = scratchByte sc a := by
  cases h : sc.written.contains b with
  | true => rw [scratchTouch_of_written h]
  | false =>
    by_cases hk : a / 1024 = b
    · have hz : memGet (scratchTouch sc b).data a = 0 := by
        rw [scratchTouch_of_not_written h, show a = 1024 * b + a % 1024 by omega]
        exact memGet_memPut_zeros _ _ _ (Nat.mod_lt _ (by decide))
      rw [scratchByte, scratchByte, hz, ite_self, hk, h, if_neg Bool.false_ne_true]
    · have hout : memGet (scratchTouch sc b).data a = memGet sc.data a := by
        rw [scratchTouch_of_not_written h]
        exact memGet_memPut_out _ _ _ _ (by rw [zeros, List.length_replicate]; omega)
      rw [scratchByte, scratchByte, scratchTouch_written, hout, beq_false_of_ne hk, Bool.false_or]

theorem scratchTouches_byte (l : List Nat) (sc : Scratch) (a : Nat) :
    scratchByte (l.foldl scratchTouch sc) a = scratchByte sc a :=
  foldl_keeps (fun t => scratchByte t a = scratchByte sc a) _ (fun t b h => (scratchByte_touch t b a).trans h) l sc rfl

theorem scratchTouches_written (l : List Nat) (sc : Scratch) (k : Nat) :
    (l.foldl scratchTouch sc).written.contains k = (l.contains k || sc.written.contains k) := by
  induction l generalizing sc with
  | nil => rfl
  | cons b t ih => rw [List.foldl_cons, ih, scratchTouch_written, List.contains_cons, Bool.or_left_comm, Bool.or_assoc]

theorem mem_blocksOf {a n b : Nat} (h1 : a ≤ b) (h2 : b < a + n) : b / 1024 ∈ blocksOf a n := by
  rw [blocksOf, if_neg (by omega), rangeFrom, List.mem_map]
  exact ⟨b / 1024 - a / 1024, List.mem_range.2 (by omega), by omega⟩

/-- A write shows its bytes where it went. -/
theorem scratchByte_write_in (sc : Scratch) (a : Nat) (bs : Bytes) (p : Bool) {i : Nat} (h : i < bs.length) :
    scratchByte (scratchWrite sc a bs p) (a + i) = bs.getD i 0 := by
  have hblock : (blocksOf a bs.length).contains ((a + i) / 1024) = true :=
    List.contains_iff_mem.2 (mem_blocksOf (Nat.le_add_right ..) (by omega))
  simp only [scratchByte, scratchWrite, scratchTouches_written, hblock, Bool.true_or, if_true]
  exact memGet_memPut_in _ _ _ _ h

/-- A write leaves every byte outside it. -/
theorem scratchByte_write_out (sc : Scratch) (a : Nat) (bs : Bytes) (p : Bool) {b : Nat} (h : b < a ∨ a + bs.length ≤ b) :
    scratchByte (scratchWrite sc a bs p) b = scratchByte sc b := by
  rw [← scratchTouches_byte (blocksOf a bs.length) sc b]
  simp only [scratchByte, scratchWrite, memGet_memPut_out _ _ _ _ h]

/-! One span of the Core Store (R74, R229). -/

theorem spansPeek_cs (m : MemState) (a n k : Nat) (va : Option Nat) :
    spansPeek m [⟨1, a, n, k, va⟩] = scratchRead m.cs a n := List.append_nil _

theorem spansMarked_cs (m : MemState) (a n k : Nat) (va : Option Nat) :
    spansMarked m [⟨1, a, n, k, va⟩] = scratchMarked m.cs a n := Bool.or_false _

/-- A write of one span of the Core Store changes no other memory, and of the Core Store it is a write but for the marks. -/
theorem spansWrite_cs (m : MemState) (w : Ways) (a k : Nat) (va : Option Nat) (bs : Bytes) (p : Bool) :
    ∃ marks, spansWrite m w [⟨1, a, bs.length, k, va⟩] bs p = { m with cs := { scratchWrite m.cs a bs p with marked := marks } } := by
  have hkeep (sp : Nat) (hsp : sp ≠ 1) (l : List Nat) :
      l.filter (fun b => spanCover [⟨1, a, bs.length, k, va⟩] sp b < 1024) = l := by
    have h0 : ∀ b, spanCover [⟨1, a, bs.length, k, va⟩] sp b = 0 := fun b => if_neg (by simpa using hsp.symm)
    simp [h0]
  cases p with
  | true => exact ⟨(scratchWrite m.cs a bs true).marked, by simp [spansWrite, spanWrite]⟩
  | false =>
    have hw : spansWrite m w [⟨1, a, bs.length, k, va⟩] bs false
        = spansUnmark { m with cs := scratchWrite m.cs a bs false } [⟨1, a, bs.length, k, va⟩] := by
      simp [spansWrite, spanWrite]
    rw [hw]
    simp only [spansUnmark, hkeep 0 (by decide), hkeep 2 (by decide), hkeep 3 (by decide)]
    exact ⟨_, rfl⟩

/-! sc.ld and sc.st (R229). -/

section Forms

variable {s : State} {d : DRef} {x : Dispatch} {c : Ctx} {n sd imm : Nat} {h : HRef} {sa : Option Nat} {o : Opnd} {at_ : List Span}

theorem scLdForm_ok (ho : resolve x c (s.core x.lead) h false false = .ok o)
    (hat : scAddress s x c (s.core x.lead) .read o imm sa = .ok at_)
    (hfree : free x { Use.none with rd := at_, rs := hrefRegs h ++ sa.toList, ws := [sd] } = .ok ()) :
    scLdForm s sd h imm sa x c n = .ok (putScalar s (if spansMarked s.mem at_ then x.poison .eccUncorrectable x.pc else x)
      (s.core x.lead) n sd (BitVec.ofNat 64 (leNat (spansPeek s.mem at_))) (spansMarked s.mem at_)) := by
  simp only [scLdForm, ho, hat, hfree, run_eq, pure_ok]

theorem scStForm_ok (ho : resolve x c (s.core x.lead) h true false = .ok o)
    (hat : scAddress s x c (s.core x.lead) .write o imm sa = .ok at_) (hw : inWindow s at_ = false)
    (hfree : free x { Use.none with wr := at_, rs := sd :: hrefRegs h ++ sa.toList } = .ok ()) :
    scStForm s sd h imm sa x c n
      = .ok ((s.writeSpans at_ (leBytes 8 ((s.core x.lead).sget sd).toNat) ((s.core x.lead).poisS.contains sd)).put2 (x.adv n)
          (if (s.core x.lead).poisS.contains sd then (s.core x.lead).raise stPoisonSeen else s.core x.lead)) := by
  simp only [scStForm, ho, hat, hw, hfree, run_eq, need_ok, Bool.not_false]
  rfl

/-- The state that sc.st issues with. -/
theorem scSt_issues (hst : Stands s d (.scSt d sd h imm sa) { Use.none with wr := at_, rs := sd :: hrefRegs h ++ sa.toList } x c n)
    (ho : resolve x c (s.core x.lead) h true false = .ok o) (hat : scAddress s x c (s.core x.lead) .write o imm sa = .ok at_)
    (hw : inWindow s at_ = false) :
    Issues (.scSt d sd h imm sa) d s
      ((s.writeSpans at_ (leBytes 8 ((s.core x.lead).sget sd).toNat) ((s.core x.lead).poisS.contains sd)).put2 (x.adv n)
        (if (s.core x.lead).poisS.contains sd then (s.core x.lead).raise stPoisonSeen else s.core x.lead)) :=
  issues_of_form hst rfl (scStForm_ok ho hat hw (stands_free hst))

/-- The first half of ScalarLoadStoreMovesEightBytes: sc.ld reads its 8 bytes. -/
theorem scLd_reads_eight_bytes {a k : Nat}
    (hst : Stands s d (.scLd d sd h imm sa)
      { Use.none with rd := [⟨1, a, 8, k, none⟩], rs := hrefRegs h ++ sa.toList, ws := [sd] } x c n)
    (ho : resolve x c (s.core x.lead) h false false = .ok o)
    (hat : scAddress s x c (s.core x.lead) .read o imm sa = .ok [⟨1, a, 8, k, none⟩]) :
    ∃ t r y, Issues (.scLd d sd h imm sa) d s t ∧ OnlyCoreAndDispatch s t x.lead r d y
      ∧ y = (if scratchMarked s.mem.cs a 8 then x.poison .eccUncorrectable x.pc else x).adv n
      ∧ ScalarWritten (s.core x.lead) r sd (BitVec.ofNat 64 (leNat (scratchRead s.mem.cs a 8))) (scratchMarked s.mem.cs a 8) := by
  have hf := scLdForm_ok (n := n) ho hat (stands_free hst)
  rw [spansMarked_cs, spansPeek_cs] at hf
  obtain ⟨t, r, hi, hr, hw⟩ := issues_putScalar hst rfl rfl (ite_poison_id ..) (ite_poison_lead ..) hf
  exact ⟨t, r, _, hi, hr, rfl, hw⟩

/-- The second half of ScalarLoadStoreMovesEightBytes where the Core Store is in the form that every step keeps (log entry 7): sc.st
writes its 8 bytes and no other. -/
theorem scSt_writes_eight_bytes {a k : Nat} (hok : memOk s.mem.cs.data = true)
    (hst : Stands s d (.scSt d sd h imm sa) { Use.none with wr := [⟨1, a, 8, k, none⟩], rs := sd :: hrefRegs h ++ sa.toList } x c n)
    (ho : resolve x c (s.core x.lead) h true false = .ok o)
    (hat : scAddress s x c (s.core x.lead) .write o imm sa = .ok [⟨1, a, 8, k, none⟩])
    (hw : inWindow s [⟨1, a, 8, k, none⟩] = false) :
    ∃ t, Issues (.scSt d sd h imm sa) d s t
      ∧ t = { s with mem := { s.mem with cs := t.mem.cs }, cores := t.cores, disps := t.disps }
      ∧ scratchRead t.mem.cs a 8 = leBytes 8 ((s.core x.lead).sget sd).toNat
      ∧ (∀ b, (b < a ∨ a + 8 ≤ b) → scratchRead t.mem.cs b 1 = scratchRead s.mem.cs b 1)
      ∧ t.core x.lead = (if (s.core x.lead).poisS.contains sd then (s.core x.lead).raise stPoisonSeen else s.core x.lead)
      ∧ (∀ k, k ≠ x.lead → t.core k = s.core k)
      ∧ t.disp? d = some (x.adv n) ∧ ∀ e, e ≠ d → t.disp? e = s.disp? e := by
  obtain ⟨⟨z, hz⟩, hid⟩ := stands_disp hst
  have hissues := scSt_issues hst ho hat hw
  generalize hbs : leBytes 8 ((s.core x.lead).sget sd).toNat = bs at hissues ⊢
  generalize (s.core x.lead).poisS.contains sd = p at hissues ⊢
  have h8 : bs.length = 8 := hbs ▸ leBytes_length ..
  obtain ⟨marks, hmem⟩ := spansWrite_cs s.mem s.ways a k none bs p
  rw [h8] at hmem
  have hok' : memOk (scratchWrite s.mem.cs a bs p).data = true := scratchWrite_ok hok a bs p
  obtain ⟨-, hself, hcores, hdisp, hdisps⟩ := only_put2 (s := s.writeSpans [⟨1, a, 8, k, none⟩] bs p) (x := x) (z := x.adv n)
    (r := if p then (s.core x.lead).raise stPoisonSeen else s.core x.lead) hz hid rfl
  refine ⟨_, hissues, ?_, ?_, fun b hb => ?_, hself, hcores, hdisp, hdisps⟩
  · simp only [State.put2, State.writeSpans, State.setCore, State.setDisp, hmem]
  · simp only [State.put2_mem, State.writeSpans, hmem]
    refine (scratchRead_eq hok' a 8).trans (List.ext_getElem (by simp [h8]) fun i _ hi => ?_)
    rw [List.getElem_map, List.getElem_range]
    exact (scratchByte_write_in _ _ _ _ hi).trans (List.getD_eq_getElem _ _ hi)
  · simp only [State.put2_mem, State.writeSpans, hmem]
    refine (scratchRead_eq hok' b 1).trans (Eq.trans ?_ (scratchRead_eq hok b 1).symm)
    exact congrArg (fun y => [y]) (scratchByte_write_out _ _ _ _ (by rwa [h8]))

end Forms

/-! The memory that an instruction leaves which puts nothing in flight: the notes of an issue and of a first instruction (R77, R287)
do not touch it. -/

theorem began_mem (s : State) (d : DRef) : (began s d).mem = s.mem := by
  unfold began
  split
  · rfl
  · split
    · rfl
    · dsimp only
      split <;> rfl

theorem issued_mem {t : State} {y z : Dispatch} {c : Ctx} (hz : t.disp? y.id = some z) (hf : z.inflight = y.inflight) :
    (issued y c t).mem = t.mem := by
  have hnone : newFlight y z = none := by simp [newFlight, hf]
  simp only [issued, hz, hnone, State.setDisp_mem]

theorem issues_mem {i : Instr} {d : DRef} {s t : State} {y z : Dispatch} {c : Ctx} {n : Nat} (hy : s.ready d i = some (y, c, n))
    (ht : Issues i d s t) (hz : t.disp? d = some z) (hf : z.inflight = y.inflight) : ∃ w, exec i s = .next w ∧ w.mem = t.mem := by
  obtain ⟨y', c', n', hy', hexec⟩ := ht
  cases hy.symm.trans hy'
  rw [← (ready_fact hy).2] at hz
  exact ⟨_, hexec, (began_mem ..).trans (issued_mem hz hf)⟩

/-- Two states that one instruction issues with have the same memory where it puts nothing in flight. -/
theorem issues_mem_unique {i : Instr} {d : DRef} {s t u : State} {y z w : Dispatch} {c : Ctx} {n : Nat}
    (hy : s.ready d i = some (y, c, n)) (ht : Issues i d s t) (hu : Issues i d s u) (hz : t.disp? d = some z) (hw : u.disp? d = some w)
    (hzf : z.inflight = y.inflight) (hwf : w.inflight = y.inflight) : t.mem = u.mem := by
  obtain ⟨t', hexec, ht'⟩ := issues_mem hy ht hz hzf
  obtain ⟨u', hexec', hu'⟩ := issues_mem hy hu hw hwf
  cases hexec.symm.trans hexec'
  exact ht'.symm.trans hu'

/-! A Core Store out of the canonical form. -/

namespace Unsorted

/-- Descriptor 1: words of the Core Store from byte 8, that may be written (R152). -/
def words : Bytes := leBytes 8 8 ++ [1, 0, 1, 0] ++ leBytes 2 1 ++ zeros 2 ++ leBytes 8 (512 + 2 ^ 24) ++ zeros 40

/-- A context with that descriptor. -/
def ctx : Ctx := { newCtx 1 [] [] with descEntries := 2, descs := [(1, ⟨true, 1, words⟩)] }

/-- A dispatch of that context on core 0 that stands at sc.st of S0 through descriptor 1: opcode 0x43 in the long form, the literal
handle in word 1 (R217, R223). -/
def disp : Dispatch :=
  { newDispatch State.reset ctx ⟨0, 1, .middle, 0, 0, 0, 0, [], [], true⟩ [] with
    prog := { noProgram with code := [0x43 * 2 ^ 57 + 2 ^ 56, 2 ^ 42], binds := [(1, 1)] }, phase := .running, cores := [0] }

/-- Byte 20 is listed before byte 5, so that a read from byte 5 meets byte 20 first and answers 0. -/
def store : Scratch := { data := [(20, 1), (5, 7)], written := [0], marked := [] }

/-- A module that runs the dispatch over that Core Store. -/
def state : State :=
  { State.reset with
    pwr := { Power.reset with st := .up }, fields := [{ FieldState.reset with st := .run }], ctxs := [ctx], disps := [disp]
    mem := { MemState.reset with cs := store, csMap := [⟨0, 1, none, 0, 0, false⟩] } }

theorem fetches : disp.prog.fetch disp.id disp.next = some (.scSt disp.id 0 (.lit 1) 0 none, 2) := by decide +kernel

theorem ready : state.ready disp.id (.scSt disp.id 0 (.lit 1) 0 none) = some (disp, ctx, 2) := by
  have hdisp : state.disp? disp.id = some disp := rfl
  have hctx : state.ctx? disp.ctx = some ctx := rfl
  have hgo : (disp.phase == .running && disp.fate.isNone && (!disp.redo.isEmpty || disp.flows) && state.coresRun disp && state.isUp)
      = true := by decide +kernel
  simp only [Bool.and_eq_true] at hgo
  simp [State.ready, hdisp, hctx, fetches, hgo]

theorem stands : Stands state disp.id (.scSt disp.id 0 (.lit 1) 0 none)
    { Use.none with wr := [⟨1, 8, 8, 0, none⟩], rs := 0 :: hrefRegs (.lit 1) ++ (none : Option Nat).toList } disp ctx 2 :=
  ⟨⟨disp, ready, rfl⟩, rfl⟩

theorem resolves : resolve disp ctx (state.core disp.lead) (.lit 1) true false = .ok ⟨1, words⟩ := rfl

theorem address : scAddress state disp ctx (state.core disp.lead) .write ⟨1, words⟩ 0 none = .ok [⟨1, 8, 8, 0, none⟩] := rfl

theorem byte_five_before : scratchRead state.mem.cs 5 1 = [0] := by decide +kernel

theorem byte_five_after : scratchRead (state.writeSpans [⟨1, 8, 8, 0, none⟩] (leBytes 8 ((state.core disp.lead).sget 0).toNat)
    ((state.core disp.lead).poisS.contains 0)).mem.cs 5 1 = [7] := by decide +kernel

end Unsorted

/-- Refutes O6: over a Core Store whose cells are not listed by rising address, the store of 8 zero bytes at byte 8 moves byte 20
behind byte 5, which then shows 7 where it showed 0. No step leaves a Core Store in that form (log entry 7), and with the canonical
form as a premise both halves hold (`scLd_reads_eight_bytes`, `scSt_writes_eight_bytes`). -/
theorem not_scalarLoadStoreMovesEightBytes : ¬ Obligations.ScalarLoadStoreMovesEightBytes := by
  unfold Obligations.ScalarLoadStoreMovesEightBytes
  rintro ⟨-, hst⟩
  obtain ⟨t, hissues, -, -, hout, -, -, hdisp, -⟩ :=
    hst Unsorted.state _ 0 (.lit 1) 0 none _ _ _ _ 8 0 Unsorted.stands Unsorted.resolves Unsorted.address rfl
  have hsame := issues_mem_unique Unsorted.ready hissues (scSt_issues Unsorted.stands Unsorted.resolves Unsorted.address rfl) hdisp
    (State.disp?_setDisp_self _ (ready_fact Unsorted.ready).1 rfl) rfl rfl
  have hfive := hout 5 (.inl (by decide))
  rw [hsame, Unsorted.byte_five_before] at hfive
  exact absurd (hfive.symm.trans Unsorted.byte_five_after) (by decide)

end Sys2Proof.Machine

/-! SUPPORT. Control flow: what br, lap, call and ret come to with every check met, and what an iteration's end does to its loop
register and its lap (R235 to R239). -/

namespace Sys2Proof.Machine

/-- A dispatch that may act between instructions is the one listed under its number. -/
theorem acts_disp? {s : State} {d : DRef} {x : Dispatch} (h : s.acts d = some x) : s.disp? d = some x := by
  unfold State.acts at h
  split at h
  · cases h
  next y hy =>
    split at h
    · cases h
      exact hy
    · cases h

section Forms

variable {s : State} {x : Dispatch} {c : Ctx} {n : Nat}

/-! br (R76, R235, R239). -/

/-- R76: a conditional branch needs both of its sources free of poison. -/
theorem brForm_of_clean {cd : Cond} {sa : Nat} {b : SVal} {off : Int}
    (hfree : free x { Use.none with rs := if cd == .always then [] else sa :: svalRegs b } = .ok ())
    (hp : cd ≠ .always → (s.core x.lead).poisS.contains sa = false ∧ (s.core x.lead).svalPois b = false) :
    brForm s cd sa b off x c n =
      (if condHolds cd ((s.core x.lead).sget sa) ((s.core x.lead).sval b) then
        if lapsHeld x (leavesLap x (jumpTo x.pc off)) then .error .busy
        else .ok (s.put2 { x with pc := jumpTo x.pc off, laps := x.laps.filter (fun l => !leavesLap x (jumpTo x.pc off) l) }
          ((x.laps.filter (leavesLap x (jumpTo x.pc off))).foldl endLap (s.core x.lead)))
      else .ok (s.setDisp (x.adv n))) := by
  by_cases hc : cd = .always
  · subst hc
    simp only [brForm, hfree, run_eq]
    rfl
  · obtain ⟨hsa, hb⟩ := hp hc
    simp only [brForm, hfree, cleanS_ok (v := .reg sa) hsa, cleanS_ok hb, bne_iff_ne, ne_eq, hc, not_false_eq_true, if_true, run_eq]
    rfl

/-! lap (R236, R238). -/

/-- The lap that an instruction at AVIS_PC opens for a count above 0 (R236). -/
def openedLap (s : State) (x : Dispatch) (n ln : Nat) (cnt : SVal) (off : Int) : LapState :=
  { ln := ln, count := ((s.core x.lead).sval cnt).toNat, start := x.pc + n, target := jumpTo x.pc off, pendingVal := none,
    depth := x.calls.length }

theorem lapForm_ok {ln : Nat} {cnt : SVal} {off : Int} (hfree : free x { Use.none with rs := svalRegs cnt } = .ok ())
    (hp : (s.core x.lead).svalPois cnt = false) (hc : ((s.core x.lead).sval cnt).toNat ≤ 0xFFFFFFFF) (hroom : x.laps.length < 4)
    (hother : x.laps.all (fun l => l.ln != ln) = true) (hread : x.readsLoop ln = false) :
    lapForm s ln cnt off x c n = .ok (s.put2
      (if ((s.core x.lead).sval cnt).toNat = 0 then { x with pc := jumpTo x.pc off }
        else { x.adv n with laps := openedLap s x n ln cnt off :: x.laps }) ((s.core x.lead).lput ln 0)) := by
  have hlaps : (decide (x.laps.length < 4) && !x.laps.any (fun l => l.ln == ln)) = true := by
    simpa [hroom] using hother
  simp only [lapForm, hfree, cleanS_ok hp, need_ok _ (decide_eq_true hc), need_ok _ hlaps, hread, run_eq, beq_iff_eq,
    pure_ok, Bool.false_eq_true, if_false]
  split <;> rfl

/-! call and ret (R239). -/

theorem callForm_ok {off : Int} (h : x.calls.length < 16) :
    callForm s off x c n = .ok (s.setDisp { x with pc := jumpTo x.pc off, calls := (x.pc + n) :: x.calls }) := by
  simp only [callForm, need_ok _ (decide_eq_true h), run_eq, pure_ok]

/-- A dispatch after ret: the laps opened since the call have ended, and the program goes on at the return point or has ended. -/
def returned (x : Dispatch) : Dispatch :=
  let y := { x with laps := x.laps.filter (fun l => !(l.depth == x.calls.length)) }
  match x.calls with
  | [] => { y with fin := true }
  | p :: rest => { y with pc := p, calls := rest }

theorem returned_of_end (h : x.calls = []) :
    returned x = { x with laps := x.laps.filter (fun l => !(l.depth == x.calls.length)), fin := true } := by
  simp only [returned, h]

theorem returned_of_call {p : Nat} {rest : List Nat} (h : x.calls = p :: rest) :
    returned x = { x with laps := x.laps.filter (fun l => !(l.depth == x.calls.length)), pc := p, calls := rest } := by
  simp only [returned, h]

theorem returned_id : (returned x).id = x.id := by
  unfold returned
  split <;> rfl

theorem returned_lead : (returned x).lead = x.lead := by
  unfold returned
  split <;> rfl

theorem retForm_ok (h : lapsHeld x (fun l => l.depth == x.calls.length) = false) :
    retForm s x c n = .ok (s.put2 (returned x)
      ((x.laps.filter (fun l => l.depth == x.calls.length)).foldl endLap (s.core x.lead))) := by
  simp only [retForm, endLaps, h, Bool.false_eq_true, if_false]
  split
  next hend =>
    rw [returned_of_end hend]
    rfl
  next hcall =>
    rw [returned_of_call hcall]
    rfl

/-! The end of an iteration (R236, R237). -/

theorem exec_lapIterationEnd {d : DRef} {l : LapState} (ha : s.acts d = some x) (hl : x.atLapEnd = some l)
    (hread : x.readsLoop l.ln = false) :
    exec (.lapIterationEnd d) s = .next
      (if (s.core x.lead).lget l.ln + 1 = l.count then
        s.put2 { x with pc := l.target, laps := x.laps.tail }
          (endLap ((s.core x.lead).lput l.ln ((s.core x.lead).lget l.ln + 1)) l)
      else s.put2 { x with pc := l.start } ((s.core x.lead).lput l.ln ((s.core x.lead).lget l.ln + 1))) := by
  show execLapIterationEnd d s = _
  simp only [execLapIterationEnd, ha, hl, hread, Bool.false_eq_true, if_false, beq_iff_eq, apply_ite Host.Outcome.next]

end Forms

/-- A loop register holds the low 32 bits of what is written to it (R50). -/
theorem loopWritten_lput_mod (r : CoreRegs) (ln v : Nat) : LoopWritten r (r.lput ln v) ln (v % 2 ^ 32) :=
  ⟨r.lget_lput_self ln v, fun _ hk => r.lget_lput_other hk v, rfl⟩

/-- Of two writes to a loop register the later one stands. -/
theorem LoopWritten.again {r r₁ r₂ : CoreRegs} {ln v w : Nat} (h₁ : LoopWritten r r₁ ln v) (h₂ : LoopWritten r₁ r₂ ln w) :
    LoopWritten r r₂ ln w := by
  obtain ⟨-, ho₁, hr₁⟩ := h₁
  obtain ⟨hv, ho₂, hr₂⟩ := h₂
  exact ⟨hv, fun k hk => (ho₂ k hk).trans (ho₁ k hk), hr₂.trans (by rw [hr₁])⟩

/-- R236, R237: the last iteration leaves the trip count in the loop register, or the value that was pending. -/
theorem loopWritten_endLap (r : CoreRegs) (l : LapState) :
    LoopWritten r (endLap (r.lput l.ln l.count) l) l.ln (l.pendingVal.getD l.count % 2 ^ 32) := by
  unfold endLap
  cases l.pendingVal with
  | none => exact loopWritten_lput_mod ..
  | some v => exact (loopWritten_lput_mod r l.ln l.count).again (loopWritten_lput_mod ..)

/-- Settles O8: every form ends as its lemma above says, and the state it ends in differs in one dispatch and its lead core. -/
theorem controlFlowMovesThePc : Obligations.ControlFlowMovesThePc := by
  unfold Obligations.ControlFlowMovesThePc
  refine ⟨?_, ?_, ?_, ?_, ?_⟩
  · intro s d cd sa b off x c n hst hp hheld
    obtain ⟨⟨z, hz⟩, hid⟩ := stands_disp hst
    have hform := brForm_of_clean (c := c) (n := n) (off := off) (stands_free hst) hp
    cases hcond : condHolds cd ((s.core x.lead).sget sa) ((s.core x.lead).sval b) with
    | false =>
      rw [hcond] at hform
      exact ⟨_, issues_of_form hst rfl hform, fun _ => onlyDispatch_setDisp hz hid, nofun⟩
    | true =>
      rw [hcond, hheld hcond] at hform
      exact ⟨_, issues_of_form hst rfl hform, nofun, fun _ => only_put2 hz hid rfl⟩
  · intro s d ln cnt off x c n hst hp hc hroom hother hread
    obtain ⟨⟨z, hz⟩, hid⟩ := stands_disp hst
    refine ⟨_, _, issues_of_form hst rfl (lapForm_ok (stands_free hst) hp hc hroom hother hread),
      loopWritten_lput _ (by decide), fun h0 => ?_, fun h0 => ?_⟩
    · rw [if_pos h0]
      exact only_put2 hz hid rfl
    · rw [if_neg h0]
      exact only_put2 hz hid rfl
  · intro s d x l ha hl hread
    have hz := acts_disp? ha
    have hid := disp?_id hz
    have hexec := exec_lapIterationEnd ha hl hread
    by_cases hlast : (s.core x.lead).lget l.ln + 1 = l.count
    · rw [if_pos hlast, hlast] at hexec
      exact ⟨_, _, _, hexec, loopWritten_endLap .., absurd hlast, fun _ => ⟨rfl, only_put2 hz hid rfl⟩⟩
    · rw [if_neg hlast] at hexec
      exact ⟨_, _, _, hexec, loopWritten_lput_mod .., fun _ => ⟨rfl, only_put2 hz hid rfl⟩, (absurd · hlast)⟩
  · intro s d off x c n hst hroom
    obtain ⟨⟨z, hz⟩, hid⟩ := stands_disp hst
    exact ⟨_, issues_of_form hst rfl (callForm_ok hroom), onlyDispatch_setDisp hz hid⟩
  · intro s d x c n hst hheld
    obtain ⟨⟨z, hz⟩, hid⟩ := stands_disp hst
    exact ⟨_, _, issues_of_form hst rfl (retForm_ok hheld), only_put2 hz (returned_id.trans hid) returned_lead, returned_of_end,
      fun _ _ => returned_of_call⟩

end Sys2Proof.Machine

/-! SUPPORT. A Mark that takes an amount and the waiters that see it, where an arriving, a host and a peer signal go, what a wait's
limit and an acknowledgement come to (R242 to R245, R268, R303, R322). -/

namespace Sys2Proof.Machine

/-! The waiters of a Mark (R243 to R245). -/

theorem Mark.add_eq_raised (m : Mark) (amount : Nat) : m.add amount = raised m amount := by
  unfold Mark.add raised
  split
  next h => simp [Nat.min_eq_right h.le, h]
  next h => simp [Nat.min_eq_left (Nat.le_of_not_gt h), h]

section Waiters

variable {s : State} {d : DRef} {y : Dispatch} {sd k th start : Nat} {left : Option Nat}

theorem wakeOne_of_idle (h : y.wait = none) : wakeOne s y = s := by
  simp [wakeOne, h]

theorem wakeOne_of_reached (hw : y.wait = some (.mark sd k th start left)) (hp : y.phase = .running) (hf : y.fate = none)
    (hle : th ≤ (s.mark k).value) : wakeOne s y = waitResult s y sd true := by
  simp [wakeOne, hw, hp, hf, hle]

/-- A dispatch with no hand-off to wait for stays as it is, or its wait on a Mark ends with 1. -/
theorem wakeOne_of_no_handoff (h : ∀ slot dst start limit, y.wait ≠ some (.handoff slot dst start limit)) :
    wakeOne s y = s ∨ ∃ sd, wakeOne s y = waitResult s y sd true := by
  unfold wakeOne
  split
  · exact .inl rfl
  · split
    · split
      · exact .inr ⟨_, rfl⟩
      · exact .inl rfl
    next hw => exact (h _ _ _ _ hw).elim
    · exact .inl rfl

/-- One step of the evaluation of the waiters: the dispatch of an entry, as it stands by then (R245). -/
def wokenAt (s : State) (x : Dispatch) : State :=
  match s.disp? x.id with
  | some y => wakeOne s y
  | none => s

theorem wake_eq_foldl (s : State) : wake s = s.disps.foldl wokenAt s := rfl

theorem disp?_mem (h : s.disp? d = some y) : y ∈ s.disps := List.mem_of_find?_eq_some h

/-- A dispatch that waits for nothing is left as it is. -/
theorem wokenAt_of_idle {x : Dispatch} (h : ∀ y, s.disp? x.id = some y → y.wait = none) : wokenAt s x = s := by
  unfold wokenAt
  split
  next y hy => exact wakeOne_of_idle (h y hy)
  · rfl

theorem foldl_wokenAt_of_idle (h : ∀ y ∈ s.disps, y.wait = none) (l : List Dispatch) : l.foldl wokenAt s = s :=
  foldl_eq_self fun _ _ => wokenAt_of_idle fun y hy => h y (disp?_mem hy)

/-- Every dispatch of a list waits for something other than a hand-off, or for nothing. -/
def NoHandoff (l : List Dispatch) : Prop :=
  ∀ y ∈ l, ∀ slot dst start limit, y.wait ≠ some (.handoff slot dst start limit)

theorem noHandoff_waitResult (h : NoHandoff s.disps) (sd : Nat) (ok : Bool) : NoHandoff (waitResult s y sd ok).disps := by
  intro z hz
  obtain ⟨a, ha, rfl⟩ := List.mem_map.1 hz
  split
  · exact nofun
  · exact h a ha

/-- Where no hand-off waits, a wake changes no Mark. -/
theorem wake_marks (h : NoHandoff s.disps) : (wake s).marks = s.marks := by
  have hkeep : (wake s).marks = s.marks ∧ NoHandoff (wake s).disps := by
    refine foldl_keeps (fun t : State => t.marks = s.marks ∧ NoHandoff t.disps) wokenAt ?_ s.disps s ⟨rfl, h⟩
    intro t x ht
    unfold wokenAt
    split
    next z hz =>
      obtain hsame | ⟨sd, hend⟩ := wakeOne_of_no_handoff (s := t) (ht.2 z (disp?_mem hz))
      · rw [hsame]
        exact ht
      · rw [hend]
        exact ⟨ht.1, noHandoff_waitResult ht.2 sd true⟩
    · exact ht
  exact hkeep.1

theorem wake_mark (h : NoHandoff s.disps) (j : Nat) : (wake s).mark j = s.mark j := by
  rw [State.mark, wake_marks h, State.mark]

theorem waitResult_idle (hid : y.id = d) (hothers : ∀ z ∈ s.disps, z.id ≠ d → z.wait = none) (ok : Bool) :
    ∀ z ∈ (waitResult s y sd ok).disps, z.wait = none := by
  intro z hz
  obtain ⟨a, ha, rfl⟩ := List.mem_map.1 hz
  split
  · rfl
  next hne => exact hothers a ha fun e => hne (by simp [e, hid])

/-- Where one dispatch alone waits, for a threshold that its Mark has reached, a wake ends its wait with 1 and does nothing else,
whatever entries the list of dispatches has. -/
theorem wake_of_reached (hy : s.disp? d = some y) (hw : y.wait = some (.mark sd k th start left)) (hp : y.phase = .running)
    (hf : y.fate = none) (hle : th ≤ (s.mark k).value) (hothers : ∀ z ∈ s.disps, z.id ≠ d → z.wait = none) :
    wake s = waitResult s y sd true := by
  have hfold : ∀ l : List Dispatch, (∃ x ∈ l, x.id = d) → l.foldl wokenAt s = waitResult s y sd true := by
    intro l
    induction l with
    | nil => exact fun h => by simp at h
    | cons x l ih =>
      rintro ⟨z, hz, hid⟩
      rw [List.foldl_cons]
      by_cases hx : x.id = d
      · have hwoken : wokenAt s x = waitResult s y sd true := by
          rw [wokenAt, hx, hy]
          exact wakeOne_of_reached hw hp hf hle
        rw [hwoken]
        exact foldl_wokenAt_of_idle (waitResult_idle (disp?_id hy) hothers true) l
      · have hsame : wokenAt s x = s :=
          wokenAt_of_idle fun z hz => hothers z (disp?_mem hz) fun e => hx ((disp?_id hz).symm.trans e)
        rw [hsame]
        refine ih ⟨z, (List.mem_cons.1 hz).resolve_left ?_, hid⟩
        rintro rfl
        exact hx hid
  exact hfold s.disps ⟨y, disp?_mem hy, disp?_id hy⟩

end Waiters

/-- Every clause of `MarkRaised` holds of a Mark that a signal has been added to. -/
theorem markRaised_addMark (s : State) (k amount : Nat) : MarkRaised s (addMark s k amount) k amount := by
  refine ⟨rfl, ?_, ?_, ?_⟩ <;> rw [addMark, Mark.add_eq_raised]
  · intro hno
    have hmark := wake_mark (s := s.setMark k (raised (s.mark k) amount)) hno
    exact ⟨(hmark k).trans (s.mark_setMark_self k _), fun j hj => (hmark j).trans (s.mark_setMark_other hj _)⟩
  · intro hidle
    rw [wake_eq_foldl, foldl_wokenAt_of_idle (s := s.setMark k _) hidle]
    rfl
  · intro d y sd th start left hy hw hp hf hothers hle
    have hreached : th ≤ ((s.setMark k (raised (s.mark k) amount)).mark k).value := by rwa [State.mark_setMark_self]
    rw [wake_of_reached (s := s.setMark k _) hy hw hp hf hreached hothers]
    have hid := disp?_id hy
    exact only_put2 (s := s.setMark k _) hy hid rfl

/-! MARK_SIGNAL_ARRIVAL (R245, R303). -/

section Arrival

variable {s : State} {n : Nat} {x : MarkSig} {d : DRef} {e : Nat} {y : Dispatch}

theorem sigStale_program (hy : s.disp? d = some y) : sigStale s (.program d e) = if y.epoch = e then none else some d := by
  simp [sigStale, hy]

theorem sigStale_eq_none {a : SigAgent} (h : ∀ d e y, a = .program d e → s.disp? d = some y → y.epoch = e) :
    sigStale s a = none := by
  cases a with
  | starter => rfl
  | program d e =>
    cases hy : s.disp? d with
    | none => simp [sigStale, hy]
    | some y => exact (sigStale_program hy).trans (if_pos (h d e y rfl hy))

theorem exec_markSignalArrival_stale (hx : s.markNet[n]? = some x)
    (hstale : sigStale { s with markNet := s.markNet.eraseIdx n } x.agent = some d) :
    exec (.markSignalArrival n) s = .next (countStale { s with markNet := s.markNet.eraseIdx n } d) := by
  show execMarkSignalArrival n s = _
  simp only [execMarkSignalArrival, hx, hstale]

theorem exec_markSignalArrival_owned (hx : s.markNet[n]? = some x)
    (hstale : sigStale { s with markNet := s.markNet.eraseIdx n } x.agent = none)
    (hown : markOwned { s with markNet := s.markNet.eraseIdx n } x.mark x.ctx = true) :
    exec (.markSignalArrival n) s = .next (addMark { s with markNet := s.markNet.eraseIdx n } x.mark x.amount) := by
  show execMarkSignalArrival n s = _
  simp only [execMarkSignalArrival, hx, hstale, hown, if_true]

theorem exec_markSignalArrival_denied (hx : s.markNet[n]? = some x)
    (hstale : sigStale { s with markNet := s.markNet.eraseIdx n } x.agent = none)
    (hown : markOwned { s with markNet := s.markNet.eraseIdx n } x.mark x.ctx = false) (ha : x.agent = .program d e)
    (hy : s.disp? d = some y) :
    exec (.markSignalArrival n) s = .next (({ s with markNet := s.markNet.eraseIdx n } : State).stop y .accessDenied y.pc) := by
  have hfound : ({ s with markNet := s.markNet.eraseIdx n } : State).disp? d = some y := hy
  rw [ha] at hstale
  show execMarkSignalArrival n s = _
  simp only [execMarkSignalArrival, hx, ha, hstale, hown, hfound, Bool.false_eq_true, if_false]

theorem exec_markSignalArrival_starter (hx : s.markNet[n]? = some x)
    (hown : markOwned { s with markNet := s.markNet.eraseIdx n } x.mark x.ctx = false) (ha : x.agent = .starter) :
    exec (.markSignalArrival n) s = .next { s with markNet := s.markNet.eraseIdx n } := by
  show execMarkSignalArrival n s = _
  simp only [execMarkSignalArrival, hx, ha, sigStale, hown, Bool.false_eq_true, if_false]

/-- A fault wins the commit point of a dispatch whose program has not returned, in whatever phase short of its end (R307). -/
theorem onlyDispatch_stop_open (hy : s.disp? d = some y) (hp : y.phase ≠ .ended) (hf : y.fate = none) (hfin : y.fin = false)
    (f : FaultCode) (i : Nat) : OnlyDispatch s (s.stop y f i) d { y with fate := some ⟨2, f.code, 2, i⟩ } := by
  have hopen : y.finished = false := by simp [Dispatch.finished, hfin]
  have hstop : s.stop y f i = s.setDisp { y with fate := some ⟨2, f.code, 2, i⟩ } := by
    simp [State.stop, Dispatch.abort, hf, hp, hopen, causeFault]
  have hid := disp?_id hy
  rw [hstop]
  exact onlyDispatch_setDisp hy hid

end Arrival

/-! MARK_WAIT_TIMEOUT (R244). -/

theorem exec_markWaitTimeout_due {s : State} {d : DRef} {x : Dispatch} {sd k th start left : Nat} (hx : s.disp? d = some x)
    (hw : x.wait = some (.mark sd k th start (some left))) (hp : x.phase = .running) (hf : x.fate = none)
    (hdue : start + left + 1 ≤ s.unitTicks 1 x.lead) :
    exec (.markWaitTimeout d) s = .next (waitResult s x sd ((s.mark k).value ≥ th)) := by
  have hgo : (x.phase == .running && x.fate.isNone && due (leadTicks s x) start left) = true := by
    simp [hp, hf, due, leadTicks, hdue]
  show execMarkWaitTimeout d s = _
  simp only [execMarkWaitTimeout, hx, hw, hgo, if_true]

theorem onlyCoreAndDispatch_waitResult {s : State} {d : DRef} {x : Dispatch} (hx : s.disp? d = some x) (sd : Nat) (p : Prop)
    [Decidable p] : OnlyCoreAndDispatch s (waitResult s x sd p) x.lead ((s.core x.lead).sput sd (if p then 1 else 0) false) d
      { x with wait := none } := by
  have hid := disp?_id hx
  have h := only_put2 (x := x) (z := { x with wait := none })
    (r := (s.core x.lead).sput sd (if decide p = true then 1 else 0) false) hx hid rfl
  simpa only [waitResult, decide_eq_true_eq] using h

/-! HOST_MARK_SIG (R245, R322). -/

section HostSignal

variable {s : State} {data : Bytes}

/-- The tests of R245 on a host signal of a context for one of its Marks, with HOST_SIG (R322). -/
def hostMay (s : State) (ctx n : Nat) : Bool :=
  (s.ctx? ctx).isSome && decide (n < s.settingN 0x0107 ctx) && markOwned s (s.settingN 0x0106 ctx + n) ctx
    && (s.mark (s.settingN 0x0106 ctx + n)).hostSig

theorem hostMay_eq_false {ctx n : Nat} (h : s.ctx? ctx = none ∨ s.settingN 0x0107 ctx ≤ n
    ∨ (s.mark (s.settingN 0x0106 ctx + n)).hostSig = false ∨ markOwned s (s.settingN 0x0106 ctx + n) ctx = false) :
    hostMay s ctx n = false := by
  obtain h | h | h | h := h <;> simp [hostMay, h]

theorem hostMay_eq_true {ctx n : Nat} {c : Ctx} (hc : s.ctx? ctx = some c) (hn : n < s.settingN 0x0107 ctx)
    (ha : (s.mark (s.settingN 0x0106 ctx + n)).alloc = true) (ho : (s.mark (s.settingN 0x0106 ctx + n)).owner = ctx)
    (hs : (s.mark (s.settingN 0x0106 ctx + n)).hostSig = true) : hostMay s ctx n = true := by
  simp [hostMay, markOwned, hc, hn, ha, ho, hs]

variable (hserves : s.serves = true) (hlink : s.linkUp = true) (hlen : data.length = 16)
include hserves hlink hlen

theorem exec_hostMarkSig_malformed (hr : allZero data 6 2 = false ∨ allZero data 12 4 = false) :
    exec (.hostMarkSig data) s = .next (hostSigRefused s .descInvalid) := by
  have hbad : (allZero data 6 2 && allZero data 12 4) = false := Bool.and_eq_false_iff.2 hr
  show execHostMarkSig data s = _
  simp [execHostMarkSig, hserves, hlink, hlen, hbad]

theorem exec_hostMarkSig_wellFormed (hr : allZero data 6 2 = true) (hr' : allZero data 12 4 = true) :
    exec (.hostMarkSig data) s = .next (if hostMay s (field data 0 4) (field data 4 2) then
      addMark s (s.settingN 0x0106 (field data 0 4) + field data 4 2) (field data 8 4) else hostSigRefused s .accessDenied) := by
  show execHostMarkSig data s = _
  cases hc : s.ctx? (field data 0 4) with
  | none => simp [execHostMarkSig, hostMay, hserves, hlink, hlen, hr, hr', hc]
  | some c =>
    by_cases hn : field data 4 2 < s.settingN 0x0107 (field data 0 4)
    · simp [execHostMarkSig, hostMay, ctxMark, hserves, hlink, hlen, hr, hr', hc, hn, apply_ite Host.Outcome.next]
    · simp [execHostMarkSig, hostMay, ctxMark, hserves, hlink, hlen, hr, hr', hc, hn]

end HostSignal

/-! PEER_MARK_SIGNAL and PEER_MARK_ACK (R266, R268). -/

section Peer

variable {s : State} {p fromCtx mark amount tag : Nat}

@[simp] theorem heardOn_settingN (s : State) (p id target : Nat) : (s.heardOn p).settingN id target = s.settingN id target := by
  rw [State.settingN, setting_congr (State.heardOn_ctxs ..) (State.heardOn_cfg ..), State.settingN]

/-- The tests of R268 on a signal of a context of the peer on a port. -/
def peerMay (s : State) (p fromCtx mark : Nat) : Bool :=
  decide (mark < 16384) && (s.mark mark).alloc && (s.mark mark).peerSig
    && s.settingN (0x0140 + (s.port p).peer) (s.mark mark).owner == fromCtx

theorem peerMay_eq_true (hlt : mark < 16384) (ha : (s.mark mark).alloc = true) (hs : (s.mark mark).peerSig = true)
    (hb : s.settingN (0x0140 + (s.port p).peer) (s.mark mark).owner = fromCtx) : peerMay s p fromCtx mark = true := by
  simp [peerMay, hlt, ha, hs, hb]

theorem peerMay_eq_false (h : 16384 ≤ mark ∨ (s.mark mark).alloc = false ∨ (s.mark mark).peerSig = false
    ∨ s.settingN (0x0140 + (s.port p).peer) (s.mark mark).owner ≠ fromCtx) : peerMay s p fromCtx mark = false := by
  obtain h | h | h | h := h <;> simp [peerMay, h]

theorem exec_peerMarkSignal (hp : p < 16) (hc : carries (s.port p) = true) (hu : s.isUp = true) :
    exec (.peerMarkSignal p fromCtx mark amount tag) s = (if peerMay s p fromCtx mark then
      .next ((addMark (s.heardOn p) mark amount).emit (.peerAck p tag false))
    else .next ((s.heardOn p).emit (.peerAck p tag true))) := by
  have hmark : (s.heardOn p).mark mark = s.mark mark := rfl
  show execPeerMarkSignal p fromCtx mark amount tag s = _
  simp only [execPeerMarkSignal, peerMay, hp, hc, hu, hmark, heardOn_settingN, decide_true, Bool.and_self, Bool.not_true,
    Bool.false_eq_true, if_false]
  rfl

/-- The answer that an acknowledgement of a TAG is to the commands that wait for it. -/
def ackAnswer (tag : Nat) (a : Answer) (w : MbWait) : Option Answer :=
  match w with
  | .ack t => if t == tag then some a else none
  | _ => none

theorem bind_ackAnswer (w : Option MbWait) (a : Answer) :
    w.bind (ackAnswer tag a) = if w == some (.ack tag) then some a else none := by
  cases w with
  | none => rfl
  | some w => cases w <;> simp [ackAnswer]

/-- An acknowledgement answers the mailboxes that wait for it, and no other. -/
theorem answerWaits_ack (a : Answer) : answerWaits s (ackAnswer tag a)
    = (s.mbs.filter (fun y => y.2.wait == some (.ack tag))).foldl (fun s y => respond s y.1 a) s := by
  rw [List.foldl_filter]
  unfold answerWaits
  congr 1
  funext t y
  rw [bind_ackAnswer]
  cases y.2.wait == some (MbWait.ack tag) <;> rfl

theorem exec_peerMarkAck {denied : Bool} (h : s.sys.peerSigs.any (fun g => g.tag == tag && g.port == p) = true) :
    exec (.peerMarkAck p tag denied) s = .next (answerWaits
      { s.heardOn p with sys := { s.sys with peerSigs := s.sys.peerSigs.filter (fun g => g.tag != tag) } }
      (ackAnswer tag (if denied then .denied .accessDenied else .ok []))) := by
  show execPeerMarkAck p tag denied s = _
  simp only [execPeerMarkAck, h, Bool.not_true, Bool.false_eq_true, if_false]
  rfl

/-- The response that answers the command of a mailbox (R323, R324). -/
def response (s : State) (m : Nat) (a : Answer) : MbRsp :=
  { opcode := (s.mb m).opcode, status := a.status, fault := a.fault, seq := (s.mb m).seq, detail := a.detail,
    ticks := s.splitCounter 5 0, payload := a.payload }

theorem mb_respond_self (s : State) (m : Nat) (a : Answer) : (respond s m a).mb m
    = { s.mb m with rsp := some (response s m a), busy := false, done := true, wait := none } := by
  unfold respond
  dsimp only
  split
  · unfold State.interrupt
    split <;> exact s.mb_setMb_self ..
  · exact s.mb_setMb_self ..

end Peer

/-- Settles O21: each signal goes where the tests of its rule send it, and a Mark that takes one is raised as `markRaised_addMark`
says. That a host signal with a reserved byte that is not zero is refused with DESC_INVALID is log entry 32's reading of R322. -/
theorem markSignalsFollowOwnership : Obligations.MarkSignalsFollowOwnership := by
  unfold Obligations.MarkSignalsFollowOwnership
  refine ⟨?_, ?_, ?_, ?_, ?_⟩
  · intro s n x hx u
    refine ⟨fun d e y ha hy he => ?_, fun hcur halloc howner => ?_, fun d e y ha hy he hown hf hp hfin => ?_, fun ha hown => ?_⟩
    · have hstale : sigStale u x.agent = some d := by
        rw [ha]
        exact (sigStale_program (s := u) hy).trans (if_neg he)
      exact ⟨_, exec_markSignalArrival_stale hx hstale, countStale_only (s := u) hy⟩
    · have hown : markOwned u x.mark x.ctx = true := by
        show ((s.mark x.mark).alloc && (s.mark x.mark).owner == x.ctx) = true
        simp [halloc, howner]
      exact ⟨_, exec_markSignalArrival_owned hx (sigStale_eq_none (s := u) hcur) hown, markRaised_addMark ..⟩
    · have hcur : sigStale u x.agent = none := by
        rw [ha]
        exact (sigStale_program (s := u) hy).trans (if_pos he)
      exact ⟨_, exec_markSignalArrival_denied hx hcur hown ha hy, onlyDispatch_stop_open (s := u) hy hp hf hfin ..⟩
    · exact exec_markSignalArrival_starter hx hown ha
  · intro s d x sd k th start left hx hw hp hf hdue
    exact ⟨_, exec_markWaitTimeout_due hx hw hp hf hdue, onlyCoreAndDispatch_waitResult hx sd _⟩
  · intro s data hserves hlink hlen ctx k refused
    refine ⟨exec_hostMarkSig_malformed hserves hlink hlen, fun hr hr' hdeny => ?_, fun c hr hr' hc hn ha ho hs => ?_⟩
    · rw [exec_hostMarkSig_wellFormed hserves hlink hlen hr hr', hostMay_eq_false hdeny]
      rfl
    · rw [exec_hostMarkSig_wellFormed hserves hlink hlen hr hr', hostMay_eq_true hc hn ha ho hs]
      exact ⟨_, rfl, markRaised_addMark ..⟩
  · intro s p fromCtx mark amount tag hp hc hu u m
    rw [exec_peerMarkSignal hp hc hu]
    refine ⟨fun hlt ha hs hb => ?_, fun hdeny => ?_⟩
    · rw [peerMay_eq_true hlt ha hs hb]
      exact ⟨_, rfl, markRaised_addMark ..⟩
    · rw [peerMay_eq_false hdeny]
      rfl
  · intro s p tag denied hany u
    rw [exec_peerMarkAck hany, answerWaits_ack]
    refine ⟨fun hnone => ?_, fun m b hone => ?_⟩
    · have hnil : u.mbs.filter (fun y => y.2.wait == some (.ack tag)) = [] := by simpa [u] using hnone
      rw [hnil]
      rfl
    · have hsingle : u.mbs.filter (fun y => y.2.wait == some (.ack tag)) = [(m, b)] := hone
      rw [hsingle]
      refine ⟨_, rfl, rfl, ?_⟩
      rintro rfl
      rw [List.foldl_cons, List.foldl_nil, mb_respond_self]
      refine ⟨rfl, rfl, rfl, _, rfl, rfl, rfl, ?_⟩
      cases denied <;> rfl

end Sys2Proof.Machine

/-! SUPPORT. Messages of the collective units (R256, R257, R265, R269): what sending one comes to, and which messages a unit takes
(R266, R284). -/

namespace Sys2Proof.Machine

/-! What leads to a module depends on the ports alone (R262). -/

theorem lanes_congr {s t : State} (h : t.ports = s.ports) : lanes t = lanes s := by
  funext m
  simp only [lanes, State.port, h]

theorem bundle_congr {s t : State} (h : t.ports = s.ports) : bundle t = bundle s := by
  funext m
  simp only [bundle, State.port, h]

theorem isPeer_congr {s t : State} (h : t.ports = s.ports) : isPeer t = isPeer s := by
  funext m
  simp only [isPeer, bundle_congr h]

theorem portKey_congr {s t : State} (h : t.rsp = s.rsp) : portKey t = portKey s := by
  funext p
  simp only [portKey, h]

theorem settingN_congr {s t : State} (hc : t.ctxs = s.ctxs) (hg : t.cfg = s.cfg) : t.settingN = s.settingN := by
  funext id target
  rw [State.settingN, setting_congr hc hg, State.settingN]

theorem ctxMark_congr {s t : State} (hc : t.ctxs = s.ctxs) (hg : t.cfg = s.cfg) : ctxMark t = ctxMark s := by
  funext ctx n
  rw [ctxMark, settingN_congr hc hg, ctxMark]

/-- A peer has a port that carries its traffic (R253, R262). -/
theorem lanes_ne_nil_of_isPeer {s : State} {m : Nat} (h : isPeer s m = true) : lanes s m ≠ [] := by
  obtain ⟨p, hp⟩ : ∃ p, p ∈ bundle s m := List.exists_mem_of_ne_nil _ (by simpa [isPeer] using h)
  refine List.ne_nil_of_mem (a := p) ?_
  simp only [bundle, lanes, carries, List.mem_filter, Bool.and_eq_true, Bool.or_eq_true] at hp ⊢
  exact ⟨hp.1, .inl hp.2.1, hp.2.2⟩

/-! A message that has been heard (R256, R258) changes the record of its port only, and not where the port leads. -/

theorem heardFrom_shape (s : State) (m : Nat) : ∃ ps, s.heardFrom m = { s with ports := ps } := by
  unfold State.heardFrom
  split <;> exact ⟨_, rfl⟩

/-- A change of one port leaves the record of a port as it is or changes it so. -/
theorem port_modPort_or (s : State) (p q : Nat) (f : Port → Port) :
    (s.modPort p f).port q = s.port q ∨ (s.modPort p f).port q = f (s.port q) := by
  by_cases hq : q = p
  · subst hq
    by_cases hlt : q < s.ports.length
    · exact .inr (port_modPort_self hlt f)
    · have hout : ∀ u : State, u.ports.length = s.ports.length → u.port q = Port.reset := fun u hu => by
        rw [State.port, nth, List.getD_eq_getElem?_getD, List.getElem?_eq_none (by omega), Option.getD_none]
      exact .inl ((hout _ (length_modNth ..)).trans (hout s rfl).symm)
  · exact .inl (port_modPort_other s hq f)

/-- What the change of a port brings about or leaves holds of the record of every port of which it held. -/
theorem port_modPort_of {P : Port → Prop} {s : State} {p q : Nat} {f : Port → Port} (h : P (s.port q))
    (hf : ∀ x, P x → P (f x)) : P ((s.modPort p f).port q) := by
  obtain hport | hport := port_modPort_or s p q f <;> rw [hport]
  · exact h
  · exact hf _ h

/-- What a change of a port leaves of its record, it leaves of the record of every port. -/
theorem port_modPort_keeps {α : Type} (g : Port → α) (s : State) (p q : Nat) {f : Port → Port} (h : ∀ x, g (f x) = g x) :
    g ((s.modPort p f).port q) = g (s.port q) :=
  port_modPort_of (P := fun x => g x = g (s.port q)) rfl fun x hx => (h x).trans hx

/-- A change of a port that leaves its state and its peer leaves what leads to each module. -/
theorem lanes_modPort {s : State} {p : Nat} {f : Port → Port} (hst : ∀ x, (f x).st = x.st) (hpeer : ∀ x, (f x).peer = x.peer) :
    lanes (s.modPort p f) = lanes s := by
  funext m
  simp only [lanes, carries, port_modPort_keeps Port.st s p _ hst, port_modPort_keeps Port.peer s p _ hpeer]

theorem bundle_modPort {s : State} {p : Nat} {f : Port → Port} (hst : ∀ x, (f x).st = x.st) (hpeer : ∀ x, (f x).peer = x.peer) :
    bundle (s.modPort p f) = bundle s := by
  funext m
  simp only [bundle, port_modPort_keeps Port.st s p _ hst, port_modPort_keeps Port.peer s p _ hpeer]

section Heard

variable (s : State) (m : Nat)

@[simp] theorem heardFrom_colls : (s.heardFrom m).colls = s.colls := by obtain ⟨ps, h⟩ := heardFrom_shape s m; rw [h]
@[simp] theorem heardFrom_mem : (s.heardFrom m).mem = s.mem := by obtain ⟨ps, h⟩ := heardFrom_shape s m; rw [h]
@[simp] theorem heardFrom_markNet : (s.heardFrom m).markNet = s.markNet := by obtain ⟨ps, h⟩ := heardFrom_shape s m; rw [h]
@[simp] theorem heardFrom_ctxs : (s.heardFrom m).ctxs = s.ctxs := by obtain ⟨ps, h⟩ := heardFrom_shape s m; rw [h]
@[simp] theorem heardFrom_cfg : (s.heardFrom m).cfg = s.cfg := by obtain ⟨ps, h⟩ := heardFrom_shape s m; rw [h]
@[simp] theorem heardFrom_sys : (s.heardFrom m).sys = s.sys := by obtain ⟨ps, h⟩ := heardFrom_shape s m; rw [h]
@[simp] theorem heardFrom_rsp : (s.heardFrom m).rsp = s.rsp := by obtain ⟨ps, h⟩ := heardFrom_shape s m; rw [h]

@[simp] theorem heardFrom_coll? (c : CRef) : (s.heardFrom m).coll? c = s.coll? c := by
  rw [State.coll?, heardFrom_colls, State.coll?]

@[simp] theorem heardFrom_ctx? (n : Nat) : (s.heardFrom m).ctx? n = s.ctx? n := by
  rw [State.ctx?, heardFrom_ctxs, State.ctx?]

@[simp] theorem heardFrom_settingN (id target : Nat) : (s.heardFrom m).settingN id target = s.settingN id target := by
  rw [State.settingN, setting_congr (heardFrom_ctxs ..) (heardFrom_cfg ..), State.settingN]

@[simp] theorem lanes_heardFrom : lanes (s.heardFrom m) = lanes s := by
  unfold State.heardFrom
  split
  · exact lanes_modPort (fun _ => rfl) (fun _ => rfl)
  · rfl

end Heard

/-! Sending (R256, R257, R265, R269). -/

/-- Only what leaves the module, the retransmit buffer and the free values differ, and what has left stays so. -/
structure OnlySends (s t : State) : Prop where
  eq : t = { s with freeCtr := t.freeCtr, retx := t.retx, sent := t.sent }
  sent : ∀ x ∈ s.sent, x ∈ t.sent

theorem OnlySends.refl (s : State) : OnlySends s s := ⟨rfl, fun _ h => h⟩

theorem OnlySends.trans {s t u : State} (h : OnlySends s t) (g : OnlySends t u) : OnlySends s u := by
  refine ⟨?_, fun x hx => g.sent x (h.sent x hx)⟩
  rw [g.eq, h.eq]

section OnlySends

variable {s t : State} (h : OnlySends s t)
include h

theorem OnlySends.colls : t.colls = s.colls := by rw [h.eq]
theorem OnlySends.mem : t.mem = s.mem := by rw [h.eq]
theorem OnlySends.marks : t.marks = s.marks := by rw [h.eq]
theorem OnlySends.markNet : t.markNet = s.markNet := by rw [h.eq]
theorem OnlySends.ctxs : t.ctxs = s.ctxs := by rw [h.eq]
theorem OnlySends.cfg : t.cfg = s.cfg := by rw [h.eq]
theorem OnlySends.pwr : t.pwr = s.pwr := by rw [h.eq]
theorem OnlySends.ports : t.ports = s.ports := by rw [h.eq]
theorem OnlySends.rsp : t.rsp = s.rsp := by rw [h.eq]
theorem OnlySends.sys : t.sys = s.sys := by rw [h.eq]

end OnlySends

theorem collSend_none {s : State} {m : Nat} (h : lanes s m = []) (msg : Msg) : collSend s m msg = s := by
  simp [collSend, h]

theorem collSend_cons {s : State} {m p : Nat} {l : List Nat} (h : lanes s m = p :: l) (msg : Msg) : collSend s m msg =
    { s with freeCtr := s.freeCtr + 1
             retx := s.retx.filter (fun e => e.1 != p) ++ (s.retx.filter (fun e => e.1 == p)).drop (Config.acked s.freeCtr)
               ++ [(p, msg)]
             sent := .guarded p (portKey s p) msg :: s.sent } := by
  simp only [collSend, h]
  rfl

theorem onlySends_collSend (s : State) (m : Nat) (msg : Msg) : OnlySends s (collSend s m msg) := by
  cases h : lanes s m with
  | nil =>
    rw [collSend_none h]
    exact .refl s
  | cons p l =>
    rw [collSend_cons h]
    exact ⟨rfl, fun _ hx => List.mem_cons_of_mem _ hx⟩

theorem onlySends_tell (s : State) (ms : List Nat) (f : Nat → Msg) : OnlySends s (tell s ms f) :=
  foldl_keeps (OnlySends s) _ (fun t m h => h.trans (onlySends_collSend t m (f m))) ms s (.refl s)

theorem onlySends_sendSetup (s : State) (k : Coll) (m : Nat) : OnlySends s (sendSetup s k m) := onlySends_collSend ..

theorem sentToPeer_collSend (s : State) (m : Nat) (msg : Msg) : SentToPeer s (collSend s m msg) m msg := fun p l h => by
  rw [collSend_cons h]
  exact List.mem_cons_self

/-- What has left for a peer stays so as long as what has been sent does. -/
theorem SentToPeer.mono {s t u : State} {m : Nat} {msg : Msg} (h : SentToPeer s t m msg) (hu : ∀ x ∈ t.sent, x ∈ u.sent) :
    SentToPeer s u m msg :=
  fun p l hp => hu _ (h p l hp)

/-- Where a message goes and under which key depends on what leads to its module and on the sessions. -/
theorem SentToPeer.of_links {s t u : State} {m : Nat} {msg : Msg} (h : SentToPeer t u m msg) (hl : lanes t = lanes s)
    (hr : t.rsp = s.rsp) : SentToPeer s u m msg := by
  intro p l hp
  rw [← portKey_congr hr]
  exact h p l (by rw [hl, hp])

/-- Each of the modules told is sent its message. -/
theorem sentToPeer_tell (s : State) {ms : List Nat} {m : Nat} (hm : m ∈ ms) (f : Nat → Msg) :
    SentToPeer s (tell s ms f) m (f m) :=
  foldl_brings (p := fun t => SentToPeer s t m (f m)) (q := OnlySends s) hm
    (fun t n h => h.mono (onlySends_collSend t n (f n)).sent) (fun t n h => h.trans (onlySends_collSend t n (f n)))
    (fun t h => (sentToPeer_collSend t m (f m)).of_links (lanes_congr h.ports) h.rsp) (.refl s)

/-! The collectives of a module (R271). -/

theorem coll?_ref {s : State} {c : CRef} {k : Coll} (h : s.coll? c = some k) : k.ref = c := by
  simpa using List.find?_some h

theorem coll?_congr {s t : State} (h : t.colls = s.colls) : t.coll? = s.coll? := by
  funext c
  simp only [State.coll?, h]

theorem coll?_setColl (s : State) (e : Coll) (c : CRef) :
    (s.setColl e).coll? c = (s.coll? c).map (fun y => if y.ref == e.ref then e else y) := by
  have hsame : (fun y : Coll => y.ref == c) ∘ (fun y => if y.ref == e.ref then e else y) = fun y => y.ref == c := by
    funext y
    by_cases h : y.ref = e.ref <;> simp [h]
  simp only [State.coll?, State.setColl, List.find?_map, hsame]

theorem coll?_setColl_self {s : State} {e k : Coll} (h : s.coll? e.ref = some k) : (s.setColl e).coll? e.ref = some e := by
  simp [coll?_setColl, h, coll?_ref h]

theorem coll?_setColl_other (s : State) {e : Coll} {c : CRef} (h : c ≠ e.ref) : (s.setColl e).coll? c = s.coll? c := by
  rw [coll?_setColl]
  cases hc : s.coll? c with
  | none => rfl
  | some y => simp [coll?_ref hc, h]

/-- A collective stands as given; no other collective and no memory has changed. -/
structure CollBecomes (s t : State) (c : CRef) (e : Coll) : Prop where
  self : t.coll? c = some e
  others : ∀ y, y ≠ c → t.coll? y = s.coll? y
  mem : t.mem = s.mem

theorem collBecomes_setColl {s t : State} {c : CRef} {e k : Coll} (hk : s.coll? c = some k) (he : e.ref = c)
    (hc : t.colls = s.colls) (hm : t.mem = s.mem) : CollBecomes s (t.setColl e) c e := by
  subst he
  have h := coll?_congr hc
  exact ⟨coll?_setColl_self (by rw [h, hk]), fun y hy => by rw [coll?_setColl_other t hy, h], hm⟩

/-! The messages a unit takes, and those it discards as stale (R266, R284). -/

section Taken

variable {s : State} {c : CMsg} {k : Coll} {fromParent : Bool} {inTime : CMsg → Coll → Bool}

theorem collFor_coll? (h : collFor s c = some k) : s.coll? c.coll = some k := by
  unfold collFor at h
  split at h
  · exact h
  · cases h

theorem CollTaken.coll? (h : CollTaken s c k fromParent inTime) : s.coll? c.coll = some k := collFor_coll? h.1

theorem CollTaken.ref (h : CollTaken s c k fromParent inTime) : k.ref = c.coll := coll?_ref h.coll?

theorem CollTaken.heard (h : CollTaken s c k fromParent inTime) : (s.heardFrom c.fromMod).coll? k.ref = some k := by
  rw [heardFrom_coll?, h.ref, h.coll?]

theorem CollTaken.timely (h : CollTaken s c k fromParent inTime) : inTime c k = true := h.2.2.2

theorem collMsg_ofNeighbour (hc : collFor s c = some k) (hl : lives k = true)
    (hn : if fromParent then cParent k.record = c.fromMod else (maskMods (cChildren k.record)).contains c.fromMod = true)
    (i : Instr) (f : State → Coll → State) : collMsg i s c fromParent inTime f =
      .next (if inTime c k then f (s.heardFrom c.fromMod) k else staleColl (s.heardFrom c.fromMod) k) := by
  have hneighbour : (if fromParent then cParent k.record == c.fromMod else (maskMods (cChildren k.record)).contains c.fromMod)
      = true := by
    cases fromParent
    · exact hn
    · exact beq_iff_eq.2 hn
  simp only [collMsg, hc, hl, hneighbour]
  cases inTime c k <;> rfl

theorem collMsg_taken (h : CollTaken s c k fromParent inTime) (i : Instr) (f : State → Coll → State) :
    collMsg i s c fromParent inTime f = .next (f (s.heardFrom c.fromMod) k) := by
  obtain ⟨hc, hl, hn, ht⟩ := h
  rw [collMsg_ofNeighbour hc hl hn, if_pos ht]

theorem collMsg_stale (hc : collFor s c = some k) (hl : lives k = true)
    (hn : if fromParent then cParent k.record = c.fromMod else (maskMods (cChildren k.record)).contains c.fromMod = true)
    (ht : inTime c k = false) (i : Instr) (f : State → Coll → State) :
    collMsg i s c fromParent inTime f = .next (staleColl (s.heardFrom c.fromMod) k) := by
  rw [collMsg_ofNeighbour hc hl hn, ht]
  rfl

/-- In REST a message of a peer is held at its port (R402). -/
theorem collMsg_held (hu : s.isUp = false) (hl : lanes s c.fromMod ≠ []) (i : Instr) (f : State → Coll → State) :
    collMsg i s c fromParent inTime f = .next (s.holdAtLink i) := by
  simp [collMsg, collFor, hu, hl]

theorem current_iff : current c k = true ↔ c.round = k.round + 1 ∧ c.attempt = k.attempt := by
  simp [current, roundNow]

theorem nextAttempt_iff : nextAttempt c k = true ↔ c.round = k.round + 1 ∧ c.attempt = k.attempt + 1 := by
  simp [nextAttempt, roundNow]

theorem departTime_iff : departTime c k = true ↔ (c.round = k.round + 1 ∧ c.attempt = k.attempt) ∨ c.round = k.round := by
  simp [departTime, current_iff, roundNow]

end Taken

end Sys2Proof.Machine

/-! SUPPORT. Collectives that re-form or end after a departure (R282, R283). -/

namespace Sys2Proof.Machine

/-! Member sets (R283). -/

theorem bit_eq_testBit (w i : Nat) : bit w i = w.testBit i := by
  rw [Bool.eq_iff_iff]
  simp [bit, bits_eq, Nat.testBit_eq_decide_div_mod_eq]

theorem testBit_sub_and (a b i : Nat) : (a - (a &&& b)).testBit i = (a.testBit i && !b.testBit i) := by
  have hle : a &&& b ≤ a := Nat.and_le_left
  have hlow : (a &&& b) % 2 = 1 ↔ a % 2 = 1 ∧ b % 2 = 1 := by simp
  induction i generalizing a b with
  | zero =>
    rw [Bool.eq_iff_iff]
    simp only [Nat.testBit_zero, Bool.and_eq_true, Bool.not_eq_true', decide_eq_true_eq, decide_eq_false_iff_not]
    omega
  | succ i ih =>
    have hhalf : (a - (a &&& b)) / 2 = a / 2 - (a / 2 &&& b / 2) := by
      rw [← Nat.and_div_two]
      omega
    rw [Nat.testBit_succ, hhalf, ih _ _ Nat.and_le_left (by simp), Nat.testBit_succ, Nat.testBit_succ]

/-- A collective whose member set has lost the modules of a mask. -/
def without (k : Coll) (mask : Nat) : Coll := { k with members := k.members - (k.members &&& mask) }

theorem bit_without (k : Coll) (mask m : Nat) : bit (without k mask).members m = (bit k.members m && !bit mask m) := by
  simp only [bit_eq_testBit, without, testBit_sub_and]

/-- A child that is not among those taken out is a child still. -/
theorem mem_kids_without {k : Coll} {mask m : Nat} (h : m ∈ kids k) (hm : bit mask m = false) : m ∈ kids (without k mask) := by
  obtain ⟨hchild, hmember⟩ := List.mem_filter.1 h
  exact List.mem_filter.2 ⟨hchild, by rw [bit_without, hmember, hm]; rfl⟩

/-! The home learns of a departure (R283). -/

section Reform

variable {s : State} {k : Coll} {mask : Nat}

theorem reform_waiting (h : k.st = .reforming) : reform s k mask = s.setColl (without k mask) := by
  exact if_pos (by simp [h])

theorem reform_abandons (h : k.st ≠ .reforming) (ha : k.attempt < 255) : reform s k mask =
    (tell s (kids (without k mask)) (fun m => .collAbandon m k.ref (k.round + 1) k.attempt)).setColl
      { cleared (without k mask) with st := .reforming, since := s.now } := by
  have hgo : (k.st == .reforming) = false := by simpa using h
  have hnow : (tell s (kids (without k mask)) (fun m => .collAbandon m k.ref (k.round + 1) k.attempt)).now = s.now := by
    rw [State.now, (onlySends_tell ..).pwr, State.now]
  have hlast : ¬ k.attempt ≥ 255 := by omega
  rw [← hnow]
  exact (if_neg (by simp [hgo])).trans (if_neg hlast)

end Reform

/-! ABANDON (R283). -/

/-- A collective that has learned that its attempt is abandoned: after attempt 255 it has failed. -/
def abandoned (k : Coll) : Coll :=
  if 255 ≤ k.attempt then { cleared k with st := .failed, fault := some .linkLost } else { cleared k with st := .reforming }

theorem abandoned_ref (k : Coll) : (abandoned k).ref = k.ref := by
  unfold abandoned
  split <;> rfl

/-- The children are told of an abandoned attempt, unless they have been. -/
def tellAbandon (s : State) (k : Coll) : State :=
  if k.st == .reforming then s else tell s (kids k) (fun m => .collAbandon m k.ref (roundNow k) k.attempt)

theorem onlySends_tellAbandon (s : State) (k : Coll) : OnlySends s (tellAbandon s k) := by
  unfold tellAbandon
  split
  · exact .refl s
  · exact onlySends_tell ..

section Messages

variable {s : State} {c : CMsg} {k : Coll}

theorem exec_collDepart (h : CollTaken s c k false departTime) (mask : Nat) : exec (.collDepart c mask) s = .next (
    if atHome k then (if k.members &&& mask = 0 then s.heardFrom c.fromMod else reform (s.heardFrom c.fromMod) k mask)
    else collSend (s.heardFrom c.fromMod) (cParent k.record) (.collDepart (cParent k.record) k.ref c.round c.attempt mask)) := by
  show execCollDepart c mask s = _
  rw [execCollDepart, collMsg_taken h]
  simp only [beq_iff_eq]

theorem exec_collOrphan (h : CollTaken s c k true current) :
    exec (.collOrphan c) s = .next (orphan (s.heardFrom c.fromMod) k) := by
  show execCollOrphan c s = _
  rw [execCollOrphan, collMsg_taken h]

theorem exec_collAbandon (h : CollTaken s c k true current) :
    exec (.collAbandon c) s = .next ((tellAbandon (s.heardFrom c.fromMod) k).setColl (abandoned k)) := by
  show execCollAbandon c s = _
  rw [execCollAbandon, collMsg_taken h, abandoned]
  by_cases ha : 255 ≤ k.attempt
  · exact congrArg _ ((if_pos ha).trans (by rw [if_pos ha]; rfl))
  · exact congrArg _ ((if_neg ha).trans (by rw [if_neg ha]; rfl))

theorem exec_collRestart (h : CollTaken s c k true nextAttempt) (hst : k.st = .reforming) (members : Nat) :
    exec (.collRestart c members) s = .next (restartWith (s.heardFrom c.fromMod) k members (k.attempt + 1)) := by
  show execCollRestart c members s = _
  rw [execCollRestart, collMsg_taken h, (nextAttempt_iff.1 h.timely).2, if_pos (by simp [hst])]

end Messages

/-! RESTART (R283). -/

section Restart

variable {s : State} {k : Coll}

/-- Whether a round is armed depends on the settings and the Marks. -/
theorem armed_congr {t : State} (hc : t.ctxs = s.ctxs) (hg : t.cfg = s.cfg) (hm : t.marks = s.marks) : armed t k = armed s k := by
  have hmark : t.mark = s.mark := funext fun n => by rw [State.mark, hm, State.mark]
  rw [armed, ctxMark_congr hc hg, hmark, armed]

/-- A member whose round is not armed and that has lent no buffers has nothing to move. -/
theorem runColl_idle (ha : armed s k = false) (hl : k.lent = false) : runColl s k = s := by
  unfold runColl
  split
  · rfl
  · simp [begins, ha, hl]

/-- The collective that RESTART has run again, under a new member set. -/
def restarted (k : Coll) (members attempt : Nat) : Coll :=
  { cleared k with st := .running, members := members, attempt := attempt }

/-- After RESTART a child of the new set that is no peer any more departs again. -/
def settleChild (c : CRef) (s : State) (m : Nat) : State :=
  match s.coll? c with
  | some k => if isPeer s m || !lives k then s else childGone s k m
  | none => s

theorem settleChild_peer {m : Nat} (h : isPeer s m = true) (c : CRef) : settleChild c s m = s := by
  unfold settleChild
  split
  · simp [h]
  · rfl

theorem restartWith_eq (s : State) (k : Coll) (members attempt : Nat) : restartWith s k members attempt =
    let e := restarted k members attempt
    (kids e).foldl (settleChild e.ref) (runColl (tell (s.setColl e) (kids e)
      (fun m => .collRestart m k.ref (k.round + 1) attempt members)) e) := rfl

/-- RESTART at a member that is not armed, all of whose children are peers, is told to them and does nothing else. -/
theorem restartWith_unarmed {members attempt : Nat} (ha : armed s k = false)
    (hp : ∀ m ∈ kids (restarted k members attempt), isPeer s m = true) : restartWith s k members attempt =
      tell (s.setColl (restarted k members attempt)) (kids (restarted k members attempt))
        (fun m => .collRestart m k.ref (k.round + 1) attempt members) := by
  have hsent := onlySends_tell (s.setColl (restarted k members attempt)) (kids (restarted k members attempt))
    (fun m => .collRestart m k.ref (k.round + 1) attempt members)
  rw [restartWith_eq]
  dsimp only
  rw [runColl_idle (k := restarted k members attempt) ((armed_congr hsent.ctxs hsent.cfg hsent.marks).trans ha) rfl]
  refine foldl_eq_self fun m hm => settleChild_peer ?_ _
  rw [isPeer_congr hsent.ports]
  exact hp m hm

theorem exec_reformTimeout {c : CRef} (hk : s.coll? c = some k) (hu : s.isUp = true) (hst : k.st = .reforming)
    (hh : atHome k = true) (hdue : k.since + s.settingN 0x0309 0 + 1 ≤ s.now) :
    exec (.reformTimeout c) s = .next (restartWith s k k.members (k.attempt + 1)) := by
  show execReformTimeout c s = _
  simp [execReformTimeout, hk, hu, hst, hh, due_of_le hdue]

end Restart

/-- A neighbour told after a message has been heard is told as where it was heard. -/
theorem sentToPeer_tell_heard {s : State} {c : CMsg} {ms : List Nat} {m : Nat}
    (hm : m ∈ ms) (f : Nat → Msg) : SentToPeer s (tell (s.heardFrom c.fromMod) ms f) m (f m) :=
  (sentToPeer_tell _ hm f).of_links (lanes_heardFrom ..) (heardFrom_rsp ..)

/-- Settles O50: what each message of a departure comes to at the unit that takes it, which collectives it leaves alone, and which
modules are told. That a DEPART of the round committed last is taken whatever its attempt (R283), and that messages leave on the lowest
port that leads to their module, is log entry 50. -/
theorem collectivesReFormAfterADeparture : Obligations.CollectivesReFormAfterADeparture := by
  unfold Obligations.CollectivesReFormAfterADeparture
  refine ⟨?_, fun c k => departTime_iff, ?_, ?_, ?_, ?_, fun c k => nextAttempt_iff, ?_, ?_, ?_⟩
  · intro s c k mask h
    rw [exec_collDepart h]
    exact ⟨fun hh hm => by rw [if_pos hh, if_neg hm], fun hh hm => by rw [if_pos hh, if_pos hm],
      fun hh => by rw [if_neg (by simp [hh])]⟩
  · intro s k mask hk ha
    by_cases hst : k.st = .reforming
    · rw [reform_waiting hst]
      have hb := collBecomes_setColl (e := without k mask) hk rfl rfl rfl
      exact ⟨_, hb.self, hst, bit_without k mask, rfl, rfl, fun h => absurd hst h, hb.others, hb.mem, fun h => absurd hst h⟩
    · rw [reform_abandons hst ha]
      have hsent := onlySends_tell s (kids (without k mask)) (fun m => .collAbandon m k.ref (k.round + 1) k.attempt)
      have hb := collBecomes_setColl (e := { cleared (without k mask) with st := .reforming, since := s.now }) hk rfl
        hsent.colls hsent.mem
      exact ⟨_, hb.self, rfl, bit_without k mask, rfl, rfl, fun _ => ⟨rfl, rfl, rfl⟩, hb.others, hb.mem,
        fun _ m hm hmask => sentToPeer_tell s (mem_kids_without hm hmask) (fun m => .collAbandon m k.ref (k.round + 1) k.attempt)⟩
  · intro s c k h
    have hsent := onlySends_tell (s.heardFrom c.fromMod) (kids k) (fun m => .collOrphan m k.ref (k.round + 1) k.attempt)
    have hb := collBecomes_setColl (e := { cleared k with st := .orphaned, fault := some .linkLost }) h.coll? h.ref
      (hsent.colls.trans (heardFrom_colls ..)) (hsent.mem.trans (heardFrom_mem ..))
    exact ⟨_, exec_collOrphan h, hb.self, hb.others, hb.mem,
      fun m hm => sentToPeer_tell_heard hm (fun m => .collOrphan m k.ref (k.round + 1) k.attempt)⟩
  · intro s c k h
    have hsent := onlySends_tellAbandon (s.heardFrom c.fromMod) k
    have hb := collBecomes_setColl (e := abandoned k) h.coll? ((abandoned_ref k).trans h.ref)
      (hsent.colls.trans (heardFrom_colls ..)) (hsent.mem.trans (heardFrom_mem ..))
    refine ⟨_, exec_collAbandon h, hb.self, hb.others, hb.mem, fun hst m hm => ?_⟩
    rw [tellAbandon, if_neg (by simpa using hst)]
    exact sentToPeer_tell_heard hm (fun m => .collAbandon m k.ref (k.round + 1) k.attempt)
  · intro s c k members h hst
    exact exec_collRestart h hst members
  · intro s c k hk hu hst hh hdue
    exact exec_reformTimeout hk hu hst hh hdue
  · intro s k members attempt hk ha hp
    have hsent := onlySends_tell (s.setColl (restarted k members attempt)) (kids (restarted k members attempt))
      (fun m => .collRestart m k.ref (k.round + 1) attempt members)
    have hb := collBecomes_setColl (e := restarted k members attempt) hk rfl rfl rfl
    have hcoll := coll?_congr hsent.colls
    rw [restartWith_unarmed ha hp]
    exact ⟨_, rfl, hcoll ▸ hb.self, fun y hy => hcoll ▸ hb.others y hy, hsent.mem, fun m hm =>
      (sentToPeer_tell _ hm (fun m => .collRestart m k.ref (k.round + 1) attempt members)).of_links rfl rfl⟩
  · intro s m msg
    refine ⟨fun h => collSend_none h msg, fun p l h => ⟨_, collSend_cons h msg, rfl, ?_, fun e he => ?_⟩⟩
    · exact List.mem_append_right _ (List.mem_singleton_self _)
    · rcases List.mem_append.1 he with he | he
      · rcases List.mem_append.1 he with he | he
        · exact .inr (List.mem_filter.1 he).1
        · exact .inr (List.mem_filter.1 (List.mem_of_mem_drop he)).1
      · exact .inl (List.mem_singleton.1 he)

end Sys2Proof.Machine

/-! SUPPORT. Collectives from creation to commit (R265, R271 to R275, R279, R280, R284, R330). -/

namespace Sys2Proof.Machine

/-! Creation and destruction (R272, R273, R330). -/

/-- The collective as set-up leaves it once the neighbours are looked at: IDLE with all of them peers that have answered. -/
def settled (s : State) (k : Coll) : Coll :=
  if k.st == .setup && (neighbours k.record).all (fun m => isPeer s m && (assoc m k.answered).isSome)
  then { k with st := .idle, attempt := 1 } else k

theorem settleSetup_eq (s : State) (k : Coll) : settleSetup s k = s.setColl (settled s k) := by
  unfold settleSetup settled
  split <;> rfl

/-- Set-up changes a collective in its state and attempt alone. -/
theorem settled_eq (s : State) (k : Coll) : settled s k = { k with st := (settled s k).st, attempt := (settled s k).attempt } := by
  unfold settled
  split <;> rfl

theorem settled_ref (s : State) (k : Coll) : (settled s k).ref = k.ref := by rw [settled_eq]

theorem settled_st (s : State) {k : Coll} (h : k.st = .setup) : (settled s k).st = .setup ∨ (settled s k).st = .idle := by
  unfold settled
  split
  · exact .inr rfl
  · exact .inl h

/-- A collective that no neighbour has answered is set up only where it has none. -/
theorem settled_st_unanswered (s : State) {k : Coll} (h : k.st = .setup) (ha : k.answered = []) :
    (settled s k).st = .setup ∨ ((settled s k).st = .idle ∧ neighbours k.record = []) := by
  unfold settled
  split
  next hall =>
    refine .inr ⟨rfl, ?_⟩
    cases hn : neighbours k.record with
    | nil => rfl
    | cons m l => simp [hn, ha, assoc] at hall
  next => exact .inl h

/-- The collective that a record makes, before any neighbour has been heard of. -/
def newColl (ctx : Nat) (r : Bytes) : Coll :=
  { ref := ⟨ctx, field r 0 4⟩, record := r, st := .setup, fault := none, attempt := 0, round := 0, members := cMembers r
    answered := [], chunks := [], doneChunks := [], sentDown := [], credits := [], acks := [], poisoned := false, lent := false
    since := 0 }

/-- The neighbours of a collective are sent its set-up. -/
def sendSetups (s : State) (k : Coll) : State := (neighbours k.record).foldl (fun s m => sendSetup s k m) s

theorem onlySends_sendSetups (s : State) (k : Coll) : OnlySends s (sendSetups s k) :=
  foldl_keeps (OnlySends s) _ (fun t m h => h.trans (onlySends_sendSetup t k m)) _ s (.refl s)

/-- A record that creation accepts names a collective that is not there yet. -/
theorem coll?_of_collFault {s : State} {c : Ctx} {r : Bytes} (h : collFault s c r = none) :
    s.coll? ⟨c.num, field r 0 4⟩ = none := by
  unfold collFault at h
  dsimp only at h
  split_ifs at h with _ _ _ _ _ _ hlast
  simp only [Bool.or_eq_true, not_or, List.any_eq_true, not_exists, not_and] at hlast
  exact List.find?_eq_none.2 fun k hk => hlast.2 k hk

/-- The checks of creation look at the membership, the mappings and the collectives. -/
theorem collFault_taken (s : State) (op m : Nat) (q : MbReq) (c : Ctx) (r : Bytes) :
    collFault (taken s op m q) c r = collFault s c r := by
  obtain ⟨b, p, h, _⟩ := taken_shape s op m q
  rw [h]
  rfl

theorem collCreate_ok {s : State} {r : MbReq} {c : Ctx} (hc : s.ctx? r.ctx = some c) (hf : collFault s c r.payload = none) :
    ∃ u, OnlySends { s with colls := s.colls ++ [newColl r.ctx r.payload] } u
      ∧ collCreate r s = reply (u.setColl (settled u (newColl r.ctx r.payload))) (.ok []) := by
  refine ⟨_, onlySends_sendSetups _ (newColl r.ctx r.payload), ?_⟩
  simp only [collCreate, hc, hf]
  rw [← settleSetup_eq]
  rfl

theorem coll?_append (s : State) (k : Coll) (y : CRef) :
    ({ s with colls := s.colls ++ [k] } : State).coll? y = (s.coll? y).or (if k.ref = y then some k else none) := by
  simp only [State.coll?, List.find?_append, List.find?_singleton, beq_iff_eq]

/-- A removed collective is gone, with what only it kept mapped; its neighbours may have been told (R272, R282, R330). -/
theorem removeColl_eq (s : State) (k : Coll) :
    ∃ u, OnlySends s u ∧ removeColl s k = dropKept { u with colls := u.colls.filter (fun y => y.ref != k.ref) } := by
  unfold removeColl
  dsimp only
  split
  · exact ⟨s, .refl s, rfl⟩
  · split
    · exact ⟨_, onlySends_tell .., rfl⟩
    · exact ⟨_, (onlySends_tell ..).trans (onlySends_collSend ..), rfl⟩

theorem coll?_removeColl_self (s : State) (k : Coll) : (removeColl s k).coll? k.ref = none := by
  obtain ⟨u, _, h⟩ := removeColl_eq s k
  rw [h]
  exact List.find?_eq_none.2 fun y hy => by simpa using (List.mem_filter.1 hy).2

theorem coll?_removeColl_other (s : State) {k : Coll} {y : CRef} (hy : y ≠ k.ref) : (removeColl s k).coll? y = s.coll? y := by
  obtain ⟨u, hu, h⟩ := removeColl_eq s k
  rw [h, ← coll?_congr hu.colls]
  refine (List.find?_filter ..).trans (congrArg (fun p => List.find? p u.colls) (funext fun z => ?_))
  by_cases hz : z.ref = y <;> simp [hz, hy]

/-- Of the memories, removal changes the map of the Infield Stores, and in it only what is kept for collectives. -/
theorem mem_removeColl (s : State) (k : Coll) : (removeColl s k).mem = { s.mem with ifMap := (removeColl s k).mem.ifMap }
    ∧ ∀ e, e ∈ s.mem.ifMap → e.owner ≠ some collOwner → e ∈ (removeColl s k).mem.ifMap := by
  obtain ⟨u, hu, h⟩ := removeColl_eq s k
  rw [h, ← hu.mem]
  exact ⟨rfl, fun e he ho => List.mem_filter.2 ⟨he, by simp [ho]⟩⟩

/-! SETUP (R273). -/

/-- A SETUP that agrees is noted: what its sender says lies below it. -/
theorem setupFrom_agrees {s : State} {c : CMsg} {parent children : Nat} (below : Nat) {k : Coll} (hk : s.coll? c.coll = some k)
    (hst : k.st = .setup) (hn : (neighbours k.record).contains c.fromMod = true)
    (hctx : s.settingN (0x0140 + c.fromMod) c.coll.ctx = c.fromCtx)
    (hp : parent = s.sys.modNum ↔ bit (cChildren k.record) c.fromMod = true)
    (hc : bit children s.sys.modNum = true ↔ cParent k.record = c.fromMod) :
    ∃ u, OnlySends s u ∧ setupFrom s c (setupHash k.record) parent children below
      = settleSetup u { k with answered := assocSet c.fromMod below k.answered } := by
  have hparent : (parent == s.sys.modNum) = bit (cChildren k.record) c.fromMod := by
    rw [Bool.eq_iff_iff, beq_iff_eq, hp]
  have hchild : bit children s.sys.modNum = (cParent k.record == c.fromMod) := by
    rw [Bool.eq_iff_iff, beq_iff_eq, hc]
  simp only [setupFrom, hk, hst, hn, hctx, hparent, hchild, bne_self_eq_false, Bool.true_or, Bool.not_true, Bool.or_self,
    Bool.false_eq_true, if_false]
  refine ⟨_, ?_, rfl⟩
  split <;> split
  · exact (onlySends_sendSetup ..).trans (onlySends_sendSetup ..)
  · exact onlySends_sendSetup ..
  · exact onlySends_sendSetup ..
  · exact .refl s

theorem exec_collSetup {s : State} {c : CMsg} {hash : Bytes} {parent children below : Nat} (hu : s.isUp = true)
    (hl : lanes s c.fromMod ≠ []) (hm : c.fromMod < 64) : exec (.collSetup c hash parent children below) s
      = .next (setupFrom (s.heardFrom c.fromMod) c hash parent children below) := by
  show execCollSetup c hash parent children below s = _
  simp [execCollSetup, hu, hl, hm]

theorem exec_collSetup_held {s : State} {c : CMsg} {hash : Bytes} {parent children below : Nat} (hu : s.isUp = false)
    (hl : lanes s c.fromMod ≠ []) (hm : c.fromMod < 64) : exec (.collSetup c hash parent children below) s
      = .next (s.holdAtLink (.collSetup c hash parent children below)) := by
  show execCollSetup c hash parent children below s = _
  simp [execCollSetup, hu, hl, hm]

/-! COMMIT (R274). -/

/-- DONE_MARK is signalled on the Mark network. -/
theorem collDone_shape (s : State) (k : Coll) : ∃ l, collDone s k = { s with markNet := l }
    ∧ ∀ n, ctxMark s k.ref.ctx (field k.record 58 2) = some n → l = s.markNet ++ [⟨n, 1, k.ref.ctx, .starter⟩] := by
  unfold collDone
  split
  next n hn => exact ⟨_, rfl, fun j hj => by rw [hn] at hj; cases hj; rfl⟩
  next hn => exact ⟨_, rfl, fun j hj => by rw [hn] at hj; cases hj⟩

theorem exec_collCommit {s : State} {c : CMsg} {k : Coll} (h : CollTaken s c k true current)
    (hst : k.st = .running ∨ k.st = .reforming) : exec (.collCommit c) s = .next (endRound (s.heardFrom c.fromMod) k) := by
  show execCollCommit c s = _
  rw [execCollCommit, collMsg_taken h, if_pos (by simpa using hst)]

/-! Chunks, credits and acknowledgements (R274, R275). -/

/-- Where a range of a pad lies depends on the memories alone (R172). -/
theorem padSpans_congr {s t : State} (h : t.mem = s.mem) (core ctx : Nat) (d : Option DRef) (sp mode fuel a n : Nat) :
    padSpans t core ctx d sp mode fuel a n = padSpans s core ctx d sp mode fuel a n := by
  induction fuel generalizing a n with
  | zero => rfl
  | succ fuel ih =>
    rw [padSpans, padSpans]
    simp only [csAddr, infAddr, h, ih]

section Chunks

variable {s : State} {c : CMsg} {k : Coll}

/-- The collective with a chunk of a neighbour kept. -/
def withChunk (k : Coll) (m i : Nat) (ws : List Nat) (marked : Bool) : Coll :=
  { k with chunks := k.chunks ++ [⟨m, i, ws, marked⟩] }

/-- The words of a MULTICAST's chunk as they are written to DST (R276). -/
def landed (k : Coll) (ws : List Nat) : List Nat :=
  if cPlain k.record && cDstE k.record == 4 then ws.map (fun w => (bfToF32 w).1) else ws

/-- The state in which a member of a MULTICAST has written a chunk, and has acknowledged the round to its parent with the last. -/
def chunkLanded (s : State) (k : Coll) (i : Nat) (ws : List Nat) (marked : Bool) : State :=
  let t := landChunk s k i (landed k ws) marked
  if (insertNat i k.doneChunks).length == chunkCount k.record then
    collSend t (cParent k.record) (.collAck (cParent k.record) k.ref (k.round + 1) k.attempt s.sys.modNum)
  else t

/-- A chunk that fits the round and is not there yet is kept and worked off. -/
theorem chunkIn_fits {x : Ctx} {m i : Nat} {ws : List Nat} (marked : Bool) (hst : k.st = .running) (hlent : k.lent = true)
    (hx : s.ctx? k.ref.ctx = some x) (hi : i < chunkCount k.record) (hlen : ws.length = chunkLen k.record i)
    (hdone : i ∉ k.doneChunks) (hnew : ∀ y, y ∈ k.chunks → y.from_ = m → y.index ≠ i) :
    chunkIn s k m i ws marked = if cMulti k.record then
        pump (chunkLanded s k i ws marked) x { withChunk k m i ws marked with doneChunks := insertNat i k.doneChunks }
      else pump s x (withChunk k m i ws marked) := by
  have hfits : (k.st != .running || !k.lent || decide (i ≥ chunkCount k.record) || ws.length != chunkLen k.record i) = false := by
    simp [hst, hlent, hi, hlen]
  have hfresh : (k.doneChunks.contains i || k.chunks.any (fun y => y.from_ == m && y.index == i)) = false := by
    simpa [hdone] using hnew
  simp only [chunkIn, hx, hfits, hfresh]
  cases cMulti k.record <;> rfl

/-- A REDUCE takes chunks from its children, a MULTICAST from its parent. -/
theorem exec_collChunk (hk : s.coll? c.coll = some k) (i : Nat) (ws : List Nat) (marked : Bool) :
    exec (.collChunk c i ws marked) s = collMsg (.collChunk c i ws marked) s c (cMulti k.record) inAttempt
      (fun s k => chunkIn s k c.fromMod i ws marked) := by
  show execCollChunk c i ws marked s = _
  rw [execCollChunk]
  simp only [hk]

theorem exec_collChunk_taken (h : CollTaken s c k (cMulti k.record) inAttempt) (i : Nat) (ws : List Nat) (marked : Bool) :
    exec (.collChunk c i ws marked) s = .next (chunkIn (s.heardFrom c.fromMod) k c.fromMod i ws marked) := by
  rw [exec_collChunk h.coll?, collMsg_taken h]

/-- The collective with more buffers lent by a neighbour. -/
def withCredit (k : Coll) (m n : Nat) : Coll :=
  { k with credits := assocSet m ((assoc m k.credits).getD 0 + n) k.credits }

/-- A REDUCE takes credits from its parent, a MULTICAST from its children. -/
theorem exec_collChunkCredit (hk : s.coll? c.coll = some k) (n : Nat) :
    exec (.collChunkCredit c n) s = collMsg (.collChunkCredit c n) s c (!cMulti k.record) inAttempt
      (fun s k => runColl (s.setColl (withCredit k c.fromMod n)) (withCredit k c.fromMod n)) := by
  show execCollChunkCredit c n s = _
  rw [execCollChunkCredit]
  simp only [hk]
  rfl

theorem exec_collChunkAck_taken (h : CollTaken s c k false inAttempt) (member : Nat) : exec (.collChunkAck c member) s = .next (
    if atHome k then runColl ((s.heardFrom c.fromMod).setColl { k with acks := insertNat member k.acks })
      { k with acks := insertNat member k.acks }
    else collSend (s.heardFrom c.fromMod) (cParent k.record)
      (.collAck (cParent k.record) k.ref (k.round + 1) k.attempt member)) := by
  show execCollChunkAck c member s = _
  rw [execCollChunkAck, collMsg_taken h]
  rfl

/-- What a chunk writes does not depend on the records of the ports. -/
theorem mem_landChunk_heardFrom (m i : Nat) (ws : List Nat) (marked : Bool) :
    (landChunk (s.heardFrom m) k i ws marked).mem = (landChunk s k i ws marked).mem := by
  simp only [landChunk, State.writeSpans, State.ways, collSpans, padSpans_congr (heardFrom_mem s m), heardFrom_mem,
    heardFrom_settingN]

/-- Writing a chunk of a MULTICAST changes the memories, and with the last one sends the acknowledgement. -/
theorem chunkLanded_spec (s : State) (k : Coll) (i : Nat) (ws : List Nat) (marked : Bool) :
    (chunkLanded s k i ws marked).mem = (landChunk s k i (landed k ws) marked).mem
      ∧ (chunkLanded s k i ws marked).colls = s.colls
      ∧ ((insertNat i k.doneChunks).length = chunkCount k.record → SentToPeer s (chunkLanded s k i ws marked) (cParent k.record)
          (.collAck (cParent k.record) k.ref (k.round + 1) k.attempt s.sys.modNum)) := by
  unfold chunkLanded
  dsimp only
  split
  next hlast =>
    have hsent := onlySends_collSend (landChunk s k i (landed k ws) marked) (cParent k.record)
      (.collAck (cParent k.record) k.ref (k.round + 1) k.attempt s.sys.modNum)
    exact ⟨hsent.mem, hsent.colls, fun _ => SentToPeer.of_links (sentToPeer_collSend _ _ _) rfl rfl⟩
  next hmore => exact ⟨rfl, rfl, fun hlast => absurd (beq_iff_eq.2 hlast) hmore⟩

end Chunks

/-! EXACT sums (R275). -/

theorem storeM_loadM {q u : Nat} (hq : WordPrime q) (hu : u < 2 ^ 32) : storeM q (loadM q u) = u % q := by
  rw [loadM_eq hq hu]
  exact storeM_eq hq (hq.lazy_lt (redc_r2_lt hq hu)) (redc_r2_modEq hq u)

/-- Canonical residues added one after another keep the residue of the sum. -/
theorem foldl_add_storeM_modEq {q : Nat} (hq : WordPrime q) {bs : List Nat} (hb : ∀ b ∈ bs, b < 2 ^ 32) (x : Nat) :
    bs.foldl (fun x b => x + storeM q (loadM q b)) x ≡ x + bs.sum [MOD q] := by
  induction bs generalizing x with
  | nil => exact .refl _
  | cons b bs ih =>
    rw [List.foldl_cons, List.sum_cons, ← Nat.add_assoc]
    refine (ih (fun y hy => hb y (List.mem_cons_of_mem _ hy)) _).trans (.add_right _ (.add_left _ ?_))
    rw [storeM_loadM hq (hb b List.mem_cons_self)]
    exact Nat.mod_modEq b q

theorem addWords_exact {c : Ctx} {r : Bytes} {j a : Nat} {bs : List Nat} (hr : cPlain r = false) (hq : WordPrime (elemPrime c r j))
    (ha : a < 2 ^ 32) (hb : ∀ b ∈ bs, b < 2 ^ 32) : addWords c r j a bs = (a + bs.sum) % elemPrime c r j := by
  simp only [addWords, hr, storeM_loadM hq ha]
  exact (foldl_add_storeM_modEq hq hb _).trans (.add_right _ (Nat.mod_modEq a _))

end Sys2Proof.Machine

/-! SUPPORT. What creation leaves, and which messages of a collective are stale (R272, R273, R283, R284). -/

namespace Sys2Proof.Machine

/-- What creation leaves: the new collective beside those there were, its set-up on the way to the neighbours. -/
theorem collCreate_adds {s : State} {r : MbReq} {c : Ctx} (hc : s.ctx? r.ctx = some c) (hf : collFault s c r.payload = none) :
    ∃ u k, collCreate r s = reply u (.ok [])
      ∧ u = { s with colls := u.colls, sent := u.sent, retx := u.retx, freeCtr := u.freeCtr }
      ∧ u.coll? ⟨r.ctx, field r.payload 0 4⟩ = some k ∧ k.record = r.payload
      ∧ (k.st = .setup ∨ (k.st = .idle ∧ neighbours r.payload = [])) ∧ k.round = 0 ∧ k.members = cMembers r.payload
      ∧ ∀ e, e ≠ ⟨r.ctx, field r.payload 0 4⟩ → u.coll? e = s.coll? e := by
  obtain ⟨u, hu, hrun⟩ := collCreate_ok hc hf
  have hfree := coll?_of_collFault hf
  rw [ctx?_num hc] at hfree
  have hcoll := coll?_congr hu.colls
  have hself : u.coll? ⟨r.ctx, field r.payload 0 4⟩ = some (newColl r.ctx r.payload) := by
    rw [hcoll, coll?_append, hfree]
    simp [newColl]
  have hb := collBecomes_setColl (e := settled u (newColl r.ctx r.payload)) hself (settled_ref ..) rfl rfl
  refine ⟨_, _, hrun, ?_, hb.self, ?_, settled_st_unanswered u rfl rfl, ?_, ?_, fun e he => ?_⟩
  · rw [State.setColl, hu.eq]
  · rw [settled_eq]; rfl
  · rw [settled_eq]; rfl
  · rw [settled_eq]; rfl
  · rw [hb.others e he, hcoll, coll?_append, if_neg (fun h => he h.symm), Option.or_none]

/-- Messages of another round or attempt, and those of an abandoned attempt, are stale (R284). -/
theorem inAttempt_eq_false {c : CMsg} {k : Coll} (h : current c k = false ∨ k.st = .reforming) : inAttempt c k = false := by
  obtain h | h := h <;> simp [inAttempt, h]

section Stale

variable {s : State} {c : CMsg} {k : Coll}

/-- What the parent sends is stale: a COMMIT, an ORPHAN or an ABANDON of another attempt, a RESTART that is not of the next, a
chunk or a credit of an attempt that is not in progress (R284). -/
theorem exec_fromParent_stale (hc : collFor s c = some k) (hl : lives k = true) (hp : cParent k.record = c.fromMod) :
    let u := staleColl (s.heardFrom c.fromMod) k
    (current c k = false →
        exec (.collCommit c) s = .next u ∧ exec (.collOrphan c) s = .next u ∧ exec (.collAbandon c) s = .next u)
      ∧ (nextAttempt c k = false → ∀ members, exec (.collRestart c members) s = .next u)
      ∧ (inAttempt c k = false → (cMulti k.record = true → ∀ i ws marked, exec (.collChunk c i ws marked) s = .next u)
        ∧ (cMulti k.record = false → ∀ n, exec (.collChunkCredit c n) s = .next u)) := by
  have hstale {inTime : CMsg → Coll → Bool} (ht : inTime c k = false) (i : Instr) (f : State → Coll → State) :
      collMsg i s c true inTime f = .next (staleColl (s.heardFrom c.fromMod) k) := collMsg_stale (fromParent := true) hc hl hp ht i f
  have hk := collFor_coll? hc
  refine ⟨fun h => ⟨?_, ?_, ?_⟩, fun h members => ?_, fun h => ⟨fun hm i ws marked => ?_, fun hm n => ?_⟩⟩
  · show execCollCommit c s = _
    exact hstale h _ _
  · show execCollOrphan c s = _
    exact hstale h _ _
  · show execCollAbandon c s = _
    exact hstale h _ _
  · show execCollRestart c members s = _
    exact hstale h _ _
  · rw [exec_collChunk hk, hm, hstale h]
  · rw [exec_collChunkCredit hk, hm, Bool.not_false, hstale h]

/-- What a child sends is stale: a DEPART of neither the attempt in progress nor the round before, an acknowledgement, a chunk or a
credit of an attempt that is not in progress (R283, R284). -/
theorem exec_fromChild_stale (hc : collFor s c = some k) (hl : lives k = true)
    (hm : (maskMods (cChildren k.record)).contains c.fromMod = true) :
    let u := staleColl (s.heardFrom c.fromMod) k
    (departTime c k = false → ∀ mask, exec (.collDepart c mask) s = .next u)
      ∧ (inAttempt c k = false → (∀ n, exec (.collChunkAck c n) s = .next u)
        ∧ (cMulti k.record = false → ∀ i ws marked, exec (.collChunk c i ws marked) s = .next u)
        ∧ (cMulti k.record = true → ∀ n, exec (.collChunkCredit c n) s = .next u)) := by
  have hstale {inTime : CMsg → Coll → Bool} (ht : inTime c k = false) (i : Instr) (f : State → Coll → State) :
      collMsg i s c false inTime f = .next (staleColl (s.heardFrom c.fromMod) k) := collMsg_stale (fromParent := false) hc hl hm ht i f
  have hk := collFor_coll? hc
  refine ⟨fun h mask => ?_, fun h => ⟨fun n => ?_, fun hr i ws marked => ?_, fun hr n => ?_⟩⟩
  · show execCollDepart c mask s = _
    exact hstale h _ _
  · show execCollChunkAck c n s = _
    exact hstale h _ _
  · rw [exec_collChunk hk, hr, hstale h]
  · rw [exec_collChunkCredit hk, hr, Bool.not_true, hstale h]

end Stale

/-- Settles O49: a command acts on the request taken, a message on the state in which it has been heard, and each leaves the other
collectives. That COMMIT is taken by a member in REFORMING too, and that messages leave on the lowest port that leads to their module,
is log entry 50. -/
theorem collectivesAreCreatedSetUpAndCommitted : Obligations.CollectivesAreCreatedSetUpAndCommitted := by
  unfold Obligations.CollectivesAreCreatedSetUpAndCommitted
  refine ⟨?_, ?_, ?_, ?_, ?_, ?_, ?_, fun c k => current_iff, ?_, ?_⟩
  · intro s m r c hC hc hf
    obtain ⟨u, k, hrun, hu, hself, hrec, hst, hround, hmembers, hothers⟩ := collCreate_adds (s := taken s 0x38 m r)
      ((taken_ctx? ..).trans hc) ((collFault_taken ..).trans hf)
    have hcolls := coll?_congr (taken_colls s 0x38 m r)
    exact ⟨u, k, mbCommand_carried hC hrun, hu, hself, hrec, hst, hround, hmembers, fun e he => by rw [hothers e he, hcolls]⟩
  · intro s m r k hk
    refine ⟨fun hC => ?_, fun hC => ?_⟩
    · have hk' : (taken s 0x3A m r).coll? ⟨r.ctx, field r.payload 0 4⟩ = some k := by rw [coll?_congr (taken_colls ..), hk]
      exact mbCommand_carried hC (by rw [collStatus, hk'])
    · have hcolls := coll?_congr (taken_colls s 0x39 m r)
      have hrun : collDestroy r (taken s 0x39 m r) = reply (removeColl (taken s 0x39 m r) k) (.ok []) := by
        rw [collDestroy, hcolls, hk]
      obtain ⟨hmem, hkept⟩ := mem_removeColl (taken s 0x39 m r) k
      rw [taken_mem] at hmem hkept
      rw [← coll?_ref hk]
      exact ⟨_, mbCommand_carried hC hrun, coll?_removeColl_self .., fun e he => by rw [coll?_removeColl_other _ he, hcolls],
        hmem, hkept⟩
  · intro s c hash parent children below k hup hpeer hm hk hst hn hctx hhash hp hch
    obtain ⟨u, hu, hrun⟩ := setupFrom_agrees (s := s.heardFrom c.fromMod) below ((heardFrom_coll? ..).trans hk) hst hn
      ((heardFrom_settingN ..).trans hctx) (by rwa [heardFrom_sys]) (by rwa [heardFrom_sys])
    rw [settleSetup_eq] at hrun
    have hb := collBecomes_setColl (e := settled u { k with answered := assocSet c.fromMod below k.answered }) hk
      ((settled_ref ..).trans (coll?_ref (k := k) hk)) (hu.colls.trans (heardFrom_colls ..)) (hu.mem.trans (heardFrom_mem ..))
    rw [exec_collSetup hup (lanes_ne_nil_of_isPeer hpeer) hm, hhash, hrun]
    refine ⟨_, _, rfl, ?_, hb.self, ?_, settled_st u hst, hb.others⟩
    · rw [State.setColl, hu.eq]
    · rw [settled_eq]
      exact assoc_assocSet_self ..
  · intro s c k h hst
    have hheard := heardFrom_coll? s c.fromMod
    obtain ⟨l, hl, hmark⟩ := collDone_shape (s.heardFrom c.fromMod) k
    have hsent := onlySends_tell (collDone (s.heardFrom c.fromMod) k) (kids k) (fun m => .collCommit m k.ref (k.round + 1) k.attempt)
    have hb := collBecomes_setColl (e := { cleared k with st := .idle, round := k.round + 1, attempt := 1 }) h.coll? h.ref
      (hsent.colls.trans (hl ▸ heardFrom_colls ..)) (hsent.mem.trans (hl ▸ heardFrom_mem ..))
    refine ⟨_, exec_collCommit h hst, hb.self, hb.others, hb.mem, fun n hn => ?_, fun m hm => ?_⟩
    · rw [← ctxMark_congr (heardFrom_ctxs s c.fromMod) (heardFrom_cfg ..)] at hn
      rw [← heardFrom_markNet s c.fromMod, ← hmark n hn]
      exact hsent.markNet.trans (by rw [hl])
    · refine (sentToPeer_tell _ hm (fun m => .collCommit m k.ref (k.round + 1) k.attempt)).of_links ?_ ?_
      · rw [hl]
        exact lanes_heardFrom ..
      · rw [hl]
        exact heardFrom_rsp ..
  · intro s c k i ws marked x h hst hlent hx hi hlen hdone hnew e
    have hin := chunkIn_fits (s := s.heardFrom c.fromMod) marked hst hlent ((heardFrom_ctx? ..).trans hx) hi hlen hdone hnew
    rw [exec_collChunk_taken h, hin]
    refine ⟨fun hm => by rw [if_neg (by simp [hm])]; rfl, fun hm => ?_⟩
    obtain ⟨hmem, hcolls, hack⟩ := chunkLanded_spec (s.heardFrom c.fromMod) k i ws marked
    rw [if_pos hm]
    refine ⟨_, rfl, hmem.trans (mem_landChunk_heardFrom ..), hcolls.trans (heardFrom_colls ..), fun hall => ?_⟩
    rw [← heardFrom_sys s c.fromMod]
    exact (hack hall).of_links (lanes_heardFrom ..) (heardFrom_rsp ..)
  · intro s c k n member
    refine ⟨fun h => ⟨withCredit k c.fromMod n, ?_, rfl, assoc_assocSet_self .., fun y hy => assoc_assocSet_other hy ..⟩,
      fun h => ?_⟩
    · rw [exec_collChunkCredit h.coll?, collMsg_taken h]
    · rw [exec_collChunkAck_taken h]
      exact ⟨fun hh => by rw [if_pos hh], fun hh => by rw [if_neg (by simp [hh])]⟩
  · intro s c k i n mask ws marked hc hl u
    refine ⟨fun hp => ?_, fun hm => ?_⟩
    · obtain ⟨hcur, hnext, hin⟩ := exec_fromParent_stale hc hl hp
      refine ⟨hcur, fun h => ?_, fun h => hnext ?_ n⟩
      · obtain ⟨hchunk, hcredit⟩ := hin (inAttempt_eq_false h)
        exact ⟨fun hr => hchunk hr i ws marked, fun hr => hcredit hr n⟩
      · rw [← Bool.not_eq_true, nextAttempt_iff]
        omega
    · obtain ⟨hdepart, hin⟩ := exec_fromChild_stale hc hl hm
      refine ⟨fun h hround => hdepart ?_ mask, fun h => ?_⟩
      · rw [← Bool.not_eq_true, departTime_iff, ← current_iff, h]
        simp [hround]
      · obtain ⟨hack, hchunk, hcredit⟩ := hin (inAttempt_eq_false h)
        exact ⟨hack n, fun hr => hchunk hr i ws marked, fun hr => hcredit hr n⟩
  · intro s c hash parent children below _ hu hl
    refine ⟨?_, exec_collSetup_held hu hl⟩
    show execCollCommit c s = _
    exact collMsg_held hu hl _ _
  · intro c r j a bs hr hq ha hb
    exact addWords_exact hr hq ha hb

end Sys2Proof.Machine

/-! SUPPORT. What the traffic of the ports leaves as it was: event records, answers, cancelled grants and collective messages change
neither a port nor the module's membership (R259, R262 to R264, R269, R282). -/

namespace Sys2Proof.Machine

/-- The module's membership and measurement registers are as they were, but for Mark signals that wait for their acknowledgement, and
what has left the module stays so. -/
structure KeepsMembership (s t : State) : Prop where
  sys : { t.sys with peerSigs := s.sys.peerSigs } = s.sys
  mr : t.rsp.mr = s.rsp.mr
  sent : ∀ x ∈ s.sent, x ∈ t.sent

/-- The ports are as they were too. -/
structure KeepsPorts (s t : State) : Prop extends KeepsMembership s t where
  ports : t.ports = s.ports

section Keeps

variable {s t u : State}

theorem KeepsMembership.of_eq (h : (t.sys, t.rsp.mr, t.sent) = (s.sys, s.rsp.mr, s.sent)) : KeepsMembership s t := by
  simp only [Prod.mk.injEq] at h
  obtain ⟨hsys, hmr, hsent⟩ := h
  exact ⟨by rw [hsys], hmr, fun x hx => hsent ▸ hx⟩

theorem KeepsMembership.refl (s : State) : KeepsMembership s s := .of_eq rfl

theorem KeepsMembership.trans (h : KeepsMembership s t) (g : KeepsMembership t u) : KeepsMembership s u := by
  refine ⟨?_, g.mr.trans h.mr, fun x hx => g.sent x (h.sent x hx)⟩
  have ht := h.sys
  rw [← g.sys] at ht
  exact ht

theorem KeepsMembership.foldl {β : Type} {f : State → β → State} (h : ∀ s b, KeepsMembership s (f s b)) (l : List β)
    (s : State) : KeepsMembership s (l.foldl f s) :=
  foldl_keeps (KeepsMembership s) f (fun t b ht => ht.trans (h t b)) l s (.refl s)

/-- What membership says apart from the waiting Mark signals is as it was. -/
theorem KeepsMembership.field {α : Type} (h : KeepsMembership s t) (g : SystemState → α)
    (hg : ∀ x l, g { x with peerSigs := l } = g x) : g t.sys = g s.sys := by
  rw [← hg t.sys s.sys.peerSigs, h.sys]

theorem KeepsPorts.of_eq (h : (t.sys, t.rsp.mr, t.sent) = (s.sys, s.rsp.mr, s.sent)) (hp : t.ports = s.ports) : KeepsPorts s t :=
  ⟨.of_eq h, hp⟩

theorem KeepsPorts.refl (s : State) : KeepsPorts s s := ⟨.refl s, rfl⟩

theorem KeepsPorts.trans (h : KeepsPorts s t) (g : KeepsPorts t u) : KeepsPorts s u :=
  ⟨h.toKeepsMembership.trans g.toKeepsMembership, g.ports.trans h.ports⟩

/-- What is kept from a state on is kept from one with the same ports, membership and messages on. -/
theorem KeepsPorts.after (g : KeepsPorts t u) (h : (t.sys, t.rsp.mr, t.sent) = (s.sys, s.rsp.mr, s.sent)) (hp : t.ports = s.ports) :
    KeepsPorts s u :=
  .trans (.of_eq h hp) g

theorem KeepsPorts.foldl {β : Type} {f : State → β → State} (h : ∀ s b, KeepsPorts s (f s b)) (l : List β) (s : State) :
    KeepsPorts s (l.foldl f s) :=
  foldl_keeps (KeepsPorts s) f (fun t b ht => ht.trans (h t b)) l s (.refl s)

theorem KeepsPorts.port (h : KeepsPorts s t) : t.port = s.port := funext fun p => by rw [State.port, h.ports, State.port]

end Keeps

/-! Event records and answers (R263, R324, R325). -/

section Records

variable (s : State)

theorem keepsPorts_emit (m : Msg) : KeepsPorts s (s.emit m) := ⟨⟨rfl, rfl, fun _ hx => List.mem_cons_of_mem _ hx⟩, rfl⟩

theorem keepsPorts_interrupt (v : Nat) : KeepsPorts s (s.interrupt v) := by
  unfold State.interrupt
  split
  · exact keepsPorts_emit ..
  · exact .of_eq rfl rfl

theorem keepsPorts_ringPut (e : Bytes) : KeepsPorts s (s.ringPut e) := by
  unfold State.ringPut
  dsimp only
  split
  · exact .of_eq rfl rfl
  · split
    · exact (keepsPorts_interrupt _ _).after rfl rfl
    · exact .of_eq rfl rfl

theorem keepsPorts_post (source : Nat) (record : Bytes) : KeepsPorts s (s.post source record) := by
  unfold State.post
  dsimp only
  split
  · split <;> exact .of_eq rfl rfl
  · split
    · split <;> exact .of_eq rfl rfl
    · exact (keepsPorts_ringPut _ _).after rfl rfl

theorem keepsPorts_peerEvent (event port peer cause : Nat) (serial : Bytes) :
    KeepsPorts s (peerEvent s event port peer cause serial) := keepsPorts_post ..

theorem keepsPorts_respond (m : Nat) (a : Answer) : KeepsPorts s (respond s m a) := by
  unfold respond
  dsimp only
  split
  · exact (keepsPorts_interrupt _ _).after rfl rfl
  · exact .of_eq rfl rfl

theorem keepsPorts_answerWaits (p : MbWait → Option Answer) : KeepsPorts s (answerWaits s p) := by
  refine .foldl (fun t b => ?_) _ s
  split
  · exact keepsPorts_respond ..
  · exact .refl t

/-! Grants and streams (R180, R205, R269). -/

theorem keepsPorts_credit (m : Msg) : KeepsPorts s (s.credit m) := by
  unfold State.credit
  split
  · exact .of_eq rfl rfl
  · exact keepsPorts_emit ..

theorem keepsPorts_cancelGrant (mgr : Mgr) (g : Grant) (r : CancelReason) : KeepsPorts s (cancelGrant s mgr g r) :=
  (keepsPorts_credit (s.setMgr mgr (dropGrant (s.mgr mgr) g)) _).after rfl rfl

theorem keepsPorts_cancelAll (p : Mgr → Grant → Bool) (r : CancelReason) : KeepsPorts s (cancelAll s p r) :=
  .foldl (fun t _ => .foldl (fun u _ => keepsPorts_cancelGrant u ..) _ t) _ s

theorem keepsPorts_tellCancel (x : Dispatch) (t : Stream) (r : CancelReason) : KeepsPorts s (tellCancel s x t r) := by
  unfold tellCancel
  split
  · exact keepsPorts_emit ..
  · exact .refl s

theorem keepsPorts_dropGrants (p : Nat) (tellFar : Bool) : KeepsPorts s (dropGrants s p tellFar) := by
  unfold dropGrants
  split
  · exact keepsPorts_cancelAll ..
  · exact .of_eq rfl rfl

theorem keepsPorts_dropStream (x : Dispatch) (t : Stream) (tellFar : Bool) : KeepsPorts s (dropStream s x t tellFar) := by
  unfold dropStream
  split
  · split
    · exact (keepsPorts_tellCancel s x t .link).trans (.of_eq rfl rfl)
    · exact .of_eq rfl rfl
  · dsimp only
    split
    · split <;> exact .of_eq rfl rfl
    · exact .refl s

theorem keepsPorts_dropSigs (p : Nat) : KeepsPorts s (dropSigs s p) :=
  have hsigs : KeepsPorts s { s with sys := { s.sys with peerSigs := s.sys.peerSigs.filter (·.port != p) } } :=
    ⟨⟨rfl, rfl, fun _ hx => hx⟩, rfl⟩
  hsigs.trans (keepsPorts_answerWaits _ _)

/-! Collectives (R269, R273, R282, R283). -/

theorem OnlySends.keepsPorts {s t : State} (h : OnlySends s t) : KeepsPorts s t :=
  ⟨⟨by rw [h.sys], by rw [h.rsp], h.sent⟩, h.ports⟩

theorem keepsPorts_setColl (k : Coll) : KeepsPorts s (s.setColl k) := .of_eq rfl rfl

theorem keepsPorts_tell (ms : List Nat) (f : Nat → Msg) : KeepsPorts s (tell s ms f) := (onlySends_tell s ms f).keepsPorts

theorem keepsPorts_resendColls (p : Nat) : KeepsPorts s (resendColls s p) :=
  (KeepsPorts.foldl (fun t (e : Nat × Msg) => (onlySends_collSend t (t.port p).peer e.2).keepsPorts) _ _).after rfl rfl

theorem keepsPorts_dropTraffic (p : Nat) (tellFar : Bool) : KeepsPorts s (dropTraffic s p tellFar) := by
  have hstreams (l : List (DRef × Nat)) (t : State) : KeepsPorts t (l.foldl (fun s k => match (s.disp? k.1) with
      | some x => match x.stream? k.2 with
        | some t => dropStream s x t tellFar
        | none => s
      | none => s) t) := by
    refine .foldl (fun u k => ?_) l t
    split
    · split
      · exact keepsPorts_dropStream ..
      · exact .refl u
    · exact .refl u
  unfold dropTraffic
  dsimp only
  split
  · exact ((keepsPorts_dropGrants ..).trans (hstreams ..)).trans ((keepsPorts_dropSigs ..).trans (.of_eq rfl rfl))
  · exact ((keepsPorts_dropGrants ..).trans (hstreams ..)).trans ((keepsPorts_dropSigs ..).trans (keepsPorts_resendColls ..))

theorem keepsPorts_orphan (k : Coll) : KeepsPorts s (orphan s k) := (keepsPorts_tell ..).trans (keepsPorts_setColl ..)

theorem keepsPorts_reform (k : Coll) (mask : Nat) : KeepsPorts s (reform s k mask) := by
  unfold reform
  dsimp only
  split
  · exact keepsPorts_setColl ..
  · split <;> exact (keepsPorts_tell ..).trans (keepsPorts_setColl ..)

theorem keepsPorts_childGone (k : Coll) (m : Nat) : KeepsPorts s (childGone s k m) := by
  unfold childGone
  dsimp only
  split
  · exact keepsPorts_reform ..
  · split
    · exact (onlySends_collSend ..).keepsPorts
    · exact (onlySends_collSend ..).keepsPorts.trans ((keepsPorts_tell ..).trans (keepsPorts_setColl ..))

theorem keepsPorts_modGone (k : Coll) (m : Nat) : KeepsPorts s (modGone s k m) := by
  unfold modGone
  split
  · exact keepsPorts_setColl ..
  · split
    · exact .refl s
    · split
      · exact keepsPorts_orphan ..
      · split
        · exact keepsPorts_childGone ..
        · exact .refl s

theorem keepsPorts_departColls (m : Nat) : KeepsPorts s (departColls s m) := by
  refine .foldl (fun t k => ?_) _ s
  split
  · exact keepsPorts_modGone ..
  · exact .refl t

theorem keepsPorts_arriveColls (m : Nat) : KeepsPorts s (arriveColls s m) := by
  refine .foldl (fun t k => ?_) _ s
  split
  · split
    · rw [settleSetup_eq]
      exact (onlySends_sendSetup ..).keepsPorts.trans (keepsPorts_setColl ..)
    · exact .refl t
  · exact .refl t

theorem keepsPorts_leaveColls : KeepsPorts s (leaveColls s) := by
  refine .foldl (fun t k => ?_) _ s
  split
  · split
    · exact .refl t
    · exact keepsPorts_setColl ..
  · exact .refl t

end Records

end Sys2Proof.Machine

/-! SUPPORT. The ports from training to admission, and what joining and leaving a system comes to (R253, R258 to R264, R268). -/

namespace Sys2Proof.Machine

/-! One port changes (R253, R261). -/

theorem keepsMembership_modPort (s : State) (p : Nat) (f : Port → Port) : KeepsMembership s (s.modPort p f) := .of_eq rfl

theorem keepsMembership_refusePort (s : State) (p cause : Nat) : KeepsMembership s (refusePort s p cause) := by
  unfold refusePort
  dsimp only
  exact (keepsMembership_modPort ..).trans (keepsPorts_peerEvent ..).toKeepsMembership

@[simp] theorem ports_length_modPort (s : State) (p : Nat) (f : Port → Port) : (s.modPort p f).ports.length = s.ports.length :=
  length_modNth ..

/-- What a message that has been heard leaves of the record of its port. -/
theorem port_heardOn_keeps {α : Type} (g : Port → α) (s : State) (p q : Nat)
    (h : ∀ x n k, g { x with lastGood := n, flitFails := k } = g x) : g ((s.heardOn p).port q) = g (s.port q) :=
  port_modPort_keeps g s p q fun x => h x _ _

section Transition

variable {s : State} {p : Nat} (hp : p < s.ports.length)
include hp

theorem port_toIdent_self : (toIdent s p).port p
    = { s.port p with st := .ident, since := s.now, attested := none, peerAdmits := false, told := false } :=
  port_modPort_self (s := dropSession s p) hp _

theorem port_refusePort_self (cause : Nat) :
    (refusePort s p cause).port p = { s.port p with st := .refused, cause := cause, since := s.now } := by
  unfold refusePort
  dsimp only
  rw [(keepsPorts_peerEvent ..).port]
  exact port_modPort_self hp _

theorem refusePort_refused (cause : Nat) :
    ((refusePort s p cause).port p).st = .refused ∧ ((refusePort s p cause).port p).cause = cause := by
  rw [port_refusePort_self hp]
  exact ⟨rfl, rfl⟩

/-- A port goes down; LAST_CAUSE tells a failed training and a late IDENT (R254, R261). -/
theorem port_portDown_self (cause : Nat) (hc : carries (s.port p) = false)
    (hcause : (s.port p).st = .training ∨ cause = pcDead) :
    ((portDown s p cause .down).port p).st = .down ∧ ((portDown s p cause .down).port p).cause = cause := by
  simp only [portDown, hc, Bool.not_false, if_true]
  rw [port_modPort_self (s := dropSession s p) hp]
  refine ⟨rfl, ?_⟩
  obtain h | h := hcause
  · simp [h]
  · simp only [h]
    split <;> rfl

end Transition

theorem port_toIdent_other (s : State) {p q : Nat} (h : q ≠ p) : (toIdent s p).port q = s.port q :=
  port_modPort_other (dropSession s p) h _

theorem sent_toIdent (s : State) (p : Nat) : (toIdent s p).sent = .ident p (identMsg s p) :: s.sent := rfl

theorem port_portDown_other (s : State) {p q : Nat} (h : q ≠ p) (cause : Nat) (into : PortSt) (hc : carries (s.port p) = false) :
    (portDown s p cause into).port q = s.port q := by
  simp only [portDown, hc, Bool.not_false, if_true]
  exact port_modPort_other (dropSession s p) h _

theorem not_due_of_le {now start t : Nat} (h : now ≤ start + t) : due now start t = false := by
  simp only [due, decide_eq_false_iff_not]
  omega

/-! Discovery (R253, R260, R261). -/

section Discovery

variable {s : State} {p : Nat}

theorem exec_portTrainingAttempt (hs : serPowered s = true) (he : portEnabled s p = true) (hst : (s.port p).st = .down)
    (hdue : (s.port p).since + 125001 ≤ s.now) :
    exec (.portTrainingAttempt p) s = .next (s.modPort p (fun x => { x with st := .training, since := s.now })) := by
  show execPortTrainingAttempt p s = _
  simp [execPortTrainingAttempt, hs, he, hst, due_of_le (t := 125000) hdue]

theorem exec_portTrainingComplete (hs : serPowered s = true) (hp : p < 16) (hst : (s.port p).st = .training) (ok : Bool) :
    exec (.portTrainingComplete p ok) s
      = .next (if ok && !due s.now (s.port p).since 6250000 then toIdent s p else portDown s p pcLock .down) := by
  show execPortTrainingComplete p ok s = _
  simp only [execPortTrainingComplete, hs, hp, hst, decide_true, Bool.and_self, beq_self_eq_true, Bool.not_true,
    Bool.false_eq_true, if_false]
  exact (apply_ite Host.Outcome.next ..).symm

theorem exec_ident (hs : serPowered s = true) (hp : p < 16) (hst : (s.port p).st = .ident) (m : Bytes) :
    exec (.ident p m) s = .next (
      if due s.now (s.port p).since 12500 then portDown (s.heardOn p) p pcDead .down
      else if identOk p m then (s.heardOn p).modPort p (fun x => { notePeer x m with st := .attest, since := s.now })
      else refusePort (s.heardOn p) p pcAdmit) := by
  have hst' : ((s.heardOn p).port p).st = .ident := (port_heardOn_keeps Port.st s p p fun _ _ _ => rfl).trans hst
  have hsince : ((s.heardOn p).port p).since = (s.port p).since := port_heardOn_keeps Port.since s p p fun _ _ _ => rfl
  show execIdent p m s = _
  rw [execIdent, if_pos (by simp [hs, hp])]
  simp only [identIn, hst', hsince]
  cases identOk p m <;> rfl

theorem exec_identTimeout (hp : p < 16) (hst : (s.port p).st = .ident) (hdue : (s.port p).since + 12501 ≤ s.now) :
    exec (.identTimeout p) s = .next (portDown s p pcDead .down) := by
  show execIdentTimeout p s = _
  simp [execIdentTimeout, hp, hst, due_of_le (t := 12500) hdue]

theorem exec_attestTimeout (hp : p < 16) (hst : (s.port p).st = .attest)
    (hdue : (s.port p).since + s.settingN 0x0307 0 + 1 ≤ s.now) :
    exec (.attestTimeout p) s = .next (refusePort s p pcAttest) := by
  show execAttestTimeout p s = _
  simp [execAttestTimeout, hp, hst, due_of_le hdue]

/-- Nothing is decided while this end has not joined (R259). -/
theorem tryAdmit_unjoined (h : s.sys.joined = false) : tryAdmit s p = s := by
  simp [tryAdmit, h]

theorem portSession_ports (s : State) (p : Nat) : (portSession s p).ports = s.ports := by unfold portSession; split <;> rfl
theorem portSession_sys (s : State) (p : Nat) : (portSession s p).sys = s.sys := by unfold portSession; split <;> rfl

/-- Once attested, a port has a session (R257, R261). -/
theorem portSession_any (s : State) (p : Nat) : (portSession s p).rsp.sessions.any (fun x => x.via == .port p) = true := by
  unfold portSession
  split
  next h => exact h
  next => simp

theorem exec_portAttestComplete_sound (hp : p < 16) (hst : (s.port p).st = .attest) {r : AttestResult} (hr : r.ok = true)
    (htime : s.now ≤ (s.port p).since + s.settingN 0x0307 0) : exec (.portAttestComplete p r) s = .next (tryAdmit
      ((portSession (s.heardOn p) p).modPort p (fun x => { x with st := .admitting, since := s.now, attested := some r })) p) := by
  show execPortAttestComplete p r s = _
  simp [execPortAttestComplete, hp, hst, hr, not_due_of_le htime]

theorem exec_portAttestComplete_unsound (hp : p < 16) (hst : (s.port p).st = .attest) {r : AttestResult} (hr : r.ok = false) :
    exec (.portAttestComplete p r) s = .next (refusePort s p pcAttest) := by
  show execPortAttestComplete p r s = _
  simp [execPortAttestComplete, hp, hst, hr]

/-! Admission (R259, R261). -/

theorem exec_admissionMessage (hp : p < 16) (hst : (s.port p).st = .admitting) (yes : Bool) :
    exec (.admissionMessage p yes) s = .next (
      if yes then tryAdmit ((s.heardOn p).modPort p (fun x => { x with peerAdmits := true })) p
      else refusePort (s.heardOn p) p pcAdmit) := by
  have hst' : ((s.heardOn p).port p).st = .admitting := (port_heardOn_keeps Port.st s p p fun _ _ _ => rfl).trans hst
  show execAdmissionMessage p yes s = _
  simp only [execAdmissionMessage, hp, if_true, hst']
  exact (apply_ite Host.Outcome.next ..).symm

/-- Whether this end admits the peer of a port does not depend on what has been heard on ports or said of admission. -/
theorem admits_modPort {q : Nat} {f : Port → Port} (hf : ∀ x, f x = { x with
      peerAdmits := (f x).peerAdmits, told := (f x).told, lastGood := (f x).lastGood, flitFails := (f x).flitFails }) :
    Machine.admits (s.modPort q f) p = Machine.admits s p := by
  have hkeep {α : Type} (g : Port → α) (hg : ∀ x, g (f x) = g x) (j : Nat) : g ((s.modPort q f).port j) = g (s.port j) :=
    port_modPort_keeps g s q j hg
  have hpeer := hkeep Port.peer fun x => by rw [hf]
  simp only [Machine.admits, hpeer, hkeep Port.peerJoined fun x => by rw [hf], hkeep Port.peerSystem fun x => by rw [hf],
    hkeep Port.attested fun x => by rw [hf], hkeep Port.peerKey fun x => by rw [hf],
    bundle_modPort (s := s) (p := q) (f := f) (fun x => by rw [hf]) (fun x => by rw [hf])]
  rfl

theorem keepsPorts_activated (s : State) (p : Nat) : KeepsPorts
    (s.modPort p (fun x => { x with st := .active, since := s.now, lastGood := s.unitTicks 4 (p / 8), flitFails := 0 }))
    (activate s p) := by
  unfold activate
  dsimp only
  split
  · exact (keepsPorts_peerEvent ..).trans ((keepsPorts_peerEvent ..).trans (keepsPorts_arriveColls ..))
  · exact keepsPorts_peerEvent ..

theorem port_activate_st (hp : p < s.ports.length) : ((activate s p).port p).st = .active := by
  rw [(keepsPorts_activated s p).port, port_modPort_self hp]

/-- A port at ADMIT, both of whose ends are joined. -/
def AtAdmit (s : State) (p : Nat) : Prop :=
  (s.port p).st = .admitting ∧ s.sys.joined = true ∧ (s.port p).peerJoined = true ∧ s.sys.leaving = none

theorem tryAdmit_refuses (h : AtAdmit s p) (ha : Machine.admits s p = false) :
    tryAdmit s p = refusePort (s.emit (.admission p false)) p pcAdmit := by
  obtain ⟨hst, hj, hpj, hl⟩ := h
  simp [tryAdmit, hst, hj, hpj, hl, ha]

theorem tryAdmit_admits (h : AtAdmit s p) (ha : Machine.admits s p = true) (hpeer : (s.port p).peerAdmits = true) :
    tryAdmit s p = activate (if (s.port p).told then s
      else (s.modPort p (fun x => { x with told := true })).emit (.admission p true)) p := by
  obtain ⟨hst, hj, hpj, hl⟩ := h
  simp [tryAdmit, hst, hj, hpj, hl, ha, hpeer]

/-- The state in which the peer of a port has said that it admits this end. -/
def admitted (s : State) (p : Nat) : State := (s.heardOn p).modPort p (fun x => { x with peerAdmits := true })

theorem admitted_keeps {α : Type} (g : Port → α) (hheard : ∀ x n k, g { x with lastGood := n, flitFails := k } = g x)
    (hyes : ∀ x, g { x with peerAdmits := true } = g x) : g ((admitted s p).port p) = g (s.port p) :=
  (port_modPort_keeps (f := fun x => { x with peerAdmits := true }) g _ p p hyes).trans (port_heardOn_keeps g s p p hheard)

theorem atAdmit_admitted (h : AtAdmit s p) : AtAdmit (admitted s p) p := by
  obtain ⟨hst, hj, hpj, hl⟩ := h
  exact ⟨(admitted_keeps Port.st (fun _ _ _ => rfl) fun _ => rfl).trans hst, hj,
    (admitted_keeps Port.peerJoined (fun _ _ _ => rfl) fun _ => rfl).trans hpj, hl⟩

theorem admits_admitted : Machine.admits (admitted s p) p = Machine.admits s p :=
  (admits_modPort fun _ => rfl).trans (admits_modPort fun _ => rfl)

theorem ports_length_admitted : (admitted s p).ports.length = s.ports.length :=
  (ports_length_modPort ..).trans (ports_length_modPort ..)

/-- Where both ends are agreed the port is ACTIVE (R259). -/
theorem tryAdmit_admitted_st (hp : p < s.ports.length) (h : AtAdmit s p) (ha : Machine.admits s p = true) :
    ((tryAdmit (admitted s p) p).port p).st = .active := by
  have hlen : p < (admitted s p).ports.length := ports_length_admitted.symm ▸ hp
  have hheard : p < (s.heardOn p).ports.length := (ports_length_modPort ..).symm ▸ hp
  have hpeer : ((admitted s p).port p).peerAdmits = true := congrArg Port.peerAdmits (port_modPort_self hheard _)
  rw [tryAdmit_admits (atAdmit_admitted h) (admits_admitted.trans ha) hpeer]
  refine port_activate_st ?_
  split
  · exact hlen
  · exact (ports_length_modPort ..).symm ▸ hlen

/-- Where this end turns the peer down it says so and refuses the port (R259). -/
theorem tryAdmit_admitted_refuses (hp : p < s.ports.length) (h : AtAdmit s p) (ha : Machine.admits s p = false) :
    ((tryAdmit (admitted s p) p).port p).st = .refused ∧ ((tryAdmit (admitted s p) p).port p).cause = pcAdmit
      ∧ Msg.admission p false ∈ (tryAdmit (admitted s p) p).sent := by
  have hlen : p < ((admitted s p).emit (.admission p false)).ports.length := ports_length_admitted.symm ▸ hp
  rw [tryAdmit_refuses (atAdmit_admitted h) (admits_admitted.trans ha)]
  obtain ⟨hst, hcause⟩ := refusePort_refused hlen pcAdmit
  exact ⟨hst, hcause, (keepsMembership_refusePort ..).sent _ List.mem_cons_self⟩

end Discovery

end Sys2Proof.Machine

/-! SUPPORT. Systems left and joined, and Mark signals sent by mailbox (R245, R259, R262, R264, R268). -/

namespace Sys2Proof.Machine

/-! Ports that start their discovery anew (R253, R264). -/

/-- A state reached through a list of steps, each of which leaves a port that it does not name. -/
theorem port_foldl_other {f : State → Nat → State} (hf : ∀ t c q, q ≠ c → (f t c).port q = t.port q) {l : List Nat} {q : Nat}
    (hq : q ∉ l) (s : State) : (l.foldl f s).port q = s.port q :=
  List.foldlRecOn (motive := fun t : State => t.port q = s.port q) l f rfl fun t ht c hc =>
    (hf t c q fun e => hq (e ▸ hc)).trans ht

@[simp] theorem ports_length_toIdent (s : State) (p : Nat) : (toIdent s p).ports.length = s.ports.length := length_modNth ..

theorem ports_length_foldl {f : State → Nat → State} (hf : ∀ t c, (f t c).ports.length = t.ports.length) (l : List Nat)
    (s : State) : (l.foldl f s).ports.length = s.ports.length :=
  foldl_keeps (fun t : State => t.ports.length = s.ports.length) f (fun t c h => (hf t c).trans h) l s rfl

theorem keepsMembership_toIdent (s : State) (p : Nat) : KeepsMembership s (toIdent s p) :=
  ⟨rfl, rfl, fun _ hx => List.mem_cons_of_mem _ hx⟩

theorem toIdent_st_of_ident {s : State} {p : Nat} (q : Nat) (h : (s.port p).st = .ident) : ((toIdent s q).port p).st = .ident :=
  port_modPort_of (P := fun x => x.st = .ident) (s := dropSession s q) h fun _ _ => rfl

/-- Each of the ports of a list that go to IDENT is there in the end. -/
theorem st_foldl_toIdent {s : State} {p : Nat} {l : List Nat} (hp : p < s.ports.length) (hl : p ∈ l) :
    ((l.foldl toIdent s).port p).st = .ident :=
  foldl_brings (p := fun t : State => (t.port p).st = .ident) (q := fun t : State => p < t.ports.length) hl
    (fun _ c => toIdent_st_of_ident c) (fun t c h => by rwa [ports_length_toIdent]) (fun t h => by rw [port_toIdent_self h]) hp

/-! LEAVE (R264). -/

section Leave

/-- The record of a port whose peer has left: at IDENT, LAST_CAUSE telling the leave. -/
def HasLeft (x : Port) : Prop := x.st = .ident ∧ x.cause = pcLeave

/-- A port whose peer has left goes to IDENT. -/
def markLeft (s : State) (q : Nat) : State := s.modPort q (fun x => { x with st := .ident, cause := pcLeave, since := s.now })

/-- A port starts its discovery anew, its peer no longer joined. -/
def rediscover (s : State) (q : Nat) : State := toIdent (s.modPort q (fun x => { x with peerJoined := false })) q

variable {s : State} {p : Nat}

theorem hasLeft_markLeft (q : Nat) (h : HasLeft (s.port p)) : HasLeft ((markLeft s q).port p) :=
  port_modPort_of h fun _ _ => ⟨rfl, rfl⟩

theorem hasLeft_rediscover (q : Nat) (h : HasLeft (s.port p)) : HasLeft ((rediscover s q).port p) :=
  port_modPort_of (s := dropSession _ q) (port_modPort_of h fun _ hx => hx) fun _ ⟨_, hcause⟩ => ⟨rfl, hcause⟩

theorem port_rediscover_other {q : Nat} (h : p ≠ q) : (rediscover s q).port p = s.port p :=
  (port_toIdent_other _ h).trans (port_modPort_other s h _)

/-- The ports that lead to the peer of a port. -/
def peerPorts (s : State) (p : Nat) : List Nat :=
  (List.range 16).filter (fun q => carries (s.port q) && (s.port q).peer == (s.port p).peer)

theorem mem_peerPorts {q : Nat} (hq : q < 16) :
    q ∈ peerPorts s p ↔ carries (s.port q) = true ∧ (s.port q).peer = (s.port p).peer := by
  simp [peerPorts, hq]

/-- Between the two changes of its ports, a departure of their peer changes none. -/
theorem leaveIn_eq (h : carries (s.port p) = true) :
    ∃ u, KeepsPorts ((peerPorts s p).foldl markLeft s) u ∧ leaveIn s p = (peerPorts s p).foldl rediscover u := by
  refine ⟨_, ?_, if_pos h⟩
  refine (KeepsPorts.foldl (fun t q => ?_) _ _).trans ((KeepsPorts.foldl (fun t q => ?_) _ _).trans
    ((keepsPorts_peerEvent ..).trans (keepsPorts_departColls ..)))
  · exact keepsPorts_dropTraffic t q false
  · exact keepsPorts_peerEvent t ..

theorem port_leaveIn_peer (hlen : s.ports.length = 16) (h : carries (s.port p) = true) {q : Nat} (hq : q < 16)
    (hmem : q ∈ peerPorts s p) : HasLeft ((leaveIn s p).port q) := by
  obtain ⟨u, hu, heq⟩ := leaveIn_eq h
  rw [heq]
  refine foldl_keeps (fun t : State => HasLeft (t.port q)) rediscover (fun t c => hasLeft_rediscover c) _ u ?_
  rw [hu.port]
  exact foldl_brings (p := fun t : State => HasLeft (t.port q)) (q := fun t : State => q < t.ports.length) hmem
    (fun _ c => hasLeft_markLeft c) (fun t c ht => by rwa [markLeft, ports_length_modPort])
    (fun t ht => by rw [markLeft, port_modPort_self ht]; exact ⟨rfl, rfl⟩) (by omega)

theorem port_leaveIn_other (h : carries (s.port p) = true) {q : Nat} (hmem : q ∉ peerPorts s p) :
    (leaveIn s p).port q = s.port q := by
  obtain ⟨u, hu, heq⟩ := leaveIn_eq h
  rw [heq, port_foldl_other (fun t c q hne => port_rediscover_other hne) hmem, hu.port,
    port_foldl_other (f := markLeft) (fun t c q hne => port_modPort_other t hne _) hmem]

theorem exec_leave (hs : serPowered s = true) (hp : p < 16) : exec (.leave p) s = .next (leaveIn (s.heardOn p) p) := by
  show execLeave p s = _
  rw [execLeave, if_pos (by simp [hs, hp])]

/-- After a LEAVE that has been heard on a port that carries traffic, the ports that led to its sender are at IDENT with cause
0x07, and the others are as they were. -/
theorem ports_after_leave (hlen : s.ports.length = 16) (hc : carries (s.port p) = true) {q : Nat} (hq : q < 16) :
    (carries (s.port q) = true → (s.port q).peer = (s.port p).peer → HasLeft ((leaveIn (s.heardOn p) p).port q))
      ∧ (carries (s.port q) = false ∨ (s.port q).peer ≠ (s.port p).peer → (leaveIn (s.heardOn p) p).port q = s.port q) := by
  have hcarries (j : Nat) : carries ((s.heardOn p).port j) = carries (s.port j) := port_heardOn_keeps carries s p j fun _ _ _ => rfl
  have hpeer (j : Nat) : ((s.heardOn p).port j).peer = (s.port j).peer := port_heardOn_keeps Port.peer s p j fun _ _ _ => rfl
  have hmem : q ∈ peerPorts (s.heardOn p) p ↔ carries (s.port q) = true ∧ (s.port q).peer = (s.port p).peer := by
    rw [mem_peerPorts hq, hcarries, hpeer, hpeer]
  have hc' : carries ((s.heardOn p).port p) = true := (hcarries p).trans hc
  refine ⟨fun hcq hpq => port_leaveIn_peer ((ports_length_modPort ..).trans hlen) hc' hq (hmem.2 ⟨hcq, hpq⟩), fun hother => ?_⟩
  have hnot : q ∉ peerPorts (s.heardOn p) p := by
    rw [hmem]
    rintro ⟨hcq, hpq⟩
    obtain h | h := hother
    · simp [hcq] at h
    · exact h hpq
  have hne : q ≠ p := by
    rintro rfl
    exact hnot (hmem.2 ⟨hc, rfl⟩)
  exact (port_leaveIn_other hc' hnot).trans (port_modPort_other s hne _)

end Leave

/-! SYSTEM_LEAVE (R264). -/

section SystemLeave

variable (s : State)

/-- The trained ports of the module. -/
def trainedPorts : List Nat := (List.range 16).filter (fun p => trained (s.port p))

/-- Those of the trained ports that carry traffic. -/
def carryingPorts : List Nat := (trainedPorts s).filter (fun p => carries (s.port p))

/-- Traffic ends, and LEAVE goes out on every trained port. -/
def sendLeaves : State :=
  (trainedPorts s).foldl (fun s p => s.emit (.leave p)) ((carryingPorts s).foldl (fun s p => dropTraffic s p true) s)

/-- The module is a member of no system. -/
def outside : State :=
  { s with sys := { s.sys with joined := false, systemId := 0, modNum := 0, anchor := [], digests := [], leaving := none } }

/-- The ports and the modules that have departed are told, as they stood in the state `was` (R263). -/
def leaveRecords (was s : State) : State :=
  let s := (carryingPorts was).foldl (fun s p =>
    let x := nth was.ports p Port.reset
    peerEvent s 4 p (peerNum x) pcLeave x.peerSerial) s
  let mods := (List.range 64).filter (fun m => (carryingPorts was).any (fun p => (nth was.ports p Port.reset).peer == m))
  mods.foldl (fun s m => match (carryingPorts was).find? (fun p => (nth was.ports p Port.reset).peer == m) with
    | some p => peerEvent s 2 0xFF m pcLeave (nth was.ports p Port.reset).peerSerial
    | none => s) s

theorem keepsPorts_leaveRecords (was : State) : KeepsPorts s (leaveRecords was s) := by
  refine (KeepsPorts.foldl (fun t p => keepsPorts_peerEvent t ..) _ s).trans (.foldl (fun t m => ?_) _ _)
  split
  · exact keepsPorts_peerEvent ..
  · exact .refl t

/-- The module outside its system, before its ports start their discovery anew. -/
def departed : State :=
  mrExtend (leaveRecords s (leaveColls (outside ((carryingPorts s).foldl
    (fun s p => s.modPort p (fun x => { x with cause := pcLeave })) (sendLeaves s))))) 9 (zeros 48)

theorem finishLeave_eq : finishLeave s = answerWaits ((trainedPorts s).foldl toIdent (departed s))
    (fun w => if w == .leave then some (.ok []) else none) := rfl

theorem departed_spec : (departed s).ports.length = s.ports.length
    ∧ ((departed s).sys.joined = false ∧ (departed s).sys.systemId = 0 ∧ (departed s).sys.leaving = none)
    ∧ ∀ p ∈ trainedPorts s, Msg.leave p ∈ (departed s).sent := by
  have hends : KeepsPorts s ((carryingPorts s).foldl (fun s p => dropTraffic s p true) s) :=
    .foldl (fun t p => keepsPorts_dropTraffic t p true) _ s
  have hsends : KeepsPorts ((carryingPorts s).foldl (fun s p => dropTraffic s p true) s) (sendLeaves s) :=
    .foldl (fun t p => keepsPorts_emit t _) _ _
  have hcause := ports_length_foldl (f := fun s p => s.modPort p (fun x => { x with cause := pcLeave }))
    (fun t c => ports_length_modPort ..) (carryingPorts s) (sendLeaves s)
  have hcauseSent := (KeepsMembership.foldl (f := fun s p => s.modPort p (fun x => { x with cause := pcLeave }))
    (fun t c => keepsMembership_modPort ..) (carryingPorts s) (sendLeaves s)).sent
  have hrest := (keepsPorts_leaveColls (outside ((carryingPorts s).foldl
    (fun s p => s.modPort p (fun x => { x with cause := pcLeave })) (sendLeaves s)))).trans (keepsPorts_leaveRecords _ s)
  refine ⟨?_, ⟨?_, ?_, ?_⟩, fun p hp => ?_⟩
  · refine (congrArg List.length hrest.ports).trans (hcause.trans ?_)
    rw [hsends.ports, hends.ports]
  · exact hrest.field SystemState.joined fun _ _ => rfl
  · exact hrest.field SystemState.systemId fun _ _ => rfl
  · exact hrest.field SystemState.leaving fun _ _ => rfl
  · refine hrest.sent _ (hcauseSent _ ?_)
    exact foldl_brings (p := fun t : State => Msg.leave p ∈ t.sent) (q := fun _ => True) hp
      (fun t c h => List.mem_cons_of_mem _ h) (fun _ _ _ => trivial) (fun t _ => List.mem_cons_self) trivial

/-- A module that has left a system is a member of none, its trained ports told so and at IDENT. -/
theorem finishLeave_spec :
    ((finishLeave s).sys.joined = false ∧ (finishLeave s).sys.systemId = 0 ∧ (finishLeave s).sys.leaving = none)
    ∧ ∀ p ∈ trainedPorts s, Msg.leave p ∈ (finishLeave s).sent
      ∧ (p < s.ports.length → ((finishLeave s).port p).st = .ident) := by
  obtain ⟨hlen, ⟨hjoined, hid, hleaving⟩, hsent⟩ := departed_spec s
  have hidents : KeepsMembership (departed s) ((trainedPorts s).foldl toIdent (departed s)) := .foldl keepsMembership_toIdent _ _
  have hanswers := keepsPorts_answerWaits ((trainedPorts s).foldl toIdent (departed s))
    (fun w => if w == .leave then some (.ok []) else none)
  have hall := hidents.trans hanswers.toKeepsMembership
  rw [finishLeave_eq]
  refine ⟨⟨?_, ?_, ?_⟩, fun p hp => ⟨hall.sent _ (hsent p hp), fun hlt => ?_⟩⟩
  · exact (hall.field SystemState.joined fun _ _ => rfl).trans hjoined
  · exact (hall.field SystemState.systemId fun _ _ => rfl).trans hid
  · exact (hall.field SystemState.leaving fun _ _ => rfl).trans hleaving
  · rw [hanswers.port]
    exact st_foldl_toIdent (hlen ▸ hlt) hp

theorem port_beginLeave {p : Nat} (hp : p < s.ports.length) (hst : (s.port p).st = .active) :
    (beginLeave s).port p = { s.port p with st := .leaving, cause := pcLeave, since := s.now } := by
  have hget : s.ports[p]? = some (s.port p) := by
    rw [State.port, nth, List.getD_eq_getElem?_getD, List.getElem?_eq_getElem hp, Option.getD_some]
  rw [State.port, nth, List.getD_eq_getElem?_getD, beginLeave, List.getElem?_map, hget]
  simp [hst]

end SystemLeave

/-! Commands that are carried out (R324). -/

section Taken

variable (s : State) (op m : Nat) (r : MbReq)

@[simp] theorem taken_ports : (taken s op m r).ports = s.ports := by obtain ⟨b, p, h, _⟩ := taken_shape s op m r; rw [h]
@[simp] theorem taken_sys : (taken s op m r).sys = s.sys := by obtain ⟨b, p, h, _⟩ := taken_shape s op m r; rw [h]
@[simp] theorem taken_rsp : (taken s op m r).rsp = s.rsp := by obtain ⟨b, p, h, _⟩ := taken_shape s op m r; rw [h]
@[simp] theorem taken_sent : (taken s op m r).sent = s.sent := by obtain ⟨b, p, h, _⟩ := taken_shape s op m r; rw [h]

@[simp] theorem taken_lcState : lcState (taken s op m r) = lcState s := by rw [lcState, taken_rsp, lcState]

end Taken

/-! SYSTEM_JOIN (R259, R359). -/

section SystemJoin

variable {s : State}

theorem getElem?_modNth_self {α : Type} (f : α → α) (i : Nat) (l : List α) : (modNth f i l)[i]? = l[i]?.map f := by
  induction l generalizing i with
  | nil => simp [modNth]
  | cons a t ih =>
    cases i with
    | zero => rfl
    | succ i => exact ih i

/-- The policy of a record, and MR9 extended by its hash. -/
def joinedBy (s : State) (r : Bytes) : State :=
  mrExtend { s with sys := { s.sys with
    joined := true, systemId := field r 0 8, modNum := field r 8 1, anchor := slice r 16 48
    digests := (List.range (field r 9 1)).map (fun i => slice r (64 + 48 * i) 48) } } 9 (sha384 r)

theorem keepsMembership_activate (s : State) (p : Nat) : KeepsMembership s (activate s p) :=
  .trans (keepsMembership_modPort ..) (keepsPorts_activated s p).toKeepsMembership

theorem keepsMembership_tryAdmit (s : State) (p : Nat) : KeepsMembership s (tryAdmit s p) := by
  unfold tryAdmit
  dsimp only
  split
  · exact .refl s
  · split
    · exact (keepsPorts_emit ..).toKeepsMembership.trans (keepsMembership_refusePort ..)
    · have htold : KeepsMembership s (if (s.port p).told then s
          else (s.modPort p (fun x => { x with told := true })).emit (.admission p true)) := by
        split
        · exact .refl s
        · exact (keepsMembership_modPort ..).trans (keepsPorts_emit ..).toKeepsMembership
      split
      · exact htold.trans (keepsMembership_activate ..)
      · exact htold

theorem systemJoin_ok {r : MbReq} (hid : field r.payload 0 8 ≠ 0) (hnum : field r.payload 8 1 < 64) (h1 : 1 ≤ field r.payload 9 1)
    (h8 : field r.payload 9 1 ≤ 8) (hz : allZero r.payload 10 6 = true) (hl0 : lcState s ≠ 0) (hl3 : lcState s ≠ 3)
    (hj : s.sys.joined = true → s.sys.systemId = field r.payload 0 8 ∧ s.sys.modNum = field r.payload 8 1) :
    ∃ u, KeepsMembership (joinedBy s r.payload) u ∧ systemJoin r s = reply u (.ok []) := by
  have hfields : (field r.payload 0 8 != 0 && decide (field r.payload 8 1 < 64) && decide (1 ≤ field r.payload 9 1)
      && decide (field r.payload 9 1 ≤ 8) && allZero r.payload 10 6) = true := by simp [hid, hnum, h1, h8, hz]
  have hlc : (lcState s == 0 || lcState s == 3) = false := by simp [hl0, hl3]
  have hsame : (s.sys.joined && !(s.sys.systemId == field r.payload 0 8 && s.sys.modNum == field r.payload 8 1)) = false := by
    cases h : s.sys.joined with
    | false => rfl
    | true => simp [hj h]
  simp only [systemJoin, hfields, hlc, hsame, Bool.not_true, Bool.false_eq_true, if_false]
  refine ⟨_, KeepsMembership.foldl (fun t p => ?_) _ _, rfl⟩
  split
  · exact keepsMembership_toIdent ..
  · split
    · exact (keepsPorts_emit ..).toKeepsMembership
    · exact .refl t
  · split
    · exact (keepsPorts_emit ..).toKeepsMembership
    · exact .refl t
  · split
    · exact ((keepsMembership_modPort ..).trans (keepsPorts_emit ..).toKeepsMembership).trans (keepsMembership_tryAdmit ..)
    · exact .refl t
  · exact .refl t

end SystemJoin

/-! MARK_SIGNAL (R245, R268). -/

section MarkSignal

variable {s : State} {m : Nat} {r : MbReq}

theorem markSignal_here {k : Nat} (hfar : field r.payload 2 1 = 0) (hk : ctxMark s r.ctx (field r.payload 0 2) = some k)
    (ho : markOwned s k r.ctx = true) (hh : (s.mark k).hostSig = true) :
    markSignal m r s = reply (addMark s k (field r.payload 4 4)) (.ok []) := by
  simp [markSignal, hfar, hk, ho, hh]

/-- A signal to a Mark of a peer leaves on the lowest port of the bundle, and the answer waits for its acknowledgement. -/
theorem markSignal_peer {p : Nat} (hfar : field r.payload 2 1 = 1) (hmod : field r.payload 3 1 < 64)
    (hp : (bundle s (field r.payload 3 1)).head? = some p) : markSignal m r s = ⟨State.emit
      { s with sys := { s.sys with nextTag := s.sys.nextTag + 1, peerSigs := s.sys.peerSigs ++ [⟨s.sys.nextTag, p, m⟩] } }
      (.peerMark p (field r.payload 0 2) (field r.payload 4 4) r.ctx s.sys.nextTag), .error (.ack s.sys.nextTag)⟩ := by
  simp [markSignal, hfar, hmod, hp]

end MarkSignal

end Sys2Proof.Machine

/-! SUPPORT. The statement on ports and systems, part by part. -/

namespace Sys2Proof.Machine

/-- Settles O48: each row of discovery changes its port alone; what joining and leaving do beside the ports changes none of them. That
a malformed IDENT is refused with cause 6, that IDENT is awaited for 12,500 ticks, that LEAVE goes out on every trained port, and
that a Mark signal leaves on the lowest port of the bundle, is log entry 51. -/
theorem portsAreDiscoveredAdmittedAndLeft : Obligations.PortsAreDiscoveredAdmittedAndLeft := by
  unfold Obligations.PortsAreDiscoveredAdmittedAndLeft
  refine ⟨?_, ?_, ?_, ?_, ?_, ?_, ?_, ?_, ?_⟩
  · intro s p hlen hs
    have hheard : p < (s.heardOn p).ports.length := by rwa [State.heardOn, ports_length_modPort]
    refine ⟨exec_portTrainingAttempt hs, fun hp hst htime => ?_, fun hp hst => ?_,
      fun m hp hst htime => ⟨fun hok => ?_, fun hbad => ?_⟩, fun m hp hst hlate => ?_⟩
    · rw [exec_portTrainingComplete hs hp hst, if_pos (by simp [not_due_of_le htime])]
      exact ⟨_, rfl, by rw [port_toIdent_self hlen], sent_toIdent s p, fun q hq => port_toIdent_other s hq⟩
    · have hc : carries (s.port p) = false := by simp [carries, hst]
      obtain ⟨hdown, hcause⟩ := port_portDown_self hlen pcLock hc (.inl hst)
      rw [exec_portTrainingComplete hs hp hst, if_neg (by simp)]
      exact ⟨_, rfl, hdown, hcause, fun q hq => port_portDown_other s hq pcLock .down hc⟩
    · rw [exec_ident hs hp hst, if_neg (by simp [not_due_of_le htime]), if_pos hok]
    · rw [exec_ident hs hp hst, if_neg (by simp [not_due_of_le htime]), if_neg (by simp [hbad])]
      exact ⟨_, rfl, refusePort_refused hheard pcAdmit⟩
    · have hc : carries ((s.heardOn p).port p) = false := by
        rw [port_heardOn_keeps carries s p p fun _ _ _ => rfl]
        simp [carries, hst]
      rw [exec_ident hs hp hst, if_pos (due_of_le hlate)]
      exact ⟨_, rfl, port_portDown_self hheard pcDead hc (.inr rfl)⟩
  · intro s p hp hlen
    have hheard : p < (s.heardOn p).ports.length := by rwa [State.heardOn, ports_length_modPort]
    refine ⟨fun hst hlate => ?_, fun r hst hr htime hj => ?_, fun r hst hr => ?_, fun hst hlate => ?_, fun hst => ?_,
      fun hst hj hpj hl => ⟨fun ha => ?_, fun ha => ?_⟩⟩
    · have hc : carries (s.port p) = false := by simp [carries, hst]
      exact ⟨_, exec_identTimeout hp hst hlate, port_portDown_self hlen pcDead hc (.inr rfl)⟩
    · have hlen' : p < (portSession (s.heardOn p) p).ports.length := by rwa [portSession_ports]
      have hj' : (portSession (s.heardOn p) p).sys.joined = false := (congrArg SystemState.joined (portSession_sys ..)).trans hj
      rw [exec_portAttestComplete_sound hp hst hr htime, tryAdmit_unjoined (s := State.modPort _ p _) hj']
      refine ⟨_, rfl, ?_, ?_, portSession_any ..⟩ <;> rw [port_modPort_self hlen']
    · exact ⟨_, exec_portAttestComplete_unsound hp hst hr, refusePort_refused hlen pcAttest⟩
    · exact ⟨_, exec_attestTimeout hp hst hlate, refusePort_refused hlen pcAttest⟩
    · rw [exec_admissionMessage hp hst, if_neg (by simp)]
      exact ⟨_, rfl, refusePort_refused hheard pcAdmit⟩
    · rw [exec_admissionMessage hp hst, if_pos rfl]
      exact ⟨_, rfl, tryAdmit_admitted_st hlen ⟨hst, hj, hpj, hl⟩ ha⟩
    · rw [exec_admissionMessage hp hst, if_pos rfl]
      exact ⟨_, rfl, tryAdmit_admitted_refuses hlen ⟨hst, hj, hpj, hl⟩ ha⟩
  · intro s p hp hlen hs hc
    exact ⟨_, exec_leave hs hp, fun q hq => ports_after_leave hlen hc hq⟩
  · intro s m r hC id num n hid hnum h1 h8 hz hl0 hl3 hj
    obtain ⟨u, hu, hrun⟩ := systemJoin_ok (s := taken s 0x58 m r) hid hnum h1 h8 hz (by rwa [taken_lcState])
      (by rwa [taken_lcState]) (by rwa [taken_sys])
    refine ⟨u, mbCommand_carried hC hrun, ?_, ?_, ?_, ?_, ?_, ?_⟩
    · exact hu.field SystemState.joined fun _ _ => rfl
    · exact hu.field SystemState.systemId fun _ _ => rfl
    · exact hu.field SystemState.modNum fun _ _ => rfl
    · exact hu.field SystemState.anchor fun _ _ => rfl
    · exact hu.field SystemState.digests fun _ _ => rfl
    · rw [hu.mr, ← taken_rsp s 0x58 m r]
      exact getElem?_modNth_self _ 9 _
  · intro s m r hC u
    refine ⟨fun hd => ?_, fun hd => ?_, fun p hp hst => ?_⟩
    · exact mbCommand_carried hC (if_pos hd)
    · exact mbCommand_waits hC (if_neg (by simp [u, hd]))
    · have hports := taken_ports s 0x59 m r
      have hport : (taken s 0x59 m r).port p = s.port p := by rw [State.port, hports, State.port]
      rw [port_beginLeave _ (hports ▸ hp) (hport ▸ hst)]
      exact ⟨rfl, rfl⟩
  · intro s k hk hdue
    show execLeaveDrainExpiry s = _
    simp only [execLeaveDrainExpiry, hk, due_of_le hdue, if_true]
  · intro s
    obtain ⟨⟨hj, hid, hl⟩, hports⟩ := finishLeave_spec s
    refine ⟨hj, hid, hl, fun p hp hlen ht => ?_⟩
    obtain ⟨hsent, hst⟩ := hports p (List.mem_filter.2 ⟨List.mem_range.2 hp, ht⟩)
    exact ⟨hst hlen, hsent⟩
  · intro s m k r hC hfar hk ho hh
    refine mbCommand_carried hC (markSignal_here hfar ((taken_ctxMark ..).trans hk) ?_ ?_)
    · rwa [markOwned, taken_mark]
    · rwa [taken_mark]
  · intro s m p r hC hfar hmod hp
    have hrun := markSignal_peer (s := taken s 0x32 m r) (m := m) hfar hmod (by rwa [bundle_congr (taken_ports ..)])
    rw [taken_sys] at hrun
    refine ⟨_, mbCommand_waits hC hrun, ?_, ?_, ?_, taken_marks .., rfl⟩
    · exact (congrArg Mailbox.busy (State.mb_setMb_self ..)).trans (taken_busy ..)
    · exact congrArg Mailbox.wait (State.mb_setMb_self ..)
    · exact congrArg (List.cons _) (taken_sent ..)

end Sys2Proof.Machine

/-! SUPPORT. Steps: the queue and the fuses over a step, the state after reset, and which commands answer a next state (log entry 2,
R242, R359 to R362, R370, R399, R424). -/

namespace Sys2Proof.Machine

/-- Settles O1: the command in front is the second branch of `step`. -/
theorem stepRunsTheCommandInFront : Obligations.StepRunsTheCommandInFront := fun _ _ _ => rfl

theorem Keeps.refl (s : State) : Keeps s s := ⟨rfl, .refl _, id⟩

/-- Settles O58: every command keeps the queue it is given, and a step gives its command what is behind it. -/
theorem commandsLeaveTheQueueAlone : Obligations.CommandsLeaveTheQueueAlone :=
  ⟨fun c s _ h => ((exec_keeps c (.refl s)).get h).queue, fun s _ h => ((step_keeps s).get h).queue⟩

/-- R360: LC_STATE is that of the highest complete pair. -/
theorem lcState_eq (s : State) : lcState s = if pairDone s.rsp.fuses.ret then 3 else if pairDone s.rsp.fuses.sec then 2
    else if pairDone s.rsp.fuses.prov then 1 else 0 := rfl

/-- A pair that is complete stays complete where no half of it is unblown. -/
theorem pairDone_mono {p q : Bool × Bool} (h1 : p.1 = true → q.1 = true) (h2 : p.2 = true → q.2 = true)
    (h : pairDone p = true) : pairDone q = true := by
  simp only [pairDone, Bool.and_eq_true] at h ⊢
  exact ⟨h1 h.1, h2 h.2⟩

/-- Pairs that stay complete do not let LC_STATE fall. -/
theorem lcState_mono {s t : State} (h : FusesForward s.rsp.fuses t.rsp.fuses) : lcState s ≤ lcState t := by
  obtain ⟨hp1, hp2, hs1, hs2, hr1, hr2, -⟩ := h
  have hret := pairDone_mono hr1 hr2
  have hsec := pairDone_mono hs1 hs2
  have hprov := pairDone_mono hp1 hp2
  rw [lcState_eq s, lcState_eq t]
  by_cases hr : pairDone s.rsp.fuses.ret = true
  · rw [if_pos hr, if_pos (hret hr)]
  by_cases hs : pairDone s.rsp.fuses.sec = true
  · rw [if_neg hr, if_pos hs, if_pos (hsec hs)]
    split <;> decide
  by_cases hp : pairDone s.rsp.fuses.prov = true
  · rw [if_neg hr, if_neg hs, if_pos hp, if_pos (hprov hp)]
    split_ifs <;> decide
  · rw [if_neg hr, if_neg hs, if_neg hp]
    exact Nat.zero_le _

/-- Settles O59: every command moves the fuses forward only, and LC_STATE follows them. -/
theorem fusesOnlyMoveForward : Obligations.FusesOnlyMoveForward := by
  intro s t h
  have hf := ((step_keeps s).get h).fuses
  exact ⟨hf, lcState_mono hf⟩

theorem field_reset {f : Nat} (h : f < 8) : State.reset.field f = FieldState.reset := List.getD_replicate _ h

/-- Settles O3: the registers are those that `State.reset` lists. -/
theorem resetIsStandby : Obligations.ResetIsStandby := by
  unfold Obligations.ResetIsStandby
  refine ⟨rfl, rfl, rfl, rfl, rfl, rfl, rfl, rfl, fun f hf => ?_, fun i hi => ?_, fun _ => rfl, rfl, MemState.reset_ok, rfl⟩
  · rw [field_reset hf]
    exact ⟨rfl, rfl, rfl, rfl, rfl, rfl⟩
  · exact List.getElem?_replicate_of_lt hi

/-! The first instruction of a dispatch (R287, R289). -/

theorem began_first {s : State} {d : DRef} {x : Dispatch} (hx : s.disp? d = some x) (h : x.tStart = none) :
    began s d = match x.markNum (field x.record 12 2) with
      | some k => (s.setDisp { x with tStart := some s.now }).signal ⟨k, 1, x.ctx, .starter⟩
      | none => s.setDisp { x with tStart := some s.now } := by
  simp only [began, hx, h, Option.isSome_none, Bool.false_eq_true, if_false] <;> rfl

/-- Settles O56: T_START is written where it is not there yet, and START_MARK signalled with it. -/
theorem firstInstructionStampsTheStart : Obligations.FirstInstructionStampsTheStart := by
  unfold Obligations.FirstInstructionStampsTheStart
  refine ⟨fun s d x hx h => ?_, fun s d x hx h => ?_, fun s d hx => ?_⟩
  · rw [began_first hx h]
    cases x.markNum (field x.record 12 2) <;> rfl
  · simp only [began, hx, Option.isSome_iff_ne_none.2 h, if_true]
  · simp only [began, hx]

/-! Commands that answer a next state. -/

/-- A command answers a next state. -/
def Answers (o : Out) : Prop := ∃ t, o = .next t

theorem answers_next (s : State) : Answers (.next s) := ⟨s, rfl⟩

theorem answers_ite {p : Prop} [Decidable p] {a b : Out} (ha : Answers a) (hb : Answers b) : Answers (if p then a else b) := by
  split
  · exact ha
  · exact hb

/-- An instruction ends, halts, waits or is not at its place: each is a next state. -/
theorem issue_answers (s : State) (d : DRef) (i : Instr) (r : Nat) (f : Dispatch → Ctx → Nat → Except Halt State) :
    Answers (issue s d i r f) := by
  unfold issue
  split
  · exact answers_next _
  · split <;> exact answers_next _

/-- A mailbox command is held, overruns, is refused, answers or waits. -/
theorem mbCommand_answers (op m : Nat) (r : MbReq) (h : State → Reply) (s : State) : Answers (mbCommand op m r h s) := by
  unfold mbCommand
  dsimp only
  refine answers_ite (answers_next _) (answers_ite (answers_next _) (answers_ite (answers_next _) ?_))
  split
  · exact answers_next _
  · split <;> exact answers_next _

theorem settleRestart_answers {o : Out} (h : Answers o) : Answers (settleRestart o) := by
  obtain ⟨t, rfl⟩ := h
  exact answers_next _

theorem collMsg_answers (i : Instr) (s : State) (c : CMsg) (p : Bool) (q : CMsg → Coll → Bool) (f : State → Coll → State) :
    Answers (collMsg i s c p q f) := by
  unfold collMsg
  dsimp only
  split
  · exact answers_next _
  · exact answers_ite (answers_next _) (answers_ite (answers_next _) (answers_next _))

theorem spdmOn_answers (v : SpdmVia) (p : SpdmStep → Bool) (h : Option Nat → State → Option (State × SpdmRsp)) (s : State) :
    Answers (spdmOn v p h s) := by
  unfold spdmOn
  split
  · exact answers_next _
  · refine answers_ite (answers_next _) ?_
    split <;> exact answers_next _

theorem inSession_answers (v : SpdmVia) (n : Nat) (p : SpdmStep → Bool) (h : Session → State → Option (State × SpdmRsp))
    (s : State) : Answers (inSession v n p h s) := spdmOn_answers ..

theorem smbAnswer_answers (s : State) (b : Bytes) : Answers (smbAnswer s b) := answers_ite (answers_next _) (answers_next _)

theorem dbgAnswer_answers (o : TokenOut) : Answers (dbgAnswer o) := by
  unfold dbgAnswer
  split <;> exact answers_next _

theorem execHostMarkSig_answers (b : Bytes) (s : State) : Answers (execHostMarkSig b s) := by
  unfold execHostMarkSig
  dsimp only
  refine answers_ite (answers_next _) (answers_ite (answers_next _) ?_)
  split
  · exact answers_next _
  · exact answers_ite (answers_next _) (answers_next _)

theorem execQueueDoorbell_answers (q v : Nat) (s : State) : Answers (execQueueDoorbell q v s) :=
  answers_ite (answers_next _) (answers_next _)

/-! The rows of the mailboxes (R324, R326). -/

theorem mem_of_assoc {α β : Type} [DecidableEq α] {k : α} {v : β} {l : List (α × β)} (h : assoc k l = some v) : (k, v) ∈ l := by
  induction l with
  | nil => exact absurd h nofun
  | cons e l ih =>
    rw [assoc] at h
    split at h
    · next he => exact List.mem_cons.2 (.inl (Prod.ext he.symm (Option.some.inj h).symm))
    · exact List.mem_cons_of_mem _ (ih h)

/-- R326: a mailbox row is the command of its OPCODE, which follows the protocol of R324; behind FW_ACTIVATE a restart may follow. -/
theorem mailboxRow_spec {op m : Nat} {r : MbReq} {i : Instr} (h : mailboxRow op m r = some i) :
    (∀ s, exec i s = runMailbox op m r s)
      ∧ ∃ f, (∀ s, exec i s = mbCommand op m r f s) ∨ ∀ s, exec i s = settleRestart (mbCommand op m r f s) := by
  have hrow := mem_of_assoc h
  simp only [List.cons_append, List.nil_append, List.mem_cons, List.not_mem_nil, or_false, Prod.mk.injEq] at hrow
  iterate 33
    rcases hrow with ⟨rfl, rfl⟩ | hrow
    · exact ⟨fun _ => rfl, _, .inl fun _ => rfl⟩
  obtain ⟨rfl, rfl⟩ := hrow
  exact ⟨fun _ => rfl, _, .inr fun _ => rfl⟩

/-- Every OPCODE has a command, or is refused. -/
theorem runMailbox_answers (op m : Nat) (r : MbReq) (s : State) : Answers (runMailbox op m r s) := by
  unfold runMailbox
  iterate 33 refine answers_ite (mbCommand_answers ..) ?_
  exact answers_ite (settleRestart_answers (mbCommand_answers ..)) (mbCommand_answers ..)

/-- A register write stores, runs the command of the register, or changes nothing. -/
theorem writeRegister_answers (off n v : Nat) (s : State) : Answers (writeRegister off n v s) := by
  unfold writeRegister
  refine answers_ite (answers_next _) (answers_ite (answers_next _) (answers_ite (execHostMarkSig_answers ..)
    (answers_ite (answers_next _) (answers_ite (answers_next _) (answers_ite (answers_ite (execQueueDoorbell_answers ..)
    (answers_next _)) (answers_ite (answers_ite (answers_next _) (answers_next _)) (answers_ite (answers_next _) ?_)))))))
  split
  · exact answers_next _
  · exact runMailbox_answers ..
  · exact answers_ite (answers_next _) (answers_next _)
  · exact answers_next _

/-! Every command. -/

theorem exec_answers {i : Instr} (s : State) (hi : ∀ mv, i ≠ .inputTrip mv) : Answers (exec i s) := by
  cases i with
  | nttF | nttI | auto | cvtUp | cvtDown | cvtRescale | cvtMm | cvtDrain | ksPrep | ksIp | ksFin | vAdd | vSub | vMul
  | vMac | vRed | vCvtBf | vCvtF | vAddObj | vSubObj | vMulObj | xpose | sLd | sSt | sPut | sGet | winOpen | winClose
  | atAddM | atAddI | atAddF | atCas | scLi | scAdd | scSub | scMul | scAnd | scOr | scXor | scShl | scShr | scLd | scSt
  | scHdr | scArg | scCtr | scStat | scLrd | scLwr | hdrW | br | lap | call | ret | ring | markSig | markWait
  | handoffOut | handoffIn | rel | vltModraise | vltCts | vltEvalmod | vltStc | vltBoot
  | vltExtract | vltPbs | vltRepack | vltBootExact => exact issue_answers ..
  | stageBegin | stageEnd =>
    unfold exec
    dsimp only [execStageBegin, execStageEnd]
    exact issue_answers ..
  | ctxCreate | ctxDestroy | ctxInfo | keysetLoad | keysetUnload | keyPin | progLoad | progUnload | descSet | descFree
  | queueCreate | queueDestroy | spadRelease | hwinSet | markRead | markSet | markSignal | collCreate | collDestroy
  | collStatus | cfgBegin | cfgSet | cfgCommit | cfgRollback | cfgGet | resultGet | resultRelease | abort | attestGet
  | systemJoin | systemLeave | eventRing | fwStage => exact mbCommand_answers ..
  | fwActivate => exact settleRestart_answers (mbCommand_answers ..)
  | lcToken => exact settleRestart_answers (inSession_answers ..)
  | collCommit | collDepart | collOrphan | collAbandon | collRestart | collChunkAck | collChunk | collChunkCredit =>
    unfold exec
    dsimp only [execCollCommit, execCollDepart, execCollOrphan, execCollAbandon, execCollRestart, execCollChunkAck,
      execCollChunk, execCollChunkCredit]
    exact collMsg_answers ..
  | getVersion | getCapabilities | negotiateAlgorithms | getDigests | getCertificate | challenge | getMeasurements
  | keyExchange | chunkGet | respondIfReady =>
    unfold exec
    dsimp only [execGetVersion, execGetCapabilities, execNegotiateAlgorithms, execGetDigests, execGetCertificate,
      execChallenge, execGetMeasurements, execKeyExchange, execChunkGet, execRespondIfReady]
    exact spdmOn_answers ..
  | finish | heartbeat | keyUpdate | endSession | kemMix | nonceGet | debugClose | weightsKey | weightsUnwrap =>
    unfold exec
    dsimp only [execFinish, execHeartbeat, execKeyUpdate, execEndSession, execKemMix, execNonceGet, execDebugClose,
      execWeightsKey, execWeightsUnwrap]
    exact inSession_answers ..
  | migration | dmaTransferComplete | wakeEvent => exact answers_next _
  | lapIterationEnd | ringConfigEffect | handoffTimeout | stageEndRetire | instructionRetire | streamUnitCommit
  | pageWalk | streamCreditRetry | streamEmptyResume | crReq | crGrant | put | crReturn | crCancel | creditTimeout =>
    unfold exec
    dsimp only [execLapIterationEnd, execRingConfigEffect, execHandoffTimeout, execStageEndRetire, execInstructionRetire,
      execStreamUnitCommit, execPageWalk, execStreamCreditRetry, execStreamEmptyResume, execCrReq, execCrGrant, execPut,
      execCrReturn, execCrCancel, execCreditTimeout]
    repeat' split
    all_goals exact answers_next _
  | dispatchRecordRead | dispatchPlace | distanceYieldExpiry | dispatchResume | placeWindowExpiry | dispatchCommit
  | markSignalArrival | markWaitTimeout | peerMarkSignal | peerMarkAck | keyCopyComplete | resWindowExpiry | cfgTxnExpiry
  | settingTakeEffect | leaveDrainExpiry | fwLiveSwap =>
    unfold exec
    dsimp only [execDispatchRecordRead, execDispatchPlace, execDistanceYieldExpiry, execDispatchResume, execPlaceWindowExpiry,
      execDispatchCommit, execMarkSignalArrival, execMarkWaitTimeout, execPeerMarkSignal, execPeerMarkAck,
      execKeyCopyComplete, execResWindowExpiry, execCfgTxnExpiry, execSettingTakeEffect, execLeaveDrainExpiry,
      execFwLiveSwap]
    repeat' split
    all_goals exact answers_next _
  | hostWindowAccess | hostWindowCas | companionSnoopInvalidate | weloneLinkDown | weloneLinkRetrain
  | portTrainingAttempt | portTrainingComplete | ident | identTimeout | portAttestComplete | attestTimeout | flitCrcError
  | laneLossOfLock | linkDeadTimer | idleFlitSend | gcmTagFailure | leave | admissionMessage | collSetup | reformTimeout =>
    unfold exec
    dsimp only [execHostWindowAccess, execHostWindowCas, execCompanionSnoopInvalidate, execWeloneLinkDown, execWeloneLinkRetrain,
      execPortTrainingAttempt, execPortTrainingComplete, execIdent, execIdentTimeout, execPortAttestComplete,
      execAttestTimeout, execFlitCrcError, execLaneLossOfLock, execLinkDeadTimer, execIdleFlitSend, execGcmTagFailure,
      execLeave, execAdmissionMessage, execCollSetup, execReformTimeout]
    repeat' split
    all_goals exact answers_next _
  | marshalFaultService | pageFillComplete | pageRewalk | faultWaitExpiry | vaonRise | enRise | enFall
  | startupStepComplete | vaonLoss | thermalTrip | refclkLoss | thermalEmergencyEntry | thermalEmergencyExit
  | pacerSample | clockStepChange | fieldIdleSleep | fieldIdleOff | fieldWakeComplete | restEntry | restEntryComplete
  | restWakeComplete | fieldEntryComplete | hbmDoubledRefresh =>
    unfold exec
    dsimp only [execMarshalFaultService, execPageFillComplete, execPageRewalk, execFaultWaitExpiry, execVaonRise, execEnRise,
      execEnFall, execStartupStepComplete, execVaonLoss, execThermalTrip, execRefclkLoss, execThermalEmergencyEntry,
      execThermalEmergencyExit, execPacerSample, execClockStepChange, execFieldIdleSleep, execFieldIdleOff,
      execFieldWakeComplete, execRestEntry, execRestEntryComplete, execRestWakeComplete, execFieldEntryComplete,
      execHbmDoubledRefresh]
    repeat' split
    all_goals exact answers_next _
  | dbgStatus | dbgChallenge | dbgRead | dbgWrite | dbgHalt | dbgResume | chunkSend | spdmSessionIdleTimeout
  | heartbeatPeriodExpiry | sealedFrameZeroed | drbgReseed | entropyHealthFail | entropyReseedTimeout | hammerMac
  | hslotWrite | hslotRelease | keyLoad | hammerPrivateKeyOp | idcode | bypass | samplePreload | extest | smbModulePwr
  | smbWrite =>
    unfold exec
    dsimp only [execDbgStatus, execDbgChallenge, execDbgRead, execDbgWrite, execDbgHalt, execDbgResume, execChunkSend,
      execSpdmSessionIdleTimeout, execHeartbeatPeriodExpiry, execSealedFrameZeroed, execDrbgReseed,
      execEntropyHealthFail, execEntropyReseedTimeout, execHammerMac, execHslotWrite, execHslotRelease, execKeyLoad,
      execHammerPrivateKeyOp, execIdcode, execBypass, execSamplePreload, execExtest, execSmbModulePwr, execSmbWrite]
    repeat' split
    all_goals exact answers_next _
  | fabricRetry | controlUe | contextUe | fieldPllLoss | moduleFault | fieldRecovery | selfTestComplete | patrolScrub
  | statusMirrorRewrite | relayControlUe =>
    unfold exec
    dsimp only [execFabricRetry, execControlUe, execContextUe, execFieldPllLoss, execModuleFault, execFieldRecovery,
      execSelfTestComplete, execPatrolScrub, execStatusMirrorRewrite, execRelayControlUe]
    repeat' split
    all_goals exact answers_next _
  | smbFenceStatus | smbSerial | smbIdcode | smbLcState => exact smbAnswer_answers ..
  | smbFieldPwr => exact answers_ite (smbAnswer_answers ..) (answers_ite (answers_next _) (answers_next _))
  | hostMarkSig => exact execHostMarkSig_answers ..
  | queueDoorbell => exact execQueueDoorbell_answers ..
  | dbgDebugClose => exact answers_ite (answers_next _) (dbgAnswer_answers _)
  | dbgResponse =>
    unfold exec execDbgResponse
    refine answers_ite (answers_next _) ?_
    dsimp only
    split
    · exact answers_next _
    · exact answers_ite (answers_next _) (answers_next _)
  | dbgLcToken =>
    unfold exec execDbgLcToken
    refine answers_ite (answers_next _) ?_
    split
    · exact settleRestart_answers (dbgAnswer_answers _)
    · exact answers_next _
  | registerWrite p =>
    unfold exec
    cases p with
    | aperture off => exact answers_ite (writeRegister_answers ..) (answers_next _)
    | manager | port | stale | hammer => exact answers_ite (answers_next _) (answers_next _)
  | inputTrip mv => exact absurd rfl (hi mv)

/-- Settles O4: only INPUT_TRIP beyond the ratings has no next state. -/
theorem onlyRatingsStopTheModel : Obligations.OnlyRatingsStopTheModel := by
  refine ⟨fun c s hc => ?_, fun mv s h => ?_⟩
  · cases c
    case inputTrip mv =>
      obtain ⟨hlow, hhigh⟩ := hc mv rfl
      have hin : ¬(decide (mv < -500) || decide (mv > 60000)) = true := by simp; omega
      show Answers (execInputTrip mv s)
      rw [execInputTrip, if_neg hin]
      dsimp only
      split_ifs <;> exact answers_next _
    all_goals exact exec_answers s fun _ => nofun
  · have hout : (decide (mv < -500) || decide (mv > 60000)) = true := by simpa using h
    show execInputTrip mv s = _
    rw [execInputTrip, if_pos hout]

end Sys2Proof.Machine

/-! SUPPORT. The mailbox protocol of every row (R317, R320, R323, R324, R326). -/

namespace Sys2Proof.Machine

section MailboxProtocol
variable {s : State} {op m : Nat} {r : MbReq} (h : State → Reply)

/-- The mailbox once its doorbell is served. -/
def rungMailbox (s : State) (op m : Nat) (r : MbReq) : Mailbox :=
  { s.mb m with req := slotBytes (s.mb m).req op r, busy := true, done := false, opcode := op, seq := r.seq
                irq := bit r.flags 0 }

/-- R317: a doorbell behind a host-window write that the link holds is held too. -/
theorem mbCommand_held (hm : m < 64) (hl : s.linkUp = true) (hu : marshalUp s = true) (hb : bellWaits s = true) :
    mbCommand op m r h s = .next ((s.setMb m { s.mb m with req := slotBytes (s.mb m).req op r }).holdAtLink
      (heldBell m (slotBytes (s.mb m).req op r))) := by
  simp only [mbCommand, hm, hl, hu, hb, decide_true, Bool.and_true, Bool.not_true, Bool.false_eq_true, if_false, if_true]

/-- R324: a doorbell of a busy mailbox sets OVERRUN. -/
theorem mbCommand_overrun (hm : m < 64) (hl : s.linkUp = true) (hu : marshalUp s = true) (hb : bellWaits s = false)
    (hf : (s.mb m).busy = true) : mbCommand op m r h s = .next (s.setMb m { s.mb m with overrun := true }) := by
  simp only [mbCommand, hm, hl, hu, hb, hf, decide_true, Bool.and_true, Bool.not_true, Bool.false_eq_true, if_false, if_true]

/-- R324: a general refusal answers ST_DENIED in place of the command. -/
theorem mbCommand_refused {f : FaultCode} (hm : m < 64) (hl : s.linkUp = true) (hu : marshalUp s = true)
    (hb : bellWaits s = false) (hf : (s.mb m).busy = false) (hg : generalRefusal s op m r = some f) :
    mbCommand op m r h s = .next (respond (s.setMb m (rungMailbox s op m r)) m (.denied f)) := by
  have hset : ∀ b, generalRefusal (s.setMb m b) op m r = some f := fun _ => hg
  simp only [mbCommand, hm, hl, hu, hb, hf, decide_true, Bool.and_true, Bool.not_true, Bool.false_eq_true, if_false, hset,
    rungMailbox]

end MailboxProtocol

/-- A response over an open link is in the mailbox and, where one was asked for, an interrupt on the link. -/
theorem respond_eq {s : State} (hl : s.linkUp = true) (m : Nat) (a : Answer) : respond s m a
    = { s with mbs := (respond s m a).mbs, sent := if (s.mb m).irq then .interrupt m :: s.sent else s.sent } := by
  have hlm : ∀ b, (s.setMb m b).linkUp = true := fun _ => hl
  simp only [respond, State.interrupt, hlm, if_true]
  split <;> rfl

theorem mb_respond_other (s : State) {k m : Nat} (hk : k ≠ m) (a : Answer) : (respond s m a).mb k = s.mb k := by
  have hpost : ∀ (u : State) (b : Bool), (if b then u.interrupt m else u).mb k = u.mb k := by
    intro u b
    cases b
    · rfl
    · show (u.interrupt m).mb k = u.mb k
      rw [State.interrupt]
      split <;> rfl
  exact (hpost _ _).trans (State.mb_setMb_other s hk _)

/-- A restart that is not due does not follow. -/
theorem settleRestart_next {s : State} (h : s.rsp.restartDue = false) : settleRestart (.next s) = .next s := by
  simp only [settleRestart, h, Bool.false_eq_true, if_false]

theorem holdAtLink_rsp (s : State) (i : Instr) : (s.holdAtLink i).rsp = s.rsp := by
  obtain ⟨p, hp, -⟩ := wakeRest_shape s
  simp only [State.holdAtLink, hp]
  split <;> rfl

/-- What a mailbox row comes to where its command is not carried out, no restart being due. -/
theorem mailboxRow_notCarried {op m : Nat} {r : MbReq} {i : Instr} {s t : State} (hrow : mailboxRow op m r = some i)
    (ht : t.rsp.restartDue = false) (h : ∀ f, mbCommand op m r f s = .next t) : exec i s = .next t := by
  obtain ⟨-, f, hcmd | hcmd⟩ := mailboxRow_spec hrow
  · rw [hcmd, h]
  · rw [hcmd, h, settleRestart_next ht]

/-- Settles O30, from the protocol that the 34 rows share (log entry 38: the doorbell behind a held host-window write is held with
BUSY unset). -/
theorem mailboxProtocolHoldsForEveryRow : Obligations.MailboxProtocolHoldsForEveryRow := by
  refine ⟨fun op m r i s hrow hm hl hu hd => ⟨fun hb => ?_, fun hb hf => ?_, fun f hb hf hg => ?_⟩,
    fun op m v r i s hm hl hu hp hrow => ?_⟩
  · exact mailboxRow_notCarried hrow (by rw [holdAtLink_rsp]; exact hd) fun h => mbCommand_held h hm hl hu hb
  · exact mailboxRow_notCarried hrow hd fun h => mbCommand_overrun h hm hl hu hb hf
  · have heq := respond_eq (s := s.setMb m (rungMailbox s op m r)) hl m (.denied f)
    have hrung := State.mb_setMb_self s m (rungMailbox s op m r)
    have hmb := mb_respond_self (s.setMb m (rungMailbox s op m r)) m (.denied f)
    have hdue : (respond (s.setMb m (rungMailbox s op m r)) m (.denied f)).rsp.restartDue = false := by
      rw [heq]
      exact hd
    refine ⟨_, _, _, mailboxRow_notCarried hrow hdue fun h => mbCommand_refused h hm hl hu hb hf hg, ?_, hmb, fun k hk => ?_,
      rfl, rfl, (congrArg Mailbox.overrun hrung :), rfl, (congrArg Mailbox.opcode hrung :), (congrArg Mailbox.seq hrung :), rfl, rfl, rfl, ?_⟩
    · rw [heq]
      rfl
    · rw [mb_respond_other _ hk, State.mb_setMb_other s hk]
    · rw [heq, hrung]
      rfl
  · have hpc : parseReq ((linkHeard s).mb m).req = (op, r) := hp
    rw [exec_registerWrite_aperture hl hu, writeRegister_mailbox v _ hm, hpc, (mailboxRow_spec hrow).1]
    rfl

end Sys2Proof.Machine

/-! SUPPORT. The test access port and the management bus (R392, R423), and the staging of settings (R334). -/

namespace Sys2Proof.Machine

/-! The test access port and the management bus. -/

section Powered
variable {s : State} (h : s.pwr.st ≠ .off)
include h

theorem tapOn_of_powered : tapOn s = true := bne_iff_ne.2 h

theorem smbAnswer_powered (b : Bytes) : smbAnswer s b = .next { s with sent := .smb b :: s.sent } :=
  if_neg (by simpa using h)

theorem exec_smbModulePwr_powered : exec .smbModulePwr s
    = .next { s with pwr := { s.pwr with smbSeen := modulePwr s }, sent := .smb (leBytes 8 (modulePwr s)) :: s.sent } :=
  if_neg (by simpa using h)

theorem exec_smbFieldPwr_powered {f : Nat} (hf : f < 8) : exec (.smbFieldPwr f) s
    = .next { s with sent := .smb (leBytes 8 (fieldPwr s f)) :: s.sent } :=
  (if_pos hf).trans (smbAnswer_powered h _)

theorem exec_extest_powered (pins : Nat) (hst : s.pwr.st ≠ .standby) : exec (.extest pins) s
    = .next { s with rsp := { s.rsp with tap := 1 }, sent := .tdo 0 :: s.sent } :=
  (if_neg (by simpa using hst)).trans (if_pos (tapOn_of_powered h))

end Powered

/-- R423: the register that has been read over the bus is the one remembered, so that the alert is released. -/
theorem smbAlert_seen (s : State) (sent : List Msg) :
    smbAlert { s with pwr := { s.pwr with smbSeen := modulePwr s }, sent := sent } = false := bne_self_eq_false (modulePwr s)

theorem lcStateByte_eq (w : Nat) : leBytes 1 (bits w 1 0) = [BitVec.ofNat 8 (w % 4)] := by
  rw [bits_eq]
  simp [leBytes]

/-- Settles O40: with power each command of the port and the bus is carried out (log entry 5: the codes of the TAP and the 0 that
BYPASS shifts out). -/
theorem testPortAndManagementBusAnswer : Obligations.TestPortAndManagementBusAnswer := by
  unfold Obligations.TestPortAndManagementBusAnswer
  refine ⟨fun s h => ?_, fun s h => ?_⟩
  · have hon := tapOn_of_powered h
    exact ⟨if_pos hon, if_pos hon, fun pins => ⟨_, if_pos hon⟩,
      fun pins => ⟨fun hst => ⟨_, if_pos (by simpa using hst)⟩, exec_extest_powered h pins⟩⟩
  · exact ⟨⟨_, exec_smbModulePwr_powered h, smbAlert_seen s _, rfl⟩, smbAnswer_powered h _,
      fun f hf => exec_smbFieldPwr_powered h hf, smbAnswer_powered h _, smbAnswer_powered h _,
      (smbAnswer_powered h _).trans (by rw [lcStateByte_eq]), fun code => if_neg (by simpa using h)⟩

/-! The staging of settings. -/

/-- CFG_SET whose entries all pass: each takes its place behind the entries staged before (log entry 39). -/
theorem cfgSet_staged {s : State} {m : Nat} {r : MbReq} {t : Txn} (ht : txn? s r.txn = some t) (hlo : 1 ≤ field r.payload 0 4)
    (hhi : field r.payload 0 4 ≤ 251) (hz : allZero r.payload 4 12 = true) {staged : List Entry}
    (hst : staged = ((List.range (field r.payload 0 4)).map (cfgEntry r.payload)).foldl (fun l e => assocDel e.1 l ++ [e]) t.staged)
    (hok : ∀ i, i < field r.payload 0 4 → entryFault s m r.payload staged i = none) :
    cfgSet m r s = reply { s with cfg := { s.cfg with
      txns := s.cfg.txns.map (fun y => if y.num == t.num then { y with staged := staged } else y) } } (.ok []) := by
  have hgo : (!(decide (1 ≤ field r.payload 0 4) && decide (field r.payload 0 4 ≤ 251) && allZero r.payload 4 12)) = false := by
    simp [hlo, hhi, hz]
  have hnone : (List.range (field r.payload 0 4)).findSome? (fun i => (entryFault s m r.payload staged i).map (fun f => (f, i)))
      = none := List.findSome?_eq_none_iff.2 fun i hi => by rw [hok i (List.mem_range.1 hi)]; rfl
  rw [hst] at hnone
  simp only [cfgSet, hgo, Bool.false_eq_true, if_false, ht, hnone, hst]

theorem OnlyAnswers.cfg {s t : State} (h : OnlyAnswers s t) : t.cfg = s.cfg := by rw [h]

/-! A setting staged a second time. -/

namespace Restaged

/-- A transaction with two settings of module scope staged. -/
def txn : Txn := ⟨1, 0, 0, [((0x0300, 0), 1250), ((0x0301, 0), 3)]⟩

/-- A serving module with that transaction. -/
def state : State :=
  { State.reset with pwr := { Power.reset with st := .up }, linkUp := true, cfg := { State.reset.cfg with txns := [txn] } }

/-- CFG_SET of the first of the two settings to 2500. -/
def req : MbReq := ⟨true, 0, 0, noCtx, 1, leBytes 4 1 ++ zeros 12 ++ leBytes 2 0x0300 ++ zeros 2 ++ leBytes 4 0 ++ leBytes 8 2500⟩

/-- The setting has gone behind the other. -/
def moved : List Entry := [((0x0301, 0), 3), ((0x0300, 0), 2500)]

/-- The setting at its former place, as the statement has it. -/
def inPlace : List Entry := [((0x0300, 0), 2500), ((0x0301, 0), 3)]

theorem carried : Carried state 0x41 0 req := by
  refine ⟨?_, ?_, ?_, ?_, ?_, ?_⟩ <;> decide +kernel

theorem one_entry : field req.payload 0 4 = 1 := by decide +kernel

theorem reserved_zero : allZero req.payload 4 12 = true := by decide +kernel

theorem passes (i : Nat) (hi : i < field req.payload 0 4) (l : List Entry) : entryFault state 0 req.payload l i = none := by
  rw [one_entry] at hi
  obtain rfl : i = 0 := by omega
  rfl

theorem moved_eq : moved
    = ((List.range (field req.payload 0 4)).map (cfgEntry req.payload)).foldl (fun l e => assocDel e.1 l ++ [e]) txn.staged := by
  decide +kernel

theorem inPlace_eq : inPlace
    = ((List.range (field req.payload 0 4)).map (cfgEntry req.payload)).foldl (fun l e => assocSet e.1 e.2 l) txn.staged := by
  decide +kernel

end Restaged

/-- Refutes O34: CFG_SET of a setting that is staged already. The model takes the earlier entry out and puts the new one at the end
(log entry 39), so that the transaction holds the two settings in the other order than the statement says, which replaces the value in
place. -/
theorem not_transactionsDecideSettings : ¬ Obligations.TransactionsDecideSettings := by
  unfold Obligations.TransactionsDecideSettings
  rintro ⟨-, hset, -⟩
  have hlo : 1 ≤ field Restaged.req.payload 0 4 := by rw [Restaged.one_entry]
  have hhi : field Restaged.req.payload 0 4 ≤ 251 := by rw [Restaged.one_entry]; decide
  obtain ⟨u, hexec, -, htxn, -⟩ := (hset Restaged.state 0 Restaged.req Restaged.txn Restaged.carried rfl hlo hhi
    Restaged.reserved_zero).1 fun i hi => Restaged.passes i hi _
  have hmodel := mbCommand_carried (h := cfgSet 0 Restaged.req) Restaged.carried (cfgSet_staged (t := Restaged.txn) rfl hlo hhi
    Restaged.reserved_zero Restaged.moved_eq fun i hi => Restaged.passes i hi _)
  have hsame : respond _ 0 (.ok []) = respond u 0 (.ok []) := Host.Outcome.next.inj (hmodel.symm.trans hexec)
  have hcfg := (onlyAnswers_respond ..).cfg.symm.trans ((congrArg State.cfg hsame).trans (onlyAnswers_respond ..).cfg)
  rw [txn?, ← hcfg] at htxn
  have horder : Restaged.moved = Restaged.inPlace := (congrArg Txn.staged (Option.some.inj htxn)).trans Restaged.inPlace_eq.symm
  exact absurd horder (by decide)

end Sys2Proof.Machine

/-! SUPPORT. A debug write to a Core Store (R390). -/

namespace Sys2Proof.Machine

/-- Over a canonical scratchpad a write is what its bytes read, and every other byte reads as before. -/
theorem scratchRead_write {sc : Scratch} (hok : memOk sc.data = true) (a : Nat) (bs : Bytes) (p : Bool) :
    scratchRead (scratchWrite sc a bs p) a bs.length = bs
      ∧ ∀ b, (b < a ∨ a + bs.length ≤ b) → scratchRead (scratchWrite sc a bs p) b 1 = scratchRead sc b 1 := by
  refine ⟨?_, fun b hb => ?_⟩
  · rw [scratchRead_eq (scratchWrite_ok hok ..)]
    refine List.ext_getElem (by simp) fun i hi hj => ?_
    simp only [List.getElem_map, List.getElem_range, scratchByte_write_in sc a bs p hj, List.getD_eq_getElem _ _ hj]
  · simp only [scratchRead_eq (scratchWrite_ok hok ..), scratchRead_eq hok, List.range_one, List.map_cons, List.map_nil,
      Nat.add_zero, scratchByte_write_out sc a bs p hb]

/-- DBG_WRITE of a Core Store within reach stores 8 bytes. -/
theorem exec_dbgWrite_coreStore {s : State} {c o : Nat} (v : Nat) (hopen : debugReach s ≠ .closed)
    (hreach : dbgReaches s (.coreStore c o) = true) : exec (.dbgWrite (.coreStore c o) v) s
      = dbgOk { s with mem := { s.mem with cs := scratchWrite s.mem.cs (c * 2 ^ 21 + o) (leBytes 8 v) false } } [] := by
  show execDbgWrite _ v s = _
  rw [execDbgWrite, if_neg (by simpa using hopen), if_neg (by simp [hreach])]

/-- Over canonical memory those 8 bytes and nothing else of the Core Store change. -/
theorem dbgWrite_coreStore {s : State} {c o : Nat} (v : Nat) (hok : s.mem.ok = true) (hopen : debugReach s ≠ .closed)
    (hreach : dbgReaches s (.coreStore c o) = true) :
    ∃ t : State, exec (.dbgWrite (.coreStore c o) v) s = .next { t with sent := .debug .ok none [] :: s.sent }
      ∧ t = { s with mem := { s.mem with cs := t.mem.cs } } ∧ scratchRead t.mem.cs (c * 2 ^ 21 + o) 8 = leBytes 8 v
      ∧ ∀ b, (b < c * 2 ^ 21 + o ∨ c * 2 ^ 21 + o + 8 ≤ b) → scratchRead t.mem.cs b 1 = scratchRead s.mem.cs b 1 := by
  obtain ⟨-, -, hcs, -⟩ := s.mem.ok_iff.1 hok
  have h := scratchRead_write hcs (c * 2 ^ 21 + o) (leBytes 8 v) false
  rw [leBytes_length] at h
  exact ⟨_, exec_dbgWrite_coreStore v hopen hreach, rfl, h⟩

namespace Unsorted

/-- That module with debug authorised. -/
def debugged : State := { state with rsp := { state.rsp with debugAuth := true } }

theorem debug_open : debugReach debugged ≠ .closed := by decide +kernel

theorem debug_reaches : dbgReaches debugged (.coreStore 0 8) = true := by decide +kernel

theorem byte_five_after_debug : scratchRead (scratchWrite state.mem.cs (0 * 2 ^ 21 + 8) (leBytes 8 0) false) 5 1 = [7] := by
  decide +kernel

end Unsorted

/-- Refutes O41: over a Core Store whose cells are not listed by rising address, a debug write of 8 zero bytes at byte 8 moves byte 20
behind byte 5, which then shows 7 where it showed 0. No step leaves a Core Store in that form (log entry 7); with the canonical form as
a premise the write keeps every other byte (`dbgWrite_coreStore`). -/
theorem not_debugReachesWhatTheLifecycleAllows : ¬ Obligations.DebugReachesWhatTheLifecycleAllows := by
  unfold Obligations.DebugReachesWhatTheLifecycleAllows
  rintro ⟨-, -, -, hwrite, -⟩
  obtain ⟨t, hexec, -, hcs, -⟩ := hwrite Unsorted.debugged (.coreStore 0 8) 0 Unsorted.debug_open Unsorted.debug_reaches
  obtain ⟨-, -, hout⟩ := hcs 0 8 rfl
  have hsame := Host.Outcome.next.inj ((exec_dbgWrite_coreStore 0 Unsorted.debug_open Unsorted.debug_reaches).symm.trans hexec)
  have hmem : _ = t.mem := (congrArg State.mem hsame :)
  have hfive := hout 5 (.inl (by decide))
  rw [← hmem] at hfive
  exact absurd (Unsorted.byte_five_after_debug.symm.trans (hfive.trans Unsorted.byte_five_before)) (by decide)

end Sys2Proof.Machine

/-! SUPPORT. The SPDM responder: connections, sessions and their requests (R373 to R376, R383, R389). -/

namespace Sys2Proof.Machine

/-! A request on a carrier. -/

section Responder
variable {s t : State} {v : SpdmVia} {sc : Option Nat} {n : Nat} {x : Session} {r : SpdmRsp} {need : SpdmStep → Bool}

/-- A request in a step that admits it is answered with what its handler says. -/
theorem spdmOn_answered {h : Option Nat → State → Option (State × SpdmRsp)} (hv : spdmScope s v = some sc)
    (hn : need (s.conn v).step = true) (hh : h sc s = some (t, r)) : spdmOn v need h s = .next (spdmSend t v r) := by
  simp only [spdmOn, hv, hn, hh, Bool.not_true, Bool.false_eq_true, if_false]

/-- A request out of its step is answered with ERROR and changes nothing else (log entry 53: its code). -/
theorem spdmOn_unexpected {h : Option Nat → State → Option (State × SpdmRsp)} (hv : spdmScope s v = some sc)
    (hn : need (s.conn v).step = false) : spdmOn v need h s = .next (spdmSend s v (.error spUnexpected)) := by
  simp only [spdmOn, hv, hn, Bool.not_false, if_true]

/-- A message of a session in a step that admits it restarts the idle time and is answered with what its handler says. -/
theorem inSession_answered {h : Session → State → Option (State × SpdmRsp)} (hv : spdmScope s v = some sc)
    (hx : session? s v sc n = some x) (hn : need x.step = true)
    (hh : h { x with lastTick := s.now } (setSession s { x with lastTick := s.now }) = some (t, r)) :
    inSession v n need h s = .next (spdmSend t v r) := by
  refine spdmOn_answered hv rfl ?_
  simp only [hx, hn, Bool.not_true, Bool.false_eq_true, if_false]
  exact hh

theorem session?_num (hx : session? s v sc n = some x) : x.num = n := by
  have h := List.find?_some hx
  simp only [Bool.and_eq_true, beq_iff_eq] at h
  exact h.1.1

theorem setSession_setSession {y : Session} (h : y.num = x.num) : setSession (setSession s x) y = setSession s y := by
  simp only [setSession, List.map_map]
  congr 2
  refine List.map_congr_left fun z _ => ?_
  simp only [Function.comp_apply, h]
  by_cases hz : (z.num == x.num) = true
  · simp only [hz, if_true, beq_self_eq_true]
  · simp only [hz, Bool.false_eq_true, if_false]

theorem dropSess_setSession (h : x.num = n) : dropSess (setSession s x) n = dropSess s n := by
  subst h
  simp only [dropSess, setSession]
  congr 2
  generalize s.rsp.sessions = l
  induction l with
  | nil => rfl
  | cons y l ih =>
    rw [List.map_cons, List.filter_cons, List.filter_cons, ih]
    by_cases hy : y.num = x.num
    · simp [hy]
    · simp [hy]

@[simp] theorem State.conn_via (s : State) (v : SpdmVia) : (s.conn v).via = v := by
  rw [State.conn]
  cases hf : s.rsp.conns.find? (·.via == v) with
  | none => rfl
  | some c => exact eq_of_beq (List.find?_some (p := fun c : SpdmConn => c.via == v) hf)

theorem State.conn_setConn {c : SpdmConn} (h : c.via = v) : (s.setConn c).conn v = c := by
  simp [State.conn, State.setConn, h]

/-! The CTR_DRBG serves a request while it is not stopped and no reseed is due (R383). -/

theorem drbg_ready (h : drbgReady s = true) :
    drbg s = some (s.freeCtr, { s with rsp := { s.rsp with drbgReqs := s.rsp.drbgReqs + 1 }, freeCtr := s.freeCtr + 1 }) := by
  rw [drbg, if_pos h]
  rfl

theorem freshBytes_length (fr n : Nat) : (freshBytes fr n).length = n := slice_length ..

theorem sign_ready (h : drbgReady s = true) : sign s = some (freshBytes s.freeCtr 96,
    { s with rsp := { s.rsp with drbgReqs := s.rsp.drbgReqs + 1 }, freeCtr := s.freeCtr + 1 }) := by
  rw [sign, drbg_ready h]
  rfl

/-! The requests of a connection (R373 to R376, R389). -/

theorem execGetVersion_answered (hv : spdmScope s v = some sc) :
    execGetVersion v s = .next (spdmSend (s.setConn { SpdmConn.new v with step := .version }) v .version) :=
  spdmOn_answered hv rfl rfl

theorem execGetCapabilities_answered (hv : spdmScope s v = some sc) (hst : (s.conn v).step = .version) :
    execGetCapabilities v s = .next (spdmSend (s.setConn { s.conn v with step := .caps }) v .capabilities) :=
  spdmOn_answered hv (by rw [hst]; rfl) rfl

theorem execGetCapabilities_unexpected (hv : spdmScope s v = some sc) (hst : (s.conn v).step ≠ .version) :
    execGetCapabilities v s = .next (spdmSend s v (.error 0x04)) :=
  spdmOn_unexpected hv (beq_false_of_ne hst)

theorem execNegotiateAlgorithms_answered (hv : spdmScope s v = some sc) (hst : (s.conn v).step = .caps) :
    execNegotiateAlgorithms v true s = .next (spdmSend (s.setConn { s.conn v with step := .algs }) v .algorithms)
      ∧ execNegotiateAlgorithms v false s = .next (spdmSend s v (.error 0x01)) :=
  ⟨spdmOn_answered hv (by rw [hst]; rfl) rfl, spdmOn_answered hv (by rw [hst]; rfl) rfl⟩

theorem execRespondIfReady_answered (hv : spdmScope s v = some sc) :
    execRespondIfReady v s = .next (spdmSend s v (.error 0x04)) :=
  spdmOn_answered hv rfl rfl

theorem agreed_of_step {y : SpdmStep} (h : y = .algs) : agreed y = true := by rw [h]; rfl

/-- The session that KEY_EXCHANGE opens, under the next number (log entry 41). -/
def openedSession (s : State) (v : SpdmVia) (sc : Option Nat) : Session :=
  { num := s.rsp.nextSession, via := v, ctx := sc, step := .session, lastTick := s.now, lastBeat := s.now
    key := freshBytes (s.freeCtr + 1) 48, requester := false }

/-- The state once KEY_EXCHANGE has signed and opened its session. -/
def exchanged (s : State) (v : SpdmVia) (sc : Option Nat) : State :=
  { s with
    rsp := { s.rsp with drbgReqs := s.rsp.drbgReqs + 1, sessions := s.rsp.sessions ++ [openedSession s v sc]
                        nextSession := s.rsp.nextSession + 1 }
    freeCtr := s.freeCtr + 3 }

section Agreed
variable (hv : spdmScope s v = some sc) (hst : (s.conn v).step = .algs)
include hv hst

theorem execGetDigests_answered {b : Bytes} (hb : chain s = some b) :
    execGetDigests v s = .next (spdmSend s v (.digests (sha384 b))) :=
  spdmOn_answered hv (agreed_of_step hst) (by simp only [hb]; rfl)

theorem execGetCertificate_answered {b : Bytes} {off : Nat} (hb : chain s = some b) (len : Nat) (ho : off < b.length) :
    execGetCertificate v 0 off len s = .next (spdmSend s v
      (.certificate (slice b off (min len (b.length - off))) (b.length - off - min len (b.length - off)))) := by
  refine spdmOn_answered hv (agreed_of_step hst) ?_
  have hok : ((0 : Nat) != 0 || decide (off ≥ b.length)) = false := by simp [ho]
  simp only [hb, hok, Bool.false_eq_true, if_false]
  rfl

theorem execChallenge_answered (hs : canSign s = true) (hr : drbgReady s = true) (nonce : Bytes) :
    execChallenge v 0 nonce s = .next (spdmSend
      { s with rsp := { s.rsp with drbgReqs := s.rsp.drbgReqs + 1 }, freeCtr := s.freeCtr + 1 } v
      (.challengeAuth (freshBytes s.freeCtr 96))) := by
  refine spdmOn_answered hv (agreed_of_step hst) ?_
  simp only [bne_self_eq_false, hs, Bool.not_true, Bool.false_eq_true, if_false, sign_ready hr]
  rfl

/-- All blocks, signed. -/
theorem execGetMeasurements_all (hs : canSign s = true) (hr : drbgReady s = true) (nonce : Bytes) :
    execGetMeasurements v 0xFF true nonce s = .next (spdmSend
      { s with rsp := { s.rsp with drbgReqs := s.rsp.drbgReqs + 1 }, freeCtr := s.freeCtr + 1 } v
      (.measurements (measBlocks s sc) (opaqueData s sc) (freshBytes s.freeCtr 96))) := by
  refine spdmOn_answered hv (agreed_of_step hst) ?_
  have hsome : (measBlocks s sc).isEmpty = false := by simp [measBlocks]
  have hall : ((0xFF : Nat) == 0xFF) = true := rfl
  have hzero : ((0xFF : Nat) == 0) = false := rfl
  simp only [hall, if_true, hsome, Bool.and_false, hs, Bool.not_true, Bool.false_eq_true, if_false, sign_ready hr, hzero]
  rfl

/-- The number of blocks, unsigned. -/
theorem execGetMeasurements_count (nonce : Bytes) : execGetMeasurements v 0 false nonce s
    = .next (spdmSend s v (.measCount (if (sc.bind s.ctx?).isSome then 35 else 33) (opaqueData s sc) [])) := by
  have hcount : (measBlocks s sc).length = if (sc.bind s.ctx?).isSome then 35 else 33 := by
    cases h : sc.bind s.ctx? <;> simp [measBlocks, h]
  refine spdmOn_answered hv (agreed_of_step hst) ?_
  simp only [bne_self_eq_false, Bool.false_and, Bool.false_eq_true, if_false, Bool.not_false, if_true, beq_self_eq_true, hcount]
  rfl

theorem execKeyExchange_answered {share : Bytes} (hs : canSign s = true) (hr : drbgReady s = true) (hc : onCurve share = true)
    (hl : sessionLeft s v = true) : execKeyExchange v share s = .next (spdmSend (exchanged s v sc) v
      (.keyExchangeRsp s.rsp.nextSession (freshBytes (s.freeCtr + 2) 96) (opaqueData s sc) (freshBytes s.freeCtr 96))) := by
  refine spdmOn_answered hv (agreed_of_step hst) ?_
  simp only [hc, hl, hs, Bool.not_true, Bool.false_eq_true, if_false, sign_ready hr, Option.map_some]
  rfl

end Agreed

/-! The requests of a session (R374). -/

theorem established_step (hst : x.step = .finished ∨ x.step = .mixed) : established x.step = true := by
  rcases hst with h | h <;> rw [h] <;> rfl

section InSession
variable (hv : spdmScope s v = some sc) (hx : session? s v sc n = some x)
include hv hx

theorem execFinish_answered (hst : x.step = .session) : execFinish v n (Config.finishMac x.key) s
    = .next (spdmSend (setSession s { x with lastTick := s.now, step := .finished }) v .finishRsp) := by
  refine inSession_answered hv hx (by rw [hst]; rfl) ?_
  rw [if_pos (beq_self_eq_true _)]
  exact congrArg (fun u => some (u, _)) (setSession_setSession rfl)

variable (hst : x.step = .finished ∨ x.step = .mixed)
include hst

theorem execHeartbeat_answered : execHeartbeat v n s
    = .next (spdmSend (setSession s { x with lastTick := s.now, lastBeat := s.now }) v .heartbeatAck) :=
  inSession_answered hv hx (established_step hst) (congrArg (fun u => some (u, _)) (setSession_setSession rfl))

theorem execKeyUpdate_answered : execKeyUpdate v n s
    = .next (spdmSend (setSession s { x with lastTick := s.now, key := Config.keyUpdate x.key }) v .keyUpdateAck) :=
  inSession_answered hv hx (established_step hst) (congrArg (fun u => some (u, _)) (setSession_setSession rfl))

theorem execEndSession_answered : execEndSession v n s = .next (spdmSend (dropSess s n) v .endSessionAck) :=
  inSession_answered hv hx (established_step hst) (congrArg (fun u => some (u, _)) (dropSess_setSession (session?_num hx :)))

end InSession

/-! Large messages (R374). -/

theorem execChunkSend_answered {data : Bytes} (hv : spdmScope s v = some sc) (hd : data.length ≤ 4028)
    (hc : (s.conn v).chunk.length + data.length ≤ 65536) :
    execChunkSend v false data s = .next (spdmSend (s.setConn { s.conn v with chunk := (s.conn v).chunk ++ data }) v .chunkSendAck)
      ∧ execChunkSend v true data s = .next (s.setConn { s.conn v with chunk := [] }) := by
  have hfits : (decide ((s.conn v).chunk.length + data.length > maxMessage) || decide (data.length > transferSize)) = false := by
    simp [maxMessage, transferSize, hd, hc]
  refine ⟨?_, ?_⟩
  · simp only [execChunkSend, hv, hfits, Bool.false_eq_true, if_false]
  · simp only [execChunkSend, hv, hfits, Bool.false_eq_true, if_false, if_true]

/-- The state once CHUNK_GET has drawn its part: with the last one the response is complete. -/
def chunkTaken (s : State) (v : SpdmVia) (r : SpdmRsp) (last : Bool) : State :=
  let s := { s with freeCtr := s.freeCtr + 1 }
  if last then (s.setConn { s.conn v with deferred := none }).emit (.spdmRsp v r) else s

theorem execChunkGet_answered (hv : spdmScope s v = some sc) (hr : (s.conn v).deferred = some r) (hn : n < partCount r) :
    execChunkGet v n s = .next (spdmSend (chunkTaken s v r (n + 1 == partCount r)) v
      (.chunkRsp (freshBytes s.freeCtr (min transferSize (rspSize r - n * transferSize))) (n + 1 == partCount r))) := by
  refine spdmOn_answered hv rfl ?_
  simp only [hr, if_neg (Nat.not_le.2 hn)]
  rfl

theorem chunkTaken_last : ((chunkTaken s v r true).conn v).deferred = none ∧ (chunkTaken s v r true).sent = .spdmRsp v r :: s.sent :=
  ⟨(congrArg SpdmConn.deferred (State.conn_setConn
    (c := { (State.conn { s with freeCtr := s.freeCtr + 1 } v) with deferred := none }) (State.conn_via ..)) :), rfl⟩

end Responder

/-! The session timers (R374). -/

section Timers
variable {s : State} {n : Nat} {x : Session} (hx : s.rsp.sessions.find? (fun y => y.num == n) = some x)
include hx

theorem execSpdmSessionIdleTimeout_due (h : x.lastTick + 1500000001 ≤ s.now) : execSpdmSessionIdleTimeout n s = .next (dropSess s n) := by
  simp only [execSpdmSessionIdleTimeout, hx, due_of_le h, if_true]

theorem execHeartbeatPeriodExpiry_due (hr : x.requester = true) (h : x.lastBeat + 750000000 ≤ s.now) : execHeartbeatPeriodExpiry n s
    = .next ((setSession s { x with lastBeat := s.now, lastTick := s.now }).emit (.spdmHeartbeat n)) := by
  simp only [execHeartbeatPeriodExpiry, hx, hr, ge_iff_le, decide_eq_true h, Bool.and_true, if_true]

end Timers

/-- ATTEST_GET leaves its message in the mailbox for the responder. -/
theorem attestGet_waits {s : State} {r : MbReq} (hz : field r.payload 2 2 = 0) :
    attestGet r s = ⟨s, .error (.spdm (if r.ctx = noCtx then none else some r.ctx) (r.payload.drop 4))⟩ := by
  simp only [attestGet, hz, bne_self_eq_false, Bool.false_eq_true, if_false, beq_iff_eq]

/-- Settles O44: each request in its step is answered by its handler (log entries 41 and 53: sessions are numbered in order, the
codes of ERROR, and RESPOND_IF_READY as an unexpected request). -/
theorem spdmHandshakeAndSessionsAdvance : Obligations.SpdmHandshakeAndSessionsAdvance := by
  unfold Obligations.SpdmHandshakeAndSessionsAdvance
  refine ⟨fun s v sc hv => ⟨execGetVersion_answered hv, execGetCapabilities_answered hv, execGetCapabilities_unexpected hv,
      execNegotiateAlgorithms_answered hv, execRespondIfReady_answered hv⟩,
    fun s v sc b hv hst hb => ⟨execGetDigests_answered hv hst hb, fun off len ho => execGetCertificate_answered hv hst hb len ho, fun hs hr =>
      ⟨fun nonce => ⟨_, _, execChallenge_answered hv hst hs hr nonce, freshBytes_length .., rfl⟩,
        fun nonce => ⟨_, _, execGetMeasurements_all hv hst hs hr nonce, freshBytes_length .., rfl⟩,
        fun share hc hl => ⟨_, _, _, _, execKeyExchange_answered hv hst hs hr hc hl, rfl, rfl, rfl, rfl, rfl, rfl⟩⟩⟩,
    fun s v sc nonce hv hst => execGetMeasurements_count hv hst nonce,
    fun s v sc n x hv hx => ⟨execFinish_answered hv hx,
      fun hst => ⟨execHeartbeat_answered hv hx hst, execKeyUpdate_answered hv hx hst, execEndSession_answered hv hx hst⟩⟩,
    fun s v sc data hv hd hc => execChunkSend_answered hv hd hc, fun s v sc n r hv hr hn => ⟨_, _, execChunkGet_answered hv hr hn,
      fun hl => by rw [beq_iff_eq.2 hl]; exact chunkTaken_last, fun hl => by rw [beq_false_of_ne hl]; exact ⟨rfl, hr⟩⟩,
    fun s n x hx => ⟨execSpdmSessionIdleTimeout_due hx, execHeartbeatPeriodExpiry_due hx⟩, fun s m r hc hz => mbCommand_waits hc (attestGet_waits hz)⟩

end Sys2Proof.Machine

/-! SUPPORT. The vendor requests: key mixing, nonces, weights keys and sealed frames (R363, R377, R378, R380, R381). -/

namespace Sys2Proof.Machine

section Vendor
variable {s : State} {v : SpdmVia} {sc : Option Nat} {n : Nat} {x : Session}

/-- A nonce is issued: 32 bytes, live from now. -/
def issuedNonce (s : State) : State :=
  { s with
    rsp := { s.rsp with drbgReqs := s.rsp.drbgReqs + 1
                        nonces := (freshBytes s.freeCtr 32, s.now) :: s.rsp.nonces.filter (fun x => s.now ≤ x.2 + nonceTicks) }
    freeCtr := s.freeCtr + 1 }

theorem issueNonce_ready (h : drbgReady s = true) : issueNonce s = some (freshBytes s.freeCtr 32, issuedNonce s) := by
  rw [issueNonce, drbg_ready h]
  rfl

theorem nonceLive_issued : nonceLive (issuedNonce s) (freshBytes s.freeCtr 32) = true := by
  refine List.any_eq_true.2 ⟨_, List.mem_cons_self .., ?_⟩
  simp only [beq_self_eq_true, Bool.true_and, decide_eq_true_eq]
  exact Nat.le_add_right ..

section InSession
variable (hv : spdmScope s v = some sc) (hx : session? s v sc n = some x)
include hv hx

section KemMix
variable {ct : Bytes} (hst : x.step = .finished) (hl : ct.length = 1568)
include hst hl

theorem execKemMix_mixed {ss : Bytes} (hk : Config.kemDecaps s.rsp.fuses.uds (summary s) ct = some ss) :
    execKemMix v n ct s = .next (spdmSend
      (setSession s { x with lastTick := s.now, key := Config.kemSecret x.key ss, step := .mixed }) v (.vendor 1 0 [])) := by
  refine inSession_answered hv hx (by rw [hst]; rfl) ?_
  have hk' : Config.kemDecaps (setSession s { x with lastTick := s.now }).rsp.fuses.uds
      (summary (setSession s { x with lastTick := s.now })) ct = some ss := hk
  simp only [hl, beq_self_eq_true, if_true, hk']
  exact congrArg (fun u => some (u, _)) (setSession_setSession rfl)

/-- R377: a ciphertext that fails ends the session (log entry 53: with ACCESS_DENIED). -/
theorem execKemMix_failed (hk : Config.kemDecaps s.rsp.fuses.uds (summary s) ct = none) :
    execKemMix v n ct s = .next (spdmSend (dropSess s n) v (.vendor 1 0x07 [])) := by
  refine inSession_answered hv hx (by rw [hst]; rfl) ?_
  have hk' : Config.kemDecaps (setSession s { x with lastTick := s.now }).rsp.fuses.uds
      (summary (setSession s { x with lastTick := s.now })) ct = none := hk
  simp only [hl, beq_self_eq_true, if_true, hk']
  exact congrArg (fun u => some (u, _)) (dropSess_setSession (session?_num hx :))

end KemMix

variable (hst : x.step = .mixed)
include hst

theorem execNonceGet_answered (hm : moduleMail v x = true) (hr : drbgReady s = true) :
    execNonceGet v n s = .next (spdmSend (issuedNonce (setSession s { x with lastTick := s.now })) v
      (.vendor 2 0 (freshBytes s.freeCtr 32))) := by
  refine inSession_answered hv hx (by rw [hst]; rfl) ?_
  have hm' : moduleMail v { x with lastTick := s.now } = true := hm
  simp only [hm', Bool.not_true, Bool.false_eq_true, if_false,
    issueNonce_ready (s := setSession s { x with lastTick := s.now }) hr]
  rfl

section Weights
variable {c : Ctx} {keyNo : Nat} {key : Bytes} (hc : weightsCtx s x = some c) (hk : keyNo < 4)
include hc hk

theorem execWeightsKey_answered (hl : key.length = 32) : execWeightsKey v n keyNo key s
    = .next (spdmSend ((setSession s { x with lastTick := s.now }).setCtx
      { c with weightsKeys := assocSet keyNo key c.weightsKeys, weightsUsed := true }) v (.vendor 0x10 0 [])) := by
  refine inSession_answered hv hx (by rw [hst]; rfl) ?_
  have hc' : weightsCtx (setSession s { x with lastTick := s.now }) { x with lastTick := s.now } = some c := hc
  simp only [hc', hk, hl, decide_true, beq_self_eq_true, Bool.and_self, Bool.not_true, Bool.false_eq_true, if_false]
  rfl

/-- R380: the records are opened behind the removal of every other context's translations. -/
theorem execWeightsUnwrap_answered {u : State} {blobId src dst records : Nat} {f : Option (FaultCode × Nat)}
    (hs : src % 65536 = 0) (hd : dst % 65536 = 0) (hlo : 1 ≤ records) (hhi : records ≤ 8192)
    (ha : assoc keyNo c.weightsKeys = some key)
    (hu : unwrapFrom key c.num blobId src dst records 0 (dropOthersXlate (setSession s { x with lastTick := s.now }) c.num) = (u, f)) :
    execWeightsUnwrap v n keyNo blobId src dst records s = .next (spdmSend u v (match f with
      | none => .vendor 0x11 0 []
      | some (e, r) => .vendor 0x11 e.code (leBytes 4 r))) := by
  refine inSession_answered hv hx (by rw [hst]; rfl) ?_
  have hc' : weightsCtx (setSession s { x with lastTick := s.now }) { x with lastTick := s.now } = some c := hc
  simp only [hc', hk, hs, hd, hlo, hhi, decide_true, beq_self_eq_true, Bool.and_self, Bool.not_true, Bool.false_eq_true, if_false,
    ha, hu]
  cases f <;> rfl

end Weights

end InSession

end Vendor

/-! Sealed frames (R381). -/

/-- Zeroing frames takes out the cells of each. -/
theorem foldl_zeroFrame_hbm (l : List Nat) (m : MemState) :
    (l.foldl zeroFrame m).hbm = m.hbm.filter (fun c => !l.contains (c.1 / 65536)) := by
  induction l generalizing m with
  | nil => exact (List.filter_eq_self.2 fun _ _ => rfl).symm
  | cons f l ih =>
    rw [List.foldl_cons, ih, zeroFrame, List.filter_filter]
    refine List.filter_congr fun c _ => ?_
    rw [List.contains_cons, Bool.not_or, Bool.and_comm]
    rfl

/-- And the marks of its blocks. -/
theorem foldl_zeroFrame_hbmMarked (l : List Nat) (m : MemState) :
    (l.foldl zeroFrame m).hbmMarked = m.hbmMarked.filter (fun b => !l.contains (b / 64)) := by
  induction l generalizing m with
  | nil => exact (List.filter_eq_self.2 fun _ _ => rfl).symm
  | cons f l ih =>
    rw [List.foldl_cons, ih, zeroFrame, List.filter_filter]
    refine List.filter_congr fun c _ => ?_
    rw [List.contains_cons, Bool.not_or, Bool.and_comm]
    rfl

/-- Zeroing frames touches the HBM, its marks and the caches only. -/
theorem foldl_zeroFrame_frame (l : List Nat) (m : MemState) : l.foldl zeroFrame m
    = { m with hbm := (l.foldl zeroFrame m).hbm, hbmMarked := (l.foldl zeroFrame m).hbmMarked, cache := (l.foldl zeroFrame m).cache } :=
  foldl_keeps (fun k : MemState => k = { m with hbm := k.hbm, hbmMarked := k.hbmMarked, cache := k.cache }) _
    (fun k f hk => by rw [hk]; rfl) _ _ rfl

theorem memGet_zeroed {l : List Nat} {a : Nat} (h : a / 65536 ∈ l) (m : MemState) : memGet (l.foldl zeroFrame m).hbm a = 0 := by
  rw [foldl_zeroFrame_hbm]
  refine memGet_absent _ _ fun c hc ha => ?_
  have hout := (List.mem_filter.1 hc).2
  rw [ha] at hout
  simp [h] at hout

theorem unmarked_zeroed {l : List Nat} {a : Nat} (h : a / 65536 ∈ l) (m : MemState) : a / 1024 ∉ (l.foldl zeroFrame m).hbmMarked := by
  rw [foldl_zeroFrame_hbmMarked]
  intro hmem
  have hout := (List.mem_filter.1 hmem).2
  rw [Nat.div_div_eq_div_mul] at hout
  simp [h] at hout

theorem memGet_not_zeroed {l : List Nat} {a : Nat} (h : a / 65536 ∉ l) (m : MemState) :
    memGet (l.foldl zeroFrame m).hbm a = memGet m.hbm a := by
  rw [foldl_zeroFrame_hbm]
  exact memGet_filter _ _ _ fun b => by simp [h]

/-- Settles O45: the handlers of the vendor requests, and the frames of `foldl zeroFrame` (log entry 53: a failed KEM_MIX answers
ACCESS_DENIED). -/
theorem vendorRequestsProtectKeysAndWeights : Obligations.VendorRequestsProtectKeysAndWeights := by
  unfold Obligations.VendorRequestsProtectKeysAndWeights
  refine ⟨fun s v sc n ct x hv hx hst hl => ⟨fun ss hk => execKemMix_mixed hv hx hst hl hk, execKemMix_failed hv hx hst hl⟩,
    fun s v sc n x hv hx hst hm hr => ⟨_, _, execNonceGet_answered hv hx hst hm hr, freshBytes_length .., nonceLive_issued, rfl, rfl⟩,
    fun s v sc n keyNo key x c hv hx hst hc hk hl => ⟨_, execWeightsKey_answered hv hx hst hc hk hl, rfl, assoc_assocSet_self ..,
      fun k hne => assoc_assocSet_other hne ..⟩,
    fun s u v sc n keyNo blobId src dst records x c key f hv hx hst hc hk hs hd hlo hhi ha hu =>
      (execWeightsUnwrap_answered hv hx hst hc hk hs hd hlo hhi ha hu).trans (by cases f <;> rfl),
    fun s ctx z hz => ⟨{ s with mem := z.2.foldl zeroFrame s.mem, rsp := { s.rsp with zeroing := s.rsp.zeroing.erase z } }, ?_,
      ?_, fun f a hf ha => ?_, fun a ha => memGet_not_zeroed ha _⟩⟩
  · show execSealedFrameZeroed ctx s = _
    simp only [execSealedFrameZeroed, hz]
  · rw [foldl_zeroFrame_frame]
  · rw [← ha] at hf
    exact ⟨memGet_zeroed hf _, unmarked_zeroed hf _⟩

end Sys2Proof.Machine

/-! SUPPORT. The Hammer and the entropy source (R383 to R387). -/

namespace Sys2Proof.Machine

/-! The words and slots of the Hammer. -/

section Words
variable {h : Hammer} {w : Nat} (v : BitVec 256)

theorem hword_hput_self (hw : w < 2048) : hword (hput h w v) w = v := by
  rw [hput, if_pos hw, hword, assoc_assocSet_self]
  rfl

theorem hword_hput_other {k : Nat} (hk : k ≠ w) : hword (hput h w v) k = hword h k := by
  rw [hput]
  split
  · rw [hword, assoc_assocSet_other hk, hword]
  · rfl

theorem hput_frame (h : Hammer) (w : Nat) (v : BitVec 256) : hput h w v = { h with words := (hput h w v).words } := by
  rw [hput]
  split <;> rfl

end Words

/-- Words written in a row from a first one on. -/
def hputs (h : Hammer) (base n : Nat) (f : Nat → BitVec 256) : Hammer := (List.range n).foldl (fun h i => hput h (base + i) (f i)) h

theorem hputs_succ (h : Hammer) (base n : Nat) (f : Nat → BitVec 256) :
    hputs h base (n + 1) f = hput (hputs h base n f) (base + n) (f n) := by
  simp only [hputs, List.range_succ, List.foldl_append, List.foldl_cons, List.foldl_nil]

theorem hputs_frame (h : Hammer) (base n : Nat) (f : Nat → BitVec 256) :
    hputs h base n f = { h with words := (hputs h base n f).words } :=
  foldl_keeps (fun k : Hammer => k = { h with words := k.words }) _ (fun k i hk => by
    have hput := hput_frame k (base + i) (f i)
    rw [hk] at hput ⊢
    exact hput) _ _ rfl

theorem hword_hputs_in {base n i : Nat} (h : Hammer) (f : Nat → BitVec 256) (hi : i < n) (hw : base + i < 2048) :
    hword (hputs h base n f) (base + i) = f i := by
  induction n with
  | zero => exact absurd hi (Nat.not_lt_zero _)
  | succ n ih =>
    rw [hputs_succ]
    by_cases hl : i = n
    · rw [hl] at hw ⊢
      exact hword_hput_self _ hw
    · rw [hword_hput_other _ (by omega)]
      exact ih (by omega)

theorem hword_hputs_out {base n w : Nat} (h : Hammer) (f : Nat → BitVec 256) (hw : w < base ∨ base + n ≤ w) :
    hword (hputs h base n f) w = hword h w := by
  induction n with
  | zero => rfl
  | succ n ih =>
    rw [hputs_succ, hword_hput_other _ (by omega)]
    exact ih (by omega)

/-- One entry replaced. -/
theorem hslot_of_slots {h k : Hammer} {n : Nat} {e : Word} (hs : k.slots = assocSet n e h.slots) :
    hslot k n = e.toNat ∧ ∀ j, j ≠ n → hslot k j = hslot h j := by
  refine ⟨?_, fun j hj => ?_⟩
  · rw [hslot, hs, assoc_assocSet_self]
    rfl
  · rw [hslot, hs, assoc_assocSet_other hj, hslot]

/-! The fields of a slot entry (R384). -/

theorem bit_eq_decide (e i : Nat) : bit e i = decide (e / 2 ^ i % 2 = 1) := by
  rw [bit_eq_testBit, Nat.testBit_eq_decide_div_mod_eq]

/-- The entry that HSLOT_WRITE stores. -/
theorem keptEntry_fields (e : Nat) : let k := (BitVec.ofNat 32 (flag (hValid e) 31 + hBase e * 32 + bits e 3 0)).toNat
    hValid k = hValid e ∧ hSealed k = false ∧ hBase k = hBase e ∧ hLen k = hLen e := by
  have hb : hBase e < 2 ^ 11 := by rw [hBase, bits_eq]; exact Nat.mod_lt _ (by decide)
  have hl : bits e 3 0 < 16 := by rw [bits_eq]; exact Nat.mod_lt _ (by decide)
  have hlen : hLen e = bits e 3 0 + 1 := rfl
  rw [hlen]
  generalize hBase e = b at hb ⊢
  generalize bits e 3 0 = l at hl ⊢
  have hk : (BitVec.ofNat 32 (flag (hValid e) 31 + b * 32 + l)).toNat = flag (hValid e) 31 + b * 32 + l := by
    rw [BitVec.toNat_ofNat]
    refine Nat.mod_eq_of_lt ?_
    cases hValid e <;> simp only [flag, Bool.false_eq_true, if_true, if_false] <;> omega
  simp only [hk]
  refine ⟨?_, ?_, ?_, ?_⟩
  · cases hValid e <;> simp only [hValid, bit_eq_decide, flag, Bool.false_eq_true, if_true, if_false, decide_eq_true_eq,
      decide_eq_false_iff_not] <;> omega
  · cases hValid e <;> simp only [hSealed, bit_eq_decide, flag, Bool.false_eq_true, if_true, if_false, decide_eq_false_iff_not] <;> omega
  · cases hValid e <;> simp only [hBase, bits_eq, flag, Bool.false_eq_true, if_true, if_false] <;> omega
  · cases hValid e <;> simp only [hLen, bits_eq, flag, Bool.false_eq_true, if_true, if_false] <;> omega

/-- The entry of a released slot. -/
theorem releasedEntry_fields (e : Nat) : let k := (BitVec.ofNat 32 (e % 2 ^ 30)).toNat
    hValid k = false ∧ hSealed k = false := by
  simp only [BitVec.toNat_ofNat, hValid, hSealed, bit_eq_decide, decide_eq_false_iff_not]
  omega

/-- The entry of a slot that a key was loaded into. -/
theorem sealedEntry_fields (e : Nat) : let k := (BitVec.ofNat 32 (e % 2 ^ 30 + 2 ^ 31 + 2 ^ 30)).toNat
    hValid k = true ∧ hSealed k = true := by
  simp only [BitVec.toNat_ofNat, hValid, hSealed, bit_eq_decide, decide_eq_true_eq]
  omega

/-- A valid entry overlaps the words of another valid slot (R384). -/
def SlotClash (h : Hammer) (n e : Nat) : Prop :=
  bit e 31 = true ∧ ∃ k, k < 128 ∧ k ≠ n ∧ hValid (hslot h k) = true
    ∧ meets (hBase e) (hLen e) (hBase (hslot h k)) (hLen (hslot h k)) = true

theorem slotClash_iff (h : Hammer) (n e : Nat) : (hValid e && (List.range 128).any (fun k => k != n && hValid (hslot h k)
    && meets (hBase e) (hLen e) (hBase (hslot h k)) (hLen (hslot h k)))) = true ↔ SlotClash h n e := by
  simp only [SlotClash, hValid, Bool.and_eq_true, List.any_eq_true, List.mem_range, bne_iff_ne, and_assoc, ne_eq]

/-- The Hammer once slot `n` is released: the words of a valid slot are zero (R385). -/
def releasedHammer (h : Hammer) (n : Nat) : Hammer :=
  { (hputs h (hBase (hslot h n)) (if hValid (hslot h n) then hLen (hslot h n) else 0) fun _ => 0) with
    slots := assocSet n (BitVec.ofNat 32 (hslot h n % 2 ^ 30)) h.slots }

theorem releasedHammer_words (h : Hammer) (n : Nat) : (hValid (hslot h n) = false → (releasedHammer h n).words = h.words)
    ∧ (hValid (hslot h n) = true → ∀ w, hBase (hslot h n) ≤ w → w < hBase (hslot h n) + hLen (hslot h n) → w < 2048 →
        hword (releasedHammer h n) w = 0)
    ∧ ∀ w, (w < hBase (hslot h n) ∨ hBase (hslot h n) + hLen (hslot h n) ≤ w) → hword (releasedHammer h n) w = hword h w := by
  refine ⟨fun hv => ?_, fun hv w hlo hhi hw => ?_, fun w hw => ?_⟩
  · rw [releasedHammer, hv]
    rfl
  · rw [releasedHammer, if_pos hv]
    have hin := hword_hputs_in (base := hBase (hslot h n)) (n := hLen (hslot h n)) (i := w - hBase (hslot h n)) h (fun _ => 0) (by omega)
      (by omega)
    rwa [Nat.add_sub_cancel' hlo] at hin
  · refine hword_hputs_out h (fun _ => 0) (hw.imp_right fun hhi => ?_)
    split <;> omega

/-- The Hammer once a key is loaded into slot `n`: its words, and the slot sealed (R385). -/
def loadedHammer (h : Hammer) (n : Nat) (ws : List (BitVec 256)) : Hammer :=
  { (hputs h (hBase (hslot h n)) ws.length fun i => nth ws i 0) with
    slots := assocSet n (BitVec.ofNat 32 (hslot h n % 2 ^ 30 + 2 ^ 31 + 2 ^ 30)) h.slots }

theorem hword_loadedHammer {h : Hammer} {n i : Nat} {ws : List (BitVec 256)} {v : BitVec 256}
    (hw : hBase (hslot h n) + ws.length ≤ 2048) (hi : ws[i]? = some v) :
    hword (loadedHammer h n ws) (hBase (hslot h n) + i) = v := by
  obtain ⟨hlt, hget⟩ := List.getElem?_eq_some_iff.1 hi
  refine (hword_hputs_in h (fun i => nth ws i 0) hlt (by omega)).trans ?_
  rw [nth, List.getD_eq_getElem _ _ hlt, hget]

/-! The commands of the Hammer (R384 to R387). -/

section Commands
variable {s : State} (hp : rspPowered s = true)
include hp

section Mac
variable {cmd : DWord} {a b : Nat}

/-- The sum that HAMMER_CMD computes, C being the word `c` (R386). -/
def macSum (h : Hammer) (cmd : Nat) (a b c : Nat) : Nat :=
  (if bit cmd 59 then 0 else h.acc.toNat) + (hword h a).toNat * (hword h b).toNat + (if bit cmd 58 then (hword h c).toNat else 0)

/-- The Hammer once a command has come to a sum: OUT writes its low 256 bits to the word `d` and shifts them out (R386). -/
def macDone (h : Hammer) (cmd d : Nat) (sum : BitVec 576) : Hammer :=
  let h := { h with cmds := (h.cmds + 1) % 2 ^ 32 }
  if bit cmd 57 then { (hput h d (BitVec.ofNat 256 sum.toNat)) with acc := sum >>> 256 } else { h with acc := sum }

/-- A command with live operands adds and multiplies, and writes out where OUT is set. -/
theorem execHammerMac_live {c d : Nat} (hop : bits cmd.toNat 63 60 = 1) (ha : hoperand s.ham (bits cmd.toNat 55 45) = some a)
    (hb : hoperand s.ham (bits cmd.toNat 44 34) = some b)
    (hc : bit cmd.toNat 58 = true → hoperand s.ham (bits cmd.toNat 33 23) = some c)
    (hd : bit cmd.toNat 57 = true → hoperand s.ham (bits cmd.toNat 22 12) = some d) :
    execHammerMac cmd s = .next { s with ham := macDone s.ham cmd.toNat d (BitVec.ofNat 576 (macSum s.ham cmd.toNat a b c)) } := by
  have hc' : (bit cmd.toNat 58 && (hoperand s.ham (bits cmd.toNat 33 23)).isNone) = false := by
    cases h : bit cmd.toNat 58
    · rfl
    · rw [hc h]; rfl
  have hd' : (bit cmd.toNat 57 && (hoperand s.ham (bits cmd.toNat 22 12)).isNone) = false := by
    cases h : bit cmd.toNat 57
    · rfl
    · rw [hd h]; rfl
  have hsum : (if bit cmd.toNat 59 then 0 else s.ham.acc.toNat) + (hword s.ham a).toNat * (hword s.ham b).toNat
      + (if bit cmd.toNat 58 then (hword s.ham ((hoperand s.ham (bits cmd.toNat 33 23)).getD 0)).toNat else 0)
        = macSum s.ham cmd.toNat a b c := by
    rw [macSum]
    cases h : bit cmd.toNat 58
    · rfl
    · rw [hc h]; rfl
  simp only [execHammerMac, hp, hop, ha, hb, hc', hd', hsum, bne_self_eq_false, Bool.not_true, Bool.false_eq_true, Bool.or_self,
    if_false, macDone]
  cases h : bit cmd.toNat 57
  · rfl
  · rw [hd h]; rfl

/-- R386: another command sets CMD_ERR. -/
theorem execHammerMac_bad (h : bits cmd.toNat 63 60 ≠ 1 ∨ hoperand s.ham (bits cmd.toNat 55 45) = none
      ∨ hoperand s.ham (bits cmd.toNat 44 34) = none
      ∨ (bit cmd.toNat 58 = true ∧ hoperand s.ham (bits cmd.toNat 33 23) = none)
      ∨ (bit cmd.toNat 57 = true ∧ hoperand s.ham (bits cmd.toNat 22 12) = none)) :
    execHammerMac cmd s = .next { s with ham := { s.ham with cmdErr := true } } := by
  rw [execHammerMac, if_neg (by simp [hp])]
  dsimp only
  rcases h with h | h | h | ⟨hc, h⟩ | ⟨hd, h⟩
  · rw [if_pos (bne_iff_ne.2 h)]
  · rw [h, ite_self]
  · rw [h]
    split
    · rfl
    · cases hoperand s.ham (bits cmd.toNat 55 45) <;> rfl
  · rw [h, hc]
    split
    · rfl
    · cases hoperand s.ham (bits cmd.toNat 55 45) <;> cases hoperand s.ham (bits cmd.toNat 44 34) <;> rfl
  · rw [h, hd]
    split
    · rfl
    · cases hoperand s.ham (bits cmd.toNat 55 45) <;> cases hoperand s.ham (bits cmd.toNat 44 34) <;> simp

end Mac

section Write
variable {n : Nat} (v : Word) (hn : n < 128)
include hn

theorem execHslotWrite_refused (h : hSealed (hslot s.ham n) = true ∨ SlotClash s.ham n v.toNat) :
    execHslotWrite n v s = .next { s with ham := { s.ham with cfgErr := true } } := by
  rw [← slotClash_iff, ← Bool.or_eq_true] at h
  simp only [execHslotWrite, hn, hp, decide_true, Bool.and_self, Bool.not_true, Bool.false_eq_true, if_false, if_pos h]

theorem execHslotWrite_stored (hs : hSealed (hslot s.ham n) = false) (h : ¬ SlotClash s.ham n v.toNat) :
    execHslotWrite n v s = .next { s with ham := { s.ham with
      slots := assocSet n (BitVec.ofNat 32 (flag (hValid v.toNat) 31 + hBase v.toNat * 32 + bits v.toNat 3 0)) s.ham.slots } } := by
  rw [← slotClash_iff, Bool.not_eq_true] at h
  simp only [execHslotWrite, hn, hp, hs, h, decide_true, Bool.and_self, Bool.or_self, Bool.not_true, Bool.false_eq_true, if_false]

end Write

theorem execHslotRelease_eq {n : Nat} (hn : n < 128) :
    execHslotRelease n s = .next { s with ham := releasedHammer s.ham n } := by
  simp only [execHslotRelease, hn, hp, decide_true, Bool.and_self, Bool.not_true, Bool.false_eq_true, if_false]
  rw [← hputs, releasedHammer, hputs_frame]

theorem execKeyLoad_eq {n : Nat} {ws : List (BitVec 256)} (hn : n < 128) (hv : hValid (hslot s.ham n) = true)
    (hl : ws.length ≤ hLen (hslot s.ham n)) : execKeyLoad n ws s = .next { s with ham := loadedHammer s.ham n ws } := by
  simp only [execKeyLoad, hn, hp, hv, hl, decide_true, Bool.and_self, Bool.not_true, Bool.false_eq_true, if_false]
  rw [← hputs, loadedHammer, hputs_frame]

end Commands

theorem hoperand_lt {h : Hammer} {f w : Nat} (hw : hoperand h f = some w) : w < 2048 := by
  simp only [hoperand] at hw
  split at hw
  · next hc =>
    simp only [Bool.and_eq_true, decide_eq_true_eq] at hc
    exact Option.some.inj hw ▸ hc.2
  · exact absurd hw nofun

theorem macDone_frame (h : Hammer) (cmd d : Nat) (sum : BitVec 576) :
    (macDone h cmd d sum).slots = h.slots ∧ (macDone h cmd d sum).cmds = (h.cmds + 1) % 2 ^ 32 := by
  simp only [macDone]
  split
  · rw [hput_frame]
    exact ⟨rfl, rfl⟩
  · exact ⟨rfl, rfl⟩

/-- Without OUT the sum goes to ACC alone. -/
theorem macDone_acc {cmd : Nat} (ho : bit cmd 57 = false) (h : Hammer) (d n : Nat) :
    (macDone h cmd d (BitVec.ofNat 576 n)).acc.toNat = n % 2 ^ 576
      ∧ ∀ w, hword (macDone h cmd d (BitVec.ofNat 576 n)) w = hword h w := by
  simp only [macDone, ho, Bool.false_eq_true, if_false]
  exact ⟨BitVec.toNat_ofNat .., fun _ => rfl⟩

/-- With OUT its low 256 bits go to D and the rest to ACC. -/
theorem macDone_out {cmd d : Nat} (ho : bit cmd 57 = true) (hd : d < 2048) (h : Hammer) (n : Nat) :
    (macDone h cmd d (BitVec.ofNat 576 n)).acc.toNat = n % 2 ^ 576 / 2 ^ 256
      ∧ (hword (macDone h cmd d (BitVec.ofNat 576 n)) d).toNat = n % 2 ^ 576 % 2 ^ 256
      ∧ ∀ w, w ≠ d → hword (macDone h cmd d (BitVec.ofNat 576 n)) w = hword h w := by
  simp only [macDone, ho, if_true]
  refine ⟨?_, ?_, fun w hw => ?_⟩
  · rw [BitVec.toNat_ushiftRight, BitVec.toNat_ofNat, Nat.shiftRight_eq_div_pow]
  · exact (congrArg BitVec.toNat (hword_hput_self _ hd)).trans (by rw [BitVec.toNat_ofNat, BitVec.toNat_ofNat])
  · exact hword_hput_other _ hw

theorem onlyPosted_plainErr (s : State) (cls action kind unit fault addr : Nat) :
    OnlyPosted s (s.plainErr cls action kind unit fault addr) := onlyPosted_errRec ..

theorem OnlyPosted.ham {s t : State} (h : OnlyPosted s t) : t.ham = s.ham := by rw [h]
theorem OnlyPosted.rsp {s t : State} (h : OnlyPosted s t) : t.rsp = s.rsp := by rw [h]
theorem OnlyPosted.ctxs {s t : State} (h : OnlyPosted s t) : t.ctxs = s.ctxs := by rw [h]
theorem OnlyPosted.fence {s t : State} (h : OnlyPosted s t) : t.fence = s.fence := by rw [h]
theorem OnlyPosted.disps {s t : State} (h : OnlyPosted s t) : t.disps = s.disps := by rw [h]

/-- R387: a mismatch is counted, and the eighth locks and is recorded. -/
theorem execHammerPrivateKeyOp_mismatch {s : State} (op : PrivOp) (hp : rspPowered s = true) (hl : s.ham.privLock = false) :
    ∃ t, execHammerPrivateKeyOp op false s = .next t ∧ t.ham = { s.ham with
        faultCount := min (s.ham.faultCount + 1) 255, privLock := decide (8 ≤ min (s.ham.faultCount + 1) 255) }
      ∧ t.rsp = s.rsp ∧ t.ctxs = s.ctxs := by
  simp only [execHammerPrivateKeyOp, hp, hl, Bool.not_true, Bool.or_self, Bool.false_eq_true, if_false]
  refine ⟨_, rfl, ?_⟩
  split
  · have hpost := onlyPosted_plainErr { s with ham := { s.ham with
      faultCount := min (s.ham.faultCount + 1) 255, privLock := decide (8 ≤ min (s.ham.faultCount + 1) 255) } } 0x0B 8 ukModule 0 0 0
    exact ⟨hpost.ham, hpost.rsp, hpost.ctxs⟩
  · exact ⟨rfl, rfl, rfl⟩

/-- R383: without a reseed in time the module fault state follows, with its records. -/
theorem execEntropyReseedTimeout_due {s : State} (ho : s.rsp.drbgOk = false) (hd : s.rsp.drbgFailTick + 1250001 ≤ s.now)
    (hz : 0 ∈ s.rsp.tagPools) (hs : s.serves = true) : ∃ t, execEntropyReseedTimeout s = .next t
      ∧ t.fence = { s.fence with moduleFault := true } ∧ t.disps = s.disps ∧ t.rsp = s.rsp := by
  have hpool : s.rsp.tagPools.any (· == 0) = true := List.any_eq_true.2 ⟨0, hz, rfl⟩
  have hdue : due s.now s.rsp.drbgFailTick 1250000 = true := due_of_le hd
  have h1 := onlyPosted_plainErr s 0x0D 8 ukModule 0 0 0
  have h2 := onlyPosted_plainErr (s.plainErr 0x0D 8 ukModule 0 0 0) 0x0E 6 ukModule 0 0 0
  simp only [execEntropyReseedTimeout, ho, hpool, hdue, hs, Bool.not_false, Bool.and_self, if_true]
  exact ⟨_, rfl, by rw [h2.fence, h1.fence], h2.disps.trans h1.disps, h2.rsp.trans h1.rsp⟩

/-- Settles O39: the commands of the Hammer over the words and entries they write, and the entropy source (log entry 48: the release of
an entry that is not valid zeroes no word). -/
theorem hammerAndEntropySourceFollowTheirRegisters : Obligations.HammerAndEntropySourceFollowTheirRegisters := by
  unfold Obligations.HammerAndEntropySourceFollowTheirRegisters
  refine ⟨fun s cmd a b hp hop ha hb c d hc hd => ?_, fun s cmd hp hbad => execHammerMac_bad hp hbad, fun s n v hn hp => ?_,
    fun s n hn hp => ?_, fun s n ws hn hp hv hl hw => ?_, fun s op agree hp hl => ⟨fun ha => ?_, fun ha => ?_⟩, fun s h => ?_,
    fun s ho => ?_, fun s ho hd hz hs => execEntropyReseedTimeout_due ho hd hz hs⟩
  · obtain ⟨hslots, hcmds⟩ := macDone_frame s.ham cmd.toNat d (BitVec.ofNat 576 (macSum s.ham cmd.toNat a b c))
    exact ⟨_, execHammerMac_live hp hop ha hb hc hd, hslots, hcmds, fun ho => macDone_acc ho ..,
      fun ho => macDone_out ho (hoperand_lt (hd ho)) ..⟩
  · refine ⟨execHslotWrite_refused hp v hn, fun hs h => ⟨_, execHslotWrite_stored hp v hn hs h, rfl, ?_⟩⟩
    have hentry := hslot_of_slots (k := { s.ham with
      slots := assocSet n (BitVec.ofNat 32 (flag (hValid v.toNat) 31 + hBase v.toNat * 32 + bits v.toNat 3 0)) s.ham.slots }) rfl
    obtain ⟨hvalid, hsealed, hbase, hlen⟩ := keptEntry_fields v.toNat
    rw [hentry.1]
    exact ⟨hvalid, hsealed, hbase, hlen, hentry.2⟩
  · refine ⟨_, execHslotRelease_eq hp hn, ?_⟩
    obtain ⟨hself, hother⟩ := hslot_of_slots (h := s.ham) (k := releasedHammer s.ham n) rfl
    obtain ⟨hvalid, hsealed⟩ := releasedEntry_fields (hslot s.ham n)
    have hwords := releasedHammer_words s.ham n
    rw [← hself] at hvalid hsealed
    exact ⟨hvalid, hsealed, hother, hwords⟩
  · refine ⟨_, execKeyLoad_eq hp hn hv hl, ?_⟩
    obtain ⟨hself, hother⟩ := hslot_of_slots (h := s.ham) (k := loadedHammer s.ham n ws) rfl
    obtain ⟨hvalid, hsealed⟩ := sealedEntry_fields (hslot s.ham n)
    rw [← hself] at hvalid hsealed
    exact ⟨hvalid, hsealed, fun i v hi => hword_loadedHammer hw hi, hother⟩
  · show execHammerPrivateKeyOp op agree s = _
    rw [execHammerPrivateKeyOp, if_pos (by simp [ha])]
  · subst ha
    exact execHammerPrivateKeyOp_mismatch op hp hl
  · have hgo : (s.serves || s.pwr.st == .startFault || s.pwr.st == .bootRecovery) = true := by
      simpa only [Bool.or_eq_true, beq_iff_eq, or_assoc] using h
    exact ⟨_, (if_neg (by simp [hgo]) : execDrbgReseed s = _), rfl, rfl, rfl, rfl, rfl⟩
  · exact if_pos ho

end Sys2Proof.Machine

/-! SUPPORT. Lifecycle tokens and the closing of debug (R360 to R363, R366, R390 to R393). -/

namespace Sys2Proof.Machine

/-! LC_STATE (R360). -/

theorem lcState_congr {s t : State} (h : t.rsp.fuses = s.rsp.fuses) : lcState t = lcState s := by
  rw [lcState_eq, lcState_eq, h]

/-- PROVISIONED: the first pair and neither of the others. -/
theorem pairs_of_lcState_one {s : State} (h : lcState s = 1) :
    pairDone s.rsp.fuses.ret = false ∧ pairDone s.rsp.fuses.sec = false ∧ pairDone s.rsp.fuses.prov = true := by
  rw [lcState_eq] at h
  cases hr : pairDone s.rsp.fuses.ret <;> cases hs : pairDone s.rsp.fuses.sec <;> cases hp : pairDone s.rsp.fuses.prov <;>
    simp [hr, hs, hp] at h ⊢

/-- BLANK: no pair. -/
theorem pairs_of_lcState_zero {s : State} (h : lcState s = 0) :
    pairDone s.rsp.fuses.ret = false ∧ pairDone s.rsp.fuses.sec = false ∧ pairDone s.rsp.fuses.prov = false := by
  rw [lcState_eq] at h
  cases hr : pairDone s.rsp.fuses.ret <;> cases hs : pairDone s.rsp.fuses.sec <;> cases hp : pairDone s.rsp.fuses.prov <;>
    simp [hr, hs, hp] at h ⊢

/-- The pair of SECURED takes PROVISIONED to SECURED. -/
theorem lcState_secured {s t : State} (h : lcState s = 1) (hret : t.rsp.fuses.ret = s.rsp.fuses.ret)
    (hsec : t.rsp.fuses.sec = (true, true)) : lcState t = 2 := by
  obtain ⟨hr, -, -⟩ := pairs_of_lcState_one h
  rw [lcState_eq, hret, hr, hsec]
  rfl

/-- The pair of PROVISIONED takes BLANK to PROVISIONED. -/
theorem lcState_provisioned {s t : State} (h : lcState s = 0) (hret : t.rsp.fuses.ret = s.rsp.fuses.ret)
    (hsec : t.rsp.fuses.sec = s.rsp.fuses.sec) (hprov : t.rsp.fuses.prov = (true, true)) : lcState t = 1 := by
  obtain ⟨hr, hs, -⟩ := pairs_of_lcState_zero h
  rw [lcState_eq, hret, hr, hsec, hs, hprov]
  rfl

/-- The pair of RETIRED takes every state to RETIRED. -/
theorem lcState_retired {t : State} (hret : t.rsp.fuses.ret = (true, true)) : lcState t = 3 := by
  rw [lcState_eq, hret]
  rfl

/-! Restarts (R362). -/

theorem settleRestart_due {s : State} (h : s.rsp.restartDue = true) : settleRestart (.next s) = .next (restart s) := by
  simp only [settleRestart, h, if_true]

theorem restart_shape (s : State) : ∃ (p : Power) (l : List (Nat × Mailbox)), restart s = { toStandby s with pwr := p, mbs := l } ∧ p.st = .starting 2
    ∧ l = s.mbs.filter (fun b => !b.2.busy) :=
  ⟨_, _, rfl, rfl, rfl⟩

/-- A restart keeps the fuses, the certificate and the images; no context and no session outlasts it. -/
theorem restart_rsp (s : State) : (restart s).rsp.fuses = s.rsp.fuses ∧ (restart s).rsp.devCert = s.rsp.devCert
    ∧ (restart s).rsp.images = s.rsp.images ∧ (restart s).rsp.sessions = [] ∧ (restart s).ctxs = []
    ∧ (restart s).pwr.st = .starting 2 ∧ (restart s).mbs = s.mbs.filter (fun b => !b.2.busy) := by
  obtain ⟨p, l, hrestart, hst, hmbs⟩ := restart_shape s
  obtain ⟨p', hstandby⟩ := toStandby_shape s
  obtain ⟨w, p'', hlast⟩ := lastingState_shape s
  rw [hrestart, hstandby, hlast]
  exact ⟨rfl, rfl, rfl, rfl, rfl, hst, hmbs⟩

theorem lcState_restart (s : State) : lcState (restart s) = lcState s := lcState_congr (restart_rsp s).1

/-- The debug mailbox answers a token and, where a restart is due, the module restarts. -/
theorem execDbgLcToken_open {s : State} {t : Bytes} {o : TokenOut} (hopen : debugReach s ≠ .closed)
    (ho : lcTokenOut s t true = some o) : execDbgLcToken t s = settleRestart (dbgAnswer o) := by
  rw [execDbgLcToken, if_neg (by simpa using hopen), ho]

/-- A token in order that makes a restart due is answered before it. -/
theorem execDbgLcToken_restarts {s u : State} {t d : Bytes} (hopen : debugReach s ≠ .closed)
    (ho : lcTokenOut s t true = some ⟨u, .ok d⟩) (hr : u.rsp.restartDue = true) :
    execDbgLcToken t s = .next (restart (u.emit (.debug .ok none d))) :=
  (execDbgLcToken_open hopen ho).trans (settleRestart_due hr)

/-! Lifecycle tokens (R362, R363). -/

section Token
variable {s : State} {t : Bytes} (hf : tokenFault s t = none)
include hf

theorem lcTokenOut_secure {port : Bool} (hk : field t 5 1 = 2) : lcTokenOut s t port = some (lcSecure (consumeNonce s t) t) := by
  simp only [lcTokenOut, hf, hk, beq_self_eq_true, if_true]

theorem lcTokenOut_retire {port : Bool} (hk : field t 5 1 = 3) : lcTokenOut s t port = some (lcRetire (consumeNonce s t)) := by
  have hnot : ((3 : Nat) == 2) = false := rfl
  simp only [lcTokenOut, hf, hk, hnot, Bool.false_eq_true, if_false, beq_self_eq_true, if_true]

theorem lcTokenOut_cert (hk : field t 5 1 = 4) : lcTokenOut s t true = some (lcCert (consumeNonce s t) t) := by
  have hnot : ((4 : Nat) == 2) = false ∧ ((4 : Nat) == 3) = false ∧ ((4 : Nat) == 1) = false := ⟨rfl, rfl, rfl⟩
  simp only [lcTokenOut, hf, hk, hnot.1, hnot.2.1, hnot.2.2, Bool.false_and, Bool.false_eq_true, if_false, beq_self_eq_true,
    Bool.true_and, if_true]

theorem lcTokenOut_provision (hk : field t 5 1 = 1) (hl : lcState s = 0) :
    lcTokenOut s t true = lcProvision (consumeNonce s t) := by
  have hnot : ((1 : Nat) == 2) = false ∧ ((1 : Nat) == 3) = false := ⟨rfl, rfl⟩
  simp only [lcTokenOut, hf, hk, hl, hnot.1, hnot.2, Bool.false_eq_true, if_false, beq_self_eq_true, Bool.and_self, if_true]

end Token

theorem lcTokenOut_fault {s : State} {t : Bytes} {f : FaultCode} {port : Bool} (hf : tokenFault s t = some f) :
    lcTokenOut s t port = some ⟨consumeNonce s t, .error f⟩ := by
  simp only [lcTokenOut, hf]

/-- LC_SECURE in order: the pair of SECURED, the owner's hash, and a restart. -/
theorem lcSecure_ok {s : State} {t : Bytes} (hl : lcState s = 1) (hc : s.rsp.devCert.isSome = true) (hx : s.ctxs = [])
    (hj : s.sys.joined = false) : ∃ u, lcSecure s t = ⟨u, .ok []⟩ ∧ u.rsp.restartDue = true ∧ lcState u = 2 := by
  simp only [lcSecure, hl, hc, hx, hj, beq_self_eq_true, List.isEmpty_nil, Bool.not_false, Bool.and_self, if_true]
  exact ⟨_, rfl, rfl, lcState_secured hl rfl rfl⟩

/-- LC_RETIRE in any other state: the pair of RETIRED, no certificate, and a restart. -/
theorem lcRetire_ok {s : State} (hl : lcState s ≠ 3) : ∃ u, lcRetire s = ⟨u, .ok []⟩ ∧ u.rsp.restartDue = true ∧ lcState u = 3
    ∧ u.rsp.devCert = none := by
  rw [lcRetire, if_neg (by simpa using hl)]
  exact ⟨_, rfl, rfl, lcState_retired rfl, rfl⟩

theorem lcCert_ok {s : State} {t : Bytes} (hl : lcState s = 1) (hc : s.rsp.devCert = none) :
    lcCert s t = ⟨{ s with rsp := { s.rsp with devCert := some (slice t 17408 (field t 104 4)) } }, .ok []⟩ := by
  simp only [lcCert, hl, hc, beq_self_eq_true, Option.isNone_none, Bool.and_self, if_true]

/-- LC_PROVISION over a locked and matching UDS: the pair of PROVISIONED. -/
theorem lcProvision_ok {s : State} (hl : lcState s = 0) (hlock : s.rsp.fuses.udsLock = true) (hok : s.rsp.fuses.udsOk = true) :
    ∃ u d, lcProvision s = some ⟨u, .ok d⟩ ∧ u.rsp.restartDue = s.rsp.restartDue ∧ lcState u = 1 ∧ u.rsp.fuses.uds = s.rsp.fuses.uds := by
  simp only [lcProvision, hlock, hok, Bool.and_self, if_true]
  exact ⟨_, _, rfl, rfl, lcState_provisioned hl rfl rfl rfl, rfl⟩

/-! DEBUG_CLOSE (R362, R392). -/

theorem debugReach_disabled {s : State} (h : s.rsp.fuses.debugDisable = true) : debugReach s = .closed := by
  simp only [debugReach, h, Bool.or_true, if_true]

theorem debugDisable_of_open {s : State} (h : debugReach s ≠ .closed) : s.rsp.fuses.debugDisable = false :=
  Bool.eq_false_iff.2 fun hd => h (debugReach_disabled hd)

/-- From SECURED on the debug fuse is blown and debug is no longer authorised; nothing else than measurements changes. -/
theorem debugClose_ok {s : State} (hl : 2 ≤ lcState s) (hd : s.rsp.fuses.debugDisable = false) :
    ∃ u, debugClose s = ⟨u, .ok []⟩ ∧ u.rsp.fuses = { s.rsp.fuses with debugDisable := true } ∧ u.rsp.debugAuth = false
      ∧ u.sent = s.sent ∧ u.ctxs = s.ctxs ∧ u.mem = s.mem := by
  simp only [debugClose, if_neg (Nat.not_lt.2 hl), hd, Bool.false_eq_true, if_false]
  exact ⟨_, rfl, rfl, rfl, rfl, rfl, rfl⟩

/-! In a session (R378). -/

theorem OnlyAnswers.rsp {s t : State} (h : OnlyAnswers s t) : t.rsp = s.rsp := by rw [h]

theorem spdmSend_restartDue (s : State) (v : SpdmVia) (r : SpdmRsp) : (spdmSend s v r).rsp.restartDue = s.rsp.restartDue := by
  unfold spdmSend
  cases v with
  | mailbox m =>
    refine (congrArg Rsp.restartDue (onlyAnswers_respond ..).rsp).trans ?_
    dsimp only [State.draw]
    split <;> rfl
  | port p =>
    dsimp only
    split <;> rfl

section InSession
variable {s w : State} {v : SpdmVia} {sc : Option Nat} {n : Nat} {x : Session} (hv : spdmScope s v = some sc)
  (hx : session? s v sc n = some x) (hst : x.step = .mixed) (hm : moduleMail v x = true)
include hv hx hst hm

/-- LC_TOKEN on mailbox 0: the token's outcome is answered, and a restart that is due follows. -/
theorem execLcToken_answered {t d : Bytes} (ho : lcTokenOut (setSession s { x with lastTick := s.now }) t false = some ⟨w, .ok d⟩) :
    execLcToken v n t s = .next (if w.rsp.restartDue then restart (spdmSend w v (.vendor 3 0 d)) else spdmSend w v (.vendor 3 0 d)) := by
  have hm' : moduleMail v { x with lastTick := s.now } = true := hm
  have hin := inSession_answered (need := mixed) (r := .vendor 3 0 d) (t := w) (h := fun x s =>
    if !moduleMail v x then vend s 3 (some .accessDenied) [] else (lcTokenOut s t false).bind (fun o => vendToken o 3)) hv hx
    (by rw [hst]; rfl) (by simp only [hm', Bool.not_true, Bool.false_eq_true, if_false, ho]; rfl)
  rw [execLcToken, hin]
  simp only [settleRestart, spdmSend_restartDue]

theorem execDebugClose_answered (hl : 2 ≤ lcState s) (hd : s.rsp.fuses.debugDisable = false) :
    ∃ y, execDebugClose v n s = .next (spdmSend y v (.vendor 4 0 []))
      ∧ y.rsp.fuses = { s.rsp.fuses with debugDisable := true } ∧ y.ctxs = s.ctxs ∧ y.mem = s.mem := by
  obtain ⟨y, hy, hfuses, -, -, hctxs, hmem⟩ := debugClose_ok (s := setSession s { x with lastTick := s.now }) hl hd
  have hm' : moduleMail v { x with lastTick := s.now } = true := hm
  refine ⟨y, inSession_answered hv hx (by rw [hst]; rfl) ?_, hfuses, hctxs, hmem⟩
  simp only [hm', Bool.not_true, Bool.false_eq_true, if_false, hy]
  rfl

end InSession

/-- Settles O42: each token's outcome by its kind, and the restart that follows it (log entry 48: the fuses are read again in the step
that blows them). -/
theorem lifecycleTokensBlowTheirFuses : Obligations.LifecycleTokensBlowTheirFuses := by
  unfold Obligations.LifecycleTokensBlowTheirFuses
  refine ⟨fun s t hopen hdue => ⟨fun f hf => ?_, fun hf hk hl hc hx hj => ?_, fun hf hk hl => ?_, fun hf hk hl hc => ?_,
      fun hf hk hl hlock hok => ?_⟩, fun s hopen hl => ?_,
    fun s v n t d sc x w hv hx hst hm => ⟨execLcToken_answered hv hx hst hm, execDebugClose_answered hv hx hst hm⟩⟩
  · exact (execDbgLcToken_open hopen (lcTokenOut_fault hf)).trans (settleRestart_next hdue)
  · obtain ⟨u, hu, hrestart, hl2⟩ := lcSecure_ok (s := consumeNonce s t) (t := t) hl hc hx hj
    obtain ⟨-, -, -, -, -, hst, -⟩ := restart_rsp (u.emit (.debug .ok none []))
    exact ⟨_, execDbgLcToken_restarts hopen ((lcTokenOut_secure hf hk).trans (congrArg some hu)) hrestart,
      (lcState_restart _).trans hl2, hst⟩
  · obtain ⟨u, hu, hrestart, hl3, hcert⟩ := lcRetire_ok (s := consumeNonce s t) hl
    obtain ⟨-, hdev, -, hsess, hctx, hst, -⟩ := restart_rsp (u.emit (.debug .ok none []))
    exact ⟨_, execDbgLcToken_restarts hopen ((lcTokenOut_retire hf hk).trans (congrArg some hu)) hrestart,
      (lcState_restart _).trans hl3, hst, hctx, hsess, hdev.trans hcert⟩
  · have hout := (lcTokenOut_cert hf hk).trans (congrArg some (lcCert_ok (s := consumeNonce s t) (t := t) hl hc))
    exact ⟨_, (execDbgLcToken_open hopen hout).trans (settleRestart_next hdue), rfl, rfl⟩
  · obtain ⟨u, d, hu, hrestart, hl1, huds⟩ := lcProvision_ok (s := consumeNonce s t) hl hlock hok
    exact ⟨u.emit (.debug .ok none d), (execDbgLcToken_open hopen ((lcTokenOut_provision hf hk hl).trans hu)).trans
      (settleRestart_next (hrestart.trans hdue)), (lcState_congr rfl).trans hl1, huds⟩
  · obtain ⟨u, hu, hfuses, hauth, hsent, -, -⟩ := debugClose_ok hl (debugDisable_of_open hopen)
    refine ⟨u.emit (.debug .ok none []), ?_, hfuses, debugReach_disabled (congrArg Fuses.debugDisable hfuses), hauth,
      congrArg (List.cons _) hsent⟩
    show execDbgDebugClose s = _
    rw [execDbgDebugClose, if_neg (by simpa using hopen), hu]
    rfl

end Sys2Proof.Machine

/-! SUPPORT. Firmware images: staging, activation and MIN_SVN (R364 to R366, R369, R370). -/

namespace Sys2Proof.Machine

theorem getElem?_modNth_other {α : Type} (f : α → α) {i j : Nat} (h : j ≠ i) (l : List α) : (modNth f i l)[j]? = l[j]? := by
  induction l generalizing i j with
  | nil => simp [modNth]
  | cons a t ih =>
    cases i with
    | zero =>
      obtain ⟨j, rfl⟩ := Nat.exists_eq_succ_of_ne_zero h
      rfl
    | succ i =>
      cases j with
      | zero => rfl
      | succ j => exact ih (by omega)

/-- Taking other entries out leaves what an association list gives. -/
theorem assoc_filter {α β : Type} [DecidableEq α] {k : α} {v : β} {l : List (α × β)} {p : α × β → Bool} (h : assoc k l = some v)
    (hp : p (k, v) = true) : assoc k (l.filter p) = some v := by
  induction l with
  | nil => exact absurd h nofun
  | cons e l ih =>
    obtain ⟨j, w⟩ := e
    rw [assoc] at h
    by_cases hj : j = k
    · rw [if_pos hj, Option.some.injEq] at h
      rw [hj, h, List.filter_cons_of_pos hp, assoc, if_pos rfl]
    · rw [if_neg hj] at h
      rw [List.filter_cons]
      split
      · rw [assoc, if_neg hj]
        exact ih h
      · exact ih h

/-! Staging (R356, R366, R369). -/

/-- An image that passes every check fills the inactive bank. -/
theorem fwStage_ok {s : State} {r : MbReq} {rd : Bytes × MemState}
    (hrd : devRead s.mem s.ways hintNormal (compBase + field r.payload 0 8) (field r.payload 8 4) = rd)
    (hin : inComp (compBase + field r.payload 0 8) (field r.payload 8 4) = true) (hlo : 17408 ≤ field r.payload 8 4)
    (hhi : field r.payload 8 4 ≤ 17408 + 2 ^ 24) (hf : fwFault { s with mem := rd.2 } (bankOf rd.1) false = none) :
    fwStage r s = reply (putInactive { s with mem := rd.2 } (field (bankOf rd.1).head 5 1 - 1) (bankOf rd.1))
      (.ok (imageMeas (bankOf rd.1))) := by
  simp only [fwStage, hin, hlo, hhi, hrd, hf, decide_true, Bool.and_self, Bool.not_true, Bool.false_eq_true, if_false]

/-! MIN_SVN (R369). -/

/-- COMMIT_SVN raises MIN_SVN where the image asks for it and is newer. -/
theorem commitSvn_fuses (s : State) (b : Bank) : (commitSvn s b).rsp.fuses = { s.rsp.fuses with
    minSvn := if bit (field b.head 7 1) 0 then max s.rsp.fuses.minSvn (field b.head 8 4) else s.rsp.fuses.minSvn } := by
  rw [commitSvn]
  dsimp only
  cases hb : bit (field b.head 7 1) 0
  · rfl
  · by_cases hn : field b.head 8 4 > s.rsp.fuses.minSvn
    · rw [if_pos (by simpa using hn), if_pos rfl, Nat.max_eq_right (Nat.le_of_lt hn)]
      rfl
    · rw [if_neg (by simpa using hn), if_pos rfl, Nat.max_eq_left (Nat.not_lt.1 hn)]

theorem commitSvn_fuses_congr {s t : State} (h : t.rsp.fuses = s.rsp.fuses) (b : Bank) :
    (commitSvn t b).rsp.fuses = (commitSvn s b).rsp.fuses := by
  rw [commitSvn_fuses, commitSvn_fuses, h]

/-- Beside the fuses it changes FUSE_STATE and MR1. -/
theorem commitSvn_shape (s : State) (b : Bank) : ∃ f w l, commitSvn s b = { s with
      rsp := { s.rsp with fuses := f, fuseState := w, mr := l } } ∧ ∀ i, i ≠ 1 → l[i]? = s.rsp.mr[i]? := by
  rw [commitSvn]
  split
  · exact ⟨_, _, _, rfl, fun i hi => getElem?_modNth_other _ hi _⟩
  · exact ⟨s.rsp.fuses, s.rsp.fuseState, s.rsp.mr, rfl, fun _ _ => rfl⟩

/-! Activation (R369). -/

section Activate
variable {s : State} {i : Nat} {r : MbReq} {b : Bank} (hst : stagedClass s (slice r.payload 0 48) = some (i, b))
  (hf : fwFault s b false = none)
include hst hf

/-- Classes 3 to 5 wait for the quiet point. -/
theorem fwActivate_waits (hi : 2 ≤ i) : fwActivate r s = ⟨s, .error (.fwSwap (i + 1))⟩ := by
  simp only [fwActivate, hst, hf, ge_iff_le, if_pos hi]

/-- Classes 1 and 2 restart the module. -/
theorem fwActivate_restarts (hi : i < 2) (hc : s.ctxs = []) (hj : s.sys.joined = false) : fwActivate r s
    = reply { commitSvn (swapBanks s i) b with rsp := { (commitSvn (swapBanks s i) b).rsp with restartDue := true } } (.ok []) := by
  have hfree : (!s.ctxs.isEmpty || s.sys.joined) = false := by rw [hc, hj]; rfl
  simp only [fwActivate, hst, hf, ge_iff_le, if_neg (Nat.not_le.2 hi), hfree, Bool.false_eq_true, if_false]

end Activate

/-- An answer that is written outlasts the restart that follows it (log entry 52). -/
theorem mb_restart_respond (s : State) (m : Nat) (a : Answer) :
    (restart (respond s m a)).mb m = (respond s m a).mb m := by
  obtain ⟨-, -, -, -, -, -, hmbs⟩ := restart_rsp (respond s m a)
  have hself := mb_respond_self s m a
  cases ha : assoc m (respond s m a).mbs with
  | none => rw [State.mb, ha] at hself; exact absurd (congrArg Mailbox.rsp hself) nofun
  | some b =>
    have hb : (respond s m a).mb m = b := by rw [State.mb, ha]; rfl
    have hfree : b.busy = false := by rw [← hb, hself]
    rw [hb, State.mb, hmbs, assoc_filter ha (by simp [hfree])]
    rfl

/-! The live swap (R249, R369, R370). -/

/-- A live swap leaves everything but the responder's state and, for class 4, the stored translations. -/
theorem liveSwap_shape (s : State) (i : Nat) (b : Bank) : ∃ q, liveSwap s i b = { s with
      rsp := q, trans := if i = 3 then [] else s.trans } ∧ q.images = (swapBanks s i).rsp.images
    ∧ q.fuses = (commitSvn s b).rsp.fuses ∧ q.mr[i + 2]? = (s.rsp.mr[i + 2]?).map (fun v => sha384 (v ++ imageMeas b)) := by
  have hfuses := commitSvn_fuses_congr (s := s) (t := mrExtend (swapBanks s i) (i + 2) (imageMeas b)) rfl b
  obtain ⟨f, w, l, hcommit, hother⟩ := commitSvn_shape (mrExtend (swapBanks s i) (i + 2) (imageMeas b)) b
  have hmr : l[i + 2]? = (s.rsp.mr[i + 2]?).map (fun v => sha384 (v ++ imageMeas b)) :=
    (hother _ (by omega)).trans (getElem?_modNth_self ..)
  rw [hcommit] at hfuses
  have hswap : ∀ u : State, ∃ c k, deriveAlias u = { u with rsp := { u.rsp with aliasCert := c, keysPresent := k } } := by
    intro u
    rw [deriveAlias]
    split <;> exact ⟨_, _, rfl⟩
  obtain ⟨c, k, halias⟩ := hswap (commitSvn (mrExtend (swapBanks s i) (i + 2) (imageMeas b)) b)
  rw [liveSwap, halias, hcommit]
  by_cases h3 : i = 3
  · rw [if_pos (beq_iff_eq.2 h3), if_pos h3]
    exact ⟨_, rfl, rfl, hfuses, hmr⟩
  · rw [if_neg (by simpa using h3), if_neg h3]
    exact ⟨_, rfl, rfl, hfuses, hmr⟩

theorem OnlyAnswers.trans_eq {s t : State} (h : OnlyAnswers s t) : t.trans = s.trans := by rw [h]

theorem execFwLiveSwap_waiting {s : State} {cls : Nat} {b : Bank} (hw : s.mbs.any (fun x => x.2.wait == some (.fwSwap cls)) = true)
    (hb : (s.rsp.images[cls - 1]?).bind otherBank = some b) : execFwLiveSwap cls s
      = .next (answerWaits (liveSwap s (cls - 1) b) (fun w => if w == .fwSwap cls then some (.ok []) else none)) := by
  simp only [execFwLiveSwap, hw, Bool.not_true, Bool.false_eq_true, if_false, hb]

/-- Settles O43: staging, activation by restart or by a live swap, and MIN_SVN (log entries 48 and 52: the copy of the reserved map is
not modelled, and an answer outlasts the restart). -/
theorem firmwareIsStagedActivatedAndNeverOlder : Obligations.FirmwareIsStagedActivatedAndNeverOlder := by
  unfold Obligations.FirmwareIsStagedActivatedAndNeverOlder
  refine ⟨fun s m r hC hin hlo hhi hf => mbCommand_carried hC (fwStage_ok rfl hin hlo hhi hf),
    fun s m i r b hC hdue hst hf => ⟨fun hi => ?_, fun hi hc hj => ?_⟩, fun s cls b hw hb hlo hhi => ?_, commitSvn_fuses⟩
  · have hdue' : ((taken s 0x61 m r).setMb m { (taken s 0x61 m r).mb m with wait := some (.fwSwap (i + 1)) }).rsp.restartDue = false :=
      (congrArg Rsp.restartDue (taken_rsp s 0x61 m r)).trans hdue
    show settleRestart (mbCommand 0x61 m r (fwActivate r) s) = _
    rw [mbCommand_waits hC (fwActivate_waits hst hf hi), settleRestart_next hdue']
  · have hcarried := mbCommand_carried hC (fwActivate_restarts hst hf hi ((taken_ctxs ..).trans hc)
      ((congrArg SystemState.joined (taken_sys s 0x61 m r)).trans hj))
    generalize hu : ({ commitSvn (swapBanks (taken s 0x61 m r) i) b with
      rsp := { (commitSvn (swapBanks (taken s 0x61 m r) i) b).rsp with restartDue := true } } : State) = u at hcarried
    have hrsp : (respond u m (.ok [])).rsp = u.rsp := (onlyAnswers_respond ..).rsp
    obtain ⟨hfuses, -, himages, -, -, hstart, -⟩ := restart_rsp (respond u m (.ok []))
    obtain ⟨f, w, l, hcommit, -⟩ := commitSvn_shape (swapBanks (taken s 0x61 m r) i) b
    have hswap : (swapBanks (taken s 0x61 m r) i).rsp = (swapBanks s i).rsp := congrArg
      (fun q : Rsp => { q with images := modNth (fun c => { c with activeB := !c.activeB }) i q.images }) (taken_rsp s 0x61 m r)
    refine ⟨restart (respond u m (.ok [])), ?_, hstart, ?_, ?_, response u m (.ok []), ?_, rfl⟩
    · show settleRestart (mbCommand 0x61 m r (fwActivate r) s) = _
      rw [hcarried]
      exact settleRestart_due (by rw [hrsp, ← hu])
    · rw [himages, hrsp, ← hu, ← hswap]
      simp only [hcommit]
    · rw [hfuses, hrsp, ← hu]
      exact commitSvn_fuses_congr (s := s) ((congrArg Rsp.fuses hswap :).trans rfl) b
    · rw [mb_restart_respond, mb_respond_self]
  · obtain ⟨q, hshape, himages, hfuses, hmr⟩ := liveSwap_shape s (cls - 1) b
    have hcls : cls - 1 + 2 = cls + 1 := by omega
    have honly := onlyAnswers_answerWaits (liveSwap s (cls - 1) b) (fun w => if w == .fwSwap cls then some (.ok []) else none)
    have hrsp : _ = q := honly.rsp.trans (congrArg State.rsp hshape)
    have htrans : _ = if cls - 1 = 3 then [] else s.trans := honly.trans_eq.trans (congrArg State.trans hshape)
    rw [hcls] at hmr
    refine ⟨_, execFwLiveSwap_waiting hw hb, ?_, ?_, honly.ctxs.trans (by rw [hshape]), honly.disps.trans (by rw [hshape]),
      fun h4 => ?_, fun h4 => ?_, ?_⟩
    · rw [hrsp]; exact himages
    · rw [hrsp]; exact hfuses
    · exact htrans.trans (if_pos (by omega))
    · exact htrans.trans (if_neg (by omega))
    · rw [hrsp]; exact hmr

end Sys2Proof.Machine

/-! SUPPORT. The eight steps of start-up (R356, R367, R368, R400, R401). -/

namespace Sys2Proof.Machine

/-! Records of the start-up transfers (R325, R350, R356). -/

theorem ringPut_seq (s : State) (e : Bytes) : (s.ringPut e).ev.seq = s.ev.seq := by
  unfold State.ringPut State.interrupt
  dsimp only
  split
  · rfl
  · split
    · split <;> rfl
    · rfl

/-- Each event takes the next number. -/
theorem post_seq (s : State) (source : Nat) (record : Bytes) : (s.post source record).ev.seq = s.ev.seq + 1 := by
  unfold State.post
  dsimp only
  split
  · split <;> rfl
  · split
    · split <;> rfl
    · exact ringPut_seq ..

theorem OnlyPosted.trans {s t u : State} (h : OnlyPosted s t) (k : OnlyPosted t u) : OnlyPosted s u := by
  unfold OnlyPosted at h k ⊢
  rw [k, h]

theorem OnlyPosted.pwr {s t : State} (h : OnlyPosted s t) : t.pwr = s.pwr := by rw [h]

/-- A transfer that left its windows or met an uncorrectable error leaves one record, another none. -/
theorem startDmaRec_spec (s : State) (x : StartDma) : OnlyPosted s (startDmaRec s x)
    ∧ (startDmaRec s x).ev.seq = s.ev.seq + if (!inWindows s x || x.ue) = true then 1 else 0 := by
  unfold startDmaRec
  dsimp only
  cases hw : inWindows s x
  · exact ⟨onlyPosted_post .., post_seq ..⟩
  · cases hu : x.ue
    · exact ⟨rfl, rfl⟩
    · exact ⟨onlyPosted_post .., post_seq ..⟩

theorem inWindows_congr {s t : State} (h : t.rsp = s.rsp) (x : StartDma) : inWindows t x = inWindows s x := by
  rw [inWindows, h, inWindows]

/-- Transfers leave one record for each of these. -/
theorem foldl_startDmaRec (ts : List StartDma) (s : State) : OnlyPosted s (ts.foldl startDmaRec s)
    ∧ (ts.foldl startDmaRec s).ev.seq = s.ev.seq + (ts.filter (fun x => !inWindows s x || x.ue)).length := by
  induction ts generalizing s with
  | nil => exact ⟨rfl, rfl⟩
  | cons x ts ih =>
    obtain ⟨hone, hseq⟩ := startDmaRec_spec s x
    obtain ⟨hrest, hseqs⟩ := ih (startDmaRec s x)
    simp only [inWindows_congr hone.rsp] at hseqs
    refine ⟨hone.trans hrest, ?_⟩
    rw [List.foldl_cons, hseqs, hseq, List.filter_cons]
    split
    · rw [List.length_cons]; omega
    · omega

/-! Verification of the images (R367, R368). -/

/-- The class counted from 0 has no image that verifies. -/
def ClassFails (s : State) (bad both : List Nat) (i : Nat) : Prop :=
  both.contains (i + 1) = true ∨ (bad.contains (i + 1) = true ∧ (s.rsp.images[i]?).bind otherBank = none)

/-- A class that verifies moves on to the others: banks and measurements may have changed. -/
def classVerified (s : State) (bad : List Nat) (i : Nat) : State :=
  let s := if bad.contains (i + 1) then fallBack s i else s
  mrExtend s (i + 2) (activeMeas s i)

theorem classVerified_shape (s : State) (bad : List Nat) (i : Nat) : ∃ l k, classVerified s bad i
    = { s with rsp := { s.rsp with images := l, mr := k } } ∧ ∀ j, j ≠ i → l[j]? = s.rsp.images[j]? := by
  rw [classVerified]
  split
  · exact ⟨_, _, rfl, fun j hj => getElem?_modNth_other _ hj _⟩
  · exact ⟨s.rsp.images, _, rfl, fun _ _ => rfl⟩

theorem verifyFrom_cons_fails {s : State} {bad both is : List Nat} {i : Nat} (h : ClassFails s bad both i) :
    verifyFrom bad both (i :: is) s = none := by
  have hfails : (both.contains (i + 1) || (bad.contains (i + 1) && !((s.rsp.images[i]?).bind otherBank).isSome)) = true := by
    rcases h with h | ⟨hb, ho⟩
    · rw [h, Bool.true_or]
    · rw [hb, ho]; simp
  simp only [verifyFrom, hfails, if_true]

theorem verifyFrom_cons_verified {s : State} {bad both is : List Nat} {i : Nat} (h : ¬ ClassFails s bad both i) :
    verifyFrom bad both (i :: is) s = verifyFrom bad both is (classVerified s bad i) := by
  have hgood : (both.contains (i + 1) || (bad.contains (i + 1) && !((s.rsp.images[i]?).bind otherBank).isSome)) = false := by
    rw [ClassFails, not_or, not_and] at h
    obtain ⟨hboth, hother⟩ := h
    rw [Bool.eq_false_iff.2 hboth, Bool.false_or]
    cases hb : bad.contains (i + 1)
    · rfl
    · rw [Bool.true_and, Bool.not_eq_false', Option.isSome_iff_ne_none]
      exact hother hb
  simp only [verifyFrom, hgood, Bool.false_eq_true, if_false, classVerified]

/-- A failing class stops the verification; without one it goes through, and changes banks and measurements only. -/
theorem verifyFrom_spec {bad both : List Nat} {l : List Nat} (hl : l.Nodup) (s : State) :
    ((∃ i ∈ l, ClassFails s bad both i) → verifyFrom bad both l s = none)
      ∧ ((∀ i ∈ l, ¬ ClassFails s bad both i) → ∃ im mr, verifyFrom bad both l s
          = some { s with rsp := { s.rsp with images := im, mr := mr } }) := by
  induction l generalizing s with
  | nil => exact ⟨fun ⟨_, hi, _⟩ => absurd hi nofun, fun _ => ⟨_, _, rfl⟩⟩
  | cons i l ih =>
    obtain ⟨hi, hl⟩ := List.nodup_cons.1 hl
    by_cases hfail : ClassFails s bad both i
    · exact ⟨fun _ => verifyFrom_cons_fails hfail, fun h => absurd hfail (h i (List.mem_cons_self ..))⟩
    · obtain ⟨im, mr, hshape, hsame⟩ := classVerified_shape s bad i
      have hrest : ∀ j ∈ l, (ClassFails (classVerified s bad i) bad both j ↔ ClassFails s bad both j) := fun j hj => by
        have hne : j ≠ i := fun h => hi (h ▸ hj)
        rw [ClassFails, ClassFails, hshape, hsame j hne]
      obtain ⟨hnone, hsome⟩ := ih hl (classVerified s bad i)
      rw [verifyFrom_cons_verified hfail]
      refine ⟨fun ⟨j, hj, hf⟩ => ?_, fun h => ?_⟩
      · rcases List.mem_cons.1 hj with rfl | hj
        · exact absurd hf hfail
        · exact hnone ⟨j, hj, (hrest j hj).2 hf⟩
      · obtain ⟨im', mr', h'⟩ := hsome fun j hj hf => h j (List.mem_cons_of_mem _ hj) ((hrest j hj).1 hf)
        rw [hshape] at h'
        exact ⟨im', mr', by rw [hshape]; exact h'⟩

theorem deriveAlias_shape (s : State) : ∃ c k, deriveAlias s = { s with rsp := { s.rsp with aliasCert := c, keysPresent := k } } := by
  rw [deriveAlias]
  split <;> exact ⟨_, _, rfl⟩

/-- R368: a class that fails in both banks leads to boot recovery. -/
theorem verifyImages_fails {s : State} {bad both : List Nat} (h : ∃ i ∈ List.range 5, ClassFails s bad both i) :
    verifyImages s bad both = { s with pwr := { s.pwr with st := .bootRecovery } } := by
  rw [verifyImages, (verifyFrom_spec (List.nodup_range ..) s).1 h]

/-- R367: otherwise start-up goes on, at boot step 5. -/
theorem verifyImages_verified {s : State} {bad both : List Nat} (h : ∀ i ∈ List.range 5, ¬ ClassFails s bad both i) :
    ∃ q, verifyImages s bad both = { s with rsp := q, pwr := { s.pwr with st := .starting 4 } } ∧ q.fuses = s.rsp.fuses
      ∧ q.bootStep = 5 := by
  obtain ⟨im, mr, hv⟩ := (verifyFrom_spec (List.nodup_range ..) s).2 h
  obtain ⟨c, k, halias⟩ := deriveAlias_shape { s with rsp := { s.rsp with images := im, mr := mr } }
  simp only [verifyImages, hv, halias]
  exact ⟨_, rfl, rfl, rfl⟩

theorem not_classFails_nil (s : State) (i : Nat) : ¬ ClassFails s [] [] i := by simp [ClassFails]

/-! The steps (R400). -/

theorem execStartupStepComplete_starting {s : State} {n : Nat} (h : s.pwr.st = .starting n) :
    execStartupStepComplete .ok s = .next (stepDone s n)
      ∧ (∀ ts, execStartupStepComplete (.dma ts) s = .next (stepDone (ts.foldl startDmaRec s) n))
      ∧ (∀ kind unit, execStartupStepComplete (.unitFails kind unit) s = .next (failStart s kind unit))
      ∧ ∀ bad both, execStartupStepComplete (.images bad both) s
          = .next (if n == 3 then verifyImages s bad both else stepDone s n) := by
  simp only [execStartupStepComplete, h, and_self, implies_true]

/-- The boot ROM keeps the fuses; the Hammer is empty, and no session and no debug authorisation is left. -/
theorem bootRom_shape (s : State) : ∃ q, bootRom s = { s with rsp := q, ham := State.reset.ham } ∧ q.fuses = s.rsp.fuses
    ∧ q.bootStep = 2 ∧ q.sessions = [] ∧ q.debugAuth = false := by
  obtain ⟨w, v, hread⟩ := readFuses_shape (mrExtend { s with
    rsp := { s.rsp with
      rspRam := [], sessions := [], conns := [], nonces := [], keysPresent := false, aliasCert := none
      mr := List.replicate 32 (zeros 48), debugAuth := false, debugSeen := false, drbgReqs := 0
      drbgTick := s.now, drbgOk := true, bootStep := 2 }
    ham := State.reset.ham } 0 Config.romDigest)
  rw [bootRom, hread]
  exact ⟨_, rfl, rfl, rfl, rfl, rfl⟩

/-- What a step that ends in order changes: the responder, the memories, power, the ports and the Hammer, but no fuse, no companion
memory and no event. It leads to the next step, step 8 to READY. -/
theorem stepDone_shape {n : Nat} (hlo : 1 ≤ n) (hhi : n ≤ 8) (s : State) : ∃ q m p l h,
    stepDone s n = { s with rsp := q, mem := m, pwr := p, ports := l, ham := h } ∧ q.fuses = s.rsp.fuses ∧ m.comp = s.mem.comp
      ∧ p.st = (if n = 8 then .up else .starting (n + 1)) := by
  interval_cases n
  · exact ⟨s.rsp, s.mem, _, s.ports, s.ham, rfl, rfl, rfl, rfl⟩
  · obtain ⟨q, hboot, hq, -⟩ := bootRom_shape s
    refine ⟨q, s.mem, { s.pwr with st := .starting 3 }, s.ports, State.reset.ham, ?_, hq, rfl, rfl⟩
    rw [stepDone, hboot]
    rfl
  · obtain ⟨q, hv, hq, -⟩ := verifyImages_verified (s := s) (bad := []) (both := []) fun i _ => not_classFails_nil s i
    exact ⟨q, s.mem, _, s.ports, s.ham, hv, hq, rfl, rfl⟩
  · exact ⟨{ s.rsp with bootStep := 6, windows := Config.startWindows.take 16 }, s.mem, { s.pwr with st := .starting 5 }, s.ports, s.ham,
      rfl, rfl, rfl, rfl⟩
  · exact ⟨s.rsp, s.mem, _, _, s.ham, rfl, rfl, rfl, rfl⟩
  · exact ⟨s.rsp, s.mem, _, s.ports, s.ham, rfl, rfl, rfl, rfl⟩
  · exact ⟨s.rsp, { s.mem with hbm := [], hbmMarked := [], cache := [] }, _, s.ports, s.ham, rfl, rfl, rfl, rfl⟩
  · exact ⟨{ s.rsp with windows := [], tagPools := [4096, 4096] }, { s.mem with reserved := Config.reservedMap }, _, s.ports, s.ham,
      rfl, rfl, rfl, rfl⟩

theorem stepDone_spec {n : Nat} (hlo : 1 ≤ n) (hhi : n ≤ 8) (s : State) :
    (stepDone s n).pwr.st = (if n = 8 then .up else .starting (n + 1)) ∧ (stepDone s n).rsp.fuses = s.rsp.fuses
      ∧ (stepDone s n).mem.comp = s.mem.comp ∧ (stepDone s n).ev = s.ev := by
  obtain ⟨q, m, p, l, h, hshape, hfuses, hcomp, hst⟩ := stepDone_shape hlo hhi s
  rw [hshape]
  exact ⟨hst, hfuses, hcomp, rfl⟩

/-- Settles O36: the steps by `stepDone_spec`, the images by `verifyFrom_spec` (log entry 27: every record takes an event number, also
one that finds the boot fault buffer full). -/
theorem startUpWalksItsEightSteps : Obligations.StartUpWalksItsEightSteps := by
  unfold Obligations.StartUpWalksItsEightSteps
  refine ⟨fun s n hst hlo hhi => ?_, fun s n ts hst hlo hhi => ?_, fun s n kind unit hst => ?_, fun s bad both hst => ?_⟩
  · obtain ⟨hok, -⟩ := execStartupStepComplete_starting hst
    obtain ⟨hnext, hfuses, hcomp, -⟩ := stepDone_spec hlo hhi s
    obtain ⟨q, hv, -, hboot⟩ := verifyImages_verified (s := s) (bad := []) (both := []) fun i _ => not_classFails_nil s i
    refine ⟨_, hok, hnext, hfuses, hcomp, ?_, ?_, ?_, ?_, ?_⟩
    · rintro rfl
      obtain ⟨q, hrom, -, hstep, hsess, hdebug⟩ := bootRom_shape s
      rw [stepDone, hrom]
      exact ⟨hstep, rfl, hsess, hdebug⟩
    · rintro rfl; rw [stepDone, hv]; exact hboot
    · rintro rfl; rfl
    · rintro rfl; exact ⟨rfl, rfl, rfl⟩
    · rintro rfl; exact ⟨rfl, rfl, rfl, rfl⟩
  · obtain ⟨-, hdma, -⟩ := execStartupStepComplete_starting hst
    obtain ⟨honly, hseq⟩ := foldl_startDmaRec ts s
    obtain ⟨hnext, hfuses, -, hev⟩ := stepDone_spec hlo hhi (ts.foldl startDmaRec s)
    exact ⟨_, hdma ts, hnext, hfuses.trans (congrArg Rsp.fuses honly.rsp), (congrArg EventState.seq hev).trans hseq⟩
  · obtain ⟨-, -, hfail, -⟩ := execStartupStepComplete_starting hst
    have honly := onlyPosted_plainErr { s with pwr := { s.pwr with st := .startFault, startFault := true } }
      (Config.startFaultClass kind % 256) (Config.startFaultAction kind % 256) kind unit 0 0
    exact ⟨_, hfail kind unit, congrArg Power.st honly.pwr, congrArg Power.startFault honly.pwr, congrArg Rsp.fuses honly.rsp⟩
  · obtain ⟨-, -, -, himg⟩ := execStartupStepComplete_starting hst
    refine ⟨_, himg bad both, fun ⟨i, hi, hf⟩ => ?_, fun h => ?_⟩
    · rw [if_pos (beq_self_eq_true _), verifyImages_fails ⟨i, List.mem_range.2 hi, hf⟩]
    · obtain ⟨q, hv, -⟩ := verifyImages_verified (s := s) (bad := bad) (both := both) fun i hi hf => by
        obtain ⟨hboth, hother⟩ := h i (List.mem_range.1 hi)
        rcases hf with hf | ⟨hb, ho⟩
        · exact absurd hf (Bool.eq_false_iff.1 hboth)
        · exact hother hb ho
      rw [if_pos (beq_self_eq_true _), hv]

end Sys2Proof.Machine

/-! SUPPORT. What the operations on grants, windows, memory, fences and records leave: the queues, the dispatches, the settings, power
and the Fields. -/

namespace Sys2Proof.Machine

/-- The queues, the dispatches, the settings, power and the Fields are as they were. -/
structure Still (s t : State) : Prop where
  queues : t.queues = s.queues
  disps : t.disps = s.disps
  cfg : t.cfg = s.cfg
  pwr : t.pwr = s.pwr
  fields : t.fields = s.fields

theorem Still.refl (s : State) : Still s s := ⟨rfl, rfl, rfl, rfl, rfl⟩

theorem Still.trans {s t u : State} (h : Still s t) (k : Still t u) : Still s u :=
  ⟨k.queues.trans h.queues, k.disps.trans h.disps, k.cfg.trans h.cfg, k.pwr.trans h.pwr, k.fields.trans h.fields⟩

theorem Still.after {s t u : State} (k : Still t u) (h : Still s t) : Still s u := h.trans k

theorem Still.foldl {β : Type} {f : State → β → State} (h : ∀ s b, Still s (f s b)) (l : List β) (s : State) : Still s (l.foldl f s) :=
  foldl_keeps (Still s) f (fun t b ht => ht.trans (h t b)) l s (.refl s)

theorem OnlyPosted.still {s t : State} (h : OnlyPosted s t) : Still s t := by
  rw [h]
  exact ⟨rfl, rfl, rfl, rfl, rfl⟩

theorem still_post (s : State) (source : Nat) (record : Bytes) : Still s (s.post source record) := (onlyPosted_post ..).still

theorem still_faultRec (s : State) (r : FRec) : Still s (s.faultRec r) := still_post ..

theorem still_errRec (s : State) (r : ERec) : Still s (s.errRec r) := still_post ..

/-! Grants and windows. -/

theorem still_credit (s : State) (m : Msg) : Still s (s.credit m) := by
  unfold State.credit
  split <;> exact ⟨rfl, rfl, rfl, rfl, rfl⟩

theorem still_cancelGrant (s : State) (mgr : Mgr) (g : Grant) (r : CancelReason) : Still s (cancelGrant s mgr g r) :=
  (still_credit ..).after ⟨rfl, rfl, rfl, rfl, rfl⟩

theorem still_cancelGrants (s : State) (mgr : Mgr) (p : Grant → Bool) (r : CancelReason) : Still s (cancelGrants s mgr p r) :=
  Still.foldl (fun _ _ => still_cancelGrant ..) _ s

theorem still_cancelAll (s : State) (p : Mgr → Grant → Bool) (r : CancelReason) : Still s (cancelAll s p r) :=
  Still.foldl (fun _ _ => still_cancelGrants ..) _ s

theorem still_dropGrantsOf (s : State) (p : Mgr → Grant → Bool) : Still s (dropGrantsOf s p) := ⟨rfl, rfl, rfl, rfl, rfl⟩

theorem still_closeWindow (s : State) (mgr : Mgr) (win : Nat) : Still s (closeWindow s mgr win) :=
  (still_cancelGrants ..).trans ⟨rfl, rfl, rfl, rfl, rfl⟩

theorem still_closeWindowsOf (s : State) (d : DRef) : Still s (closeWindowsOf s d) :=
  Still.foldl (fun t _ => Still.foldl (fun _ _ => still_closeWindow ..) _ t) _ s

theorem still_cancelPlacement (s : State) (x : Dispatch) (r : CancelReason) : Still s (cancelPlacement s x r) := by
  have htell : ∀ (u : State) (t : Stream), Still u (tellCancel u x t r) := fun u t => by
    unfold tellCancel
    split
    · exact ⟨rfl, rfl, rfl, rfl, rfl⟩
    · exact .refl _
  unfold cancelPlacement
  exact (still_cancelAll ..).after ((still_dropGrantsOf ..).after (Still.foldl htell _ s))

/-! Storage, keys, waits and Marks. -/

theorem still_heldLost (s : State) (c n : Nat) : Still s (s.heldLost c n) := by
  unfold State.heldLost
  split <;> exact ⟨rfl, rfl, rfl, rfl, rfl⟩

theorem still_loseCore (s : State) (n : Nat) : Still s (loseCore s n) :=
  (Still.foldl (f := fun (u : State) (x : SegMap) => u.heldLost x.ctx 1) (fun _ _ => still_heldLost ..) _ s).trans
    ⟨rfl, rfl, rfl, rfl, rfl⟩

theorem still_setFences (s : State) (kind : Nat) (l : List Fence) : Still s (setFences s kind l) := by
  unfold setFences
  split
  · exact ⟨rfl, rfl, rfl, rfl, rfl⟩
  · split <;> exact ⟨rfl, rfl, rfl, rfl, rfl⟩

theorem still_startCopies (n : Nat) (s : State) : Still s (startCopies n s) := by
  induction n generalizing s with
  | zero => exact .refl s
  | succ n ih =>
    unfold startCopies
    split
    · exact .refl s
    · exact (ih _).after ⟨rfl, rfl, rfl, rfl, rfl⟩

theorem still_settleCopies (s : State) : Still s (settleCopies s) := (still_startCopies ..).after ⟨rfl, rfl, rfl, rfl, rfl⟩

theorem still_endDma (s : State) (p : DmaBusy → Bool) : Still s (endDma s p) := by
  unfold endDma
  split
  · exact .refl _
  · dsimp only
    split <;> exact ⟨rfl, rfl, rfl, rfl, rfl⟩

theorem still_settleWaits (s : State) (closed : Bool) : Still s (settleWaits s closed) := by
  refine Still.foldl (fun t w => ?_) _ s
  dsimp only
  split
  · exact (still_faultRec ..).after ⟨rfl, rfl, rfl, rfl, rfl⟩
  · exact ⟨rfl, rfl, rfl, rfl, rfl⟩

theorem still_settleMarks (s : State) (ctx : Nat) : Still s (settleMarks s ctx) := by
  unfold settleMarks
  split
  · exact .refl _
  · exact ⟨rfl, rfl, rfl, rfl, rfl⟩

/-! Completion copies and Marks (R290). -/

theorem still_completionCopy (s : State) (x : Dispatch) (b : Bytes) : Still s (completionCopy s x b) := by
  unfold completionCopy
  dsimp only
  split
  · exact .refl _
  · split
    · exact .refl _
    · split
      · exact ⟨rfl, rfl, rfl, rfl, rfl⟩
      all_goals exact still_faultRec ..

theorem still_doneMark (s : State) (x : Dispatch) : Still s (doneMark s x) := by
  unfold doneMark
  split <;> exact ⟨rfl, rfl, rfl, rfl, rfl⟩

/-! What a stop puts back (R96, R208). -/

theorem still_undoAll (s : State) (x : Dispatch) (f : InFlight) : Still s (undoAll s x f) :=
  (Still.foldl (f := putBack) (fun _ _ => ⟨rfl, rfl, rfl, rfl, rfl⟩) _ s).trans ⟨rfl, rfl, rfl, rfl, rfl⟩

theorem still_cutAt (s : State) (x : Dispatch) (c : Ctx) (f : InFlight) (fr k : Nat) : Still s (cutAt s x c f fr k) := by
  have hbody : ∀ (u : State) (w : Was), Still u (cutBody u fr f.limb k w) := fun _ _ => ⟨rfl, rfl, rfl, rfl, rfl⟩
  unfold cutAt
  split
  · exact still_undoAll ..
  · split
    · exact (still_undoAll s x f).trans ⟨rfl, rfl, rfl, rfl, rfl⟩
    · exact (Still.foldl (f := putBack) (fun _ _ => ⟨rfl, rfl, rfl, rfl, rfl⟩) _ s).trans
        (Still.foldl hbody _ _)

theorem still_setSlotState (s : State) (x : Dispatch) (c : Ctx) (slot st : Nat) (p : Nat → Bool) :
    Still s (setSlotState s x c slot st p) := by
  unfold setSlotState
  split
  · split <;> exact ⟨rfl, rfl, rfl, rfl, rfl⟩
  · exact .refl _

theorem still_abandonSlots (s : State) (x : Dispatch) : Still s (abandonSlots s x) := by
  unfold abandonSlots
  split
  · exact .refl _
  · exact Still.foldl (fun _ _ => still_setSlotState ..) _ s

/-! Fences and Fields (R403, R415): dispatches that have ended stay as they are, and no reading of a Field changes. -/

/-- A dispatch has ended and holds nothing. -/
def Cleared (x : Dispatch) : Prop :=
  x.phase = .ended ∧ x.relays = [] ∧ x.cores = [] ∧ x.streams = [] ∧ x.inflight = [] ∧ x.slots = []

/-- Every dispatch of a name has ended and holds nothing. -/
def ClearedAt (s : State) (d : DRef) : Prop := (s.disp? d).isSome = true ∧ ∀ x ∈ s.disps, x.id = d → Cleared x

/-- What the sensors and the clock of a Field read (R399, R406). -/
def FieldState.readings (g : FieldState) : Nat × Option Nat × Nat × Nat × Nat := (g.step, g.toStep, g.powerW, g.tj, g.util)

/-- The queues, the settings and power are as they were, the Fields read as they did, and what has ended stays so. -/
structure Steady (s t : State) : Prop where
  queues : t.queues = s.queues
  cfg : t.cfg = s.cfg
  pwr : t.pwr = s.pwr
  readings : t.fields.map FieldState.readings = s.fields.map FieldState.readings
  cleared : ∀ d, ClearedAt s d → ClearedAt t d

theorem Still.steady {s t : State} (h : Still s t) : Steady s t := by
  refine ⟨h.queues, h.cfg, h.pwr, congrArg _ h.fields, fun d => ?_⟩
  rw [ClearedAt, ClearedAt, State.disp?, State.disp?, h.disps]
  exact id

theorem Steady.trans {s t u : State} (h : Steady s t) (k : Steady t u) : Steady s u :=
  ⟨k.queues.trans h.queues, k.cfg.trans h.cfg, k.pwr.trans h.pwr, k.readings.trans h.readings, fun d hd => k.cleared d (h.cleared d hd)⟩

theorem Steady.refl (s : State) : Steady s s := (Still.refl s).steady

theorem Steady.foldl {β : Type} {f : State → β → State} (h : ∀ s b, Steady s (f s b)) (l : List β) (s : State) :
    Steady s (l.foldl f s) :=
  foldl_keeps (Steady s) f (fun t b ht => ht.trans (h t b)) l s (.refl s)

/-- Dispatches that are changed one by one under their names, those that have ended not at all. -/
theorem steady_map {s : State} {f : Dispatch → Dispatch} (hid : ∀ x, (f x).id = x.id) (hf : ∀ x, Cleared x → f x = x) :
    Steady s { s with disps := s.disps.map f } := by
  refine ⟨rfl, rfl, rfl, rfl, fun d ⟨hsome, hall⟩ => ⟨?_, fun x hx hd => ?_⟩⟩
  · rw [State.disp?, List.find?_map, Option.isSome_map]
    exact (congrArg Option.isSome (congrArg (fun p => List.find? p s.disps) (funext fun x => congrArg (· == d) (hid x)))).trans hsome
  · obtain ⟨y, hy, rfl⟩ := List.mem_map.1 hx
    have hcleared := hall y hy ((hid y).symm.trans hd)
    rw [hf y hcleared]
    exact hcleared

theorem steady_fields {s : State} {l : List FieldState} (h : l.map FieldState.readings = s.fields.map FieldState.readings) :
    Steady s { s with fields := l } := ⟨rfl, rfl, rfl, h, fun _ hd => hd⟩

theorem steady_modField {s : State} {n : Nat} {f : FieldState → FieldState} (hf : ∀ g, (f g).readings = g.readings) :
    Steady s (s.modField n f) := by
  refine steady_fields ?_
  generalize s.fields = l
  induction l generalizing n with
  | nil => simp [modNth]
  | cons g l ih =>
    cases n with
    | zero => exact congrArg (· :: _) (hf g)
    | succ n => exact congrArg (_ :: ·) ih

theorem steady_releaseFields (s : State) : Steady s (releaseFields s) := by
  refine steady_fields ?_
  generalize 0 = k
  generalize s.fields = l
  induction l generalizing k with
  | nil => rfl
  | cons g l ih =>
    rw [mapIdxFrom, List.map_cons, List.map_cons, ih]
    split <;> rfl

theorem ClearedAt.setDisp_other {s : State} {d : DRef} {y : Dispatch} (h : ClearedAt s d) (hne : y.id ≠ d) :
    ClearedAt (s.setDisp y) d := by
  obtain ⟨hsome, hall⟩ := h
  refine ⟨(congrArg Option.isSome (State.disp?_setDisp_other s hne)).trans hsome, fun x hx hd => ?_⟩
  obtain ⟨z, hz, rfl⟩ := List.mem_map.1 hx
  split
  · next hzy => rw [if_pos hzy] at hd; exact absurd hd hne
  · next hzy => rw [if_neg hzy] at hd; exact hall z hz hd

theorem abort_id (x : Dispatch) (fault cause i : Nat) : (x.abort fault cause i).id = x.id := by
  unfold Dispatch.abort
  split
  · rfl
  · split
    · rfl
    · split <;> rfl

/-- A sender that holds grants of the fenced cores is stopped. -/
def fenceSender (cores : List Nat) (s : State) (x : Dispatch) : State :=
  match x.streams.find? (grantTo cores) with
  | some t => if x.phase == .ended then s else
      s.stop { x with streams := x.streams.map (fun y => if grantTo cores y then lostGrant y else y) } .creditViolation t.instr
  | none => s

theorem fenceSenders_eq (s : State) (cores : List Nat) : fenceSenders s cores = s.disps.foldl (fenceSender cores) s := rfl

theorem fenceSender_frame (cores : List Nat) (s : State) (x : Dispatch) : (fenceSender cores s x).queues = s.queues
    ∧ (fenceSender cores s x).cfg = s.cfg ∧ (fenceSender cores s x).pwr = s.pwr ∧ (fenceSender cores s x).fields = s.fields := by
  unfold fenceSender
  split
  · split <;> exact ⟨rfl, rfl, rfl, rfl⟩
  · exact ⟨rfl, rfl, rfl, rfl⟩

/-- What has ended holds no stream, so that it is not stopped. -/
theorem ClearedAt.fenceSender {s : State} {d : DRef} {x : Dispatch} (cores : List Nat) (h : ClearedAt s d) (hx : x.id = d → Cleared x) :
    ClearedAt (fenceSender cores s x) d := by
  unfold Machine.fenceSender
  split
  · next t ht =>
    split
    · exact h
    · refine h.setDisp_other (fun hd => ?_)
      obtain ⟨-, -, -, hstreams, -⟩ := hx (by rw [abort_id] at hd; exact hd)
      rw [hstreams] at ht
      exact absurd ht nofun
  · exact h

theorem steady_fenceSenders (s : State) (cores : List Nat) : Steady s (fenceSenders s cores) := by
  have hfold : ∀ (l : List Dispatch) (u : State), (l.foldl (fenceSender cores) u).queues = u.queues
      ∧ (l.foldl (fenceSender cores) u).cfg = u.cfg ∧ (l.foldl (fenceSender cores) u).pwr = u.pwr
      ∧ (l.foldl (fenceSender cores) u).fields = u.fields := fun l u =>
    foldl_keeps (fun t : State => t.queues = u.queues ∧ t.cfg = u.cfg ∧ t.pwr = u.pwr ∧ t.fields = u.fields) _
      (fun t x ⟨hq, hc, hp, hf⟩ => by
        obtain ⟨hq', hc', hp', hf'⟩ := fenceSender_frame cores t x
        exact ⟨hq'.trans hq, hc'.trans hc, hp'.trans hp, hf'.trans hf⟩) l u ⟨rfl, rfl, rfl, rfl⟩
  have hcleared : ∀ (d : DRef) (l : List Dispatch) (u : State), (∀ x ∈ l, x.id = d → Cleared x) → ClearedAt u d →
      ClearedAt (l.foldl (fenceSender cores) u) d := by
    intro d l
    induction l with
    | nil => exact fun _ _ h => h
    | cons x l ih =>
      exact fun u hl h => ih _ (fun y hy => hl y (List.mem_cons_of_mem _ hy)) (h.fenceSender cores (hl x (List.mem_cons_self ..)))
  obtain ⟨hq, hc, hp, hf⟩ := hfold s.disps s
  rw [fenceSenders_eq]
  exact ⟨hq, hc, hp, congrArg _ hf, fun d hd => hcleared d s.disps s hd.2 hd⟩

/-- Taking a Field to F-OFF changes none of its readings. -/
theorem readings_entering (g : FieldState) : (if g.st == .off then g else { g with entering := some .off }).readings = g.readings := by
  split <;> rfl

theorem steady_actFence (s : State) (kind unit : Nat) : Steady s (actFence s kind unit) := by
  have hact : ∀ (p : Mgr → Grant → Bool) (e : Mgr → Grant → Bool) (l : List Fence), Steady s (setFences
      ((unitCores kind unit).foldl loseCore (fenceSenders (cancelAll (dropGrantsOf s p) e .fence) (unitCores kind unit))) kind l) :=
    fun p e l => (((still_cancelAll ..).after (still_dropGrantsOf ..)).steady.trans (steady_fenceSenders ..)).trans
      ((Still.foldl (fun _ _ => still_loseCore ..) _ _).trans (still_setFences ..)).steady
  unfold actFence
  dsimp only
  split
  · exact (hact ..).trans (steady_modField readings_entering)
  · exact hact ..

theorem steady_settleFences (s : State) : Steady s (settleFences s) := by
  have hgo : ∀ (u : State) (kind : Nat) (l : List Fence), Steady u (l.foldl (fun s f => actFence s kind f.unit) u) :=
    fun u kind l => Steady.foldl (fun _ _ => steady_actFence ..) l u
  exact ((hgo ..).trans (hgo ..)).trans (hgo ..)

theorem steady_fenceDispatches (s : State) (kind unit : Nat) (hard : Bool) (fault : Nat) :
    Steady s (fenceDispatches s kind unit hard fault) := by
  refine steady_map (fun x => ?_) (fun x hx => ?_)
  · split
    · split
      · exact abort_id ..
      · rfl
    · rfl
  · rw [hx.1]
    rfl

theorem steady_fenceRecord (s : State) (kind unit : Nat) (hard : Bool) (fault : Nat) : Steady s (fenceRecord s kind unit hard fault) :=
  (onlyPosted_plainErr ..).still.steady

theorem steady_fenceUnit (s : State) (kind unit : Nat) (hard : Bool) (fault : Nat) : Steady s (fenceUnit s kind unit hard fault) := by
  have hset : ∀ l, Steady s (fenceDispatches (setFences s kind l) kind unit hard fault) := fun l =>
    (still_setFences ..).steady.trans (steady_fenceDispatches ..)
  have hset' : ∀ l, Steady s (fenceDispatches (setFences s kind l) kind unit true fault) := fun l =>
    (still_setFences ..).steady.trans (steady_fenceDispatches ..)
  unfold fenceUnit
  dsimp only
  split
  · split
    · exact .refl s
    · refine Steady.trans ?_ (steady_fenceRecord ..)
      split
      · exact hset' _
      · exact (hset' _).trans (steady_actFence ..)
  · refine Steady.trans ?_ (steady_fenceRecord ..)
    split
    · exact (hset _).trans (steady_actFence ..)
    · exact hset _

theorem steady_decideFence (s : State) (kind unit : Nat) (hard : Bool) (fault : Nat) : Steady s (decideFence s kind unit hard fault) := by
  unfold decideFence
  dsimp only
  generalize (if kind == ukCore then fieldOf unit else if kind == ukRelay then fieldOfRelay unit else unit) = f
  split
  · exact (steady_fenceUnit ..).trans (steady_fenceUnit ..)
  · exact steady_fenceUnit ..

end Sys2Proof.Machine

/-! SUPPORT. The thermal emergency, the Pacer and the states of a Field (R397, R399, R403, R405, R406). -/

namespace Sys2Proof.Machine

/-! One Field of the list. -/

theorem field_modField_self {s : State} {f : Nat} {g : FieldState → FieldState} (h : f < s.fields.length) :
    (s.modField f g).field f = g (s.field f) := getD_modNth_self g h _

theorem field_modField_other {s : State} {e f : Nat} {g : FieldState → FieldState} (h : e ≠ f) :
    (s.modField f g).field e = s.field e := getD_modNth_other g h _ _

theorem field_mapIdxFrom {s t : State} {g : Nat → FieldState → FieldState} {k f : Nat} (ht : t.fields = mapIdxFrom g k s.fields)
    (h : f < s.fields.length) : t.field f = g (k + f) (s.field f) := by
  simp only [State.field, nth, ht, List.getD_eq_getElem?_getD, getElem?_mapIdxFrom, List.getElem?_eq_getElem h,
    Option.map_some, Option.getD_some]

/-- What two functions do to one element is the same where they agree on it. -/
theorem modNth_congr {α : Type} {f g : α → α} {i : Nat} {l : List α} (h : ∀ a, l[i]? = some a → f a = g a) :
    modNth f i l = modNth g i l := by
  induction l generalizing i with
  | nil => simp [modNth]
  | cons a l ih =>
    cases i with
    | zero => exact congrArg (· :: l) (h a rfl)
    | succ i => exact congrArg (a :: ·) (ih h)

theorem Steady.field_readings {s t : State} (h : Steady s t) (f : Nat) : (t.field f).readings = (s.field f).readings := by
  have hget : ∀ u : State, (u.field f).readings = (u.fields.map FieldState.readings).getD f FieldState.reset.readings := fun u => by
    rw [State.field, nth, List.getD_map]
  rw [hget, hget, h.readings]

/-! The thermal emergency (R405). -/

/-- A sensor reading changes a reading and nothing else. -/
theorem noteTemp_frame (s : State) (x : Sensor) (t : Nat) : (noteTemp s x t).pwr.emerg = s.pwr.emerg
    ∧ (noteTemp s x t).now = s.now ∧ (noteTemp s x t).fields.length = s.fields.length ∧ (noteTemp s x t).disps = s.disps
    ∧ (noteTemp s x t).cores = s.cores ∧ (noteTemp s x t).ctxs = s.ctxs := by
  cases x with
  | die n => exact ⟨rfl, rfl, rfl, rfl, rfl, rfl⟩
  | field n => exact ⟨rfl, rfl, length_modNth .., rfl, rfl, rfl⟩
  | hbm n => exact ⟨rfl, rfl, rfl, rfl, rfl, rfl⟩

theorem voidSprints_disps (s : State) : (voidSprints s).disps
    = s.disps.map (fun y => if y.cls = .sprint ∧ y.phase ≠ .ended then { y with void := true } else y) := by
  refine List.map_congr_left fun y _ => ?_
  simp only [Bool.and_eq_true, beq_iff_eq, bne_iff_ne]

theorem OnlyPosted.cores {s t : State} (h : OnlyPosted s t) : t.cores = s.cores := by rw [h]
theorem OnlyPosted.fields {s t : State} (h : OnlyPosted s t) : t.fields = s.fields := by rw [h]

theorem execThermalEmergencyEntry_hot {s : State} {x : Sensor} {temp : Nat} (hok : sensorOk x = true) (hp : rspPowered s = true)
    (hhot : emergLimit s x ≤ temp) (he : s.pwr.emerg = false) :
    ∃ t, execThermalEmergencyEntry x temp s = .next t ∧ t.pwr.emerg = true ∧ t.pwr.coolSince = some s.now
      ∧ t.fields.length = s.fields.length ∧ (∀ g, g ∈ t.fields → g.step = 15 ∧ g.toStep = none)
      ∧ t.disps = s.disps.map (fun y => if y.cls = .sprint ∧ y.phase ≠ .ended then { y with void := true } else y)
      ∧ t.cores = s.cores ∧ t.ctxs = s.ctxs := by
  obtain ⟨hemerg, hnow, hlen, hdisps, hcores, hctxs⟩ := noteTemp_frame s x temp
  have hgo : (!(sensorOk x && rspPowered s && decide (temp ≥ emergLimit s x))) = false := by simp [hok, hp, hhot]
  unfold execThermalEmergencyEntry
  simp only [hgo, Bool.false_eq_true, if_false, hemerg, he]
  generalize hv : voidSprints { noteTemp s x temp with
    pwr := { (noteTemp s x temp).pwr with emerg := true, coolSince := some (noteTemp s x temp).now }
    fields := (noteTemp s x temp).fields.map (fun g => { g with step := 15, toStep := none }) } = v
  have honly := onlyPosted_plainErr v 0x0C 8 (sensorUnit x).1 (sensorUnit x).2 0 0
  refine ⟨_, rfl, ?_, ?_, ?_, fun g hg => ?_, ?_, ?_, ?_⟩
  · rw [honly.pwr, ← hv]; rfl
  · rw [honly.pwr, ← hv]; exact congrArg some hnow
  · rw [honly.fields, ← hv]; exact (List.length_map ..).trans hlen
  · rw [honly.fields, ← hv] at hg
    obtain ⟨g', -, rfl⟩ := List.mem_map.1 hg
    exact ⟨rfl, rfl⟩
  · rw [honly.disps, ← hv, voidSprints_disps]
    exact congrArg _ hdisps
  · rw [honly.cores, ← hv]; exact hcores
  · rw [honly.ctxs, ← hv]; exact hctxs

theorem execThermalEmergencyExit_cool {s : State} {k : Nat} (he : s.pwr.emerg = true) (hc : s.pwr.coolSince = some k)
    (hk : k + 12501 ≤ s.now) : ∃ t, execThermalEmergencyExit s = .next t ∧ t.pwr.emerg = false ∧ t.pwr.coolSince = none
      ∧ t.disps = s.disps ∧ ∀ f, f < s.fields.length → (t.field f).step = (s.field f).step
        ∧ ((s.field f).tj + 10 < s.settingN 0x0316 0 → (t.field f).tj = (s.field f).tj) := by
  have hdue : due s.now k 12500 = true := due_of_le hk
  simp only [execThermalEmergencyExit, hc, he, hdue, Bool.and_self, Bool.not_true, Bool.false_eq_true, if_false]
  generalize hv : ({ s with
    freeCtr := s.freeCtr + 22
    pwr := { s.pwr with
      emerg := false, coolSince := none
      dieT := mapIdxFrom (fun i t => coolReading (s.settingN 0x0316 0) s.freeCtr i t) 0 s.pwr.dieT
      hbmT := mapIdxFrom (fun i t => coolReading (s.settingN 0x0316 0) s.freeCtr i t) 2 s.pwr.hbmT }
    fields := mapIdxFrom (fun i (g : FieldState) => { g with tj := coolReading (s.settingN 0x0316 0) s.freeCtr i g.tj }) 14 s.fields }
      : State) = v
  have honly := onlyPosted_plainErr v 0x0C 8 ukModule 0 0 0
  refine ⟨_, rfl, ?_, ?_, ?_, fun f hf => ?_⟩
  · rw [honly.pwr, ← hv]
  · rw [honly.pwr, ← hv]
  · rw [honly.disps, ← hv]
  · have hfield : (v.plainErr 0x0C 8 ukModule 0 0 0).field f
        = { s.field f with tj := coolReading (s.settingN 0x0316 0) s.freeCtr (14 + f) (s.field f).tj } := by
      rw [State.field, honly.fields, ← hv]
      exact field_mapIdxFrom (s := s) (g := fun i g => { g with tj := coolReading (s.settingN 0x0316 0) s.freeCtr i g.tj })
        rfl hf
    rw [hfield]
    exact ⟨rfl, fun hcool => if_neg (Nat.not_le.2 hcool)⟩

/-! The Pacer (R406). -/

section Paced
variable {s : State} {f : Nat}

theorem pacedStep_sprint (h : runsSprint s f = true) : pacedStep s f = 0 := if_pos h

theorem pacedStep_throttle (h : runsSprint s f = false) (ht : s.settingN 0x0315 0 ≤ (s.field f).tj) :
    pacedStep s f = min (goalStep (s.field f) + 1) 15 := by
  simp only [pacedStep, h, ge_iff_le, ht, decide_true, Bool.not_false, Bool.and_self, if_true, Bool.false_eq_true, if_false]

theorem pacedStep_capped (h : runsSprint s f = false) (ht : (s.field f).tj < s.settingN 0x0315 0)
    (hc : s.settingN 0x0314 0 < s.pwr.inputW) :
    pacedStep s f = if cappedField s = some f then min (goalStep (s.field f) + 1) 15 else goalStep (s.field f) := by
  simp only [pacedStep, h, ge_iff_le, Nat.not_le.2 ht, decide_false, Bool.false_and, Bool.false_eq_true, if_false, gt_iff_lt, hc,
    if_true, beq_iff_eq]

theorem pacedStep_cool (h : runsSprint s f = false) (ht : (s.field f).tj + 5 ≤ s.settingN 0x0315 0)
    (hc : s.pwr.inputW + 50 ≤ s.settingN 0x0314 0) :
    pacedStep s f = max (goalStep (s.field f) - 1) (if s.settingN 0x0319 0 ≤ ceCount s f then 2 else 0) := by
  have hcold : ¬ s.settingN 0x0315 0 ≤ (s.field f).tj := by omega
  have hunder : ¬ s.settingN 0x0314 0 < s.pwr.inputW := by omega
  simp only [pacedStep, h, ge_iff_le, hcold, decide_false, Bool.false_and, Bool.false_eq_true, if_false, gt_iff_lt, hunder, ht, hc,
    decide_true, Bool.and_self, if_true]

end Paced

/-- Field `a` goes before `b` under the power cap: lower UTIL, or the same and a number that is not lower (R406). -/
def CapsBefore (s : State) (a b : Nat) : Prop :=
  (s.field a).util < (s.field b).util ∨ ((s.field a).util = (s.field b).util ∧ b ≤ a)

theorem CapsBefore.trans {s : State} {a b c : Nat} (h : CapsBefore s a b) (k : CapsBefore s b c) : CapsBefore s a c := by
  unfold CapsBefore at *
  omega

theorem capsBefore_cappedFirst (s : State) {a f : Nat} (h : a < f) : (cappedFirst s a f = a ∨ cappedFirst s a f = f)
    ∧ CapsBefore s (cappedFirst s a f) a ∧ CapsBefore s (cappedFirst s a f) f := by
  unfold cappedFirst CapsBefore
  split
  · exact ⟨.inr rfl, by omega, by omega⟩
  · exact ⟨.inl rfl, by omega, by omega⟩

/-- Over ascending numbers the fold finds one that goes before all. -/
theorem capsBefore_foldl (s : State) (l : List Nat) (a : Nat) (hl : (a :: l).Pairwise (· < ·)) :
    l.foldl (cappedFirst s) a ∈ a :: l ∧ ∀ b ∈ a :: l, CapsBefore s (l.foldl (cappedFirst s) a) b := by
  induction l generalizing a with
  | nil => exact ⟨List.mem_cons_self .., fun b hb => by rw [List.mem_singleton.1 hb]; exact .inr ⟨rfl, le_rfl⟩⟩
  | cons f l ih =>
    obtain ⟨hless, hrest⟩ := List.pairwise_cons.1 hl
    obtain ⟨hone, hca, hcf⟩ := capsBefore_cappedFirst s (hless f (List.mem_cons_self ..))
    have hnext : (cappedFirst s a f :: l).Pairwise (· < ·) := by
      obtain ⟨hf, hl'⟩ := List.pairwise_cons.1 hrest
      refine List.pairwise_cons.2 ⟨fun b hb => ?_, hl'⟩
      rcases hone with h | h <;> rw [h]
      · exact hless b (List.mem_cons_of_mem _ hb)
      · exact hf b hb
    obtain ⟨hmem, hbest⟩ := ih _ hnext
    have hcapped := hbest _ (List.mem_cons_self ..)
    refine ⟨?_, fun b hb => ?_⟩
    · rcases List.mem_cons.1 hmem with h | h
      · rw [List.foldl_cons, h]
        rcases hone with h' | h' <;> rw [h'] <;> simp
      · exact List.mem_cons_of_mem _ (List.mem_cons_of_mem _ h)
    · rcases List.mem_cons.1 hb with rfl | hb
      · exact hcapped.trans hca
      · rcases List.mem_cons.1 hb with rfl | hb
        · exact hcapped.trans hcf
        · exact hbest b (List.mem_cons_of_mem _ hb)

/-- The Field that the power cap steps: of those below step 15 without a SPRINT dispatch, lowest UTIL, then highest number. -/
theorem cappedField_spec {s : State} {a : Nat} (h : cappedField s = some a) :
    a < 8 ∧ runsSprint s a = false ∧ goalStep (s.field a) < 15
      ∧ ∀ b, b < 8 → runsSprint s b = false → goalStep (s.field b) < 15 → CapsBefore s a b := by
  have hmem : ∀ b, b ∈ (List.range 8).filter (fun f => !runsSprint s f && goalStep (s.field f) < 15)
      ↔ b < 8 ∧ runsSprint s b = false ∧ goalStep (s.field b) < 15 := fun b => by
    simp only [List.mem_filter, List.mem_range, Bool.and_eq_true, Bool.not_eq_true', decide_eq_true_eq]
  have hsorted : ((List.range 8).filter (fun f => !runsSprint s f && goalStep (s.field f) < 15)).Pairwise (· < ·) :=
    List.pairwise_lt_range.filter _
  unfold cappedField at h
  generalize (List.range 8).filter (fun f => !runsSprint s f && goalStep (s.field f) < 15) = l at h hmem hsorted
  cases l with
  | nil => exact absurd h nofun
  | cons f l =>
    obtain ⟨hin, hbest⟩ := capsBefore_foldl s l f hsorted
    rw [Option.some.inj h] at hin hbest
    obtain ⟨hlt, hrun, hgoal⟩ := (hmem a).1 hin
    exact ⟨hlt, hrun, hgoal, fun b hb hr hg => hbest b ((hmem b).2 ⟨hb, hr, hg⟩)⟩

/-- Corrected errors in a Field change none of its readings (R399, R410, R415). -/
theorem steady_fieldCe (s : State) (f n : Nat) : Steady s (fieldCe s f n) := by
  have hcount : Steady s (s.modField f (fun g =>
      if inPaceWindow s g.ceSince then { g with ce := min (g.ce + n) 0xFFFF } else { g with ce := min n 0xFFFF, ceSince := s.now })) :=
    steady_modField fun g => by split <;> rfl
  unfold fieldCe
  dsimp only
  split
  · exact .refl s
  · split
    · exact hcount.trans (steady_decideFence ..)
    · exact hcount

/-- The state once a due sample has stored its readings. -/
def sampleStored (s : State) (f : Nat) (x : PaceSample) : State :=
  let t := s.modField f (fun g => { g with powerW := x.powerW, tj := x.tj, util := min x.util 100, sampledAt := s.now })
  { t with pwr := { t.pwr with
    inputW := x.inputW, coolSince := if keepsHot t x.tj then t.pwr.coolSince.map (fun _ => t.now) else t.pwr.coolSince } }

theorem field_sampleStored {s : State} {f : Nat} (x : PaceSample) (hf : f < s.fields.length) : (sampleStored s f x).field f
    = { s.field f with powerW := x.powerW, tj := x.tj, util := min x.util 100, sampledAt := s.now } :=
  field_modField_self (s := s) (g := fun g => { g with powerW := x.powerW, tj := x.tj, util := min x.util 100, sampledAt := s.now }) hf

/-- The state once a due sample has stored its readings and counted its corrected errors. -/
def sampled (s : State) (f : Nat) (x : PaceSample) : State := fieldCe (sampleStored s f x) f x.ce

theorem sampled_spec {s : State} {f : Nat} (x : PaceSample) (hf : f < s.fields.length) :
    (sampled s f x).cfg = s.cfg ∧ (sampled s f x).pwr.inputW = x.inputW ∧ (sampled s f x).pwr.emerg = s.pwr.emerg
      ∧ ((sampled s f x).field f).readings = ((s.field f).step, (s.field f).toStep, x.powerW, x.tj, min x.util 100)
      ∧ f < (sampled s f x).fields.length := by
  have hsteady : Steady (sampleStored s f x) (sampled s f x) := steady_fieldCe ..
  have hlen := congrArg List.length hsteady.readings
  rw [List.length_map, List.length_map] at hlen
  refine ⟨hsteady.cfg, ?_, ?_, ?_, ?_⟩
  · rw [hsteady.pwr]; rfl
  · rw [hsteady.pwr]; rfl
  · rw [hsteady.field_readings, field_sampleStored x hf]; rfl
  · rw [hlen]; exact (length_modNth ..).symm ▸ hf

/-- Without corrected errors a sample leaves the dispatches, the memory, the fences and the count of errors. -/
theorem sampled_quiet {s : State} {f : Nat} {x : PaceSample} (hf : f < s.fields.length) (h : x.ce = 0) :
    ((sampled s f x).field f).ce = (s.field f).ce ∧ (sampled s f x).disps = s.disps ∧ (sampled s f x).mem = s.mem
      ∧ (sampled s f x).fence = s.fence := by
  have hnone : sampled s f x = sampleStored s f x := if_pos h
  rw [hnone, field_sampleStored x hf]
  exact ⟨rfl, rfl, rfl, rfl⟩

theorem execPacerSample_due {s : State} {f : Nat} {x : PaceSample} (hf : f < 8) (hu : s.isUp = true)
    (hd : (s.field f).sampledAt + s.settingN 0x0317 0 ≤ s.now) (he : (sampled s f x).pwr.emerg = false) :
    execPacerSample f x s = .next ((sampled s f x).modField f (fun g => { g with
      toStep := if pacedStep (sampled s f x) f == g.step then none else some (pacedStep (sampled s f x) f) })) := by
  have hgo : ¬ (!(decide (f < 8) && s.isUp && decide (s.now ≥ (s.field f).sampledAt + s.settingN 0x0317 0))) = true := by
    simp [hf, hu, hd]
  rw [execPacerSample, if_neg hgo]
  exact if_neg (Bool.eq_false_iff.1 he)

theorem execPacerSample_spec {s : State} {f : Nat} (x : PaceSample) (h8 : f < 8) (hf : f < s.fields.length) (hu : s.isUp = true)
    (hd : (s.field f).sampledAt + s.settingN 0x0317 0 ≤ s.now) (he : s.pwr.emerg = false) :
    ∃ t u, execPacerSample f x s = .next t ∧ (t.field f).powerW = x.powerW ∧ (t.field f).tj = x.tj
      ∧ (t.field f).util = min x.util 100 ∧ t.pwr.inputW = x.inputW ∧ (t.field f).step = (s.field f).step
      ∧ t = u.modField f (fun g => { g with toStep := (t.field f).toStep })
      ∧ (t.field f).toStep = (if pacedStep u f = (s.field f).step then none else some (pacedStep u f))
      ∧ u.cfg = s.cfg ∧ u.pwr.inputW = x.inputW ∧ (u.field f).tj = x.tj
      ∧ (x.ce = 0 → (u.field f).ce = (s.field f).ce ∧ t.disps = s.disps ∧ t.mem = s.mem ∧ t.fence = s.fence) := by
  obtain ⟨hcfg, hinput, hemerg, hreadings, hlen⟩ := sampled_spec (s := s) x hf
  have hquiet := sampled_quiet (s := s) (x := x) hf
  have hdo := execPacerSample_due (x := x) h8 hu hd (hemerg.trans he)
  generalize sampled s f x = u at hcfg hinput hreadings hlen hquiet hdo
  simp only [FieldState.readings, Prod.mk.injEq] at hreadings
  obtain ⟨hstep, -, hpower, htj, hutil⟩ := hreadings
  have hfield : (u.modField f (fun g => { g with
      toStep := if pacedStep u f == g.step then none else some (pacedStep u f) })).field f = _ := field_modField_self hlen
  refine ⟨_, u, hdo, ?_, ?_, ?_, hinput, ?_, ?_, ?_, hcfg, hinput, htj, fun h => hquiet h⟩ <;> rw [hfield]
  · exact hpower
  · exact htj
  · exact hutil
  · exact hstep
  · refine congrArg (fun l => { u with fields := l }) (modNth_congr fun g hg => ?_)
    have hget : u.field f = g := by rw [State.field, nth, List.getD_eq_getElem?_getD, hg]; rfl
    rw [hget]
  · simp only [hstep, beq_iff_eq]

/-! The memory stacks and the clock steps (R399, R405, R406). -/

theorem execHbmDoubledRefresh_spec {s : State} {stack : Nat} (temp : Nat) (hs : stack < 12) (hp : rspPowered s = true)
    (hd : s.pwr.doubled.length = 12) (ht : s.pwr.hbmT.length = 12) :
    ∃ t, execHbmDoubledRefresh stack temp s = .next t ∧ t.pwr.doubled[stack]? = some (decide (95 ≤ temp))
      ∧ t.pwr.hbmT[stack]? = some temp
      ∧ (∀ k, k ≠ stack → t.pwr.doubled[k]? = s.pwr.doubled[k]? ∧ t.pwr.hbmT[k]? = s.pwr.hbmT[k]?)
      ∧ t = { s with pwr := t.pwr } := by
  have hgo : ¬ (!(decide (stack < 12) && rspPowered s)) = true := by simp [hs, hp]
  refine ⟨_, if_neg hgo, ?_, ?_, fun k hk => ⟨getElem?_modNth_other _ hk _, getElem?_modNth_other _ hk _⟩, rfl⟩
  · rw [getElem?_modNth_self, List.getElem?_eq_getElem (hd.symm ▸ hs)]; rfl
  · rw [getElem?_modNth_self, List.getElem?_eq_getElem (ht.symm ▸ hs)]; rfl

theorem execClockStepChange_goal {s : State} {f k : Nat} (hf : f < s.fields.length) (hk : (s.field f).toStep = some k) :
    ∃ t, execClockStepChange f s = .next t ∧ t = s.modField f (fun g => { g with step := k, toStep := none })
      ∧ (t.field f).step = k ∧ ∀ e, e ≠ f → t.field e = s.field e := by
  refine ⟨_, ?_, rfl, congrArg FieldState.step (field_modField_self hf), fun e he => field_modField_other he⟩
  rw [execClockStepChange, hk]

/-! The states of a Field (R403). -/

theorem execFieldIdleSleep_due {s : State} {f : Nat} (hm : mayDeepen s f = true) (hst : (s.field f).st = .warm)
    (hd : (s.field f).idleSince + s.settingN 0x031A 0 + 1 ≤ s.now) :
    execFieldIdleSleep f s = .next (s.modField f (fun g => { g with entering := some .sleep })) :=
  if_pos (by rw [hm, hst, due_of_le hd]; rfl)

theorem execFieldIdleOff_due {s : State} {f : Nat} (hm : mayDeepen s f = true)
    (hst : (s.field f).st = .warm ∨ (s.field f).st = .sleep) (hh : segHold s f = false)
    (hd : (s.field f).idleSince + s.settingN 0x031B 0 + 1 ≤ s.now) :
    execFieldIdleOff f s = .next (s.modField f (fun g => { g with entering := some .off })) :=
  if_pos (by rw [hm, hh, due_of_le hd]; rcases hst with h | h <;> rw [h] <;> rfl)

/-- A filter by key keeps what is stored under the keys that pass it, and nothing under the others. -/
theorem assoc_filter_key {α β : Type} [DecidableEq α] (p : α → Bool) (k : α) (l : List (α × β)) :
    assoc k (l.filter (fun e => p e.1)) = if p k then assoc k l else none := by
  induction l with
  | nil => simp [assoc]
  | cons e l ih =>
    obtain ⟨a, b⟩ := e
    by_cases ha : a = k
    · subst ha
      cases hp : p a <;> simp [assoc, hp] at ih ⊢
      exact ih
    · cases hp : p a <;> simp [assoc, hp, ha, ih]

/-- A change of the values of other keys leaves what is stored under one. -/
theorem assoc_map_other {α β : Type} [DecidableEq α] {p : α → Bool} {g : β → β} {k : α} (hk : p k = false) (l : List (α × β)) :
    assoc k (l.map (fun e => if p e.1 then (e.1, g e.2) else e)) = assoc k l := by
  induction l with
  | nil => rfl
  | cons e l ih =>
    obtain ⟨a, b⟩ := e
    by_cases ha : a = k
    · subst ha; simp [assoc, hk]
    · cases hp : p a <;> simp [assoc, hp, ha, ih]

theorem cores_loseCore (s : State) (n : Nat) :
    (loseCore s n).cores = assocSet n { CoreRegs.zero with ck3 := (s.core n).ck3 } s.cores := by
  have hheld : ∀ (l : List SegMap) (u : State), (l.foldl (fun v x => v.heldLost x.ctx 1) u).cores = u.cores := fun l u =>
    foldl_keeps (fun v : State => v.cores = u.cores) _ (fun v x h => by
      rw [← h, State.heldLost]; split <;> rfl) l u rfl
  simp only [loseCore, State.core, hheld]

theorem core_resetCore_self (s : State) (n : Nat) : (resetCore s n).core n = CoreRegs.zero := by
  rw [State.core, resetCore]
  dsimp only
  rw [assoc_filter_key (p := fun k => k != n)]
  simp

theorem core_resetCore_other (s : State) {n k : Nat} (h : k ≠ n) : (resetCore s n).core k = s.core k := by
  rw [State.core, resetCore]
  dsimp only
  rw [assoc_filter_key (p := fun k => k != n), cores_loseCore, assoc_assocSet_other h]
  simp [h, State.core]

/-- The cores that are reset read zero, the others as before. -/
theorem core_foldl_resetCore (l : List Nat) (s : State) (n : Nat) :
    (l.foldl resetCore s).core n = if n ∈ l then CoreRegs.zero else s.core n := by
  induction l generalizing s with
  | nil => simp
  | cons m l ih =>
    rw [List.foldl_cons, ih]
    by_cases hl : n ∈ l
    · simp [hl]
    · by_cases hm : n = m
      · subst hm; simp [hl, core_resetCore_self]
      · simp [hl, hm, core_resetCore_other _ hm]

theorem mem_rangeFrom {lo n k : Nat} : k ∈ rangeFrom lo n ↔ lo ≤ k ∧ k < lo + n := by
  simp only [rangeFrom, List.mem_map, List.mem_range]
  exact ⟨fun ⟨a, ha, he⟩ => by omega, fun h => ⟨k - lo, by omega, by omega⟩⟩

theorem enterField_spec (s : State) (f : Nat) (into : FieldSt) :
    (enterField s f into).fields = (s.modField f (fun g => { g with st := into, entering := none })).fields
      ∧ (enterField s f into).disps = s.disps ∧ (∀ n, fieldOf n ≠ f → (enterField s f into).core n = s.core n)
      ∧ (into = .off → ∀ n, 16 * f ≤ n → n < 16 * f + 16 → (enterField s f into).core n = CoreRegs.zero) := by
  cases into with
  | off =>
    refine ⟨?_, ?_, fun n hn => ?_, fun _ n hlo hhi => ?_⟩
    · exact foldl_keeps (fun t : State => t.fields = _) resetCore (fun t n h => (fields_resetCore t n).trans h) _ _ rfl
    · exact foldl_keeps (fun t : State => t.disps = _) resetCore (fun t n h => (outlastsFields_resetCore t n).disps.trans h) _ _ rfl
    · refine (core_foldl_resetCore ..).trans (if_neg fun h => hn ?_)
      obtain ⟨hlo, hhi⟩ := mem_rangeFrom.1 h
      exact Nat.div_eq_of_lt_le (by omega) (by omega)
    · exact (core_foldl_resetCore ..).trans (if_pos (mem_rangeFrom.2 ⟨hlo, hhi⟩))
  | sleep =>
    exact ⟨rfl, rfl, fun n hn => congrArg (Option.getD · CoreRegs.zero)
      (assoc_map_other (p := fun k => fieldOf k == f) (g := sleepRegs) (by simpa using hn) s.cores), nofun⟩
  | warm => exact ⟨rfl, rfl, fun _ _ => rfl, nofun⟩
  | run => exact ⟨rfl, rfl, fun _ _ => rfl, nofun⟩

theorem execFieldEntryComplete_reached {s : State} {f : Nat} {into : FieldSt} (hf : f < s.fields.length)
    (he : (s.field f).entering = some into) {goal : FieldSt} (hg : goal = if into = .off ∧ segHold s f = true then .sleep else into) :
    ∃ t, execFieldEntryComplete f s = .next t ∧ (t.field f).st = goal ∧ (t.field f).entering = none
      ∧ (∀ e, e ≠ f → t.field e = s.field e) ∧ t.disps = s.disps ∧ (∀ n, fieldOf n ≠ f → t.core n = s.core n)
      ∧ (goal = .off → ∀ n, 16 * f ≤ n → n < 16 * f + 16 → t.core n = CoreRegs.zero) := by
  have hexec : execFieldEntryComplete f s = .next (enterField s f goal) := by
    simp only [execFieldEntryComplete, he, hg, Bool.and_eq_true, beq_iff_eq]
  obtain ⟨hfields, hdisps, hcore, hzero⟩ := enterField_spec s f goal
  have hfield : ∀ e, (enterField s f goal).field e = (s.modField f (fun g => { g with st := goal, entering := none })).field e :=
    fun e => by rw [State.field, hfields]; rfl
  refine ⟨_, hexec, ?_, ?_, fun e hne => (hfield e).trans (field_modField_other hne), hdisps, hcore, hzero⟩
  · rw [hfield, field_modField_self hf]
  · rw [hfield, field_modField_self hf]

theorem execFieldWakeComplete_woken {s : State} {f : Nat} (h8 : f < 8) (hf : f < s.fields.length) (hu : s.isUp = true)
    (hw : (s.field f).waking = true) (he : (s.field f).entering = none) :
    ∃ t, execFieldWakeComplete f s = .next t ∧ (t.field f).st = .run ∧ (t.field f).waking = false
      ∧ (t.field f).entering = (if fieldBusy s f then none else some .warm) := by
  have hgo : ¬ (!(decide (f < 8) && s.isUp && (s.field f).waking && (s.field f).entering.isNone)) = true := by simp [h8, hu, hw, he]
  refine ⟨_, if_neg hgo, ?_⟩
  have hlen : f < (s.modField f (fun g => { g with st := .run, waking := false })).fields.length := by
    rw [State.modField, length_modNth]; exact hf
  have hbusy : fieldBusy (s.modField f (fun g => { g with st := .run, waking := false })) f = fieldBusy s f := rfl
  rw [field_mapIdxFrom (t := releaseFields _) (s := s.modField f (fun g => { g with st := .run, waking := false })) rfl hlen,
    field_modField_self hf, Nat.zero_add, hbusy]
  cases fieldBusy s f <;> simp [he]

/-- Settles O37: each command by its own lemma. The choice of the Field under the power cap among those below step 15 and the way of a
waking Field through F-RUN into F-WARM are log entry 52, the registers of a Field in F-OFF that read zero log entry 4. -/
theorem thermalEmergencyAndPacer : Obligations.ThermalEmergencyAndPacer := by
  unfold Obligations.ThermalEmergencyAndPacer
  refine ⟨fun s x temp hok hp hhot he => execThermalEmergencyEntry_hot hok hp hhot he,
    fun s k he hc hk => execThermalEmergencyExit_cool he hc hk,
    fun s stack temp hs hp hd ht => execHbmDoubledRefresh_spec temp hs hp hd ht,
    fun s f x h8 hf hu hd he => execPacerSample_spec x h8 hf hu hd he, fun s f => ?_,
    fun s f k hf hk => execClockStepChange_goal hf hk, fun s f hm => ?_,
    fun s f into hf he => execFieldEntryComplete_reached hf he rfl,
    fun s f h8 hf hu hw he => execFieldWakeComplete_woken h8 hf hu hw he⟩
  · exact ⟨pacedStep_sprint, pacedStep_throttle, pacedStep_capped, fun a ha => cappedField_spec ha, pacedStep_cool⟩
  · exact ⟨fun hst hd => execFieldIdleSleep_due hm hst hd, fun hst hh hd => execFieldIdleOff_due hm hst hh hd⟩

end Sys2Proof.Machine

/-! SUPPORT. The commit of a dispatch (R289, R290, R307, R308): its name and its queue stay while it is torn down, and its completion
record reads as written. -/

namespace Sys2Proof.Machine

/-! Queues and completion records. -/

theorem queue?_num {s : State} {n : Nat} {q : Queue} (h : s.queue? n = some q) : q.num = n ∧ q.alive = true := by
  simpa using List.find?_some h

theorem queue?_setQueue {s : State} {n : Nat} {q r : Queue} (h : s.queue? n = some q) (hr : r.num = q.num) (ha : r.alive = q.alive) :
    (s.setQueue r).queue? n = some r := by
  obtain ⟨hnum, halive⟩ := queue?_num h
  simp only [State.queue?, State.setQueue] at h ⊢
  generalize s.queues = l at h ⊢
  induction l with
  | nil => exact absurd h nofun
  | cons a l ih =>
    by_cases hq : a.num = n
    · simp [hq, hr, hnum, ha, halive]
    · have hne : (a.num == n) = false := by simpa using hq
      rw [List.find?_cons_of_neg (by simp [hne])] at h
      rw [List.map_cons, if_neg (by simp [hr, hnum, hq]), List.find?_cons_of_neg (by simp [hne]), ih h]

theorem slice_append_right {a : Bytes} (b : Bytes) {off : Nat} (n : Nat) (h : a.length ≤ off) :
    slice (a ++ b) off n = slice b (off - a.length) n := by
  rw [slice, slice, List.drop_append, List.drop_eq_nil_of_le h, List.nil_append]

theorem slice_append_left (a b : Bytes) : slice (a ++ b) 0 a.length = a := by
  simp [slice, zeros]

theorem field_append_left {n : Nat} (v : Nat) (b : Bytes) : field (leBytes n v ++ b) 0 n = v % 256 ^ n := by
  have h := slice_append_left (leBytes n v) b
  rw [leBytes_length] at h
  rw [field, h, leNat_leBytes]

theorem field_append_right {m v : Nat} (b : Bytes) {off : Nat} (n : Nat) (h : m ≤ off) :
    field (leBytes m v ++ b) off n = field b (off - m) n := by
  rw [field, slice_append_right b n (by rw [leBytes_length]; exact h), leBytes_length, field]

/-- The CRC of a record stands behind its first 124 bytes (R289). -/
theorem field_withCrc {b : Bytes} {off n : Nat} (h : off + n ≤ 124) : field (withCrc b) off n = field b off n := by
  have hslice : slice (withCrc b) off n = slice b off n := by
    have hv := slice_eq_of_getD (bs := withCrc b) (v := slice b off n) (off := off) fun i hi => by
      rw [slice_length] at hi
      rw [slice_getD b off n i hi, withCrc, List.getD_append _ _ _ _ (by rw [slice_length]; omega), slice_getD b 0 124 _ (by omega),
        Nat.zero_add]
    rwa [slice_length] at hv
  rw [field, field, hslice]

theorem completion_length (s : State) (x : Dispatch) (o : Fate) (flags : Nat) : (completion s x o flags).length = 128 := by
  rw [completion, withCrc, List.length_append, slice_length, leBytes_length]

/-- SEQ, QUEUE, OUTCOME and FAULT of a completion record (R289). -/
theorem completion_fields (s : State) (x : Dispatch) (o : Fate) (flags : Nat) :
    field (completion s x o flags) 0 8 = x.id.seq % 2 ^ 64 ∧ field (completion s x o flags) 12 2 = x.id.queue % 2 ^ 16
      ∧ field (completion s x o flags) 14 1 = o.outcome % 2 ^ 8 ∧ field (completion s x o flags) 16 1 = o.fault % 2 ^ 8 := by
  rw [completion]
  simp only [List.append_assoc]
  refine ⟨?_, ?_, ?_, ?_⟩ <;> rw [field_withCrc (by decide)]
  · exact field_append_left ..
  · rw [field_append_right _ _ (by decide), field_append_right _ _ (by decide)]
    exact field_append_left ..
  · rw [field_append_right _ _ (by decide), field_append_right _ _ (by decide), field_append_right _ _ (by decide)]
    exact field_append_left ..
  · rw [field_append_right _ _ (by decide), field_append_right _ _ (by decide), field_append_right _ _ (by decide),
      field_append_right _ _ (by decide), field_append_right _ _ (by decide)]
    exact field_append_left ..

/-- The result store holds the completion record of a dispatch of a live queue of its context, and every other entry as before. -/
theorem writeResult_stored {s : State} {x : Dispatch} {q : Queue} (b : Bytes) (hq : s.queue? x.id.queue = some q) (hc : q.ctx = x.ctx) :
    (writeResult s x b).queue? x.id.queue = some { q with results := assocSet x.id.seq (.written b) q.results } := by
  rw [writeResult, hq]
  dsimp only
  rw [if_pos (by simpa using hc)]
  have hstill := (still_completionCopy (s.setQueue { q with results := assocSet x.id.seq (.written b) q.results }) x b).trans
    (still_doneMark _ x)
  exact (congrArg (List.find? _) hstill.queues).trans (queue?_setQueue hq rfl rfl)

/-- Writing a result touches no dispatch. -/
theorem writeResult_disps (s : State) (x : Dispatch) (b : Bytes) : (writeResult s x b).disps = s.disps := by
  have hset : ∀ u : State, u.disps = s.disps → (doneMark (completionCopy u x b) x).disps = s.disps := fun u hu =>
    ((still_completionCopy u x b).trans (still_doneMark _ x)).disps.trans hu
  unfold writeResult
  split
  · split
    · exact hset _ rfl
    · exact hset _ rfl
  · exact hset _ rfl

/-! The end of a dispatch (R174, R290). -/

/-- A dispatch that has ended, holding nothing. -/
def endedDispatch (x : Dispatch) : Dispatch :=
  { x with phase := .ended, relays := [], cores := [], streams := [], inflight := [], redo := [], begun := []
           frames := [], kept := [], slots := [], wait := none, frame := none, laps := [], calls := []
           ringPend := none, stage := .between }

theorem clearedAt_setDisp {s : State} {x : Dispatch} (y : Dispatch) (hx : s.disp? y.id = some x) :
    ClearedAt (s.setDisp (endedDispatch y)) y.id := by
  refine ⟨Option.isSome_iff_exists.2 ⟨_, State.disp?_setDisp_self s hx rfl⟩, fun z hz hd => ?_⟩
  obtain ⟨w, hw, rfl⟩ := List.mem_map.1 hz
  split
  · exact ⟨rfl, rfl, rfl, rfl, rfl, rfl⟩
  · next hne => rw [if_neg hne] at hd; exact absurd (beq_iff_eq.2 hd) hne

theorem endDispatch_steady (s : State) (x : Dispatch) : Steady (s.setDisp (endedDispatch x)) (endDispatch s x) := by
  have hunmap : Still (s.setDisp (endedDispatch x)) (settleCopies
      { unmapScratch (s.setDisp (endedDispatch x)) x.id with
        keyCopies := (unmapScratch (s.setDisp (endedDispatch x)) x.id).keyCopies.map (fun k =>
          { k with users := k.users.filter (· != x.id) }) }) := (still_settleCopies _).after ⟨rfl, rfl, rfl, rfl, rfl⟩
  exact ((hunmap.trans (still_settleWaits _ true)).trans (still_settleMarks _ x.ctx)).steady.trans
    ((steady_releaseFields _).trans (steady_settleFences _))

theorem endDispatch_queues (s : State) (x : Dispatch) : (endDispatch s x).queues = s.queues := (endDispatch_steady s x).queues

theorem endDispatch_cleared {s : State} {x y : Dispatch} (hx : s.disp? y.id = some x) : ClearedAt (endDispatch s y) y.id :=
  (endDispatch_steady s y).cleared _ (clearedAt_setDisp y hx)

/-! What an abort leaves (R96, R147, R210, R308). -/

/-- The queues are `qs`, and the dispatch of a name is there, with its context. -/
def Named (d : DRef) (c : Nat) (qs : List Queue) (s : State) : Prop := s.queues = qs ∧ ∃ x, s.disp? d = some x ∧ x.ctx = c

section Abort
variable {d : DRef} {c : Nat} {qs : List Queue} {s t : State}

theorem Named.still (h : Named d c qs s) (k : Still s t) : Named d c qs t := by
  obtain ⟨hq, x, hx, hc⟩ := h
  exact ⟨k.queues.trans hq, x, (congrArg (List.find? _) k.disps).trans hx, hc⟩

theorem Named.setDisp (h : Named d c qs s) {y : Dispatch} (hy : y.id = d → y.ctx = c) : Named d c qs (s.setDisp y) := by
  obtain ⟨hq, x, hx, hc⟩ := h
  by_cases hd : y.id = d
  · exact ⟨hq, y, State.disp?_setDisp_self s hx hd, hy hd⟩
  · exact ⟨hq, x, (State.disp?_setDisp_other s hd).trans hx, hc⟩

theorem Named.foldl {β : Type} {f : State → β → State} (hf : ∀ s b, Named d c qs s → Named d c qs (f s b)) (l : List β)
    (h : Named d c qs s) : Named d c qs (l.foldl f s) := foldl_keeps (Named d c qs) f (fun t b ht => hf t b ht) l s h

/-- The dispatch found under its own name keeps its context. -/
theorem Named.ctx_eq (h : Named d c qs s) {x : Dispatch} (hx : s.disp? d = some x) : x.ctx = c := by
  obtain ⟨-, y, hy, hc⟩ := h
  rwa [Option.some.inj (hx.symm.trans hy)]

theorem Named.tearHdr (h : Named d c qs s) (x : Dispatch) (at_ : List Span) (hdr : Bytes) : Named d c qs (tearHdr s x at_ hdr) := by
  have hwrite : Named d c qs (s.writeSpans at_ (tornHdr x.ctx x.epoch hdr) false) := h.still ⟨rfl, rfl, rfl, rfl, rfl⟩
  unfold Machine.tearHdr
  dsimp only
  split
  · next y hy =>
    refine hwrite.setDisp fun (hd : y.id = d) => hwrite.ctx_eq (x := y) ?_
    rw [← hd, disp?_id hy]
    exact hy
  · exact hwrite

theorem Named.tearBegun (h : Named d c qs s) (x : Dispatch) (k : Ctx) (b : Begun) : Named d c qs (tearBegun s x k b) := by
  unfold Machine.tearBegun
  split
  · exact h.tearHdr ..
  · exact h

theorem Named.tearStream (h : Named d c qs s) (x : Dispatch) (k : Ctx) (t : Stream) : Named d c qs (tearStream s x k t) := by
  unfold Machine.tearStream
  split
  · exact h
  · split
    · exact h.tearHdr ..
    · exact h

theorem Named.answered (h : Named d c qs s) {x : Dispatch} (hx : x.id = d → x.ctx = c) : Named d c qs (answered s x) := by
  unfold Machine.answered
  split
  · exact (h.still (still_setSlotState ..)).setDisp hx
  · exact h

/-- A state in which the dispatch is named, and the dispatch itself. -/
def NamedBoth (d : DRef) (c : Nat) (qs : List Queue) (p : State × Dispatch) : Prop := Named d c qs p.1 ∧ p.2.id = d ∧ p.2.ctx = c

theorem Named.stopAnswer (h : Named d c qs s) {x : Dispatch} (hd : x.id = d) (hc : x.ctx = c) (k : Ctx) (f : InFlight) (fr : Nat)
    (a : StopAt) : NamedBoth d c qs (stopAnswer s x k f fr a) := by
  cases a with
  | complete =>
    have hanswered : Named d c qs (Machine.answered (s.setDisp x) x) := (h.setDisp fun _ => hc).answered fun _ => hc
    obtain ⟨-, y, hy, hyc⟩ := id hanswered
    refine ⟨hanswered, ?_⟩
    simp only [Machine.stopAnswer, hd, hy, Option.getD_some]
    exact ⟨disp?_id hy, hyc⟩
  | unstarted => exact ⟨h.still (still_undoAll ..), hd, hc⟩
  | point n => exact ⟨h.still (still_cutAt ..), hd, hc⟩

theorem NamedBoth.stopOne {p : State × Dispatch} (h : NamedBoth d c qs p) (k : Ctx) (fr : Nat) (f : InFlight × StopAt) :
    NamedBoth d c qs (stopOne k fr f p) := by
  obtain ⟨hs, hd, hc⟩ := h
  obtain ⟨f, a⟩ := f
  unfold Machine.stopOne
  dsimp only
  split
  · exact hs.stopAnswer hd hc ..
  · split
    · exact ⟨hs, hd, hc⟩
    · exact ⟨hs.still (still_undoAll ..), hd, hc⟩
    · exact ⟨hs.still (still_cutAt ..), hd, hc⟩

theorem Named.stopEngines (h : Named d c qs s) {x : Dispatch} (hd : x.id = d) (hc : x.ctx = c) (k : Ctx) :
    Named d c qs (stopEngines s k x).1 := by
  have hfold : ∀ (fr : Nat) (l : List (InFlight × StopAt)) (p : State × Dispatch), NamedBoth d c qs p →
      NamedBoth d c qs (l.foldr (stopOne k fr) p) := fun fr l p hp => by
    induction l with
    | nil => exact hp
    | cons f l ih => exact ih.stopOne k fr f
  exact (hfold _ _ _ ⟨h.still ⟨rfl, rfl, rfl, rfl, rfl⟩, hd, hc⟩).1

theorem Named.cutOff (h : Named d c qs s) {x : Dispatch} (hd : x.id = d) (hc : x.ctx = c) (k : Ctx) : Named d c qs (cutOff s x k) :=
  Named.foldl (fun _ b ht => ht.tearBegun x k b) _ (h.stopEngines hd hc k)

theorem Named.abortEffects (h : Named d c qs s) {x : Dispatch} (hd : x.id = d) (hc : x.ctx = c) : Named d c qs (abortEffects s x) := by
  have hslots : Named d c qs (abandonSlots s x) := h.still (still_abandonSlots ..)
  unfold Machine.abortEffects
  refine Named.still ?_ (still_cancelPlacement ..)
  split
  · next k _ => exact Named.foldl (fun _ t ht => ht.tearStream x k t) _ (hslots.cutOff hd hc k)
  · exact hslots

end Abort

/-- What a commit ends: the dispatch as its stop has left it, in the state in which its grants are withdrawn. -/
theorem commitDispatch_named {s : State} {d : DRef} {x : Dispatch} (o : Fate) (hx : s.disp? d = some x) :
    ∃ u y, commitDispatch s x o = writeResult (endDispatch u y) y (completion (endDispatch u y) y o (recordFlags y o))
      ∧ u.queues = s.queues ∧ u.disp? d = some y ∧ y.ctx = x.ctx := by
  have hd := disp?_id hx
  have hnamed : Named d x.ctx s.queues s := ⟨rfl, x, hx, rfl⟩
  have hcut : Named d x.ctx s.queues (closeWindowsOf
      (if o.outcome == ocAborted && (x.phase == .running || x.phase == .saved) then abortEffects s x else s) x.id) := by
    refine Named.still ?_ (still_closeWindowsOf ..)
    split
    · exact hnamed.abortEffects hd rfl
    · exact hnamed
  obtain ⟨hqueues, y, hy, hc⟩ := hcut
  refine ⟨_, y, ?_, hqueues, hy, hc⟩
  rw [hd] at hy
  rw [commitDispatch, hd, hy, Option.getD_some]

theorem execDispatchCommit_ended {s : State} {d : DRef} {x : Dispatch} (hx : s.disp? d = some x) (he : x.phase = .ended) :
    execDispatchCommit d s = .next s := by
  simp only [execDispatchCommit, hx]
  split
  · rfl
  · rw [if_pos (by rw [he]; rfl)]

/-- Settles O29: an abort keeps the dispatch's name, context and queue, the end clears what it holds, and its record is written last. -/
theorem commitWritesOneCompletionRecord : Obligations.CommitWritesOneCompletionRecord := by
  unfold Obligations.CommitWritesOneCompletionRecord
  intro s d x o hx ho hp
  obtain ⟨u, y, hcommit, hqueues, hy, hc⟩ := commitDispatch_named o hx
  have hd := disp?_id hy
  have honly := onlyAnswers_answerWaits (commitDispatch s x o) (abortAnswer d o.outcome (flag x.abortLate 0))
  have hexec : exec (.dispatchCommit d) s
      = .next (answerWaits (commitDispatch s x o) (abortAnswer d o.outcome (flag x.abortLate 0))) := by
    show execDispatchCommit d s = _
    simp only [execDispatchCommit, hx, ho]
    exact if_neg (by simpa using hp)
  generalize answerWaits (commitDispatch s x o) (abortAnswer d o.outcome (flag x.abortLate 0)) = t at honly hexec
  have hdisps : t.disps = (endDispatch u y).disps := by rw [honly.disps, hcommit, writeResult_disps]
  have hend : ClearedAt (endDispatch u y) d := hd ▸ endDispatch_cleared (hd.symm ▸ hy)
  obtain ⟨hsome, hall⟩ := hend
  obtain ⟨z, hz⟩ := Option.isSome_iff_exists.1 hsome
  obtain ⟨hphase, hrelays, hcores, hstreams, hinflight, hslots⟩ := hall z (List.mem_of_find?_eq_some hz) (disp?_id hz)
  have hzt : t.disp? d = some z := (congrArg (List.find? _) hdisps).trans hz
  refine ⟨t, z, hexec, hzt, hphase, hrelays, hcores, hstreams, hinflight, hslots, execDispatchCommit_ended hzt hphase, fun q hq hqc => ?_⟩
  have hqu : (endDispatch u y).queue? y.id.queue = some q := by
    rw [hd, State.queue?, endDispatch_queues, hqueues]; exact hq
  obtain ⟨hseq, hqueue, houtcome, hfault⟩ := completion_fields (endDispatch u y) y o (recordFlags y o)
  have hstored := writeResult_stored (completion (endDispatch u y) y o (recordFlags y o)) hqu (hqc.trans hc.symm)
  rw [hd] at hseq hqueue hstored
  have hqt : t.queue? d.queue = _ := (congrArg (List.find? _) (honly.queues.trans (congrArg State.queues hcommit))).trans hstored
  exact ⟨_, _, hqt, assoc_assocSet_self .., completion_length .., hseq, hqueue, houtcome, hfault,
    fun n hn => assoc_assocSet_other hn ..⟩

end Sys2Proof.Machine

/-! SUPPORT. Doorbells, and the records that the Starter reads, admits and refuses (R286 to R288, R302, R321, R338). -/

namespace Sys2Proof.Machine

/-! Doorbells (R286, R321). -/

theorem wakeRest_up {s : State} (h : s.isUp = true) : wakeRest s = s := by
  have hst : s.pwr.st = .up := eq_of_beq h
  rw [wakeRest, hst]

/-- How far the value of a doorbell is ahead of the consumed records, modulo 2^32 (R286). -/
def bellAhead (x : Queue) (v : Nat) : Nat := (v % 2 ^ 32 + 2 ^ 32 - x.consumed % 2 ^ 32) % 2 ^ 32

section Bell
variable {s : State} {q v : Nat} {x : Queue}

theorem execQueueDoorbell_up (hl : s.linkUp = true) (hu : s.isUp = true) (hb : bellWaits s = false) :
    execQueueDoorbell q v s = .next (ringBell s q v) := by
  simp only [execQueueDoorbell, hl, hu, hb, Bool.true_or, Bool.and_self, if_true, Bool.false_eq_true, if_false]

theorem ringBell_moves (hu : s.isUp = true) (hq : s.queue? q = some x) (hk : bellAhead x v ≤ 2 ^ x.k)
    (hp : x.prod - x.consumed ≤ bellAhead x v) : ringBell s q v = s.setQueue { x with
      prod := x.consumed + bellAhead x v
      bells := if x.consumed + bellAhead x v == x.prod then x.bells else x.bells ++ [(x.consumed + bellAhead x v, s.now)] } := by
  rw [ringBell, hq]
  dsimp only
  rw [if_neg (by simp only [Bool.or_eq_true, decide_eq_true_eq, not_or, gt_iff_lt, Nat.not_lt]; exact ⟨hk, hp⟩)]
  exact wakeRest_up hu

theorem ringBell_ignored (hq : s.queue? q = some x) (h : 2 ^ x.k < bellAhead x v ∨ bellAhead x v < x.prod - x.consumed) :
    ringBell s q v = s := by
  rw [ringBell, hq]
  dsimp only
  rw [if_pos (by simp only [Bool.or_eq_true, decide_eq_true_eq, gt_iff_lt]; exact h)]

end Bell

/-! Admission (R287, R302, R336). -/

theorem still_nextEpoch (s : State) : Still s (nextEpoch s) := by
  unfold nextEpoch
  dsimp only
  split <;> exact ⟨rfl, rfl, rfl, rfl, rfl⟩

theorem moveMarks_frame (s : State) (ctx b0 n0 b1 n1 : Nat) :
    (moveMarks s ctx b0 n0 b1 n1).disps = s.disps ∧ (moveMarks s ctx b0 n0 b1 n1).queues = s.queues := by
  unfold moveMarks
  dsimp only
  split
  · exact ⟨rfl, rfl⟩
  · exact ⟨(still_settleMarks ..).disps, (still_settleMarks ..).queues⟩

theorem takeSettings_frame (s : State) (x : Dispatch) : (takeSettings s x).1.disps = s.disps
    ∧ (takeSettings s x).1.queues = s.queues ∧ (takeSettings s x).2
      = { x with cfg := (takeSettings s x).2.cfg, markBase := (takeSettings s x).2.markBase, markCount := (takeSettings s x).2.markCount } := by
  have hmarks : ∀ (p : Bool) (u : State) (c b0 n0 b1 n1 : Nat),
      (if p then u else moveMarks u c b0 n0 b1 n1).disps = u.disps ∧ (if p then u else moveMarks u c b0 n0 b1 n1).queues = u.queues :=
    fun p u c b0 n0 b1 n1 => by
      cases p
      · exact moveMarks_frame ..
      · exact ⟨rfl, rfl⟩
  obtain ⟨hdisps, hqueues⟩ := hmarks _ _ _ _ _ _ _
  exact ⟨hdisps, hqueues, rfl⟩

/-- A MIDDLE or DISTANCE dispatch that may be admitted joins the others under the epoch of now. -/
theorem admitRecord_joins {s : State} {c : Ctx} {x : Dispatch} (hk : x.prog.pins.all (keyLoaded c) = true)
    (hs : shapeOf x ≤ unitsInService s x.cls) (hc : x.cls ≠ .sprint) :
    ∃ (v : State) (y : Dispatch), admitRecord s c x = { v with disps := s.disps ++ [y] } ∧ v.queues = s.queues
      ∧ y = { x with cfg := y.cfg, markBase := y.markBase, markCount := y.markCount, epoch := v.epochNow } := by
  obtain ⟨hdisps, hqueues, hy⟩ := takeSettings_frame s x
  have hepoch := still_nextEpoch (takeSettings s x).1
  refine ⟨nextEpoch (takeSettings s x).1, { (takeSettings s x).2 with epoch := (nextEpoch (takeSettings s x).1).epochNow }, ?_,
    hepoch.queues.trans hqueues, ?_⟩
  · rw [admitRecord]
    simp only [hk, hs, decide_true, Bool.and_self, Bool.not_true, Bool.false_eq_true, if_false, beq_iff_eq, hc]
    rw [hepoch.disps, hdisps]
  · rw [hy]

/-! Records (R288, R338). -/

theorem disp?_append_new {l : List Dispatch} {s t : State} {y : Dispatch} (ht : t.disps = l ++ [y]) (hl : s.disps = l)
    (hn : s.disp? y.id = none) : t.disp? y.id = some y ∧ ∀ e, e ≠ y.id → t.disp? e = s.disp? e := by
  subst hl
  simp only [State.disp?] at hn ⊢
  refine ⟨?_, fun e he => ?_⟩
  · rw [ht, List.find?_append, hn]; simp
  · rw [ht, List.find?_append, List.find?_cons_of_neg (by simpa using he.symm), List.find?_nil, Option.or_none]

section Record
variable {s u : State} {q : Nat} {x : Queue} {c : Ctx} {xs : List Span} {b : Bytes}

theorem readRecord_read (hread : readerRead s c ⟨9, some (newDispatch s c x [])⟩ (x.ringVa + x.consumed % 2 ^ x.k * 64) 64
      = (u, .ok (xs, b, false))) (hnum : x.num = q)
    (hw : ∀ m w, (m, w) ∈ u.mbs → w.wait ≠ some (.abort ⟨q, x.consumed + 1⟩)) :
    readRecord s c x = if recordOk u c x b = true then admitRecord (u.setQueue (consumeRecord x)) c (newDispatch u c x b)
      else refuseDispatch { u.setQueue (consumeRecord x) with disps := u.disps ++ [newDispatch u c x b] } (newDispatch u c x b)
        .descInvalid := by
  have hnone : abortWaits (u.setQueue (consumeRecord x)) (newDispatch u c x b).id = false := by
    have hid : (newDispatch u c x b).id = ⟨q, x.consumed + 1⟩ := by rw [← hnum]; rfl
    rw [hid]
    refine Bool.eq_false_iff.2 fun h => ?_
    obtain ⟨⟨m, w⟩, hmem, heq⟩ := List.any_eq_true.1 h
    exact hw m w hmem (eq_of_beq heq)
  rw [readRecord]
  dsimp only
  rw [hread]
  dsimp only
  rw [if_neg Bool.false_ne_true]
  exact if_neg (Bool.eq_false_iff.1 hnone)

theorem execDispatchRecordRead_ready (hq : s.queue? q = some x) (hc : s.ctx? x.ctx = some c) (ha : s.admits = true)
    (hr : recordReady x = true) : ∃ t, execDispatchRecordRead q s = .next t ∧ OnlyAnswers (readRecord s c x) t
      ∧ ((∀ y, (readRecord s c x).disp? ⟨q, x.consumed + 1⟩ = some y → y.phase ≠ .ended) → t = readRecord s c x) := by
  have hgo : ¬ (!(s.admits && recordReady x)) = true := by simp [ha, hr]
  simp only [execDispatchRecordRead, hq, hc]
  rw [if_neg hgo]
  split
  · next y hy =>
    by_cases he : y.phase = .ended
    · exact ⟨_, if_pos (by rw [he]; rfl), onlyAnswers_answerWaits .., fun h => absurd he (h y hy)⟩
    · exact ⟨_, if_neg (by simpa using he), rfl, fun _ => rfl⟩
  · exact ⟨_, rfl, rfl, fun _ => rfl⟩

/-- A refused dispatch leaves its completion record in the result store. -/
theorem refuseDispatch_stored {x : Dispatch} {r : Queue} (f : FaultCode) (hq : s.queue? x.id.queue = some r) (hc : r.ctx = x.ctx) :
    ∃ w, (refuseDispatch s x f).queue? x.id.queue = some { r with results := assocSet x.id.seq (.written w) r.results }
      ∧ field w 14 1 = 3 ∧ field w 16 1 = f.code % 2 ^ 8 := by
  have hqe : (endDispatch s x).queue? x.id.queue = some r := by rw [State.queue?, endDispatch_queues]; exact hq
  obtain ⟨-, -, houtcome, hfault⟩ := completion_fields s x ⟨ocRefused, f.code, 0, noInstr⟩ 0
  exact ⟨_, writeResult_stored _ hqe hc, houtcome, hfault⟩

/-! A record that is ready and read unmarked, with no ABORT that waits for it. -/

variable (hq : s.queue? q = some x) (hc : s.ctx? x.ctx = some c) (ha : s.admits = true) (hr : recordReady x = true)
  (hread : readerRead s c ⟨9, some (newDispatch s c x [])⟩ (x.ringVa + x.consumed % 2 ^ x.k * 64) 64 = (u, .ok (xs, b, false)))
  (hqu : u.queue? q = some x) (hw : ∀ m w, (m, w) ∈ u.mbs → w.wait ≠ some (.abort ⟨q, x.consumed + 1⟩))
include hq hc ha hr hread hqu hw

theorem execDispatchRecordRead_admitted (hd : u.disp? ⟨q, x.consumed + 1⟩ = none) (hok : recordOk u c x b = true)
    (hcls : x.cls ≠ .sprint) (hk : (newDispatch u c x b).prog.pins.all (keyLoaded c) = true)
    (hs : shapeOf (newDispatch u c x b) ≤ unitsInService u x.cls) :
    ∃ t y z, execDispatchRecordRead q s = .next t ∧ t.disp? ⟨q, x.consumed + 1⟩ = some y ∧ y.phase = .waiting ∧ y.fate = none
      ∧ y.record = b ∧ y.ctx = c.num ∧ y.cls = x.cls ∧ y.epoch = t.epochNow ∧ (∀ e, e ≠ ⟨q, x.consumed + 1⟩ → t.disp? e = u.disp? e)
      ∧ t.queue? q = some z ∧ z.consumed = x.consumed + 1 ∧ z.prod = x.prod ∧ assoc (x.consumed + 1) z.results = some .pending := by
  obtain ⟨hnum, -⟩ := queue?_num hq
  have hrecord := readRecord_read hread hnum hw
  rw [if_pos hok] at hrecord
  obtain ⟨v, y, hjoin, hqueues, hy⟩ := admitRecord_joins (s := u.setQueue (consumeRecord x)) hk hs hcls
  have hid : y.id = ⟨q, x.consumed + 1⟩ := by rw [hy, ← hnum]; rfl
  have ht := hrecord.trans hjoin
  obtain ⟨t, hexec, -, hsame⟩ := execDispatchRecordRead_ready hq hc ha hr
  obtain ⟨hnew, hold⟩ := disp?_append_new (s := u) (t := readRecord s c x) (congrArg State.disps ht) rfl (hid.symm ▸ hd)
  rw [hid] at hnew hold
  have hphase : y.phase = .waiting := by rw [hy]; rfl
  rw [hsame fun z hz => by rw [← Option.some.inj (hnew.symm.trans hz), hphase]; decide] at hexec
  have hqz : (readRecord s c x).queue? q = some (consumeRecord x) :=
    (congrArg (List.find? _) ((congrArg State.queues ht).trans hqueues)).trans (queue?_setQueue hqu rfl rfl)
  refine ⟨_, y, consumeRecord x, hexec, hnew, hphase, ?_, ?_, ?_, ?_, ?_, hold, hqz, rfl, rfl, assoc_assocSet_self ..⟩
  · rw [hy]; rfl
  · rw [hy]; rfl
  · rw [hy]; rfl
  · rw [hy]; rfl
  · rw [hy, ht]

theorem execDispatchRecordRead_refused (hok : recordOk u c x b = false) :
    ∃ t z w, execDispatchRecordRead q s = .next t ∧ t.queue? q = some z ∧ z.consumed = x.consumed + 1
      ∧ assoc (x.consumed + 1) z.results = some (.written w) ∧ field w 14 1 = 3 ∧ field w 16 1 = 0x04 := by
  obtain ⟨hnum, -⟩ := queue?_num hq
  have hrecord := readRecord_read hread hnum hw
  rw [if_neg (Bool.eq_false_iff.1 hok)] at hrecord
  obtain ⟨t, hexec, honly, -⟩ := execDispatchRecordRead_ready hq hc ha hr
  have hqn : (u.setQueue (consumeRecord x)).queue? (newDispatch u c x b).id.queue = some (consumeRecord x) :=
    queue?_setQueue (q := x) (n := x.num) (hnum ▸ hqu) rfl rfl
  obtain ⟨w, hstored, houtcome, hfault⟩ := refuseDispatch_stored
    (s := { u.setQueue (consumeRecord x) with disps := u.disps ++ [newDispatch u c x b] }) .descInvalid hqn (ctx?_num hc).symm
  rw [← hrecord] at hstored
  have hqt : t.queue? x.num = _ := (congrArg (List.find? _) honly.queues).trans hstored
  rw [hnum] at hqt
  exact ⟨t, _, w, hexec, hqt, rfl, assoc_assocSet_self .., houtcome, hfault⟩

end Record

/-- Settles O27: the doorbell by the difference that it writes, the record by its admission or its refusal. -/
theorem doorbellsCountAndRecordsBecomeDispatches : Obligations.DoorbellsCountAndRecordsBecomeDispatches := by
  unfold Obligations.DoorbellsCountAndRecordsBecomeDispatches
  refine ⟨fun s q v x hl hu hb hq => ?_, fun s u q x c xs b hq hc ha hr hread hqu hd hw => ?_⟩
  · have hexec : exec (.queueDoorbell q v) s = .next (ringBell s q v) := execQueueDoorbell_up hl hu hb
    refine ⟨fun hk hp => ⟨_, _, hexec, ringBell_moves hu hq hk hp, rfl, fun hne => ?_⟩, fun h => ?_⟩
    · rw [if_neg (by simpa [bellAhead] using hne)]
      exact List.mem_append_right _ (List.mem_singleton_self _)
    · rw [hexec, ringBell_ignored hq h]
  · exact ⟨fun hok hcls hk hs => execDispatchRecordRead_admitted hq hc ha hr hread hqu hw hd hok hcls hk hs,
      fun hok => execDispatchRecordRead_refused hq hc ha hr hread hqu hw hok⟩

end Sys2Proof.Machine
